-- ==== Sys2Proof/Word.lean ====
section
/-! DEFINITION. Word.lean: the widths of the machine (R7, R8). -/

namespace Sys2Proof

/-- A byte (R8). -/
abbrev Byte := BitVec 8

/-- A double, the width of an `x` register, of a PC and of a virtual address (R8, R17). -/
abbrev Word := BitVec 64

/-- The contents of a vector or residue register (R17). -/
abbrev VWord := BitVec 512

/-- A task record: four numbered words (R154). -/
structure TaskRecord where
  w0 : Word
  w1 : Word
  w2 : Word
  w3 : Word
  deriving DecidableEq, Repr

end Sys2Proof
end

