-- ==== Sys2Proof/Syntax.lean ====
section
/-! DEFINITION. Syntax.lean: the instructions and events of spec/opcode_table.json, one constructor per row.
An instruction row carries its register numbers and immediates as fields of their encoded widths (R206, R207).
A row that is a step of the device itself, or of a host, a port or a sensor, carries the hart, cluster, die or
list position it acts on, and the data that come from outside the device. -/

namespace Sys2Proof

/-- A service request: the port and endpoint it came on, the fields of its header as R453 lays them out, and the u32 that
the payload of a QUERY, QUEUE or GRAPH begins with (R454). `reserved` says that a reserved bit of the header is set. -/
structure Request where
  port : BitVec 3
  ep : Nat
  ver : BitVec 8
  code : BitVec 8
  status : BitVec 8
  reply : Bool
  reserved : Bool
  len : BitVec 32
  seq : Word
  job : BitVec 32
  last : Bool
  op : BitVec 32
  deriving DecidableEq, Repr

/-- The records of a captured task graph (R172): its tasks, its dependences (before, after) and its parameter block. -/
structure GraphBody where
  tasks : List TaskRecord
  deps : List (Nat × Nat)
  params : List Byte
  deriving DecidableEq, Repr

/-- One module's entry of the hall pass (R460). -/
structure PassEntry where
  ready : Word
  idle : BitVec 8
  req : Bool
  deriving DecidableEq, Repr

/-- The hall pass (R460). -/
structure HallPass where
  gen : BitVec 16
  lap : Word
  entries : List PassEntry
  deriving DecidableEq, Repr

/-- The form of a TZERO (R403): whether its tail is the long one, and R, which picks the format register. -/
structure ZeroForm where
  long : BitVec 1
  r : BitVec 1
  deriving DecidableEq, Repr

/-- An instruction of the opcode map (R208), or one of the device's own steps. -/
inductive Instr where
  /-- ADD (R226). -/
  | add (d : BitVec 6) (c : BitVec 6) (b : BitVec 6)
  /-- SUB (R226). -/
  | sub (d : BitVec 6) (c : BitVec 6) (b : BitVec 6)
  /-- AND (R226). -/
  | and (d : BitVec 6) (c : BitVec 6) (b : BitVec 6)
  /-- OR (R226). -/
  | or (d : BitVec 6) (c : BitVec 6) (b : BitVec 6)
  /-- XOR (R226). -/
  | xor (d : BitVec 6) (c : BitVec 6) (b : BitVec 6)
  /-- ANDN (R226). -/
  | andn (d : BitVec 6) (c : BitVec 6) (b : BitVec 6)
  /-- ORN (R226). -/
  | orn (d : BitVec 6) (c : BitVec 6) (b : BitVec 6)
  /-- XNOR (R226). -/
  | xnor (d : BitVec 6) (c : BitVec 6) (b : BitVec 6)
  /-- SLL (R228). -/
  | sll (d : BitVec 6) (c : BitVec 6) (b : BitVec 6)
  /-- SRL (R228). -/
  | srl (d : BitVec 6) (c : BitVec 6) (b : BitVec 6)
  /-- SRA (R228). -/
  | sra (d : BitVec 6) (c : BitVec 6) (b : BitVec 6)
  /-- ROL (R228). -/
  | rol (d : BitVec 6) (c : BitVec 6) (b : BitVec 6)
  /-- ROR (R228). -/
  | ror (d : BitVec 6) (c : BitVec 6) (b : BitVec 6)
  /-- SLLI (R228). -/
  | slli (d : BitVec 6) (sh : BitVec 6) (b : BitVec 6)
  /-- SRLI (R228). -/
  | srli (d : BitVec 6) (sh : BitVec 6) (b : BitVec 6)
  /-- SRAI (R228). -/
  | srai (d : BitVec 6) (sh : BitVec 6) (b : BitVec 6)
  /-- ROLI (R228). -/
  | roli (d : BitVec 6) (sh : BitVec 6) (b : BitVec 6)
  /-- RORI (R228). -/
  | rori (d : BitVec 6) (sh : BitVec 6) (b : BitVec 6)
  /-- MUL (R230). -/
  | mul (d : BitVec 6) (c : BitVec 6) (b : BitVec 6)
  /-- MULH (R230). -/
  | mulh (d : BitVec 6) (c : BitVec 6) (b : BitVec 6)
  /-- MULHU (R230). -/
  | mulhu (d : BitVec 6) (c : BitVec 6) (b : BitVec 6)
  /-- MULHSU (R230). -/
  | mulhsu (d : BitVec 6) (c : BitVec 6) (b : BitVec 6)
  /-- DIV (R230). -/
  | div (d : BitVec 6) (c : BitVec 6) (b : BitVec 6)
  /-- DIVU (R230). -/
  | divu (d : BitVec 6) (c : BitVec 6) (b : BitVec 6)
  /-- REM (R230). -/
  | rem (d : BitVec 6) (c : BitVec 6) (b : BitVec 6)
  /-- REMU (R230). -/
  | remu (d : BitVec 6) (c : BitVec 6) (b : BitVec 6)
  /-- ADDI (R232). -/
  | addi (d : BitVec 6) (imm : BitVec 26) (b : BitVec 6)
  /-- ADDI_LONG (R232). -/
  | addiLong (d : BitVec 6) (imm : BitVec 58) (b : BitVec 6)
  /-- ANDI (R234). -/
  | andi (d : BitVec 6) (imm : BitVec 24) (b : BitVec 6)
  /-- ANDI_LONG (R234). -/
  | andiLong (d : BitVec 6) (imm : BitVec 56) (b : BitVec 6)
  /-- ORI (R234). -/
  | ori (d : BitVec 6) (imm : BitVec 24) (b : BitVec 6)
  /-- ORI_LONG (R234). -/
  | oriLong (d : BitVec 6) (imm : BitVec 56) (b : BitVec 6)
  /-- XORI (R234). -/
  | xori (d : BitVec 6) (imm : BitVec 24) (b : BitVec 6)
  /-- XORI_LONG (R234). -/
  | xoriLong (d : BitVec 6) (imm : BitVec 56) (b : BitVec 6)
  /-- LI (R236). -/
  | li (d : BitVec 6) (imm : BitVec 16)
  /-- LI_32 (R236). -/
  | li32 (d : BitVec 6) (imm : BitVec 32)
  /-- LI_64 (R236). -/
  | li64 (d : BitVec 6) (imm : BitVec 64)
  /-- SLT (R238). -/
  | slt (d : BitVec 6) (c : BitVec 6) (b : BitVec 6)
  /-- SLTU (R238). -/
  | sltu (d : BitVec 6) (c : BitVec 6) (b : BitVec 6)
  /-- SEQ (R238). -/
  | seq (d : BitVec 6) (c : BitVec 6) (b : BitVec 6)
  /-- SNE (R238). -/
  | sne (d : BitVec 6) (c : BitVec 6) (b : BitVec 6)
  /-- SLTI (R240). -/
  | slti (d : BitVec 6) (imm : BitVec 24) (b : BitVec 6)
  /-- SLTI_LONG (R240). -/
  | sltiLong (d : BitVec 6) (imm : BitVec 56) (b : BitVec 6)
  /-- SLTIU (R240). -/
  | sltiu (d : BitVec 6) (imm : BitVec 24) (b : BitVec 6)
  /-- SLTIU_LONG (R240). -/
  | sltiuLong (d : BitVec 6) (imm : BitVec 56) (b : BitVec 6)
  /-- SEQI (R240). -/
  | seqi (d : BitVec 6) (imm : BitVec 24) (b : BitVec 6)
  /-- SEQI_LONG (R240). -/
  | seqiLong (d : BitVec 6) (imm : BitVec 56) (b : BitVec 6)
  /-- SNEI (R240). -/
  | snei (d : BitVec 6) (imm : BitVec 24) (b : BitVec 6)
  /-- SNEI_LONG (R240). -/
  | sneiLong (d : BitVec 6) (imm : BitVec 56) (b : BitVec 6)
  /-- SEL (R242). -/
  | sel (d : BitVec 6) (f : BitVec 6) (t : BitVec 6) (k : BitVec 6)
  /-- MIN (R244). -/
  | min (d : BitVec 6) (c : BitVec 6) (b : BitVec 6)
  /-- MAX (R244). -/
  | max (d : BitVec 6) (c : BitVec 6) (b : BitVec 6)
  /-- MINU (R244). -/
  | minu (d : BitVec 6) (c : BitVec 6) (b : BitVec 6)
  /-- MAXU (R244). -/
  | maxu (d : BitVec 6) (c : BitVec 6) (b : BitVec 6)
  /-- CLZ (R246). -/
  | clz (d : BitVec 6) (b : BitVec 6)
  /-- CTZ (R246). -/
  | ctz (d : BitVec 6) (b : BitVec 6)
  /-- POPC (R246). -/
  | popc (d : BitVec 6) (b : BitVec 6)
  /-- BFXS (R248). -/
  | bfxs (d : BitVec 6) (wm : BitVec 6) (pos : BitVec 6) (b : BitVec 6)
  /-- BFXU (R248). -/
  | bfxu (d : BitVec 6) (wm : BitVec 6) (pos : BitVec 6) (b : BitVec 6)
  /-- BFI (R250). -/
  | bfi (d : BitVec 6) (wm : BitVec 6) (pos : BitVec 6) (b : BitVec 6)
  /-- BSWAP_H (R252). -/
  | bswapH (d : BitVec 6) (b : BitVec 6)
  /-- BSWAP_W (R252). -/
  | bswapW (d : BitVec 6) (b : BitVec 6)
  /-- BSWAP_D (R252). -/
  | bswapD (d : BitVec 6) (b : BitVec 6)
  /-- ADR (R254). -/
  | adr (d : BitVec 6) (off : BitVec 32)
  /-- ADR_LONG (R254). -/
  | adrLong (d : BitVec 6) (off : BitVec 64)
  /-- FADD (R256). -/
  | fadd (d : BitVec 6) (dp : BitVec 1) (c : BitVec 6) (b : BitVec 6)
  /-- FSUB (R256). -/
  | fsub (d : BitVec 6) (dp : BitVec 1) (c : BitVec 6) (b : BitVec 6)
  /-- FMUL (R256). -/
  | fmul (d : BitVec 6) (dp : BitVec 1) (c : BitVec 6) (b : BitVec 6)
  /-- FDIV (R256). -/
  | fdiv (d : BitVec 6) (dp : BitVec 1) (c : BitVec 6) (b : BitVec 6)
  /-- FMIN (R256). -/
  | fmin (d : BitVec 6) (dp : BitVec 1) (c : BitVec 6) (b : BitVec 6)
  /-- FMAX (R256). -/
  | fmax (d : BitVec 6) (dp : BitVec 1) (c : BitVec 6) (b : BitVec 6)
  /-- FMADD (R258). -/
  | fmadd (d : BitVec 6) (dp : BitVec 1) (a : BitVec 6) (c : BitVec 6) (b : BitVec 6)
  /-- FMSUB (R258). -/
  | fmsub (d : BitVec 6) (dp : BitVec 1) (a : BitVec 6) (c : BitVec 6) (b : BitVec 6)
  /-- FNMADD (R258). -/
  | fnmadd (d : BitVec 6) (dp : BitVec 1) (a : BitVec 6) (c : BitVec 6) (b : BitVec 6)
  /-- FNMSUB (R258). -/
  | fnmsub (d : BitVec 6) (dp : BitVec 1) (a : BitVec 6) (c : BitVec 6) (b : BitVec 6)
  /-- FSQRT (R260). -/
  | fsqrt (d : BitVec 6) (dp : BitVec 1) (b : BitVec 6)
  /-- FCLASS (R260). -/
  | fclass (d : BitVec 6) (dp : BitVec 1) (b : BitVec 6)
  /-- FEQ (R262). -/
  | feq (d : BitVec 6) (dp : BitVec 1) (c : BitVec 6) (b : BitVec 6)
  /-- FLT (R262). -/
  | flt (d : BitVec 6) (dp : BitVec 1) (c : BitVec 6) (b : BitVec 6)
  /-- FLE (R262). -/
  | fle (d : BitVec 6) (dp : BitVec 1) (c : BitVec 6) (b : BitVec 6)
  /-- FCVT (R264). -/
  | fcvt (d : BitVec 6) (tz : BitVec 1) (toF : BitVec 4) (fromF : BitVec 4) (b : BitVec 6)
  /-- BC (R266). -/
  | bc (a : BitVec 6) (t : BitVec 16) (cond : BitVec 4) (b : BitVec 6)
  /-- BC_LONG (R266). -/
  | bcLong (a : BitVec 6) (t : BitVec 32) (cond : BitVec 4) (b : BitVec 6)
  /-- J (R268). -/
  | j (t : BitVec 16)
  /-- J_LONG (R268). -/
  | jLong (t : BitVec 32)
  /-- CALL (R270). -/
  | call (t : BitVec 16)
  /-- CALL_LONG (R270). -/
  | callLong (t : BitVec 32)
  /-- JR (R272). -/
  | jr (b : BitVec 6)
  /-- CALLR (R272). -/
  | callr (b : BitVec 6)
  /-- RET (R274). -/
  | ret
  /-- LOOP (R276). -/
  | loop (c : BitVec 6) (t : BitVec 16)
  /-- TRAP (R283). -/
  | trap (imm : BitVec 14)
  /-- ERET (R283). -/
  | eret
  /-- ULRET (R283). -/
  | ulret
  /-- HRET (R283). -/
  | hret
  /-- CRR (R281). -/
  | crr (d : BitVec 6) (num : BitVec 12)
  /-- CRW (R281). -/
  | crw (d : BitVec 6) (num : BitVec 12) (b : BitVec 6)
  /-- CRS (R281). -/
  | crs (d : BitVec 6) (num : BitVec 12) (b : BitVec 6)
  /-- CRC (R281). -/
  | crc (d : BitVec 6) (num : BitVec 12) (b : BitVec 6)
  /-- FENCE (R285). -/
  | fence (qual : BitVec 8)
  /-- FENCE_I (R285). -/
  | fenceI
  /-- PAUSE (R285). -/
  | pause
  /-- SLEEP (R285). -/
  | sleep (b : BitVec 6)
  /-- TLBI_VA (R287). -/
  | tlbiVa (scope : BitVec 3) (b : BitVec 6)
  /-- TLBI_ALL (R287). -/
  | tlbiAll (scope : BitVec 3)
  /-- TLBI_RNG (R287). -/
  | tlbiRng (scope : BitVec 3) (c : BitVec 6) (b : BitVec 6)
  /-- SPAWN (R289). -/
  | spawn (d : BitVec 6) (b : BitVec 6)
  /-- TASKEND (R289). -/
  | taskend
  /-- ENQ (R291). -/
  | enq (h : BitVec 6) (mc : BitVec 3) (s : BitVec 6) (b : BitVec 6)
  /-- LAUNCHG (R293). -/
  | launchg (s : BitVec 6) (mc : BitVec 3) (p : BitVec 6) (g : BitVec 6)
  /-- MSG (R296). -/
  | msg (lenm : BitVec 8) (slot : BitVec 4) (mc : BitVec 3) (s : BitVec 6) (t : BitVec 6)
  /-- WAITC (R298). -/
  | waitc (d : BitVec 6) (mc : BitVec 3) (c : BitVec 6) (b : BitVec 6)
  /-- HCTL_HOLD (R300). -/
  | hctlHold
  /-- HCTL_GO (R300). -/
  | hctlGo
  /-- HCTL_ST (R300). -/
  | hctlSt (d : BitVec 6)
  /-- VADD (R310). -/
  | vadd (d : BitVec 5) (s : BitVec 1) (t : BitVec 4) (pred : BitVec 3) (c : BitVec 6) (b : BitVec 5)
  /-- VSUB (R310). -/
  | vsub (d : BitVec 5) (s : BitVec 1) (t : BitVec 4) (pred : BitVec 3) (c : BitVec 6) (b : BitVec 5)
  /-- VMUL (R310). -/
  | vmul (d : BitVec 5) (s : BitVec 1) (t : BitVec 4) (pred : BitVec 3) (c : BitVec 6) (b : BitVec 5)
  /-- VMIN (R310). -/
  | vmin (d : BitVec 5) (s : BitVec 1) (t : BitVec 4) (pred : BitVec 3) (c : BitVec 6) (b : BitVec 5)
  /-- VMAX (R310). -/
  | vmax (d : BitVec 5) (s : BitVec 1) (t : BitVec 4) (pred : BitVec 3) (c : BitVec 6) (b : BitVec 5)
  /-- VAND (R310). -/
  | vand (d : BitVec 5) (s : BitVec 1) (t : BitVec 4) (pred : BitVec 3) (c : BitVec 6) (b : BitVec 5)
  /-- VOR (R310). -/
  | vor (d : BitVec 5) (s : BitVec 1) (t : BitVec 4) (pred : BitVec 3) (c : BitVec 6) (b : BitVec 5)
  /-- VXOR (R310). -/
  | vxor (d : BitVec 5) (s : BitVec 1) (t : BitVec 4) (pred : BitVec 3) (c : BitVec 6) (b : BitVec 5)
  /-- VSLL (R310). -/
  | vsll (d : BitVec 5) (s : BitVec 1) (t : BitVec 4) (pred : BitVec 3) (c : BitVec 6) (b : BitVec 5)
  /-- VSRL (R310). -/
  | vsrl (d : BitVec 5) (s : BitVec 1) (t : BitVec 4) (pred : BitVec 3) (c : BitVec 6) (b : BitVec 5)
  /-- VSRA (R310). -/
  | vsra (d : BitVec 5) (s : BitVec 1) (t : BitVec 4) (pred : BitVec 3) (c : BitVec 6) (b : BitVec 5)
  /-- VABS (R310). -/
  | vabs (d : BitVec 5) (t : BitVec 4) (pred : BitVec 3) (b : BitVec 5)
  /-- VFADD (R312). -/
  | vfadd (d : BitVec 5) (s : BitVec 1) (t : BitVec 4) (pred : BitVec 3) (c : BitVec 6) (b : BitVec 5)
  /-- VFSUB (R312). -/
  | vfsub (d : BitVec 5) (s : BitVec 1) (t : BitVec 4) (pred : BitVec 3) (c : BitVec 6) (b : BitVec 5)
  /-- VFMUL (R312). -/
  | vfmul (d : BitVec 5) (s : BitVec 1) (t : BitVec 4) (pred : BitVec 3) (c : BitVec 6) (b : BitVec 5)
  /-- VFDIV (R312). -/
  | vfdiv (d : BitVec 5) (s : BitVec 1) (t : BitVec 4) (pred : BitVec 3) (c : BitVec 6) (b : BitVec 5)
  /-- VFMIN (R312). -/
  | vfmin (d : BitVec 5) (s : BitVec 1) (t : BitVec 4) (pred : BitVec 3) (c : BitVec 6) (b : BitVec 5)
  /-- VFMAX (R312). -/
  | vfmax (d : BitVec 5) (s : BitVec 1) (t : BitVec 4) (pred : BitVec 3) (c : BitVec 6) (b : BitVec 5)
  /-- VFABS (R312). -/
  | vfabs (d : BitVec 5) (t : BitVec 4) (pred : BitVec 3) (b : BitVec 5)
  /-- VFNEG (R312). -/
  | vfneg (d : BitVec 5) (t : BitVec 4) (pred : BitVec 3) (b : BitVec 5)
  /-- VFMA (R314). -/
  | vfma (d : BitVec 5) (s : BitVec 1) (a : BitVec 5) (t : BitVec 4) (pred : BitVec 3) (c : BitVec 6) (b : BitVec 5)
  /-- VFMS (R314). -/
  | vfms (d : BitVec 5) (s : BitVec 1) (a : BitVec 5) (t : BitVec 4) (pred : BitVec 3) (c : BitVec 6) (b : BitVec 5)
  /-- VFNMA (R314). -/
  | vfnma (d : BitVec 5) (s : BitVec 1) (a : BitVec 5) (t : BitVec 4) (pred : BitVec 3) (c : BitVec 6) (b : BitVec 5)
  /-- VFNMS (R314). -/
  | vfnms (d : BitVec 5) (s : BitVec 1) (a : BitVec 5) (t : BitVec 4) (pred : BitVec 3) (c : BitVec 6) (b : BitVec 5)
  /-- VCMP (R315). -/
  | vcmp (d : BitVec 3) (s : BitVec 1) (cond : BitVec 4) (t : BitVec 4) (pred : BitVec 3) (c : BitVec 6) (b : BitVec 5)
  /-- VSEL (R317). -/
  | vsel (d : BitVec 5) (s : BitVec 1) (t : BitVec 4) (pred : BitVec 3) (c : BitVec 6) (b : BitVec 5)
  /-- VPERM (R318). -/
  | vperm (d : BitVec 5) (s : BitVec 1) (t : BitVec 4) (pred : BitVec 3) (c : BitVec 6) (b : BitVec 5)
  /-- VPERM2 (R318). -/
  | vperm2 (d : BitVec 5) (s : BitVec 1) (a : BitVec 5) (t : BitVec 4) (pred : BitVec 3) (c : BitVec 6) (b : BitVec 5)
  /-- VREV (R319). -/
  | vrev (d : BitVec 5) (t : BitVec 4) (pred : BitVec 3) (b : BitVec 5)
  /-- VROT (R319). -/
  | vrot (d : BitVec 5) (s : BitVec 1) (t : BitVec 4) (pred : BitVec 3) (c : BitVec 6) (b : BitVec 5)
  /-- VSLIDE (R319). -/
  | vslide (d : BitVec 5) (s : BitVec 1) (a : BitVec 5) (t : BitVec 4) (pred : BitVec 3) (c : BitVec 6) (b : BitVec 5)
  /-- VBCAST (R320). -/
  | vbcast (d : BitVec 5) (pred : BitVec 3) (t : BitVec 4) (x : BitVec 6)
  /-- VBCAST_ELEMENT (R320). -/
  | vbcastElement (d : BitVec 5) (t : BitVec 4) (pred : BitVec 3) (idx : BitVec 6) (b : BitVec 5)
  /-- VINDEX (R321). -/
  | vindex (d : BitVec 5) (pred : BitVec 3) (t : BitVec 4) (x : BitVec 6)
  /-- VLI_W (R322). -/
  | vliW (d : BitVec 5) (imm : BitVec 32)
  /-- VLI_D (R322). -/
  | vliD (d : BitVec 5) (imm : BitVec 64)
  /-- VLI_Q (R322). -/
  | vliQ (d : BitVec 5) (imm : BitVec 128)
  /-- VMOVX (R323). -/
  | vmovx (d : BitVec 6) (t : BitVec 4) (idx : BitVec 6) (b : BitVec 5)
  /-- VMOVV (R323). -/
  | vmovv (d : BitVec 5) (t : BitVec 4) (idx : BitVec 6) (x : BitVec 6)
  /-- VRED (R324). -/
  | vred (d : BitVec 6) (op : BitVec 4) (t : BitVec 4) (pred : BitVec 3) (b : BitVec 5)
  /-- VSCAN (R326). -/
  | vscan (d : BitVec 5) (op : BitVec 2) (t : BitVec 4) (pred : BitVec 3) (b : BitVec 5)
  /-- VSCANX (R326). -/
  | vscanx (d : BitVec 5) (op : BitVec 2) (t : BitVec 4) (pred : BitVec 3) (b : BitVec 5)
  /-- VCOMPRESS (R327). -/
  | vcompress (d : BitVec 5) (t : BitVec 4) (pred : BitVec 3) (b : BitVec 5)
  /-- VEXPAND (R327). -/
  | vexpand (d : BitVec 5) (t : BitVec 4) (pred : BitVec 3) (b : BitVec 5)
  /-- VTOPK (R328). -/
  | vtopk (d : BitVec 5) (nz : BitVec 1) (m : BitVec 1) (t : BitVec 1) (pred : BitVec 3) (pd : BitVec 3) (xb : BitVec 6) (xk : BitVec 6) (vi : BitVec 5) (b : BitVec 5)
  /-- VCVT (R331). -/
  | vcvt (d : BitVec 5) (er : BitVec 3) (ef : BitVec 1) (rz : BitVec 1) (part : BitVec 4) (pred : BitVec 3) (toF : BitVec 4) (fromF : BitVec 4) (b : BitVec 5)
  /-- VENC (R333). -/
  | venc (d : BitVec 5) (er : BitVec 3) (ef : BitVec 1) (part : BitVec 4) (pred : BitVec 3) (toF : BitVec 4) (fromF : BitVec 4) (b : BitVec 5)
  /-- VDEC (R333). -/
  | vdec (d : BitVec 5) (part : BitVec 4) (pred : BitVec 3) (toF : BitVec 4) (fromF : BitVec 4) (b : BitVec 5)
  /-- VRCPE (R334). -/
  | vrcpe (d : BitVec 5) (t : BitVec 4) (pred : BitVec 3) (b : BitVec 5)
  /-- VRSQE (R334). -/
  | vrsqe (d : BitVec 5) (t : BitVec 4) (pred : BitVec 3) (b : BitVec 5)
  /-- VEXPE (R334). -/
  | vexpe (d : BitVec 5) (t : BitVec 4) (pred : BitVec 3) (b : BitVec 5)
  /-- PAND (R336). -/
  | pand (d : BitVec 3) (pb : BitVec 3) (pa : BitVec 3)
  /-- POR (R336). -/
  | por (d : BitVec 3) (pb : BitVec 3) (pa : BitVec 3)
  /-- PXOR (R336). -/
  | pxor (d : BitVec 3) (pb : BitVec 3) (pa : BitVec 3)
  /-- PNOT (R336). -/
  | pnot (d : BitVec 3) (pa : BitVec 3)
  /-- PMOV_TO_PREDICATE (R336). -/
  | pmovToPredicate (d : BitVec 3) (x : BitVec 6)
  /-- PMOV_TO_SCALAR (R336). -/
  | pmovToScalar (d : BitVec 6) (pa : BitVec 3)
  /-- PCNT (R337). -/
  | pcnt (d : BitVec 6) (pm : BitVec 3) (pa : BitVec 3)
  /-- PFIRST (R337). -/
  | pfirst (d : BitVec 6) (pm : BitVec 3) (pa : BitVec 3)
  /-- LD_B (R340). -/
  | ldB (d : BitVec 6) (off : BitVec 15) (b : BitVec 6) (qual : BitVec 8)
  /-- LD_B_LONG (R340). -/
  | ldBLong (d : BitVec 6) (p : BitVec 1) (off : BitVec 46) (b : BitVec 6) (qual : BitVec 8)
  /-- LD_BU (R340). -/
  | ldBu (d : BitVec 6) (off : BitVec 15) (b : BitVec 6) (qual : BitVec 8)
  /-- LD_BU_LONG (R340). -/
  | ldBuLong (d : BitVec 6) (p : BitVec 1) (off : BitVec 46) (b : BitVec 6) (qual : BitVec 8)
  /-- LD_H (R340). -/
  | ldH (d : BitVec 6) (off : BitVec 15) (b : BitVec 6) (qual : BitVec 8)
  /-- LD_H_LONG (R340). -/
  | ldHLong (d : BitVec 6) (p : BitVec 1) (off : BitVec 46) (b : BitVec 6) (qual : BitVec 8)
  /-- LD_HU (R340). -/
  | ldHu (d : BitVec 6) (off : BitVec 15) (b : BitVec 6) (qual : BitVec 8)
  /-- LD_HU_LONG (R340). -/
  | ldHuLong (d : BitVec 6) (p : BitVec 1) (off : BitVec 46) (b : BitVec 6) (qual : BitVec 8)
  /-- LD_W (R340). -/
  | ldW (d : BitVec 6) (off : BitVec 15) (b : BitVec 6) (qual : BitVec 8)
  /-- LD_W_LONG (R340). -/
  | ldWLong (d : BitVec 6) (p : BitVec 1) (off : BitVec 46) (b : BitVec 6) (qual : BitVec 8)
  /-- LD_WU (R340). -/
  | ldWu (d : BitVec 6) (off : BitVec 15) (b : BitVec 6) (qual : BitVec 8)
  /-- LD_WU_LONG (R340). -/
  | ldWuLong (d : BitVec 6) (p : BitVec 1) (off : BitVec 46) (b : BitVec 6) (qual : BitVec 8)
  /-- LD_D (R340). -/
  | ldD (d : BitVec 6) (off : BitVec 15) (b : BitVec 6) (qual : BitVec 8)
  /-- LD_D_LONG (R340). -/
  | ldDLong (d : BitVec 6) (p : BitVec 1) (off : BitVec 46) (b : BitVec 6) (qual : BitVec 8)
  /-- ST_B (R342). -/
  | stB (src : BitVec 6) (off : BitVec 15) (b : BitVec 6) (qual : BitVec 8)
  /-- ST_B_LONG (R342). -/
  | stBLong (src : BitVec 6) (p : BitVec 1) (off : BitVec 46) (b : BitVec 6) (qual : BitVec 8)
  /-- ST_H (R342). -/
  | stH (src : BitVec 6) (off : BitVec 15) (b : BitVec 6) (qual : BitVec 8)
  /-- ST_H_LONG (R342). -/
  | stHLong (src : BitVec 6) (p : BitVec 1) (off : BitVec 46) (b : BitVec 6) (qual : BitVec 8)
  /-- ST_W (R342). -/
  | stW (src : BitVec 6) (off : BitVec 15) (b : BitVec 6) (qual : BitVec 8)
  /-- ST_W_LONG (R342). -/
  | stWLong (src : BitVec 6) (p : BitVec 1) (off : BitVec 46) (b : BitVec 6) (qual : BitVec 8)
  /-- ST_D (R342). -/
  | stD (src : BitVec 6) (off : BitVec 15) (b : BitVec 6) (qual : BitVec 8)
  /-- ST_D_LONG (R342). -/
  | stDLong (src : BitVec 6) (p : BitVec 1) (off : BitVec 46) (b : BitVec 6) (qual : BitVec 8)
  /-- VLD (R344). -/
  | vld (d : BitVec 5) (c : BitVec 6) (s : BitVec 1) (pred : BitVec 3) (t : BitVec 4) (b : BitVec 6) (qual : BitVec 8)
  /-- VLD_LONG (R344). -/
  | vldLong (d : BitVec 5) (off : BitVec 32) (c : BitVec 6) (s : BitVec 1) (pred : BitVec 3) (t : BitVec 4) (b : BitVec 6) (qual : BitVec 8)
  /-- VST (R344). -/
  | vst (d : BitVec 5) (c : BitVec 6) (s : BitVec 1) (pred : BitVec 3) (t : BitVec 4) (b : BitVec 6) (qual : BitVec 8)
  /-- VST_LONG (R344). -/
  | vstLong (d : BitVec 5) (off : BitVec 32) (c : BitVec 6) (s : BitVec 1) (pred : BitVec 3) (t : BitVec 4) (b : BitVec 6) (qual : BitVec 8)
  /-- LDF (R346). -/
  | ldf (d : BitVec 6) (off : BitVec 16) (b : BitVec 6) (qual : BitVec 8)
  /-- LDF_C (R346). -/
  | ldfC (d : BitVec 6) (off : BitVec 16) (b : BitVec 6) (qual : BitVec 8)
  /-- STE (R346). -/
  | ste (src : BitVec 6) (off : BitVec 16) (b : BitVec 6) (qual : BitVec 8)
  /-- CLRE (R346). -/
  | clre (off : BitVec 16) (b : BitVec 6) (qual : BitVec 8)
  /-- PREF (R348). -/
  | pref (off : BitVec 16) (b : BitVec 6) (qual : BitVec 8)
  /-- CLEAN (R348). -/
  | clean (off : BitVec 16) (b : BitVec 6) (qual : BitVec 8)
  /-- FLUSH (R348). -/
  | flush (off : BitVec 16) (b : BitVec 6) (qual : BitVec 8)
  /-- STRM (R352). -/
  | strm (d : BitVec 5) (slot : BitVec 2) (b : BitVec 6)
  /-- STRMOFF (R352). -/
  | strmoff (slot : BitVec 2)
  /-- QRD (R355). -/
  | qrd (d : BitVec 6) (w : BitVec 2) (v : BitVec 1) (q : BitVec 3)
  /-- QWR (R355). -/
  | qwr (d : BitVec 6) (w : BitVec 2) (v : BitVec 1) (q : BitVec 3)
  /-- QCFG (R357). -/
  | qcfg (q : BitVec 3) (b : BitVec 6)
  /-- COPY (R360). -/
  | copy (b : BitVec 6) (qdv : BitVec 1) (qd : BitVec 3) (qsv : BitVec 1) (qs : BitVec 3)
  /-- GATHER (R362). -/
  | gather (b : BitVec 6) (qdv : BitVec 1) (qd : BitVec 3)
  /-- COPYL (R365). -/
  | copyl (b : BitVec 6)
  /-- COPYW (R367). -/
  | copyw (b : BitVec 6)
  /-- COPYW_ALL (R367). -/
  | copywAll
  /-- PUTS (R368). -/
  | puts (b : BitVec 6) (bell : BitVec 2)
  /-- BARR (R379). -/
  | barr (bell : BitVec 2)
  /-- BWAIT (R379). -/
  | bwait (d : BitVec 6) (c : BitVec 6) (bell : BitVec 2)
  /-- ROLLW (R377). -/
  | rollw (d : BitVec 6) (bell : BitVec 2) (b : BitVec 6)
  /-- PHASE (R381). -/
  | phase (bell : BitVec 2)
  /-- AMO_SWAP (R382). -/
  | amoSwap (d : BitVec 6) (w : BitVec 1) (c : BitVec 6) (b : BitVec 6) (qual : BitVec 8)
  /-- AMO_CAS (R382). -/
  | amoCas (d : BitVec 6) (w : BitVec 1) (n : BitVec 6) (c : BitVec 6) (b : BitVec 6) (qual : BitVec 8)
  /-- AMO_FADD (R382). -/
  | amoFadd (d : BitVec 6) (w : BitVec 1) (c : BitVec 6) (b : BitVec 6) (qual : BitVec 8)
  /-- REGION_SET (R389). -/
  | regionSet (d : BitVec 6) (idx : BitVec 6) (b : BitVec 6)
  /-- REGION_OFF (R389). -/
  | regionOff (d : BitVec 6) (idx : BitVec 6) (b : BitVec 6)
  /-- REGION_RD (R389). -/
  | regionRd (d : BitVec 6) (idx : BitVec 6) (b : BitVec 6)
  /-- REGION_RDC (R389). -/
  | regionRdc (d : BitVec 6) (idx : BitVec 6) (b : BitVec 6)
  /-- UPD (R391). -/
  | upd (src : BitVec 6) (off : BitVec 18) (b : BitVec 6) (qual : BitVec 8)
  /-- UPD_LONG (R391). -/
  | updLong (src : BitVec 6) (off : BitVec 50) (b : BitVec 6) (qual : BitVec 8)
  /-- UPDV (R393). -/
  | updv (src : BitVec 5) (t : BitVec 4) (pred : BitVec 3) (vi : BitVec 5) (b : BitVec 6) (qual : BitVec 8)
  /-- UFLUSH (R395). -/
  | uflush (c : BitVec 6) (b : BitVec 6)
  /-- TLOAD (R403). -/
  | tload (r : BitVec 1) (tn : BitVec 3) (sp : BitVec 6) (b : BitVec 6) (qual : BitVec 8)
  /-- TLOAD_LONG (R403). -/
  | tloadLong (off : BitVec 32) (r : BitVec 1) (tn : BitVec 3) (sp : BitVec 6) (b : BitVec 6) (qual : BitVec 8)
  /-- TSTORE (R403). -/
  | tstore (tn : BitVec 3) (sp : BitVec 6) (b : BitVec 6) (qual : BitVec 8)
  /-- TSTORE_LONG (R403). -/
  | tstoreLong (off : BitVec 32) (tn : BitVec 3) (sp : BitVec 6) (b : BitVec 6) (qual : BitVec 8)
  /-- TZERO (R403). -/
  | tzero (form : ZeroForm) (tn : BitVec 3)
  /-- TMMA (R405). -/
  | tmma (c : BitVec 6) (cp : BitVec 4) (z : BitVec 1) (tb : BitVec 3) (ta : BitVec 3)
  /-- TMMA_P (R405). -/
  | tmmaP (c : BitVec 6) (cp : BitVec 4) (ce : BitVec 1) (cmc : BitVec 3) (z : BitVec 1) (k : BitVec 6) (a : BitVec 6) (p : BitVec 6)
  /-- TMMA_G (R405). -/
  | tmmaG (c : BitVec 6) (cp : BitVec 4) (ce : BitVec 1) (cmc : BitVec 3) (z : BitVec 1) (k : BitVec 6) (a : BitVec 6) (p : BitVec 6)
  /-- PLOAD (R408). -/
  | pload (ce : BitVec 1) (cmc : BitVec 3) (n : BitVec 6) (b : BitVec 6)
  /-- PSWAP (R408). -/
  | pswap
  /-- GBIND (R410). -/
  | gbind (gn : BitVec 4)
  /-- GUNBIND (R410). -/
  | gunbind (gn : BitVec 4)
  /-- TDRAIN (R415). -/
  | tdrain (d : BitVec 6) (cp : BitVec 4) (nr : BitVec 4) (hz : BitVec 1) (nh : BitVec 1) (h : BitVec 6) (c : BitVec 6) (dp : BitVec 6)
  /-- TDRAIN_IMM (R415). -/
  | tdrainImm (d : BitVec 6) (pitch : BitVec 32) (cp : BitVec 4) (nr : BitVec 4) (hz : BitVec 1) (nh : BitVec 1) (h : BitVec 6) (c : BitVec 6)
  /-- TBLLD (R417). -/
  | tblld (slot : BitVec 2) (id : BitVec 8) (b : BitVec 6)
  /-- QUIZ (R417). -/
  | quiz
  /-- TREEMUL (R419). -/
  | treemul (d : BitVec 6) (b : BitVec 6) (a : BitVec 6)
  /-- TREEADD (R419). -/
  | treeadd (d : BitVec 6) (b : BitVec 6) (a : BitVec 6)
  /-- TCONV (R419). -/
  | tconv (d : BitVec 6) (a : BitVec 6)
  /-- TRESUME (R419). -/
  | tresume
  /-- CONTRACT (R422). -/
  | contract (b : BitVec 6)
  /-- TRY (R432). -/
  | tryPush (a : BitVec 6) (m : BitVec 6) (n : BitVec 6)
  /-- FAIL (R432). -/
  | fail
  /-- CUT (R432). -/
  | cut (b : BitVec 6)
  /-- MARK (R432). -/
  | mark (d : BitVec 6)
  /-- STT_B (R436). -/
  | sttB (src : BitVec 6) (off : BitVec 15) (b : BitVec 6) (qual : BitVec 8)
  /-- STT_B_LONG (R436). -/
  | sttBLong (src : BitVec 6) (off : BitVec 46) (b : BitVec 6) (qual : BitVec 8)
  /-- STT_H (R436). -/
  | sttH (src : BitVec 6) (off : BitVec 15) (b : BitVec 6) (qual : BitVec 8)
  /-- STT_H_LONG (R436). -/
  | sttHLong (src : BitVec 6) (off : BitVec 46) (b : BitVec 6) (qual : BitVec 8)
  /-- STT_W (R436). -/
  | sttW (src : BitVec 6) (off : BitVec 15) (b : BitVec 6) (qual : BitVec 8)
  /-- STT_W_LONG (R436). -/
  | sttWLong (src : BitVec 6) (off : BitVec 46) (b : BitVec 6) (qual : BitVec 8)
  /-- STT_D (R436). -/
  | sttD (src : BitVec 6) (off : BitVec 15) (b : BitVec 6) (qual : BitVec 8)
  /-- STT_D_LONG (R436). -/
  | sttDLong (src : BitVec 6) (off : BitVec 46) (b : BitVec 6) (qual : BitVec 8)
  /-- STEAL (R438). -/
  | steal (d : BitVec 6) (v : BitVec 6)
  /-- SFRAME (R430). -/
  | sframe (b : BitVec 6)
  /-- SEARCHEND (R430). -/
  | searchend
  /-- ASUMM (R443). -/
  | asumm (dv : BitVec 1) (dmc : BitVec 3) (b : BitVec 6)
  /-- ASCREEN (R445). -/
  | ascreen (dv : BitVec 1) (dmc : BitVec 3) (b : BitVec 6)
  /-- ASCREEN_LONG (R445). -/
  | ascreenLong (kimm : BitVec 9) (ko : BitVec 1) (qo : BitVec 1) (sq : BitVec 6) (dv : BitVec 1) (dmc : BitVec 3) (b : BitVec 6)
  /-- XSEND (R448). -/
  | xsend (d : BitVec 5) (ch : BitVec 2) (x : BitVec 6)
  /-- XRECV (R448). -/
  | xrecv (d : BitVec 5) (ch : BitVec 2) (x : BitVec 6)
  /-- XCTL_CON (R450). -/
  | xctlCon (ch : BitVec 2) (b : BitVec 6)
  /-- XCTL_DIS (R450). -/
  | xctlDis (ch : BitVec 2)
  /-- XCTL_ST (R450). -/
  | xctlSt (d : BitVec 6) (ch : BitVec 2)
  /-- NOP (R209). -/
  | nop
  /-- DEVICE_RESET (R462). -/
  | deviceReset
  /-- UNDERVOLTAGE_RESET (R469). -/
  | undervoltageReset
  /-- SENSOR_UPDATE (R471). -/
  | sensorUpdate (watts : Nat) (temps : List Nat) (centivolts : Nat)
  /-- THERMAL_TRIP (R470). -/
  | thermalTrip
  /-- SMBUS_READ_POWER (R471). -/
  | smbusReadPower
  /-- SMBUS_READ_TEMPERATURES (R471). -/
  | smbusReadTemperatures
  /-- SMBUS_READ_VOLTAGE (R471). -/
  | smbusReadVoltage
  /-- SMBUS_READ_WEAR (R471). -/
  | smbusReadWear
  /-- SMBUS_READ_BOOT_STATUS (R471). -/
  | smbusReadBootStatus
  /-- SMBUS_READ_CLOCK (R471). -/
  | smbusReadClock
  /-- SMBUS_WRITE_POWER_CAP (R471). -/
  | smbusWritePowerCap (watts : BitVec 16) (pec : BitVec 8)
  /-- UNSUPPORTED_PACKET (R451). -/
  | unsupportedPacket (port : Nat)
  /-- LINK_REPLAY (R187). -/
  | linkReplay (link : Nat)
  /-- LOAD_IMAGE (R465). -/
  | loadImage (r : Request) (offset : Word) (data : List Byte)
  /-- MAP (R454). -/
  | map (r : Request) (va : Word) (pa : Word) (len : Word) (pte : Word)
  /-- COPY_IN (R454). -/
  | copyIn (r : Request) (va : Word) (data : List Byte)
  /-- COPY_OUT (R454). -/
  | copyOut (r : Request) (va : Word) (len : Word)
  /-- LAUNCH (R454). -/
  | launch (r : Request) (handle : Word) (patch : List Word)
  /-- QUERY_IDENTITY (R467). -/
  | queryIdentity (r : Request) (nonce : Option (List Byte))
  /-- QUERY_FENCES (R454). -/
  | queryFences (r : Request)
  /-- QUERY_EVENT_COUNT (R454). -/
  | queryEventCount (r : Request)
  /-- QUERY_PORT_ERRORS (R454). -/
  | queryPortErrors (r : Request)
  /-- CHECKPOINT (R457). -/
  | checkpoint (r : Request) (tier : Word) (addr : Word)
  /-- RESTORE (R457). -/
  | restore (r : Request) (tier : Word) (addr : Word)
  /-- QUEUE_CREATE (R454). -/
  | queueCreate (r : Request) (handle : Word) (ovAddr : Word) (ovSize : Word) (stealable : Bool)
  /-- QUEUE_DESTROY (R159). -/
  | queueDestroy (r : Request) (handle : Word)
  /-- QUEUE_SWAP_OUT (R454). -/
  | queueSwapOut (r : Request) (handle : Word)
  /-- QUEUE_SWAP_IN (R161). -/
  | queueSwapIn (r : Request) (handle : Word)
  /-- GRAPH_CAPTURE (R172). -/
  | graphCapture (r : Request) (g : GraphBody)
  /-- GRAPH_STRUCTURAL_EDIT (R174). -/
  | graphStructuralEdit (r : Request) (handle : Word) (g : GraphBody)
  /-- GRAPH_PARAMETER_EDIT (R174). -/
  | graphParameterEdit (r : Request) (handle : Word) (params : List Byte)
  /-- EVENTS (R458). -/
  | events (r : Request) (first : Nat)
  /-- POD_JOIN (R461). -/
  | podJoin (r : Request) (n : Word) (m : Word) (endpoints : List Nat)
  /-- HALL_PASS (R460). -/
  | hallPass (pass : HallPass)
  /-- HALL_PASS_REGENERATE (R460). -/
  | hallPassRegenerate
  /-- POD_TASK_TRANSFER (R460). -/
  | podTaskTransfer (records : List TaskRecord)
  /-- FENCE_MESSAGE (R459). -/
  | fenceMessage (sender : Nat)
  /-- FENCE_ACKNOWLEDGEMENT (R459). -/
  | fenceAcknowledgement (sender : Nat)
  /-- RECOVERY_STOP_MESSAGE (R457). -/
  | recoveryStopMessage
  /-- SERVICE_CORE_START (R462). -/
  | serviceCoreStart (i : Nat)
  /-- HART_HALT (R464). -/
  | hartHalt (h : Nat)
  /-- HART_RELEASE (R464). -/
  | hartRelease (h : Nat)
  /-- HART_WINDOW_REGISTER_ACCESS (R464). -/
  | hartWindowRegisterAccess (h : Nat) (offset : Nat) (store : Option Word)
  /-- QUEUE_ENABLE (R48). -/
  | queueEnable (core : Nat) (q : BitVec 3) (val : Word)
  /-- QUEUE_DISABLE (R48). -/
  | queueDisable (core : Nat) (q : BitVec 3)
  /-- COMPANION_START (R46). -/
  | companionStart (core : Nat) (storer : Bool) (pc : BitVec 12)
  /-- COMPANION_STOP (R46). -/
  | companionStop (core : Nat) (storer : Bool)
  /-- PREEMPT_REQUEST (R171). -/
  | preemptRequest (core : Nat) (park : Bool) (floor : BitVec 2)
  /-- PREEMPT_CANCEL (R171). -/
  | preemptCancel (core : Nat) (park : Bool) (floor : BitVec 2)
  /-- STREAM_SLOT_DISABLE (R351). -/
  | streamSlotDisable (core : Nat) (slot : BitVec 2)
  /-- MAILBOX_COUNTER_WRITE (R282). -/
  | mailboxCounterWrite (core : Nat) (mc : BitVec 3) (val : Word)
  /-- WINMAP_WRITE (R64). -/
  | winmapWrite (core : Nat) (val : Word)
  /-- TASKLIM_WRITE (R168). -/
  | tasklimWrite (core : Nat) (val : Word)
  /-- CONTROL_REGISTER_WRITE (R282). -/
  | controlRegisterWrite (h : Nat) (num : BitVec 12) (val : Word)
  /-- STORE_BUFFER_RETIRE (R62). -/
  | storeBufferRetire (h : Nat) (k : Nat)
  /-- UPDATE_ACCEPTED (R108). -/
  | updateAccepted (h : Nat) (k : Nat)
  /-- GUTTER_SPILL (R387). -/
  | gutterSpill (die : Nat) (slice : Nat)
  /-- REGISTRAR_SERVE (R112). -/
  | registrarServe (die : Nat) (k : Nat)
  /-- PAGE_WALK (R87). -/
  | pageWalk (h : Nat) (va : Word)
  /-- LOFT_WRITE_BACK (R76). -/
  | loftWriteBack (cluster : Nat) (block : Nat)
  /-- DECODE_AHEAD (R79). -/
  | decodeAhead (cluster : Nat) (reader : Nat) (block : Nat)
  /-- DECODE_AHEAD_PLACE_EXPIRY (R79). -/
  | decodeAheadPlaceExpiry (cluster : Nat) (place : Nat)
  /-- PATROL_SCRUB (R187). -/
  | patrolScrub (addr : Nat) (uncorrectable : Bool)
  /-- SCOPE_MISS_HOLD (R101). -/
  | scopeMissHold (h : Nat) (unit : Nat)
  /-- SCOPE_MISS_RUN_START (R102). -/
  | scopeMissRunStart (core : Nat)
  /-- COMPANION_SCOPE_MISS (R472). -/
  | companionScopeMiss (h : Nat)
  /-- SCOPE_MISS_LIFT (R102). -/
  | scopeMissLift (unit : Nat)
  /-- DRAIN_RUN_START (R38). -/
  | drainRunStart (core : Nat)
  /-- MESSAGE_DELIVERY (R297). -/
  | messageDelivery (k : Nat)
  /-- PARK_WAKE (R62). -/
  | parkWake (h : Nat) (handler : Bool)
  /-- INTERRUPT_TAKEN (R183). -/
  | interruptTaken (h : Nat)
  /-- USER_COMPLETION_INTERRUPT (R186). -/
  | userCompletionInterrupt (core : Nat)
  /-- SLEEP_LIMIT_EXPIRY (R286). -/
  | sleepLimitExpiry (h : Nat) (handler : Bool)
  /-- PAUSE_EXPIRY (R286). -/
  | pauseExpiry (h : Nat) (handler : Bool)
  /-- WAITC_TIMEOUT (R299). -/
  | waitcTimeout (h : Nat) (handler : Bool)
  /-- BWAIT_TIMEOUT (R380). -/
  | bwaitTimeout (core : Nat)
  /-- ENGINE_COMMAND_START (R52). -/
  | engineCommandStart (h : Nat) (copy : Bool)
  /-- CHUNK_RETIREMENT (R406). -/
  | chunkRetirement (core : Nat)
  /-- MATRIX_COMMAND_COMPLETE (R402). -/
  | matrixCommandComplete (core : Nat)
  /-- OPERANDS_CONSUMED_EVENT (R407). -/
  | operandsConsumedEvent (core : Nat)
  /-- TRANSFER_COMPLETE (R107). -/
  | transferComplete (core : Nat) (k : Nat)
  /-- COPYL_REQUEST (R366). -/
  | copylRequest (cluster : Nat)
  /-- STREAM_REFILL (R354). -/
  | streamRefill (core : Nat) (slot : BitVec 2)
  /-- QUIZ_PRODUCT (R188). -/
  | quizProduct (core : Nat) (failing : BitVec 4)
  /-- TABLE_INSTALL (R418). -/
  | tableInstall (core : Nat)
  /-- GANG_BIND_COMPLETE (R411). -/
  | gangBindComplete (cluster : Nat)
  /-- GANG_UNBIND_COMPLETE (R412). -/
  | gangUnbindComplete (cluster : Nat)
  /-- GANG_TMMA_START (R414). -/
  | gangTmmaStart (cluster : Nat)
  /-- THATCHER_START (R421). -/
  | thatcherStart (cluster : Nat)
  /-- THATCHER_STEP (R142). -/
  | thatcherStep (cluster : Nat)
  /-- TREE_COMPLETE (R151). -/
  | treeComplete (cluster : Nat)
  /-- SCREENER_REQUEST (R442). -/
  | screenerRequest (cluster : Nat)
  /-- THEFT_SERVE (R440). -/
  | theftServe (victim : Nat)
  /-- SEARCH_CANCELLATION (R441). -/
  | searchCancellation (k : Nat)
  /-- SEARCH_COMPLETION_MESSAGE (R441). -/
  | searchCompletionMessage (k : Nat)
  /-- CHANNEL_CHUNK_ARRIVAL (R447). -/
  | channelChunkArrival (k : Nat)
  /-- TASK_DISPATCH (R162). -/
  | taskDispatch (core : Nat)
  /-- TASK_RETIREMENT (R54). -/
  | taskRetirement (core : Nat)
  /-- AGE_LIMIT_EXPIRY (R162). -/
  | ageLimitExpiry (cluster : Nat) (k : Nat)
  /-- TASK_LIMIT_EXPIRY (R169). -/
  | taskLimitExpiry (core : Nat)
  /-- ENQ_ARRIVAL (R160). -/
  | enqArrival (k : Nat)
  /-- ENQ_REPLY (R292). -/
  | enqReply (k : Nat)
  /-- LAUNCHG_ARRIVAL (R295). -/
  | launchgArrival (k : Nat)
  /-- STEAL_PROBE (R165). -/
  | stealProbe (cluster : Nat)
  /-- STEAL_PROBE_ANSWER (R165). -/
  | stealProbeAnswer (k : Nat)
  /-- STOLEN_TASK_ARRIVAL (R165). -/
  | stolenTaskArrival (k : Nat)
  /-- BARRIER_ARRIVAL_SIGNAL (R380). -/
  | barrierArrivalSignal (k : Nat)
  /-- BARRIER_RELEASE (R374). -/
  | barrierRelease (core : Nat) (bell : BitVec 2)
  /-- REGION_TABLE_UPDATE (R390). -/
  | regionTableUpdate (k : Nat)
  /-- CORE_FENCE (R191). -/
  | coreFence (core : Nat)
  /-- CLUSTER_FENCE (R192). -/
  | clusterFence (cluster : Nat)
  /-- DIE_FAILURE (R194). -/
  | dieFailure (die : Nat)
  /-- WEAR_UPDATE (R468). -/
  | wearUpdate (cluster : Nat) (val : Word)
  /-- SERVICE_INTERRUPT (R176). -/
  | serviceInterrupt (core : Nat) (code : Word)
  /-- ENDPOINT_ESTABLISHED (R456). -/
  | endpointEstablished (ep : Nat)
  /-- CHECKPOINT_COMPLETE (R457). -/
  | checkpointComplete
  /-- RESTORE_COMPLETE (R457). -/
  | restoreComplete
  deriving DecidableEq, Repr

end Sys2Proof
end

