-- ==== Sys2Proof/WellFormed.lean ====
section
/-! DEFINITION. WellFormed.lean: the reserved values and reserved combinations of the encodings (R91, R115, R202,
R206, R207 and the encoding rule of each entry). Reserved bits are refused by the decoder itself. -/

namespace Sys2Proof

/-- The rows of R91: which ORD values a class of access accepts. -/
inductive QualClass where
  | load | store | amo | update | fence | plainOnly
  deriving DecidableEq, Repr

/-- `qual_ok` of R221: the ORD is accepted by the class (R91), and SCOPE is not 7 (R90). -/
def qualOk (cls : QualClass) (q : BitVec 8) : Bool :=
  let ord := q.toNat / 64
  let scope := q.toNat / 8 % 8
  scope != 7 && match cls with
    | .load => ord != 2
    | .store => ord != 1
    | .amo => true
    | .update => ord == 0 || ord == 2
    | .fence => ord != 0
    | .plainOnly => ord == 0

/-- The element width in bits of a format code (R115). -/
def fmtBits (t : BitVec 4) : Nat :=
  match t.toNat with
  | 0 => 32 | 1 => 16 | 2 => 16 | 3 => 64 | 4 => 8 | 5 => 32 | 6 => 64 | 7 => 4
  | 8 => 8 | 9 => 8 | 10 => 8 | 11 => 8 | _ => 4

/-- The number of elements of a 512-bit register (R302). -/
def elemCount (t : BitVec 4) : Nat := 512 / fmtBits t

/-- INT8, INT32 or INT64. -/
def intFmt (t : BitVec 4) : Bool := t == 4 || t == 5 || t == 6

/-- FP32, FP16, BF16 or FP64. -/
def floatFmt (t : BitVec 4) : Bool := decide (t.toNat < 4)

/-- Codes 0 to 6. -/
def arithFmt (t : BitVec 4) : Bool := decide (t.toNat < 7)

/-- Codes 0 to 6 and 8 to 11: the formats that are moved without arithmetic. -/
def moveFmt (t : BitVec 4) : Bool := decide (t.toNat < 7) || decide (8 ≤ t.toNat ∧ t.toNat < 12)

/-- Field C of R304 names a vector register when S is 0. -/
def operandCOk (s : BitVec 1) (c : BitVec 6) : Bool := s == 1 || decide (c.toNat < 32)

/-- A T16 or T32 field with H = 0 is reserved (R202). -/
def targetOk (t : Nat) : Bool := t % 32 != 0

/-- The accepted format pairs of FCVT (R264). -/
def fcvtOk (toF fromF : BitVec 4) (tz : BitVec 1) : Bool :=
  let isF (t : BitVec 4) := t == 0 || t == 3
  let isI (t : BitVec 4) := t == 5 || t == 6
  ((isF fromF && isF toF && fromF != toF) || (isF fromF && isI toF) || (isI fromF && isF toF)) &&
    (tz == 0 || isI toF)

/-- The accepted conditions of VCMP (R315). -/
def cmpOk (cond t : BitVec 4) : Bool :=
  arithFmt t && decide (cond.toNat < 7) && (decide (cond.toNat < 4) ||
    (if cond == 6 then floatFmt t else intFmt t))

/-- The accepted operations of VRED (R324). -/
def redOk (op t : BitVec 4) : Bool :=
  arithFmt t && decide (op.toNat < 6) && (decide (op.toNat < 3) || intFmt t)

/-- The register groups of VTOPK (R328). -/
def topkOk (d vi b : BitVec 5) : Bool :=
  d.toNat % 4 == 0 && vi.toNat % 4 == 0 && d != vi &&
    b.toNat / 4 != d.toNat / 4 && b.toNat / 4 != vi.toNat / 4

/-- PART is below the ratio of the wider to the narrower width (R331). -/
def partOk (toF fromF part : BitVec 4) : Bool :=
  decide (part.toNat * Nat.min (fmtBits toF) (fmtBits fromF) < Nat.max (fmtBits toF) (fmtBits fromF))

/-- The accepted combinations of VCVT (R331, R128). -/
def vcvtOk (toF fromF part : BitVec 4) (rz ef : BitVec 1) (er : BitVec 3) : Bool :=
  decide (toF.toNat < 8) && decide (fromF.toNat < 8) && toF != fromF && partOk toF fromF part &&
    (rz == 0 || (decide (4 ≤ toF.toNat) && decide (fromF.toNat < 4) && ef == 0)) &&
    (ef == 1 || er == 0) && (ef == 0 || (fromF == 0 && (toF == 1 || toF == 2)))

/-- The accepted combinations of VENC (R333, R128). -/
def vencOk (toF fromF part : BitVec 4) (ef : BitVec 1) (er : BitVec 3) : Bool :=
  decide (8 ≤ toF.toNat) && decide (fromF.toNat < 4) && partOk toF fromF part &&
    (ef == 1 || er == 0) && (ef == 0 || fromF == 0)

/-- The accepted combinations of VDEC (R333). -/
def vdecOk (toF fromF part : BitVec 4) : Bool :=
  decide (toF.toNat < 4) && decide (8 ≤ fromF.toNat) && partOk toF fromF part

/-- Field SC of VLD and VST is reserved without S, and a strided access takes no 4-bit format (R344). -/
def stridedOk (s : BitVec 1) (c : BitVec 6) (t : BitVec 4) : Bool :=
  if s == 0 then c == 0 else fmtBits t != 4

/-- QRD and QWR: V goes with W of 2 or 3, and then OPA names a vector register (R355). -/
def queueWidthOk (w : BitVec 2) (v : BitVec 1) (d : BitVec 6) : Bool :=
  if v == 1 then decide (2 ≤ w.toNat) && decide (d.toNat < 32) else decide (w.toNat < 2)

/-- No reserved value and no reserved combination stands in the instruction. -/
def wellFormed (i : Instr) : Bool :=
  match i with
  | .add _ _ _ => true
  | .sub _ _ _ => true
  | .and _ _ _ => true
  | .or _ _ _ => true
  | .xor _ _ _ => true
  | .andn _ _ _ => true
  | .orn _ _ _ => true
  | .xnor _ _ _ => true
  | .sll _ _ _ => true
  | .srl _ _ _ => true
  | .sra _ _ _ => true
  | .rol _ _ _ => true
  | .ror _ _ _ => true
  | .slli _ _ _ => true
  | .srli _ _ _ => true
  | .srai _ _ _ => true
  | .roli _ _ _ => true
  | .rori _ _ _ => true
  | .mul _ _ _ => true
  | .mulh _ _ _ => true
  | .mulhu _ _ _ => true
  | .mulhsu _ _ _ => true
  | .div _ _ _ => true
  | .divu _ _ _ => true
  | .rem _ _ _ => true
  | .remu _ _ _ => true
  | .addi _ _ _ => true
  | .addiLong _ _ _ => true
  | .andi _ _ _ => true
  | .andiLong _ _ _ => true
  | .ori _ _ _ => true
  | .oriLong _ _ _ => true
  | .xori _ _ _ => true
  | .xoriLong _ _ _ => true
  | .li _ _ => true
  | .li32 _ _ => true
  | .li64 _ _ => true
  | .slt _ _ _ => true
  | .sltu _ _ _ => true
  | .seq _ _ _ => true
  | .sne _ _ _ => true
  | .slti _ _ _ => true
  | .sltiLong _ _ _ => true
  | .sltiu _ _ _ => true
  | .sltiuLong _ _ _ => true
  | .seqi _ _ _ => true
  | .seqiLong _ _ _ => true
  | .snei _ _ _ => true
  | .sneiLong _ _ _ => true
  | .sel _ _ _ _ => true
  | .min _ _ _ => true
  | .max _ _ _ => true
  | .minu _ _ _ => true
  | .maxu _ _ _ => true
  | .clz _ _ => true
  | .ctz _ _ => true
  | .popc _ _ => true
  | .bfxs _ wm pos _ => decide (pos.toNat + wm.toNat + 1 ≤ 64)
  | .bfxu _ wm pos _ => decide (pos.toNat + wm.toNat + 1 ≤ 64)
  | .bfi _ wm pos _ => decide (pos.toNat + wm.toNat + 1 ≤ 64)
  | .bswapH _ _ => true
  | .bswapW _ _ => true
  | .bswapD _ _ => true
  | .adr _ _ => true
  | .adrLong _ _ => true
  | .fadd _ _ _ _ => true
  | .fsub _ _ _ _ => true
  | .fmul _ _ _ _ => true
  | .fdiv _ _ _ _ => true
  | .fmin _ _ _ _ => true
  | .fmax _ _ _ _ => true
  | .fmadd _ _ _ _ _ => true
  | .fmsub _ _ _ _ _ => true
  | .fnmadd _ _ _ _ _ => true
  | .fnmsub _ _ _ _ _ => true
  | .fsqrt _ _ _ => true
  | .fclass _ _ _ => true
  | .feq _ _ _ _ => true
  | .flt _ _ _ _ => true
  | .fle _ _ _ _ => true
  | .fcvt _ tz toF fromF _ => fcvtOk toF fromF tz
  | .bc _ t cond _ => targetOk t.toNat && decide (cond.toNat < 8)
  | .bcLong _ t cond _ => targetOk t.toNat && decide (cond.toNat < 8)
  | .j t => targetOk t.toNat
  | .jLong t => targetOk t.toNat
  | .call t => targetOk t.toNat
  | .callLong t => targetOk t.toNat
  | .jr _ => true
  | .callr _ => true
  | .ret => true
  | .loop c t => targetOk t.toNat && c != 0
  | .trap _ => true
  | .eret => true
  | .ulret => true
  | .hret => true
  | .crr _ _ => true
  | .crw _ _ _ => true
  | .crs _ _ _ => true
  | .crc _ _ _ => true
  | .fence qual => qualOk .fence qual
  | .fenceI => true
  | .pause => true
  | .sleep _ => true
  | .tlbiVa scope _ => decide (1 ≤ scope.toNat ∧ scope.toNat ≤ 4)
  | .tlbiAll scope => decide (1 ≤ scope.toNat ∧ scope.toNat ≤ 4)
  | .tlbiRng scope _ _ => decide (1 ≤ scope.toNat ∧ scope.toNat ≤ 4)
  | .spawn _ _ => true
  | .taskend => true
  | .enq _ _ _ _ => true
  | .launchg _ _ _ _ => true
  | .msg _ _ _ _ _ => true
  | .waitc _ _ _ _ => true
  | .hctlHold => true
  | .hctlGo => true
  | .hctlSt _ => true
  | .vadd _ s t _ c _ => intFmt t && operandCOk s c
  | .vsub _ s t _ c _ => intFmt t && operandCOk s c
  | .vmul _ s t _ c _ => intFmt t && operandCOk s c
  | .vmin _ s t _ c _ => intFmt t && operandCOk s c
  | .vmax _ s t _ c _ => intFmt t && operandCOk s c
  | .vand _ s t _ c _ => intFmt t && operandCOk s c
  | .vor _ s t _ c _ => intFmt t && operandCOk s c
  | .vxor _ s t _ c _ => intFmt t && operandCOk s c
  | .vsll _ s t _ c _ => intFmt t && operandCOk s c
  | .vsrl _ s t _ c _ => intFmt t && operandCOk s c
  | .vsra _ s t _ c _ => intFmt t && operandCOk s c
  | .vabs _ t _ _ => intFmt t
  | .vfadd _ s t _ c _ => floatFmt t && operandCOk s c
  | .vfsub _ s t _ c _ => floatFmt t && operandCOk s c
  | .vfmul _ s t _ c _ => floatFmt t && operandCOk s c
  | .vfdiv _ s t _ c _ => floatFmt t && operandCOk s c
  | .vfmin _ s t _ c _ => floatFmt t && operandCOk s c
  | .vfmax _ s t _ c _ => floatFmt t && operandCOk s c
  | .vfabs _ t _ _ => floatFmt t
  | .vfneg _ t _ _ => floatFmt t
  | .vfma _ s _ t _ c _ => floatFmt t && operandCOk s c
  | .vfms _ s _ t _ c _ => floatFmt t && operandCOk s c
  | .vfnma _ s _ t _ c _ => floatFmt t && operandCOk s c
  | .vfnms _ s _ t _ c _ => floatFmt t && operandCOk s c
  | .vcmp _ s cond t _ c _ => cmpOk cond t && operandCOk s c
  | .vsel _ s t _ c _ => moveFmt t && operandCOk s c
  | .vperm _ s t _ c _ => moveFmt t && operandCOk s c
  | .vperm2 _ s _ t _ c _ => moveFmt t && operandCOk s c
  | .vrev _ t _ _ => moveFmt t
  | .vrot _ _ t _ _ _ => moveFmt t
  | .vslide _ _ _ t _ _ _ => moveFmt t
  | .vbcast _ _ t _ => moveFmt t
  | .vbcastElement _ t _ idx _ => moveFmt t && decide (idx.toNat < elemCount t)
  | .vindex _ _ t _ => intFmt t
  | .vliW _ _ => true
  | .vliD _ _ => true
  | .vliQ _ _ => true
  | .vmovx _ t idx _ => moveFmt t && decide (idx.toNat < elemCount t)
  | .vmovv _ t idx _ => moveFmt t && decide (idx.toNat < elemCount t)
  | .vred _ op t _ _ => redOk op t
  | .vscan _ op t _ _ => decide (op.toNat < 3) && arithFmt t
  | .vscanx _ op t _ _ => decide (op.toNat < 3) && arithFmt t
  | .vcompress _ t _ _ => moveFmt t
  | .vexpand _ t _ _ => moveFmt t
  | .vtopk d _ _ _ _ _ _ _ vi b => topkOk d vi b
  | .vcvt _ er ef rz part _ toF fromF _ => vcvtOk toF fromF part rz ef er
  | .venc _ er ef part _ toF fromF _ => vencOk toF fromF part ef er
  | .vdec _ part _ toF fromF _ => vdecOk toF fromF part
  | .vrcpe _ t _ _ => decide (t.toNat < 3)
  | .vrsqe _ t _ _ => decide (t.toNat < 3)
  | .vexpe _ t _ _ => decide (t.toNat < 3)
  | .pand _ _ _ => true
  | .por _ _ _ => true
  | .pxor _ _ _ => true
  | .pnot _ _ => true
  | .pmovToPredicate _ _ => true
  | .pmovToScalar _ _ => true
  | .pcnt _ _ _ => true
  | .pfirst _ _ _ => true
  | .ldB _ _ _ qual => qualOk .load qual
  | .ldBLong _ p _ b qual => qualOk .load qual && (p == 0 || b == 0)
  | .ldBu _ _ _ qual => qualOk .load qual
  | .ldBuLong _ p _ b qual => qualOk .load qual && (p == 0 || b == 0)
  | .ldH _ _ _ qual => qualOk .load qual
  | .ldHLong _ p _ b qual => qualOk .load qual && (p == 0 || b == 0)
  | .ldHu _ _ _ qual => qualOk .load qual
  | .ldHuLong _ p _ b qual => qualOk .load qual && (p == 0 || b == 0)
  | .ldW _ _ _ qual => qualOk .load qual
  | .ldWLong _ p _ b qual => qualOk .load qual && (p == 0 || b == 0)
  | .ldWu _ _ _ qual => qualOk .load qual
  | .ldWuLong _ p _ b qual => qualOk .load qual && (p == 0 || b == 0)
  | .ldD _ _ _ qual => qualOk .load qual
  | .ldDLong _ p _ b qual => qualOk .load qual && (p == 0 || b == 0)
  | .stB _ _ _ qual => qualOk .store qual
  | .stBLong _ p _ b qual => qualOk .store qual && (p == 0 || b == 0)
  | .stH _ _ _ qual => qualOk .store qual
  | .stHLong _ p _ b qual => qualOk .store qual && (p == 0 || b == 0)
  | .stW _ _ _ qual => qualOk .store qual
  | .stWLong _ p _ b qual => qualOk .store qual && (p == 0 || b == 0)
  | .stD _ _ _ qual => qualOk .store qual
  | .stDLong _ p _ b qual => qualOk .store qual && (p == 0 || b == 0)
  | .vld _ c s _ t _ qual => qualOk .load qual && stridedOk s c t
  | .vldLong _ _ c s _ t _ qual => qualOk .load qual && stridedOk s c t
  | .vst _ c s _ t _ qual => qualOk .store qual && stridedOk s c t
  | .vstLong _ _ c s _ t _ qual => qualOk .store qual && stridedOk s c t
  | .ldf _ _ _ qual => qualOk .load qual
  | .ldfC _ _ _ qual => qualOk .load qual
  | .ste _ _ _ qual => qualOk .store qual
  | .clre _ _ qual => qualOk .store qual
  | .pref _ _ qual => qualOk .plainOnly qual
  | .clean _ _ qual => qualOk .plainOnly qual
  | .flush _ _ qual => qualOk .plainOnly qual
  | .strm _ _ _ => true
  | .strmoff _ => true
  | .qrd d w v _ => queueWidthOk w v d
  | .qwr d w v _ => queueWidthOk w v d
  | .qcfg _ _ => true
  | .copy _ qdv qd qsv qs => !(qdv == 1 && qsv == 1) && (qdv == 1 || qd == 0) && (qsv == 1 || qs == 0)
  | .gather _ qdv qd => (qdv == 1 || qd == 0)
  | .copyl _ => true
  | .copyw _ => true
  | .copywAll => true
  | .puts _ _ => true
  | .barr _ => true
  | .bwait _ _ _ => true
  | .rollw _ _ _ => true
  | .phase _ => true
  | .amoSwap _ _ _ _ qual => qualOk .amo qual
  | .amoCas _ _ _ _ _ qual => qualOk .amo qual
  | .amoFadd _ _ _ _ qual => qualOk .amo qual
  | .regionSet _ _ _ => true
  | .regionOff _ _ _ => true
  | .regionRd _ _ _ => true
  | .regionRdc _ _ _ => true
  | .upd _ _ _ qual => qualOk .update qual
  | .updLong _ _ _ qual => qualOk .update qual
  | .updv _ t _ _ _ qual => qualOk .update qual && (t == 0 || t == 3 || t == 5 || t == 6)
  | .uflush _ _ => true
  | .tload _ _ _ _ qual => qualOk .load qual
  | .tloadLong _ _ _ _ _ qual => qualOk .load qual
  | .tstore _ _ _ qual => qualOk .store qual
  | .tstoreLong _ _ _ _ qual => qualOk .store qual
  | .tzero _ _ => true
  | .tmma _ cp _ _ _ => decide (cp.toNat < 14)
  | .tmmaP _ cp ce cmc _ _ _ _ => decide (cp.toNat < 14) && (ce == 1 || cmc == 0)
  | .tmmaG _ cp ce cmc _ _ _ _ => decide (cp.toNat < 14) && (ce == 1 || cmc == 0)
  | .pload ce cmc _ _ => (ce == 1 || cmc == 0)
  | .pswap => true
  | .gbind _ => true
  | .gunbind _ => true
  | .tdrain _ cp _ _ nh h _ _ => decide (cp.toNat < 14) && (nh == 0 || h == 0)
  | .tdrainImm _ _ cp _ _ nh h _ => decide (cp.toNat < 14) && (nh == 0 || h == 0)
  | .tblld _ _ _ => true
  | .quiz => true
  | .treemul _ _ _ => true
  | .treeadd _ _ _ => true
  | .tconv _ _ => true
  | .tresume => true
  | .contract _ => true
  | .tryPush _ _ _ => true
  | .fail => true
  | .cut _ => true
  | .mark _ => true
  | .sttB _ _ _ qual => qualOk .store qual
  | .sttBLong _ _ _ qual => qualOk .store qual
  | .sttH _ _ _ qual => qualOk .store qual
  | .sttHLong _ _ _ qual => qualOk .store qual
  | .sttW _ _ _ qual => qualOk .store qual
  | .sttWLong _ _ _ qual => qualOk .store qual
  | .sttD _ _ _ qual => qualOk .store qual
  | .sttDLong _ _ _ qual => qualOk .store qual
  | .steal _ _ => true
  | .sframe _ => true
  | .searchend => true
  | .asumm dv dmc _ => (dv == 1 || dmc == 0)
  | .ascreen dv dmc _ => (dv == 1 || dmc == 0)
  | .ascreenLong kimm ko qo sq dv dmc _ => (dv == 1 || dmc == 0) && (qo == 1 || sq == 0) && (ko == 1 || kimm == 0) && decide (kimm.toNat ≤ 256)
  | .xsend _ _ _ => true
  | .xrecv _ _ _ => true
  | .xctlCon _ _ => true
  | .xctlDis _ => true
  | .xctlSt _ _ => true
  | .nop => true
  | .deviceReset => true
  | .undervoltageReset => true
  | .sensorUpdate _ _ _ => true
  | .thermalTrip => true
  | .smbusReadPower => true
  | .smbusReadTemperatures => true
  | .smbusReadVoltage => true
  | .smbusReadWear => true
  | .smbusReadBootStatus => true
  | .smbusReadClock => true
  | .smbusWritePowerCap _ _ => true
  | .unsupportedPacket _ => true
  | .linkReplay _ => true
  | .loadImage _ _ _ => true
  | .map _ _ _ _ _ => true
  | .copyIn _ _ _ => true
  | .copyOut _ _ _ => true
  | .launch _ _ _ => true
  | .queryIdentity _ _ => true
  | .queryFences _ => true
  | .queryEventCount _ => true
  | .queryPortErrors _ => true
  | .checkpoint _ _ _ => true
  | .restore _ _ _ => true
  | .queueCreate _ _ _ _ _ => true
  | .queueDestroy _ _ => true
  | .queueSwapOut _ _ => true
  | .queueSwapIn _ _ => true
  | .graphCapture _ _ => true
  | .graphStructuralEdit _ _ _ => true
  | .graphParameterEdit _ _ _ => true
  | .events _ _ => true
  | .podJoin _ _ _ _ => true
  | .hallPass _ => true
  | .hallPassRegenerate => true
  | .podTaskTransfer _ => true
  | .fenceMessage _ => true
  | .fenceAcknowledgement _ => true
  | .recoveryStopMessage => true
  | .serviceCoreStart _ => true
  | .hartHalt _ => true
  | .hartRelease _ => true
  | .hartWindowRegisterAccess _ _ _ => true
  | .queueEnable _ _ _ => true
  | .queueDisable _ _ => true
  | .companionStart _ _ _ => true
  | .companionStop _ _ => true
  | .preemptRequest _ _ _ => true
  | .preemptCancel _ _ _ => true
  | .streamSlotDisable _ _ => true
  | .mailboxCounterWrite _ _ _ => true
  | .winmapWrite _ _ => true
  | .tasklimWrite _ _ => true
  | .controlRegisterWrite _ _ _ => true
  | .storeBufferRetire _ _ => true
  | .updateAccepted _ _ => true
  | .gutterSpill _ _ => true
  | .registrarServe _ _ => true
  | .pageWalk _ _ => true
  | .loftWriteBack _ _ => true
  | .decodeAhead _ _ _ => true
  | .decodeAheadPlaceExpiry _ _ => true
  | .patrolScrub _ _ => true
  | .scopeMissHold _ _ => true
  | .scopeMissRunStart _ => true
  | .companionScopeMiss _ => true
  | .scopeMissLift _ => true
  | .drainRunStart _ => true
  | .messageDelivery _ => true
  | .parkWake _ _ => true
  | .interruptTaken _ => true
  | .userCompletionInterrupt _ => true
  | .sleepLimitExpiry _ _ => true
  | .pauseExpiry _ _ => true
  | .waitcTimeout _ _ => true
  | .bwaitTimeout _ => true
  | .engineCommandStart _ _ => true
  | .chunkRetirement _ => true
  | .matrixCommandComplete _ => true
  | .operandsConsumedEvent _ => true
  | .transferComplete _ _ => true
  | .copylRequest _ => true
  | .streamRefill _ _ => true
  | .quizProduct _ _ => true
  | .tableInstall _ => true
  | .gangBindComplete _ => true
  | .gangUnbindComplete _ => true
  | .gangTmmaStart _ => true
  | .thatcherStart _ => true
  | .thatcherStep _ => true
  | .treeComplete _ => true
  | .screenerRequest _ => true
  | .theftServe _ => true
  | .searchCancellation _ => true
  | .searchCompletionMessage _ => true
  | .channelChunkArrival _ => true
  | .taskDispatch _ => true
  | .taskRetirement _ => true
  | .ageLimitExpiry _ _ => true
  | .taskLimitExpiry _ => true
  | .enqArrival _ => true
  | .enqReply _ => true
  | .launchgArrival _ => true
  | .stealProbe _ => true
  | .stealProbeAnswer _ => true
  | .stolenTaskArrival _ => true
  | .barrierArrivalSignal _ => true
  | .barrierRelease _ _ => true
  | .regionTableUpdate _ => true
  | .coreFence _ => true
  | .clusterFence _ => true
  | .dieFailure _ => true
  | .wearUpdate _ _ => true
  | .serviceInterrupt _ _ => true
  | .endpointEstablished _ => true
  | .checkpointComplete => true
  | .restoreComplete => true

end Sys2Proof
end

