-- ==== Sys2Proof/Decode.lean ====
section
/-! DEFINITION. Decode.lean: lines, heads, tails and their decoding (R195 to R210), and the encoder.
`candidate` reads the fields of an encoding; `encode` writes an instruction's head and tail as its encoding rule
lays them out. A head is accepted exactly when the candidate read from it encodes to that very head and tail, so
that a nonzero reserved bit is refused, and when it holds no reserved combination. -/

namespace Sys2Proof

/-- An encoded instruction: its head (R196), and the value of its tail, zero-extended (R197). -/
structure Enc where
  head : Nat
  tail : Nat
  deriving DecidableEq, Repr

/-- Why an encoding is no instruction (R210). -/
inductive DecodeError where
  /-- The line is not well formed, or the head index is 0 or above N (R198, R200). -/
  | lineFormat
  /-- A reserved opcode, tail size or function value. -/
  | reservedEncoding
  /-- A nonzero reserved bit. -/
  | reservedBits
  /-- A reserved value of an operand field, or a reserved combination. -/
  | reservedCombination
  deriving DecidableEq, Repr

/-- TSIZE of R197: the bytes of a tail by its size code. Code 7 is reserved. -/
def tailBytes (tsz : Nat) : Nat :=
  match tsz with
  | 0 => 0 | 1 => 2 | 2 => 4 | 3 => 6 | 4 => 8 | 5 => 12 | 6 => 16 | _ => 0

/-- Operand A of a head (R196), read as a field of w bits. -/
def Enc.a (e : Enc) (w : Nat) : BitVec w := BitVec.ofNat w (e.head % 64)

/-- The tail field of w bits whose lowest bit is lo (R206). -/
def Enc.f (e : Enc) (lo w : Nat) : BitVec w := BitVec.ofNat w (e.tail / 2 ^ lo)

/-- The head with opcode, tail-size code and operand A (R196). -/
def headOf (opc tsz opa : Nat) : Nat := opc * 512 + tsz * 64 + opa

/-- The head and tail of an instruction; `none` for the device's own steps, which no line holds. -/
def encode (i : Instr) : Option Enc :=
  match i with
  | .add d c b => some ⟨headOf 0x01 2 d.toNat, c.toNat * 0x40 + b.toNat⟩
  | .sub d c b => some ⟨headOf 0x01 2 d.toNat, 0x10000 + c.toNat * 0x40 + b.toNat⟩
  | .and d c b => some ⟨headOf 0x01 2 d.toNat, 0x20000 + c.toNat * 0x40 + b.toNat⟩
  | .or d c b => some ⟨headOf 0x01 2 d.toNat, 0x30000 + c.toNat * 0x40 + b.toNat⟩
  | .xor d c b => some ⟨headOf 0x01 2 d.toNat, 0x40000 + c.toNat * 0x40 + b.toNat⟩
  | .andn d c b => some ⟨headOf 0x01 2 d.toNat, 0x50000 + c.toNat * 0x40 + b.toNat⟩
  | .orn d c b => some ⟨headOf 0x01 2 d.toNat, 0x60000 + c.toNat * 0x40 + b.toNat⟩
  | .xnor d c b => some ⟨headOf 0x01 2 d.toNat, 0x70000 + c.toNat * 0x40 + b.toNat⟩
  | .sll d c b => some ⟨headOf 0x02 2 d.toNat, c.toNat * 0x40 + b.toNat⟩
  | .srl d c b => some ⟨headOf 0x02 2 d.toNat, 0x10000 + c.toNat * 0x40 + b.toNat⟩
  | .sra d c b => some ⟨headOf 0x02 2 d.toNat, 0x20000 + c.toNat * 0x40 + b.toNat⟩
  | .rol d c b => some ⟨headOf 0x02 2 d.toNat, 0x30000 + c.toNat * 0x40 + b.toNat⟩
  | .ror d c b => some ⟨headOf 0x02 2 d.toNat, 0x40000 + c.toNat * 0x40 + b.toNat⟩
  | .slli d sh b => some ⟨headOf 0x02 2 d.toNat, 0x80000 + sh.toNat * 0x40 + b.toNat⟩
  | .srli d sh b => some ⟨headOf 0x02 2 d.toNat, 0x90000 + sh.toNat * 0x40 + b.toNat⟩
  | .srai d sh b => some ⟨headOf 0x02 2 d.toNat, 0xA0000 + sh.toNat * 0x40 + b.toNat⟩
  | .roli d sh b => some ⟨headOf 0x02 2 d.toNat, 0xB0000 + sh.toNat * 0x40 + b.toNat⟩
  | .rori d sh b => some ⟨headOf 0x02 2 d.toNat, 0xC0000 + sh.toNat * 0x40 + b.toNat⟩
  | .mul d c b => some ⟨headOf 0x03 2 d.toNat, c.toNat * 0x40 + b.toNat⟩
  | .mulh d c b => some ⟨headOf 0x03 2 d.toNat, 0x10000 + c.toNat * 0x40 + b.toNat⟩
  | .mulhu d c b => some ⟨headOf 0x03 2 d.toNat, 0x20000 + c.toNat * 0x40 + b.toNat⟩
  | .mulhsu d c b => some ⟨headOf 0x03 2 d.toNat, 0x30000 + c.toNat * 0x40 + b.toNat⟩
  | .div d c b => some ⟨headOf 0x03 2 d.toNat, 0x40000 + c.toNat * 0x40 + b.toNat⟩
  | .divu d c b => some ⟨headOf 0x03 2 d.toNat, 0x50000 + c.toNat * 0x40 + b.toNat⟩
  | .rem d c b => some ⟨headOf 0x03 2 d.toNat, 0x60000 + c.toNat * 0x40 + b.toNat⟩
  | .remu d c b => some ⟨headOf 0x03 2 d.toNat, 0x70000 + c.toNat * 0x40 + b.toNat⟩
  | .addi d imm b => some ⟨headOf 0x04 2 d.toNat, imm.toNat * 0x40 + b.toNat⟩
  | .addiLong d imm b => some ⟨headOf 0x04 4 d.toNat, imm.toNat * 0x40 + b.toNat⟩
  | .andi d imm b => some ⟨headOf 0x05 2 d.toNat, imm.toNat * 0x100 + b.toNat⟩
  | .andiLong d imm b => some ⟨headOf 0x05 4 d.toNat, imm.toNat * 0x100 + b.toNat⟩
  | .ori d imm b => some ⟨headOf 0x05 2 d.toNat, imm.toNat * 0x100 + 0x40 + b.toNat⟩
  | .oriLong d imm b => some ⟨headOf 0x05 4 d.toNat, imm.toNat * 0x100 + 0x40 + b.toNat⟩
  | .xori d imm b => some ⟨headOf 0x05 2 d.toNat, imm.toNat * 0x100 + 0x80 + b.toNat⟩
  | .xoriLong d imm b => some ⟨headOf 0x05 4 d.toNat, imm.toNat * 0x100 + 0x80 + b.toNat⟩
  | .li d imm => some ⟨headOf 0x06 1 d.toNat, imm.toNat⟩
  | .li32 d imm => some ⟨headOf 0x06 2 d.toNat, imm.toNat⟩
  | .li64 d imm => some ⟨headOf 0x06 4 d.toNat, imm.toNat⟩
  | .slt d c b => some ⟨headOf 0x07 2 d.toNat, c.toNat * 0x40 + b.toNat⟩
  | .sltu d c b => some ⟨headOf 0x07 2 d.toNat, 0x10000 + c.toNat * 0x40 + b.toNat⟩
  | .seq d c b => some ⟨headOf 0x07 2 d.toNat, 0x20000 + c.toNat * 0x40 + b.toNat⟩
  | .sne d c b => some ⟨headOf 0x07 2 d.toNat, 0x30000 + c.toNat * 0x40 + b.toNat⟩
  | .slti d imm b => some ⟨headOf 0x08 2 d.toNat, imm.toNat * 0x100 + b.toNat⟩
  | .sltiLong d imm b => some ⟨headOf 0x08 4 d.toNat, imm.toNat * 0x100 + b.toNat⟩
  | .sltiu d imm b => some ⟨headOf 0x08 2 d.toNat, imm.toNat * 0x100 + 0x40 + b.toNat⟩
  | .sltiuLong d imm b => some ⟨headOf 0x08 4 d.toNat, imm.toNat * 0x100 + 0x40 + b.toNat⟩
  | .seqi d imm b => some ⟨headOf 0x08 2 d.toNat, imm.toNat * 0x100 + 0x80 + b.toNat⟩
  | .seqiLong d imm b => some ⟨headOf 0x08 4 d.toNat, imm.toNat * 0x100 + 0x80 + b.toNat⟩
  | .snei d imm b => some ⟨headOf 0x08 2 d.toNat, imm.toNat * 0x100 + 0xC0 + b.toNat⟩
  | .sneiLong d imm b => some ⟨headOf 0x08 4 d.toNat, imm.toNat * 0x100 + 0xC0 + b.toNat⟩
  | .sel d f t k => some ⟨headOf 0x09 2 d.toNat, f.toNat * 0x1000 + t.toNat * 0x40 + k.toNat⟩
  | .min d c b => some ⟨headOf 0x0A 2 d.toNat, c.toNat * 0x40 + b.toNat⟩
  | .max d c b => some ⟨headOf 0x0A 2 d.toNat, 0x10000 + c.toNat * 0x40 + b.toNat⟩
  | .minu d c b => some ⟨headOf 0x0A 2 d.toNat, 0x20000 + c.toNat * 0x40 + b.toNat⟩
  | .maxu d c b => some ⟨headOf 0x0A 2 d.toNat, 0x30000 + c.toNat * 0x40 + b.toNat⟩
  | .clz d b => some ⟨headOf 0x0B 1 d.toNat, b.toNat⟩
  | .ctz d b => some ⟨headOf 0x0B 1 d.toNat, 0x40 + b.toNat⟩
  | .popc d b => some ⟨headOf 0x0B 1 d.toNat, 0x80 + b.toNat⟩
  | .bfxs d wm pos b => some ⟨headOf 0x0C 2 d.toNat, wm.toNat * 0x1000 + pos.toNat * 0x40 + b.toNat⟩
  | .bfxu d wm pos b => some ⟨headOf 0x0C 2 d.toNat, 0x40000 + wm.toNat * 0x1000 + pos.toNat * 0x40 + b.toNat⟩
  | .bfi d wm pos b => some ⟨headOf 0x0D 2 d.toNat, wm.toNat * 0x1000 + pos.toNat * 0x40 + b.toNat⟩
  | .bswapH d b => some ⟨headOf 0x0E 1 d.toNat, b.toNat⟩
  | .bswapW d b => some ⟨headOf 0x0E 1 d.toNat, 0x40 + b.toNat⟩
  | .bswapD d b => some ⟨headOf 0x0E 1 d.toNat, 0x80 + b.toNat⟩
  | .adr d off => some ⟨headOf 0x0F 2 d.toNat, off.toNat⟩
  | .adrLong d off => some ⟨headOf 0x0F 4 d.toNat, off.toNat⟩
  | .fadd d dp c b => some ⟨headOf 0x18 2 d.toNat, dp.toNat * 0x10000 + c.toNat * 0x40 + b.toNat⟩
  | .fsub d dp c b => some ⟨headOf 0x18 2 d.toNat, dp.toNat * 0x10000 + 0x1000 + c.toNat * 0x40 + b.toNat⟩
  | .fmul d dp c b => some ⟨headOf 0x18 2 d.toNat, dp.toNat * 0x10000 + 0x2000 + c.toNat * 0x40 + b.toNat⟩
  | .fdiv d dp c b => some ⟨headOf 0x18 2 d.toNat, dp.toNat * 0x10000 + 0x3000 + c.toNat * 0x40 + b.toNat⟩
  | .fmin d dp c b => some ⟨headOf 0x18 2 d.toNat, dp.toNat * 0x10000 + 0x4000 + c.toNat * 0x40 + b.toNat⟩
  | .fmax d dp c b => some ⟨headOf 0x18 2 d.toNat, dp.toNat * 0x10000 + 0x5000 + c.toNat * 0x40 + b.toNat⟩
  | .fmadd d dp a c b => some ⟨headOf 0x19 2 d.toNat, dp.toNat * 0x100000 + a.toNat * 0x1000 + c.toNat * 0x40 + b.toNat⟩
  | .fmsub d dp a c b => some ⟨headOf 0x19 2 d.toNat, dp.toNat * 0x100000 + 0x40000 + a.toNat * 0x1000 + c.toNat * 0x40 + b.toNat⟩
  | .fnmadd d dp a c b => some ⟨headOf 0x19 2 d.toNat, dp.toNat * 0x100000 + 0x80000 + a.toNat * 0x1000 + c.toNat * 0x40 + b.toNat⟩
  | .fnmsub d dp a c b => some ⟨headOf 0x19 2 d.toNat, dp.toNat * 0x100000 + 0xC0000 + a.toNat * 0x1000 + c.toNat * 0x40 + b.toNat⟩
  | .fsqrt d dp b => some ⟨headOf 0x1A 1 d.toNat, dp.toNat * 0x80 + b.toNat⟩
  | .fclass d dp b => some ⟨headOf 0x1A 1 d.toNat, dp.toNat * 0x80 + 0x40 + b.toNat⟩
  | .feq d dp c b => some ⟨headOf 0x1B 2 d.toNat, dp.toNat * 0x4000 + c.toNat * 0x40 + b.toNat⟩
  | .flt d dp c b => some ⟨headOf 0x1B 2 d.toNat, dp.toNat * 0x4000 + 0x1000 + c.toNat * 0x40 + b.toNat⟩
  | .fle d dp c b => some ⟨headOf 0x1B 2 d.toNat, dp.toNat * 0x4000 + 0x2000 + c.toNat * 0x40 + b.toNat⟩
  | .fcvt d tz toF fromF b => some ⟨headOf 0x1C 2 d.toNat, tz.toNat * 0x4000 + toF.toNat * 0x400 + fromF.toNat * 0x40 + b.toNat⟩
  | .bc a t cond b => some ⟨headOf 0x20 2 a.toNat, t.toNat * 0x10000 + cond.toNat * 0x40 + b.toNat⟩
  | .bcLong a t cond b => some ⟨headOf 0x20 3 a.toNat, t.toNat * 0x10000 + cond.toNat * 0x40 + b.toNat⟩
  | .j t => some ⟨headOf 0x21 1 0, t.toNat⟩
  | .jLong t => some ⟨headOf 0x21 2 0, t.toNat⟩
  | .call t => some ⟨headOf 0x22 1 0, t.toNat⟩
  | .callLong t => some ⟨headOf 0x22 2 0, t.toNat⟩
  | .jr b => some ⟨headOf 0x23 1 0, b.toNat⟩
  | .callr b => some ⟨headOf 0x23 1 0, 0x40 + b.toNat⟩
  | .ret => some ⟨headOf 0x24 0 0, 0⟩
  | .loop c t => some ⟨headOf 0x25 2 c.toNat, t.toNat * 0x10000⟩
  | .trap imm => some ⟨headOf 0x28 1 0, imm.toNat⟩
  | .eret => some ⟨headOf 0x28 1 0, 0x4000⟩
  | .ulret => some ⟨headOf 0x28 1 0, 0x8000⟩
  | .hret => some ⟨headOf 0x28 1 0, 0xC000⟩
  | .crr d num => some ⟨headOf 0x29 2 d.toNat, num.toNat * 0x40⟩
  | .crw d num b => some ⟨headOf 0x29 2 d.toNat, 0x40000 + num.toNat * 0x40 + b.toNat⟩
  | .crs d num b => some ⟨headOf 0x29 2 d.toNat, 0x80000 + num.toNat * 0x40 + b.toNat⟩
  | .crc d num b => some ⟨headOf 0x29 2 d.toNat, 0xC0000 + num.toNat * 0x40 + b.toNat⟩
  | .fence qual => some ⟨headOf 0x2A 1 0, qual.toNat⟩
  | .fenceI => some ⟨headOf 0x2A 1 0, 0x100⟩
  | .pause => some ⟨headOf 0x2A 1 0, 0x200⟩
  | .sleep b => some ⟨headOf 0x2A 1 b.toNat, 0x300⟩
  | .tlbiVa scope b => some ⟨headOf 0x2B 1 0, scope.toNat * 0x800 + b.toNat⟩
  | .tlbiAll scope => some ⟨headOf 0x2B 1 0, 0x4000 + scope.toNat * 0x800⟩
  | .tlbiRng scope c b => some ⟨headOf 0x2B 2 0, scope.toNat * 0x4000 + c.toNat * 0x40 + b.toNat⟩
  | .spawn d b => some ⟨headOf 0x2C 1 d.toNat, b.toNat⟩
  | .taskend => some ⟨headOf 0x2C 1 0, 0x40⟩
  | .enq h mc s b => some ⟨headOf 0x2C 2 h.toNat, mc.toNat * 0x40000 + s.toNat * 0x40 + b.toNat⟩
  | .launchg s mc p g => some ⟨headOf 0x2D 2 s.toNat, mc.toNat * 0x8000 + p.toNat * 0x40 + g.toNat⟩
  | .msg lenm slot mc s t => some ⟨headOf 0x2E 4 0, lenm.toNat * 0x1000000 + slot.toNat * 0x100000 + mc.toNat * 0x20000 + s.toNat * 0x40 + t.toNat⟩
  | .waitc d mc c b => some ⟨headOf 0x2E 2 d.toNat, 0x10000 + mc.toNat * 0x1000 + c.toNat * 0x40 + b.toNat⟩
  | .hctlHold => some ⟨headOf 0x2F 1 0, 0⟩
  | .hctlGo => some ⟨headOf 0x2F 1 0, 0x40⟩
  | .hctlSt d => some ⟨headOf 0x2F 1 d.toNat, 0x80⟩
  | .vadd d s t pred c b => some ⟨headOf 0x30 2 d.toNat, s.toNat * 0x8000000 + t.toNat * 0x4000 + pred.toNat * 0x800 + c.toNat * 0x20 + b.toNat⟩
  | .vsub d s t pred c b => some ⟨headOf 0x30 2 d.toNat, s.toNat * 0x8000000 + 0x40000 + t.toNat * 0x4000 + pred.toNat * 0x800 + c.toNat * 0x20 + b.toNat⟩
  | .vmul d s t pred c b => some ⟨headOf 0x30 2 d.toNat, s.toNat * 0x8000000 + 0x80000 + t.toNat * 0x4000 + pred.toNat * 0x800 + c.toNat * 0x20 + b.toNat⟩
  | .vmin d s t pred c b => some ⟨headOf 0x30 2 d.toNat, s.toNat * 0x8000000 + 0xC0000 + t.toNat * 0x4000 + pred.toNat * 0x800 + c.toNat * 0x20 + b.toNat⟩
  | .vmax d s t pred c b => some ⟨headOf 0x30 2 d.toNat, s.toNat * 0x8000000 + 0x100000 + t.toNat * 0x4000 + pred.toNat * 0x800 + c.toNat * 0x20 + b.toNat⟩
  | .vand d s t pred c b => some ⟨headOf 0x30 2 d.toNat, s.toNat * 0x8000000 + 0x140000 + t.toNat * 0x4000 + pred.toNat * 0x800 + c.toNat * 0x20 + b.toNat⟩
  | .vor d s t pred c b => some ⟨headOf 0x30 2 d.toNat, s.toNat * 0x8000000 + 0x180000 + t.toNat * 0x4000 + pred.toNat * 0x800 + c.toNat * 0x20 + b.toNat⟩
  | .vxor d s t pred c b => some ⟨headOf 0x30 2 d.toNat, s.toNat * 0x8000000 + 0x1C0000 + t.toNat * 0x4000 + pred.toNat * 0x800 + c.toNat * 0x20 + b.toNat⟩
  | .vsll d s t pred c b => some ⟨headOf 0x30 2 d.toNat, s.toNat * 0x8000000 + 0x200000 + t.toNat * 0x4000 + pred.toNat * 0x800 + c.toNat * 0x20 + b.toNat⟩
  | .vsrl d s t pred c b => some ⟨headOf 0x30 2 d.toNat, s.toNat * 0x8000000 + 0x240000 + t.toNat * 0x4000 + pred.toNat * 0x800 + c.toNat * 0x20 + b.toNat⟩
  | .vsra d s t pred c b => some ⟨headOf 0x30 2 d.toNat, s.toNat * 0x8000000 + 0x280000 + t.toNat * 0x4000 + pred.toNat * 0x800 + c.toNat * 0x20 + b.toNat⟩
  | .vabs d t pred b => some ⟨headOf 0x30 2 d.toNat, 0x2C0000 + t.toNat * 0x4000 + pred.toNat * 0x800 + b.toNat⟩
  | .vfadd d s t pred c b => some ⟨headOf 0x31 2 d.toNat, s.toNat * 0x8000000 + t.toNat * 0x4000 + pred.toNat * 0x800 + c.toNat * 0x20 + b.toNat⟩
  | .vfsub d s t pred c b => some ⟨headOf 0x31 2 d.toNat, s.toNat * 0x8000000 + 0x40000 + t.toNat * 0x4000 + pred.toNat * 0x800 + c.toNat * 0x20 + b.toNat⟩
  | .vfmul d s t pred c b => some ⟨headOf 0x31 2 d.toNat, s.toNat * 0x8000000 + 0x80000 + t.toNat * 0x4000 + pred.toNat * 0x800 + c.toNat * 0x20 + b.toNat⟩
  | .vfdiv d s t pred c b => some ⟨headOf 0x31 2 d.toNat, s.toNat * 0x8000000 + 0xC0000 + t.toNat * 0x4000 + pred.toNat * 0x800 + c.toNat * 0x20 + b.toNat⟩
  | .vfmin d s t pred c b => some ⟨headOf 0x31 2 d.toNat, s.toNat * 0x8000000 + 0x100000 + t.toNat * 0x4000 + pred.toNat * 0x800 + c.toNat * 0x20 + b.toNat⟩
  | .vfmax d s t pred c b => some ⟨headOf 0x31 2 d.toNat, s.toNat * 0x8000000 + 0x140000 + t.toNat * 0x4000 + pred.toNat * 0x800 + c.toNat * 0x20 + b.toNat⟩
  | .vfabs d t pred b => some ⟨headOf 0x31 2 d.toNat, 0x180000 + t.toNat * 0x4000 + pred.toNat * 0x800 + b.toNat⟩
  | .vfneg d t pred b => some ⟨headOf 0x31 2 d.toNat, 0x1C0000 + t.toNat * 0x4000 + pred.toNat * 0x800 + b.toNat⟩
  | .vfma d s a t pred c b => some ⟨headOf 0x32 2 d.toNat, s.toNat * 0x8000000 + a.toNat * 0x400000 + t.toNat * 0x4000 + pred.toNat * 0x800 + c.toNat * 0x20 + b.toNat⟩
  | .vfms d s a t pred c b => some ⟨headOf 0x32 2 d.toNat, s.toNat * 0x8000000 + a.toNat * 0x400000 + 0x40000 + t.toNat * 0x4000 + pred.toNat * 0x800 + c.toNat * 0x20 + b.toNat⟩
  | .vfnma d s a t pred c b => some ⟨headOf 0x32 2 d.toNat, s.toNat * 0x8000000 + a.toNat * 0x400000 + 0x80000 + t.toNat * 0x4000 + pred.toNat * 0x800 + c.toNat * 0x20 + b.toNat⟩
  | .vfnms d s a t pred c b => some ⟨headOf 0x32 2 d.toNat, s.toNat * 0x8000000 + a.toNat * 0x400000 + 0xC0000 + t.toNat * 0x4000 + pred.toNat * 0x800 + c.toNat * 0x20 + b.toNat⟩
  | .vcmp d s cond t pred c b => some ⟨headOf 0x33 2 d.toNat, s.toNat * 0x8000000 + cond.toNat * 0x40000 + t.toNat * 0x4000 + pred.toNat * 0x800 + c.toNat * 0x20 + b.toNat⟩
  | .vsel d s t pred c b => some ⟨headOf 0x34 2 d.toNat, s.toNat * 0x8000000 + t.toNat * 0x4000 + pred.toNat * 0x800 + c.toNat * 0x20 + b.toNat⟩
  | .vperm d s t pred c b => some ⟨headOf 0x35 2 d.toNat, s.toNat * 0x8000000 + t.toNat * 0x4000 + pred.toNat * 0x800 + c.toNat * 0x20 + b.toNat⟩
  | .vperm2 d s a t pred c b => some ⟨headOf 0x35 2 d.toNat, s.toNat * 0x8000000 + a.toNat * 0x400000 + 0x40000 + t.toNat * 0x4000 + pred.toNat * 0x800 + c.toNat * 0x20 + b.toNat⟩
  | .vrev d t pred b => some ⟨headOf 0x36 2 d.toNat, t.toNat * 0x4000 + pred.toNat * 0x800 + b.toNat⟩
  | .vrot d s t pred c b => some ⟨headOf 0x36 2 d.toNat, s.toNat * 0x8000000 + 0x40000 + t.toNat * 0x4000 + pred.toNat * 0x800 + c.toNat * 0x20 + b.toNat⟩
  | .vslide d s a t pred c b => some ⟨headOf 0x36 2 d.toNat, s.toNat * 0x8000000 + a.toNat * 0x400000 + 0x80000 + t.toNat * 0x4000 + pred.toNat * 0x800 + c.toNat * 0x20 + b.toNat⟩
  | .vbcast d pred t x => some ⟨headOf 0x37 1 d.toNat, pred.toNat * 0x400 + t.toNat * 0x40 + x.toNat⟩
  | .vbcastElement d t pred idx b => some ⟨headOf 0x37 2 d.toNat, t.toNat * 0x4000 + pred.toNat * 0x800 + idx.toNat * 0x20 + b.toNat⟩
  | .vindex d pred t x => some ⟨headOf 0x3C 1 d.toNat, pred.toNat * 0x400 + t.toNat * 0x40 + x.toNat⟩
  | .vliW d imm => some ⟨headOf 0x43 2 d.toNat, imm.toNat⟩
  | .vliD d imm => some ⟨headOf 0x43 4 d.toNat, imm.toNat⟩
  | .vliQ d imm => some ⟨headOf 0x43 6 d.toNat, imm.toNat⟩
  | .vmovx d t idx b => some ⟨headOf 0x42 2 d.toNat, t.toNat * 0x1000 + idx.toNat * 0x40 + b.toNat⟩
  | .vmovv d t idx x => some ⟨headOf 0x42 2 d.toNat, 0x10000 + t.toNat * 0x1000 + idx.toNat * 0x40 + x.toNat⟩
  | .vred d op t pred b => some ⟨headOf 0x38 2 d.toNat, op.toNat * 0x40000 + t.toNat * 0x4000 + pred.toNat * 0x800 + b.toNat⟩
  | .vscan d op t pred b => some ⟨headOf 0x39 2 d.toNat, op.toNat * 0x40000 + t.toNat * 0x4000 + pred.toNat * 0x800 + b.toNat⟩
  | .vscanx d op t pred b => some ⟨headOf 0x39 2 d.toNat, 0x100000 + op.toNat * 0x40000 + t.toNat * 0x4000 + pred.toNat * 0x800 + b.toNat⟩
  | .vcompress d t pred b => some ⟨headOf 0x3B 2 d.toNat, t.toNat * 0x4000 + pred.toNat * 0x800 + b.toNat⟩
  | .vexpand d t pred b => some ⟨headOf 0x3B 2 d.toNat, 0x40000 + t.toNat * 0x4000 + pred.toNat * 0x800 + b.toNat⟩
  | .vtopk d nz m t pred pd xb xk vi b => some ⟨headOf 0x3A 2 d.toNat, nz.toNat * 0x40000000 + m.toNat * 0x20000000 + t.toNat * 0x10000000 + pred.toNat * 0x2000000 + pd.toNat * 0x400000 + xb.toNat * 0x10000 + xk.toNat * 0x400 + vi.toNat * 0x20 + b.toNat⟩
  | .vcvt d er ef rz part pred toF fromF b => some ⟨headOf 0x3D 2 d.toNat, er.toNat * 0x400000 + ef.toNat * 0x200000 + rz.toNat * 0x100000 + part.toNat * 0x10000 + pred.toNat * 0x2000 + toF.toNat * 0x200 + fromF.toNat * 0x20 + b.toNat⟩
  | .venc d er ef part pred toF fromF b => some ⟨headOf 0x3E 2 d.toNat, er.toNat * 0x400000 + ef.toNat * 0x200000 + part.toNat * 0x10000 + pred.toNat * 0x2000 + toF.toNat * 0x200 + fromF.toNat * 0x20 + b.toNat⟩
  | .vdec d part pred toF fromF b => some ⟨headOf 0x3E 2 d.toNat, 0x2000000 + part.toNat * 0x10000 + pred.toNat * 0x2000 + toF.toNat * 0x200 + fromF.toNat * 0x20 + b.toNat⟩
  | .vrcpe d t pred b => some ⟨headOf 0x3F 2 d.toNat, t.toNat * 0x4000 + pred.toNat * 0x800 + b.toNat⟩
  | .vrsqe d t pred b => some ⟨headOf 0x3F 2 d.toNat, 0x40000 + t.toNat * 0x4000 + pred.toNat * 0x800 + b.toNat⟩
  | .vexpe d t pred b => some ⟨headOf 0x3F 2 d.toNat, 0x80000 + t.toNat * 0x4000 + pred.toNat * 0x800 + b.toNat⟩
  | .pand d pb pa => some ⟨headOf 0x40 1 d.toNat, pb.toNat * 0x8 + pa.toNat⟩
  | .por d pb pa => some ⟨headOf 0x40 1 d.toNat, 0x40 + pb.toNat * 0x8 + pa.toNat⟩
  | .pxor d pb pa => some ⟨headOf 0x40 1 d.toNat, 0x80 + pb.toNat * 0x8 + pa.toNat⟩
  | .pnot d pa => some ⟨headOf 0x40 1 d.toNat, 0xC0 + pa.toNat⟩
  | .pmovToPredicate d x => some ⟨headOf 0x40 1 d.toNat, 0x100 + x.toNat⟩
  | .pmovToScalar d pa => some ⟨headOf 0x40 1 d.toNat, 0x140 + pa.toNat⟩
  | .pcnt d pm pa => some ⟨headOf 0x41 1 d.toNat, pm.toNat * 0x8 + pa.toNat⟩
  | .pfirst d pm pa => some ⟨headOf 0x41 1 d.toNat, 0x40 + pm.toNat * 0x8 + pa.toNat⟩
  | .ldB d off b qual => some ⟨headOf 0x50 2 d.toNat, off.toNat * 0x20000 + b.toNat * 0x100 + qual.toNat⟩
  | .ldBLong d p off b qual => some ⟨headOf 0x50 4 d.toNat, p.toNat * 0x8000000000000000 + off.toNat * 0x20000 + b.toNat * 0x100 + qual.toNat⟩
  | .ldBu d off b qual => some ⟨headOf 0x50 2 d.toNat, off.toNat * 0x20000 + 0x4000 + b.toNat * 0x100 + qual.toNat⟩
  | .ldBuLong d p off b qual => some ⟨headOf 0x50 4 d.toNat, p.toNat * 0x8000000000000000 + off.toNat * 0x20000 + 0x4000 + b.toNat * 0x100 + qual.toNat⟩
  | .ldH d off b qual => some ⟨headOf 0x50 2 d.toNat, off.toNat * 0x20000 + 0x8000 + b.toNat * 0x100 + qual.toNat⟩
  | .ldHLong d p off b qual => some ⟨headOf 0x50 4 d.toNat, p.toNat * 0x8000000000000000 + off.toNat * 0x20000 + 0x8000 + b.toNat * 0x100 + qual.toNat⟩
  | .ldHu d off b qual => some ⟨headOf 0x50 2 d.toNat, off.toNat * 0x20000 + 0xC000 + b.toNat * 0x100 + qual.toNat⟩
  | .ldHuLong d p off b qual => some ⟨headOf 0x50 4 d.toNat, p.toNat * 0x8000000000000000 + off.toNat * 0x20000 + 0xC000 + b.toNat * 0x100 + qual.toNat⟩
  | .ldW d off b qual => some ⟨headOf 0x50 2 d.toNat, off.toNat * 0x20000 + 0x10000 + b.toNat * 0x100 + qual.toNat⟩
  | .ldWLong d p off b qual => some ⟨headOf 0x50 4 d.toNat, p.toNat * 0x8000000000000000 + off.toNat * 0x20000 + 0x10000 + b.toNat * 0x100 + qual.toNat⟩
  | .ldWu d off b qual => some ⟨headOf 0x50 2 d.toNat, off.toNat * 0x20000 + 0x14000 + b.toNat * 0x100 + qual.toNat⟩
  | .ldWuLong d p off b qual => some ⟨headOf 0x50 4 d.toNat, p.toNat * 0x8000000000000000 + off.toNat * 0x20000 + 0x14000 + b.toNat * 0x100 + qual.toNat⟩
  | .ldD d off b qual => some ⟨headOf 0x50 2 d.toNat, off.toNat * 0x20000 + 0x18000 + b.toNat * 0x100 + qual.toNat⟩
  | .ldDLong d p off b qual => some ⟨headOf 0x50 4 d.toNat, p.toNat * 0x8000000000000000 + off.toNat * 0x20000 + 0x18000 + b.toNat * 0x100 + qual.toNat⟩
  | .stB src off b qual => some ⟨headOf 0x51 2 src.toNat, off.toNat * 0x20000 + b.toNat * 0x100 + qual.toNat⟩
  | .stBLong src p off b qual => some ⟨headOf 0x51 4 src.toNat, p.toNat * 0x8000000000000000 + off.toNat * 0x20000 + b.toNat * 0x100 + qual.toNat⟩
  | .stH src off b qual => some ⟨headOf 0x51 2 src.toNat, off.toNat * 0x20000 + 0x4000 + b.toNat * 0x100 + qual.toNat⟩
  | .stHLong src p off b qual => some ⟨headOf 0x51 4 src.toNat, p.toNat * 0x8000000000000000 + off.toNat * 0x20000 + 0x4000 + b.toNat * 0x100 + qual.toNat⟩
  | .stW src off b qual => some ⟨headOf 0x51 2 src.toNat, off.toNat * 0x20000 + 0x8000 + b.toNat * 0x100 + qual.toNat⟩
  | .stWLong src p off b qual => some ⟨headOf 0x51 4 src.toNat, p.toNat * 0x8000000000000000 + off.toNat * 0x20000 + 0x8000 + b.toNat * 0x100 + qual.toNat⟩
  | .stD src off b qual => some ⟨headOf 0x51 2 src.toNat, off.toNat * 0x20000 + 0xC000 + b.toNat * 0x100 + qual.toNat⟩
  | .stDLong src p off b qual => some ⟨headOf 0x51 4 src.toNat, p.toNat * 0x8000000000000000 + off.toNat * 0x20000 + 0xC000 + b.toNat * 0x100 + qual.toNat⟩
  | .vld d c s pred t b qual => some ⟨headOf 0x52 2 d.toNat, c.toNat * 0x400000 + s.toNat * 0x200000 + pred.toNat * 0x40000 + t.toNat * 0x4000 + b.toNat * 0x100 + qual.toNat⟩
  | .vldLong d off c s pred t b qual => some ⟨headOf 0x52 4 d.toNat, off.toNat * 0x100000000 + c.toNat * 0x400000 + s.toNat * 0x200000 + pred.toNat * 0x40000 + t.toNat * 0x4000 + b.toNat * 0x100 + qual.toNat⟩
  | .vst d c s pred t b qual => some ⟨headOf 0x53 2 d.toNat, c.toNat * 0x400000 + s.toNat * 0x200000 + pred.toNat * 0x40000 + t.toNat * 0x4000 + b.toNat * 0x100 + qual.toNat⟩
  | .vstLong d off c s pred t b qual => some ⟨headOf 0x53 4 d.toNat, off.toNat * 0x100000000 + c.toNat * 0x400000 + s.toNat * 0x200000 + pred.toNat * 0x40000 + t.toNat * 0x4000 + b.toNat * 0x100 + qual.toNat⟩
  | .ldf d off b qual => some ⟨headOf 0x54 2 d.toNat, off.toNat * 0x10000 + b.toNat * 0x100 + qual.toNat⟩
  | .ldfC d off b qual => some ⟨headOf 0x54 2 d.toNat, off.toNat * 0x10000 + 0x4000 + b.toNat * 0x100 + qual.toNat⟩
  | .ste src off b qual => some ⟨headOf 0x54 2 src.toNat, off.toNat * 0x10000 + 0x8000 + b.toNat * 0x100 + qual.toNat⟩
  | .clre off b qual => some ⟨headOf 0x54 2 0, off.toNat * 0x10000 + 0xC000 + b.toNat * 0x100 + qual.toNat⟩
  | .pref off b qual => some ⟨headOf 0x55 2 0, off.toNat * 0x10000 + b.toNat * 0x100 + qual.toNat⟩
  | .clean off b qual => some ⟨headOf 0x55 2 0, off.toNat * 0x10000 + 0x4000 + b.toNat * 0x100 + qual.toNat⟩
  | .flush off b qual => some ⟨headOf 0x55 2 0, off.toNat * 0x10000 + 0x8000 + b.toNat * 0x100 + qual.toNat⟩
  | .strm d slot b => some ⟨headOf 0x56 2 d.toNat, slot.toNat * 0x10000 + b.toNat * 0x100⟩
  | .strmoff slot => some ⟨headOf 0x56 2 0, slot.toNat * 0x10000 + 0x4000⟩
  | .qrd d w v q => some ⟨headOf 0x57 1 d.toNat, w.toNat * 0x1000 + v.toNat * 0x800 + q.toNat⟩
  | .qwr d w v q => some ⟨headOf 0x57 1 d.toNat, 0x4000 + w.toNat * 0x1000 + v.toNat * 0x800 + q.toNat⟩
  | .qcfg q b => some ⟨headOf 0x57 2 0, q.toNat * 0x40 + b.toNat⟩
  | .copy b qdv qd qsv qs => some ⟨headOf 0x59 2 b.toNat, qdv.toNat * 0x80 + qd.toNat * 0x10 + qsv.toNat * 0x8 + qs.toNat⟩
  | .gather b qdv qd => some ⟨headOf 0x58 2 b.toNat, qdv.toNat * 0x80 + qd.toNat * 0x10⟩
  | .copyl b => some ⟨headOf 0x5A 2 b.toNat, 0⟩
  | .copyw b => some ⟨headOf 0x5B 1 0, b.toNat⟩
  | .copywAll => some ⟨headOf 0x5B 1 0, 0x40⟩
  | .puts b bell => some ⟨headOf 0x5C 2 b.toNat, bell.toNat⟩
  | .barr bell => some ⟨headOf 0x60 1 0, bell.toNat⟩
  | .bwait d c bell => some ⟨headOf 0x60 2 d.toNat, c.toNat * 0x40 + 0x4 + bell.toNat⟩
  | .rollw d bell b => some ⟨headOf 0x61 1 d.toNat, bell.toNat * 0x40 + b.toNat⟩
  | .phase bell => some ⟨headOf 0x67 1 0, bell.toNat⟩
  | .amoSwap d w c b qual => some ⟨headOf 0x62 2 d.toNat, w.toNat * 0x20000000 + c.toNat * 0x4000 + b.toNat * 0x100 + qual.toNat⟩
  | .amoCas d w n c b qual => some ⟨headOf 0x62 2 d.toNat, 0x40000000 + w.toNat * 0x20000000 + n.toNat * 0x100000 + c.toNat * 0x4000 + b.toNat * 0x100 + qual.toNat⟩
  | .amoFadd d w c b qual => some ⟨headOf 0x62 2 d.toNat, 0x80000000 + w.toNat * 0x20000000 + c.toNat * 0x4000 + b.toNat * 0x100 + qual.toNat⟩
  | .regionSet d idx b => some ⟨headOf 0x66 2 d.toNat, idx.toNat * 0x40 + b.toNat⟩
  | .regionOff d idx b => some ⟨headOf 0x66 2 d.toNat, 0x10000 + idx.toNat * 0x40 + b.toNat⟩
  | .regionRd d idx b => some ⟨headOf 0x66 2 d.toNat, 0x20000 + idx.toNat * 0x40 + b.toNat⟩
  | .regionRdc d idx b => some ⟨headOf 0x66 2 d.toNat, 0x30000 + idx.toNat * 0x40 + b.toNat⟩
  | .upd src off b qual => some ⟨headOf 0x63 2 src.toNat, off.toNat * 0x4000 + b.toNat * 0x100 + qual.toNat⟩
  | .updLong src off b qual => some ⟨headOf 0x63 4 src.toNat, off.toNat * 0x4000 + b.toNat * 0x100 + qual.toNat⟩
  | .updv src t pred vi b qual => some ⟨headOf 0x64 2 src.toNat, t.toNat * 0x400000 + pred.toNat * 0x80000 + vi.toNat * 0x4000 + b.toNat * 0x100 + qual.toNat⟩
  | .uflush c b => some ⟨headOf 0x65 2 0, c.toNat * 0x40 + b.toNat⟩
  | .tload r tn sp b qual => some ⟨headOf 0x68 2 0, r.toNat * 0x20000000 + tn.toNat * 0x4000000 + sp.toNat * 0x100000 + b.toNat * 0x100 + qual.toNat⟩
  | .tloadLong off r tn sp b qual => some ⟨headOf 0x68 4 0, off.toNat * 0x100000000 + r.toNat * 0x20000000 + tn.toNat * 0x4000000 + sp.toNat * 0x100000 + b.toNat * 0x100 + qual.toNat⟩
  | .tstore tn sp b qual => some ⟨headOf 0x68 2 0, 0x40000000 + tn.toNat * 0x4000000 + sp.toNat * 0x100000 + b.toNat * 0x100 + qual.toNat⟩
  | .tstoreLong off tn sp b qual => some ⟨headOf 0x68 4 0, off.toNat * 0x100000000 + 0x40000000 + tn.toNat * 0x4000000 + sp.toNat * 0x100000 + b.toNat * 0x100 + qual.toNat⟩
  | .tzero form tn =>
    some ⟨headOf 0x68 (2 + 2 * form.long.toNat) 0, 0x80000000 + form.r.toNat * 0x20000000 + tn.toNat * 0x4000000⟩
  | .tmma c cp z tb ta => some ⟨headOf 0x69 2 c.toNat, cp.toNat * 0x4000000 + z.toNat * 0x200000 + tb.toNat * 0x8 + ta.toNat⟩
  | .tmmaP c cp ce cmc z k a p => some ⟨headOf 0x69 2 c.toNat, 0x40000000 + cp.toNat * 0x4000000 + ce.toNat * 0x2000000 + cmc.toNat * 0x400000 + z.toNat * 0x200000 + k.toNat * 0x1000 + a.toNat * 0x40 + p.toNat⟩
  | .tmmaG c cp ce cmc z k a p => some ⟨headOf 0x69 2 c.toNat, 0x80000000 + cp.toNat * 0x4000000 + ce.toNat * 0x2000000 + cmc.toNat * 0x400000 + z.toNat * 0x200000 + k.toNat * 0x1000 + a.toNat * 0x40 + p.toNat⟩
  | .pload ce cmc n b => some ⟨headOf 0x6A 2 0, ce.toNat * 0x2000000 + cmc.toNat * 0x400000 + n.toNat * 0x40 + b.toNat⟩
  | .pswap => some ⟨headOf 0x6A 2 0, 0x10000⟩
  | .gbind gn => some ⟨headOf 0x6B 1 0, gn.toNat⟩
  | .gunbind gn => some ⟨headOf 0x6B 1 0, 0x40 + gn.toNat⟩
  | .tdrain d cp nr hz nh h c dp => some ⟨headOf 0x6C 2 d.toNat, cp.toNat * 0x10000000 + nr.toNat * 0x1000000 + hz.toNat * 0x800000 + nh.toNat * 0x400000 + h.toNat * 0x1000 + c.toNat * 0x40 + dp.toNat⟩
  | .tdrainImm d pitch cp nr hz nh h c => some ⟨headOf 0x6C 4 d.toNat, pitch.toNat * 0x100000000 + cp.toNat * 0x10000000 + nr.toNat * 0x1000000 + hz.toNat * 0x800000 + nh.toNat * 0x400000 + h.toNat * 0x1000 + c.toNat * 0x40⟩
  | .tblld slot id b => some ⟨headOf 0x6D 2 0, slot.toNat * 0x4000 + id.toNat * 0x40 + b.toNat⟩
  | .quiz => some ⟨headOf 0x6D 2 0, 0x10000⟩
  | .treemul d b a => some ⟨headOf 0x6E 2 d.toNat, b.toNat * 0x40 + a.toNat⟩
  | .treeadd d b a => some ⟨headOf 0x6E 2 d.toNat, 0x40000000 + b.toNat * 0x40 + a.toNat⟩
  | .tconv d a => some ⟨headOf 0x6E 2 d.toNat, 0x80000000 + a.toNat⟩
  | .tresume => some ⟨headOf 0x6E 2 0, 0xC0000000⟩
  | .contract b => some ⟨headOf 0x6F 2 0, b.toNat⟩
  | .tryPush a m n => some ⟨headOf 0x70 2 a.toNat, m.toNat * 0x40 + n.toNat⟩
  | .fail => some ⟨headOf 0x70 1 0, 0x4000⟩
  | .cut b => some ⟨headOf 0x70 1 0, 0x8000 + b.toNat⟩
  | .mark d => some ⟨headOf 0x70 1 d.toNat, 0xC000⟩
  | .sttB src off b qual => some ⟨headOf 0x71 2 src.toNat, off.toNat * 0x20000 + b.toNat * 0x100 + qual.toNat⟩
  | .sttBLong src off b qual => some ⟨headOf 0x71 4 src.toNat, off.toNat * 0x20000 + b.toNat * 0x100 + qual.toNat⟩
  | .sttH src off b qual => some ⟨headOf 0x71 2 src.toNat, off.toNat * 0x20000 + 0x4000 + b.toNat * 0x100 + qual.toNat⟩
  | .sttHLong src off b qual => some ⟨headOf 0x71 4 src.toNat, off.toNat * 0x20000 + 0x4000 + b.toNat * 0x100 + qual.toNat⟩
  | .sttW src off b qual => some ⟨headOf 0x71 2 src.toNat, off.toNat * 0x20000 + 0x8000 + b.toNat * 0x100 + qual.toNat⟩
  | .sttWLong src off b qual => some ⟨headOf 0x71 4 src.toNat, off.toNat * 0x20000 + 0x8000 + b.toNat * 0x100 + qual.toNat⟩
  | .sttD src off b qual => some ⟨headOf 0x71 2 src.toNat, off.toNat * 0x20000 + 0xC000 + b.toNat * 0x100 + qual.toNat⟩
  | .sttDLong src off b qual => some ⟨headOf 0x71 4 src.toNat, off.toNat * 0x20000 + 0xC000 + b.toNat * 0x100 + qual.toNat⟩
  | .steal d v => some ⟨headOf 0x72 1 d.toNat, v.toNat⟩
  | .sframe b => some ⟨headOf 0x73 2 0, b.toNat⟩
  | .searchend => some ⟨headOf 0x73 2 0, 0x40⟩
  | .asumm dv dmc b => some ⟨headOf 0x74 2 0, dv.toNat * 0x200 + dmc.toNat * 0x40 + b.toNat⟩
  | .ascreen dv dmc b => some ⟨headOf 0x75 2 0, dv.toNat * 0x200 + dmc.toNat * 0x40 + b.toNat⟩
  | .ascreenLong kimm ko qo sq dv dmc b => some ⟨headOf 0x75 5 0, kimm.toNat * 0x10000000000 + ko.toNat * 0x8000000000 + qo.toNat * 0x4000000000 + sq.toNat * 0x100000000 + dv.toNat * 0x200 + dmc.toNat * 0x40 + b.toNat⟩
  | .xsend d ch x => some ⟨headOf 0x76 2 d.toNat, ch.toNat * 0x1000 + x.toNat * 0x40⟩
  | .xrecv d ch x => some ⟨headOf 0x76 2 d.toNat, 0x10000 + ch.toNat * 0x1000 + x.toNat * 0x40⟩
  | .xctlCon ch b => some ⟨headOf 0x77 1 0, ch.toNat * 0x1000 + b.toNat⟩
  | .xctlDis ch => some ⟨headOf 0x77 1 0, 0x4000 + ch.toNat * 0x1000⟩
  | .xctlSt d ch => some ⟨headOf 0x77 1 d.toNat, 0x8000 + ch.toNat * 0x1000⟩
  | .nop => some ⟨headOf 0x7F 0 0, 0⟩
  | .deviceReset => none
  | .undervoltageReset => none
  | .sensorUpdate _ _ _ => none
  | .thermalTrip => none
  | .smbusReadPower => none
  | .smbusReadTemperatures => none
  | .smbusReadVoltage => none
  | .smbusReadWear => none
  | .smbusReadBootStatus => none
  | .smbusReadClock => none
  | .smbusWritePowerCap _ _ => none
  | .unsupportedPacket _ => none
  | .linkReplay _ => none
  | .loadImage _ _ _ => none
  | .map _ _ _ _ _ => none
  | .copyIn _ _ _ => none
  | .copyOut _ _ _ => none
  | .launch _ _ _ => none
  | .queryIdentity _ _ => none
  | .queryFences _ => none
  | .queryEventCount _ => none
  | .queryPortErrors _ => none
  | .checkpoint _ _ _ => none
  | .restore _ _ _ => none
  | .queueCreate _ _ _ _ _ => none
  | .queueDestroy _ _ => none
  | .queueSwapOut _ _ => none
  | .queueSwapIn _ _ => none
  | .graphCapture _ _ => none
  | .graphStructuralEdit _ _ _ => none
  | .graphParameterEdit _ _ _ => none
  | .events _ _ => none
  | .podJoin _ _ _ _ => none
  | .hallPass _ => none
  | .hallPassRegenerate => none
  | .podTaskTransfer _ => none
  | .fenceMessage _ => none
  | .fenceAcknowledgement _ => none
  | .recoveryStopMessage => none
  | .serviceCoreStart _ => none
  | .hartHalt _ => none
  | .hartRelease _ => none
  | .hartWindowRegisterAccess _ _ _ => none
  | .queueEnable _ _ _ => none
  | .queueDisable _ _ => none
  | .companionStart _ _ _ => none
  | .companionStop _ _ => none
  | .preemptRequest _ _ _ => none
  | .preemptCancel _ _ _ => none
  | .streamSlotDisable _ _ => none
  | .mailboxCounterWrite _ _ _ => none
  | .winmapWrite _ _ => none
  | .tasklimWrite _ _ => none
  | .controlRegisterWrite _ _ _ => none
  | .storeBufferRetire _ _ => none
  | .updateAccepted _ _ => none
  | .gutterSpill _ _ => none
  | .registrarServe _ _ => none
  | .pageWalk _ _ => none
  | .loftWriteBack _ _ => none
  | .decodeAhead _ _ _ => none
  | .decodeAheadPlaceExpiry _ _ => none
  | .patrolScrub _ _ => none
  | .scopeMissHold _ _ => none
  | .scopeMissRunStart _ => none
  | .companionScopeMiss _ => none
  | .scopeMissLift _ => none
  | .drainRunStart _ => none
  | .messageDelivery _ => none
  | .parkWake _ _ => none
  | .interruptTaken _ => none
  | .userCompletionInterrupt _ => none
  | .sleepLimitExpiry _ _ => none
  | .pauseExpiry _ _ => none
  | .waitcTimeout _ _ => none
  | .bwaitTimeout _ => none
  | .engineCommandStart _ _ => none
  | .chunkRetirement _ => none
  | .matrixCommandComplete _ => none
  | .operandsConsumedEvent _ => none
  | .transferComplete _ _ => none
  | .copylRequest _ => none
  | .streamRefill _ _ => none
  | .quizProduct _ _ => none
  | .tableInstall _ => none
  | .gangBindComplete _ => none
  | .gangUnbindComplete _ => none
  | .gangTmmaStart _ => none
  | .thatcherStart _ => none
  | .thatcherStep _ => none
  | .treeComplete _ => none
  | .screenerRequest _ => none
  | .theftServe _ => none
  | .searchCancellation _ => none
  | .searchCompletionMessage _ => none
  | .channelChunkArrival _ => none
  | .taskDispatch _ => none
  | .taskRetirement _ => none
  | .ageLimitExpiry _ _ => none
  | .taskLimitExpiry _ => none
  | .enqArrival _ => none
  | .enqReply _ => none
  | .launchgArrival _ => none
  | .stealProbe _ => none
  | .stealProbeAnswer _ => none
  | .stolenTaskArrival _ => none
  | .barrierArrivalSignal _ => none
  | .barrierRelease _ _ => none
  | .regionTableUpdate _ => none
  | .coreFence _ => none
  | .clusterFence _ => none
  | .dieFailure _ => none
  | .wearUpdate _ _ => none
  | .serviceInterrupt _ _ => none
  | .endpointEstablished _ => none
  | .checkpointComplete => none
  | .restoreComplete => none

/-- Opcode 0x01 with tail-size code 2: ADD, SUB, AND, OR, XOR, ANDN, ORN, XNOR. -/
noncomputable def candidate01_2 (e : Enc) : Option Instr :=
  if e.f 16 4 = 0 then some (.add (e.a 6) (e.f 6 6) (e.f 0 6))
  else if e.f 16 4 = 1 then some (.sub (e.a 6) (e.f 6 6) (e.f 0 6))
  else if e.f 16 4 = 2 then some (.and (e.a 6) (e.f 6 6) (e.f 0 6))
  else if e.f 16 4 = 3 then some (.or (e.a 6) (e.f 6 6) (e.f 0 6))
  else if e.f 16 4 = 4 then some (.xor (e.a 6) (e.f 6 6) (e.f 0 6))
  else if e.f 16 4 = 5 then some (.andn (e.a 6) (e.f 6 6) (e.f 0 6))
  else if e.f 16 4 = 6 then some (.orn (e.a 6) (e.f 6 6) (e.f 0 6))
  else if e.f 16 4 = 7 then some (.xnor (e.a 6) (e.f 6 6) (e.f 0 6))
  else none

/-- Opcode 0x02 with tail-size code 2: SLL, SRL, SRA, ROL, ROR, SLLI, SRLI, SRAI, ROLI, RORI. -/
noncomputable def candidate02_2 (e : Enc) : Option Instr :=
  if e.f 16 4 = 0 then some (.sll (e.a 6) (e.f 6 6) (e.f 0 6))
  else if e.f 16 4 = 1 then some (.srl (e.a 6) (e.f 6 6) (e.f 0 6))
  else if e.f 16 4 = 2 then some (.sra (e.a 6) (e.f 6 6) (e.f 0 6))
  else if e.f 16 4 = 3 then some (.rol (e.a 6) (e.f 6 6) (e.f 0 6))
  else if e.f 16 4 = 4 then some (.ror (e.a 6) (e.f 6 6) (e.f 0 6))
  else if e.f 16 4 = 8 then some (.slli (e.a 6) (e.f 6 6) (e.f 0 6))
  else if e.f 16 4 = 9 then some (.srli (e.a 6) (e.f 6 6) (e.f 0 6))
  else if e.f 16 4 = 10 then some (.srai (e.a 6) (e.f 6 6) (e.f 0 6))
  else if e.f 16 4 = 11 then some (.roli (e.a 6) (e.f 6 6) (e.f 0 6))
  else if e.f 16 4 = 12 then some (.rori (e.a 6) (e.f 6 6) (e.f 0 6))
  else none

/-- Opcode 0x03 with tail-size code 2: MUL, MULH, MULHU, MULHSU, DIV, DIVU, REM, REMU. -/
noncomputable def candidate03_2 (e : Enc) : Option Instr :=
  if e.f 16 4 = 0 then some (.mul (e.a 6) (e.f 6 6) (e.f 0 6))
  else if e.f 16 4 = 1 then some (.mulh (e.a 6) (e.f 6 6) (e.f 0 6))
  else if e.f 16 4 = 2 then some (.mulhu (e.a 6) (e.f 6 6) (e.f 0 6))
  else if e.f 16 4 = 3 then some (.mulhsu (e.a 6) (e.f 6 6) (e.f 0 6))
  else if e.f 16 4 = 4 then some (.div (e.a 6) (e.f 6 6) (e.f 0 6))
  else if e.f 16 4 = 5 then some (.divu (e.a 6) (e.f 6 6) (e.f 0 6))
  else if e.f 16 4 = 6 then some (.rem (e.a 6) (e.f 6 6) (e.f 0 6))
  else if e.f 16 4 = 7 then some (.remu (e.a 6) (e.f 6 6) (e.f 0 6))
  else none

/-- Opcode 0x04 with tail-size code 2: ADDI. -/
noncomputable def candidate04_2 (e : Enc) : Option Instr :=
  some (.addi (e.a 6) (e.f 6 26) (e.f 0 6))

/-- Opcode 0x04 with tail-size code 4: ADDI_LONG. -/
noncomputable def candidate04_4 (e : Enc) : Option Instr :=
  some (.addiLong (e.a 6) (e.f 6 58) (e.f 0 6))

/-- Opcode 0x05 with tail-size code 2: ANDI, ORI, XORI. -/
noncomputable def candidate05_2 (e : Enc) : Option Instr :=
  if e.f 6 2 = 0 then some (.andi (e.a 6) (e.f 8 24) (e.f 0 6))
  else if e.f 6 2 = 1 then some (.ori (e.a 6) (e.f 8 24) (e.f 0 6))
  else if e.f 6 2 = 2 then some (.xori (e.a 6) (e.f 8 24) (e.f 0 6))
  else none

/-- Opcode 0x05 with tail-size code 4: ANDI_LONG, ORI_LONG, XORI_LONG. -/
noncomputable def candidate05_4 (e : Enc) : Option Instr :=
  if e.f 6 2 = 0 then some (.andiLong (e.a 6) (e.f 8 56) (e.f 0 6))
  else if e.f 6 2 = 1 then some (.oriLong (e.a 6) (e.f 8 56) (e.f 0 6))
  else if e.f 6 2 = 2 then some (.xoriLong (e.a 6) (e.f 8 56) (e.f 0 6))
  else none

/-- Opcode 0x06 with tail-size code 1: LI. -/
noncomputable def candidate06_1 (e : Enc) : Option Instr :=
  some (.li (e.a 6) (e.f 0 16))

/-- Opcode 0x06 with tail-size code 2: LI_32. -/
noncomputable def candidate06_2 (e : Enc) : Option Instr :=
  some (.li32 (e.a 6) (e.f 0 32))

/-- Opcode 0x06 with tail-size code 4: LI_64. -/
noncomputable def candidate06_4 (e : Enc) : Option Instr :=
  some (.li64 (e.a 6) (e.f 0 64))

/-- Opcode 0x07 with tail-size code 2: SLT, SLTU, SEQ, SNE. -/
noncomputable def candidate07_2 (e : Enc) : Option Instr :=
  if e.f 16 4 = 0 then some (.slt (e.a 6) (e.f 6 6) (e.f 0 6))
  else if e.f 16 4 = 1 then some (.sltu (e.a 6) (e.f 6 6) (e.f 0 6))
  else if e.f 16 4 = 2 then some (.seq (e.a 6) (e.f 6 6) (e.f 0 6))
  else if e.f 16 4 = 3 then some (.sne (e.a 6) (e.f 6 6) (e.f 0 6))
  else none

/-- Opcode 0x08 with tail-size code 2: SLTI, SLTIU, SEQI, SNEI. -/
noncomputable def candidate08_2 (e : Enc) : Option Instr :=
  if e.f 6 2 = 0 then some (.slti (e.a 6) (e.f 8 24) (e.f 0 6))
  else if e.f 6 2 = 1 then some (.sltiu (e.a 6) (e.f 8 24) (e.f 0 6))
  else if e.f 6 2 = 2 then some (.seqi (e.a 6) (e.f 8 24) (e.f 0 6))
  else if e.f 6 2 = 3 then some (.snei (e.a 6) (e.f 8 24) (e.f 0 6))
  else none

/-- Opcode 0x08 with tail-size code 4: SLTI_LONG, SLTIU_LONG, SEQI_LONG, SNEI_LONG. -/
noncomputable def candidate08_4 (e : Enc) : Option Instr :=
  if e.f 6 2 = 0 then some (.sltiLong (e.a 6) (e.f 8 56) (e.f 0 6))
  else if e.f 6 2 = 1 then some (.sltiuLong (e.a 6) (e.f 8 56) (e.f 0 6))
  else if e.f 6 2 = 2 then some (.seqiLong (e.a 6) (e.f 8 56) (e.f 0 6))
  else if e.f 6 2 = 3 then some (.sneiLong (e.a 6) (e.f 8 56) (e.f 0 6))
  else none

/-- Opcode 0x09 with tail-size code 2: SEL. -/
noncomputable def candidate09_2 (e : Enc) : Option Instr :=
  some (.sel (e.a 6) (e.f 12 6) (e.f 6 6) (e.f 0 6))

/-- Opcode 0x0A with tail-size code 2: MIN, MAX, MINU, MAXU. -/
noncomputable def candidate0A_2 (e : Enc) : Option Instr :=
  if e.f 16 4 = 0 then some (.min (e.a 6) (e.f 6 6) (e.f 0 6))
  else if e.f 16 4 = 1 then some (.max (e.a 6) (e.f 6 6) (e.f 0 6))
  else if e.f 16 4 = 2 then some (.minu (e.a 6) (e.f 6 6) (e.f 0 6))
  else if e.f 16 4 = 3 then some (.maxu (e.a 6) (e.f 6 6) (e.f 0 6))
  else none

/-- Opcode 0x0B with tail-size code 1: CLZ, CTZ, POPC. -/
noncomputable def candidate0B_1 (e : Enc) : Option Instr :=
  if e.f 6 2 = 0 then some (.clz (e.a 6) (e.f 0 6))
  else if e.f 6 2 = 1 then some (.ctz (e.a 6) (e.f 0 6))
  else if e.f 6 2 = 2 then some (.popc (e.a 6) (e.f 0 6))
  else none

/-- Opcode 0x0C with tail-size code 2: BFXS, BFXU. -/
noncomputable def candidate0C_2 (e : Enc) : Option Instr :=
  if e.f 18 1 = 0 then some (.bfxs (e.a 6) (e.f 12 6) (e.f 6 6) (e.f 0 6))
  else if e.f 18 1 = 1 then some (.bfxu (e.a 6) (e.f 12 6) (e.f 6 6) (e.f 0 6))
  else none

/-- Opcode 0x0D with tail-size code 2: BFI. -/
noncomputable def candidate0D_2 (e : Enc) : Option Instr :=
  some (.bfi (e.a 6) (e.f 12 6) (e.f 6 6) (e.f 0 6))

/-- Opcode 0x0E with tail-size code 1: BSWAP_H, BSWAP_W, BSWAP_D. -/
noncomputable def candidate0E_1 (e : Enc) : Option Instr :=
  if e.f 6 2 = 0 then some (.bswapH (e.a 6) (e.f 0 6))
  else if e.f 6 2 = 1 then some (.bswapW (e.a 6) (e.f 0 6))
  else if e.f 6 2 = 2 then some (.bswapD (e.a 6) (e.f 0 6))
  else none

/-- Opcode 0x0F with tail-size code 2: ADR. -/
noncomputable def candidate0F_2 (e : Enc) : Option Instr :=
  some (.adr (e.a 6) (e.f 0 32))

/-- Opcode 0x0F with tail-size code 4: ADR_LONG. -/
noncomputable def candidate0F_4 (e : Enc) : Option Instr :=
  some (.adrLong (e.a 6) (e.f 0 64))

/-- Opcode 0x18 with tail-size code 2: FADD, FSUB, FMUL, FDIV, FMIN, FMAX. -/
noncomputable def candidate18_2 (e : Enc) : Option Instr :=
  if e.f 12 4 = 0 then some (.fadd (e.a 6) (e.f 16 1) (e.f 6 6) (e.f 0 6))
  else if e.f 12 4 = 1 then some (.fsub (e.a 6) (e.f 16 1) (e.f 6 6) (e.f 0 6))
  else if e.f 12 4 = 2 then some (.fmul (e.a 6) (e.f 16 1) (e.f 6 6) (e.f 0 6))
  else if e.f 12 4 = 3 then some (.fdiv (e.a 6) (e.f 16 1) (e.f 6 6) (e.f 0 6))
  else if e.f 12 4 = 4 then some (.fmin (e.a 6) (e.f 16 1) (e.f 6 6) (e.f 0 6))
  else if e.f 12 4 = 5 then some (.fmax (e.a 6) (e.f 16 1) (e.f 6 6) (e.f 0 6))
  else none

/-- Opcode 0x19 with tail-size code 2: FMADD, FMSUB, FNMADD, FNMSUB. -/
noncomputable def candidate19_2 (e : Enc) : Option Instr :=
  if e.f 18 2 = 0 then some (.fmadd (e.a 6) (e.f 20 1) (e.f 12 6) (e.f 6 6) (e.f 0 6))
  else if e.f 18 2 = 1 then some (.fmsub (e.a 6) (e.f 20 1) (e.f 12 6) (e.f 6 6) (e.f 0 6))
  else if e.f 18 2 = 2 then some (.fnmadd (e.a 6) (e.f 20 1) (e.f 12 6) (e.f 6 6) (e.f 0 6))
  else if e.f 18 2 = 3 then some (.fnmsub (e.a 6) (e.f 20 1) (e.f 12 6) (e.f 6 6) (e.f 0 6))
  else none

/-- Opcode 0x1A with tail-size code 1: FSQRT, FCLASS. -/
noncomputable def candidate1A_1 (e : Enc) : Option Instr :=
  if e.f 6 1 = 0 then some (.fsqrt (e.a 6) (e.f 7 1) (e.f 0 6))
  else if e.f 6 1 = 1 then some (.fclass (e.a 6) (e.f 7 1) (e.f 0 6))
  else none

/-- Opcode 0x1B with tail-size code 2: FEQ, FLT, FLE. -/
noncomputable def candidate1B_2 (e : Enc) : Option Instr :=
  if e.f 12 2 = 0 then some (.feq (e.a 6) (e.f 14 1) (e.f 6 6) (e.f 0 6))
  else if e.f 12 2 = 1 then some (.flt (e.a 6) (e.f 14 1) (e.f 6 6) (e.f 0 6))
  else if e.f 12 2 = 2 then some (.fle (e.a 6) (e.f 14 1) (e.f 6 6) (e.f 0 6))
  else none

/-- Opcode 0x1C with tail-size code 2: FCVT. -/
noncomputable def candidate1C_2 (e : Enc) : Option Instr :=
  some (.fcvt (e.a 6) (e.f 14 1) (e.f 10 4) (e.f 6 4) (e.f 0 6))

/-- Opcode 0x20 with tail-size code 2: BC. -/
noncomputable def candidate20_2 (e : Enc) : Option Instr :=
  some (.bc (e.a 6) (e.f 16 16) (e.f 6 4) (e.f 0 6))

/-- Opcode 0x20 with tail-size code 3: BC_LONG. -/
noncomputable def candidate20_3 (e : Enc) : Option Instr :=
  some (.bcLong (e.a 6) (e.f 16 32) (e.f 6 4) (e.f 0 6))

/-- Opcode 0x21 with tail-size code 1: J. -/
noncomputable def candidate21_1 (e : Enc) : Option Instr :=
  some (.j (e.f 0 16))

/-- Opcode 0x21 with tail-size code 2: J_LONG. -/
noncomputable def candidate21_2 (e : Enc) : Option Instr :=
  some (.jLong (e.f 0 32))

/-- Opcode 0x22 with tail-size code 1: CALL. -/
noncomputable def candidate22_1 (e : Enc) : Option Instr :=
  some (.call (e.f 0 16))

/-- Opcode 0x22 with tail-size code 2: CALL_LONG. -/
noncomputable def candidate22_2 (e : Enc) : Option Instr :=
  some (.callLong (e.f 0 32))

/-- Opcode 0x23 with tail-size code 1: JR, CALLR. -/
noncomputable def candidate23_1 (e : Enc) : Option Instr :=
  if e.f 6 1 = 0 then some (.jr (e.f 0 6))
  else if e.f 6 1 = 1 then some (.callr (e.f 0 6))
  else none

/-- Opcode 0x24 with tail-size code 0: RET. -/
noncomputable def candidate24_0 (_e : Enc) : Option Instr :=
  some (.ret)

/-- Opcode 0x25 with tail-size code 2: LOOP. -/
noncomputable def candidate25_2 (e : Enc) : Option Instr :=
  some (.loop (e.a 6) (e.f 16 16))

/-- Opcode 0x28 with tail-size code 1: TRAP, ERET, ULRET, HRET. -/
noncomputable def candidate28_1 (e : Enc) : Option Instr :=
  if e.f 14 2 = 0 then some (.trap (e.f 0 14))
  else if e.f 14 2 = 1 then some (.eret)
  else if e.f 14 2 = 2 then some (.ulret)
  else if e.f 14 2 = 3 then some (.hret)
  else none

/-- Opcode 0x29 with tail-size code 2: CRR, CRW, CRS, CRC. -/
noncomputable def candidate29_2 (e : Enc) : Option Instr :=
  if e.f 18 2 = 0 then some (.crr (e.a 6) (e.f 6 12))
  else if e.f 18 2 = 1 then some (.crw (e.a 6) (e.f 6 12) (e.f 0 6))
  else if e.f 18 2 = 2 then some (.crs (e.a 6) (e.f 6 12) (e.f 0 6))
  else if e.f 18 2 = 3 then some (.crc (e.a 6) (e.f 6 12) (e.f 0 6))
  else none

/-- Opcode 0x2A with tail-size code 1: FENCE, FENCE_I, PAUSE, SLEEP. -/
noncomputable def candidate2A_1 (e : Enc) : Option Instr :=
  if e.f 8 2 = 0 then some (.fence (e.f 0 8))
  else if e.f 8 2 = 1 then some (.fenceI)
  else if e.f 8 2 = 2 then some (.pause)
  else if e.f 8 2 = 3 then some (.sleep (e.a 6))
  else none

/-- Opcode 0x2B with tail-size code 1: TLBI_VA, TLBI_ALL. -/
noncomputable def candidate2B_1 (e : Enc) : Option Instr :=
  if e.f 14 2 = 0 then some (.tlbiVa (e.f 11 3) (e.f 0 6))
  else if e.f 14 2 = 1 then some (.tlbiAll (e.f 11 3))
  else none

/-- Opcode 0x2B with tail-size code 2: TLBI_RNG. -/
noncomputable def candidate2B_2 (e : Enc) : Option Instr :=
  some (.tlbiRng (e.f 14 3) (e.f 6 6) (e.f 0 6))

/-- Opcode 0x2C with tail-size code 1: SPAWN, TASKEND. -/
noncomputable def candidate2C_1 (e : Enc) : Option Instr :=
  if e.f 6 2 = 0 then some (.spawn (e.a 6) (e.f 0 6))
  else if e.f 6 2 = 1 then some (.taskend)
  else none

/-- Opcode 0x2C with tail-size code 2: ENQ. -/
noncomputable def candidate2C_2 (e : Enc) : Option Instr :=
  some (.enq (e.a 6) (e.f 18 3) (e.f 6 6) (e.f 0 6))

/-- Opcode 0x2D with tail-size code 2: LAUNCHG. -/
noncomputable def candidate2D_2 (e : Enc) : Option Instr :=
  some (.launchg (e.a 6) (e.f 15 3) (e.f 6 6) (e.f 0 6))

/-- Opcode 0x2E with tail-size code 4: MSG. -/
noncomputable def candidate2E_4 (e : Enc) : Option Instr :=
  some (.msg (e.f 24 8) (e.f 20 4) (e.f 17 3) (e.f 6 6) (e.f 0 6))

/-- Opcode 0x2E with tail-size code 2: WAITC. -/
noncomputable def candidate2E_2 (e : Enc) : Option Instr :=
  some (.waitc (e.a 6) (e.f 12 3) (e.f 6 6) (e.f 0 6))

/-- Opcode 0x2F with tail-size code 1: HCTL_HOLD, HCTL_GO, HCTL_ST. -/
noncomputable def candidate2F_1 (e : Enc) : Option Instr :=
  if e.f 6 2 = 0 then some (.hctlHold)
  else if e.f 6 2 = 1 then some (.hctlGo)
  else if e.f 6 2 = 2 then some (.hctlSt (e.a 6))
  else none

/-- Opcode 0x30 with tail-size code 2: VADD, VSUB, VMUL, VMIN, VMAX, VAND, VOR, VXOR, VSLL, VSRL, VSRA, VABS. -/
noncomputable def candidate30_2 (e : Enc) : Option Instr :=
  if e.f 18 4 = 0 then some (.vadd (e.a 5) (e.f 27 1) (e.f 14 4) (e.f 11 3) (e.f 5 6) (e.f 0 5))
  else if e.f 18 4 = 1 then some (.vsub (e.a 5) (e.f 27 1) (e.f 14 4) (e.f 11 3) (e.f 5 6) (e.f 0 5))
  else if e.f 18 4 = 2 then some (.vmul (e.a 5) (e.f 27 1) (e.f 14 4) (e.f 11 3) (e.f 5 6) (e.f 0 5))
  else if e.f 18 4 = 3 then some (.vmin (e.a 5) (e.f 27 1) (e.f 14 4) (e.f 11 3) (e.f 5 6) (e.f 0 5))
  else if e.f 18 4 = 4 then some (.vmax (e.a 5) (e.f 27 1) (e.f 14 4) (e.f 11 3) (e.f 5 6) (e.f 0 5))
  else if e.f 18 4 = 5 then some (.vand (e.a 5) (e.f 27 1) (e.f 14 4) (e.f 11 3) (e.f 5 6) (e.f 0 5))
  else if e.f 18 4 = 6 then some (.vor (e.a 5) (e.f 27 1) (e.f 14 4) (e.f 11 3) (e.f 5 6) (e.f 0 5))
  else if e.f 18 4 = 7 then some (.vxor (e.a 5) (e.f 27 1) (e.f 14 4) (e.f 11 3) (e.f 5 6) (e.f 0 5))
  else if e.f 18 4 = 8 then some (.vsll (e.a 5) (e.f 27 1) (e.f 14 4) (e.f 11 3) (e.f 5 6) (e.f 0 5))
  else if e.f 18 4 = 9 then some (.vsrl (e.a 5) (e.f 27 1) (e.f 14 4) (e.f 11 3) (e.f 5 6) (e.f 0 5))
  else if e.f 18 4 = 10 then some (.vsra (e.a 5) (e.f 27 1) (e.f 14 4) (e.f 11 3) (e.f 5 6) (e.f 0 5))
  else if e.f 18 4 = 11 then some (.vabs (e.a 5) (e.f 14 4) (e.f 11 3) (e.f 0 5))
  else none

/-- Opcode 0x31 with tail-size code 2: VFADD, VFSUB, VFMUL, VFDIV, VFMIN, VFMAX, VFABS, VFNEG. -/
noncomputable def candidate31_2 (e : Enc) : Option Instr :=
  if e.f 18 4 = 0 then some (.vfadd (e.a 5) (e.f 27 1) (e.f 14 4) (e.f 11 3) (e.f 5 6) (e.f 0 5))
  else if e.f 18 4 = 1 then some (.vfsub (e.a 5) (e.f 27 1) (e.f 14 4) (e.f 11 3) (e.f 5 6) (e.f 0 5))
  else if e.f 18 4 = 2 then some (.vfmul (e.a 5) (e.f 27 1) (e.f 14 4) (e.f 11 3) (e.f 5 6) (e.f 0 5))
  else if e.f 18 4 = 3 then some (.vfdiv (e.a 5) (e.f 27 1) (e.f 14 4) (e.f 11 3) (e.f 5 6) (e.f 0 5))
  else if e.f 18 4 = 4 then some (.vfmin (e.a 5) (e.f 27 1) (e.f 14 4) (e.f 11 3) (e.f 5 6) (e.f 0 5))
  else if e.f 18 4 = 5 then some (.vfmax (e.a 5) (e.f 27 1) (e.f 14 4) (e.f 11 3) (e.f 5 6) (e.f 0 5))
  else if e.f 18 4 = 6 then some (.vfabs (e.a 5) (e.f 14 4) (e.f 11 3) (e.f 0 5))
  else if e.f 18 4 = 7 then some (.vfneg (e.a 5) (e.f 14 4) (e.f 11 3) (e.f 0 5))
  else none

/-- Opcode 0x32 with tail-size code 2: VFMA, VFMS, VFNMA, VFNMS. -/
noncomputable def candidate32_2 (e : Enc) : Option Instr :=
  if e.f 18 4 = 0 then some (.vfma (e.a 5) (e.f 27 1) (e.f 22 5) (e.f 14 4) (e.f 11 3) (e.f 5 6) (e.f 0 5))
  else if e.f 18 4 = 1 then some (.vfms (e.a 5) (e.f 27 1) (e.f 22 5) (e.f 14 4) (e.f 11 3) (e.f 5 6) (e.f 0 5))
  else if e.f 18 4 = 2 then some (.vfnma (e.a 5) (e.f 27 1) (e.f 22 5) (e.f 14 4) (e.f 11 3) (e.f 5 6) (e.f 0 5))
  else if e.f 18 4 = 3 then some (.vfnms (e.a 5) (e.f 27 1) (e.f 22 5) (e.f 14 4) (e.f 11 3) (e.f 5 6) (e.f 0 5))
  else none

/-- Opcode 0x33 with tail-size code 2: VCMP. -/
noncomputable def candidate33_2 (e : Enc) : Option Instr :=
  some (.vcmp (e.a 3) (e.f 27 1) (e.f 18 4) (e.f 14 4) (e.f 11 3) (e.f 5 6) (e.f 0 5))

/-- Opcode 0x34 with tail-size code 2: VSEL. -/
noncomputable def candidate34_2 (e : Enc) : Option Instr :=
  some (.vsel (e.a 5) (e.f 27 1) (e.f 14 4) (e.f 11 3) (e.f 5 6) (e.f 0 5))

/-- Opcode 0x35 with tail-size code 2: VPERM, VPERM2. -/
noncomputable def candidate35_2 (e : Enc) : Option Instr :=
  if e.f 18 4 = 0 then some (.vperm (e.a 5) (e.f 27 1) (e.f 14 4) (e.f 11 3) (e.f 5 6) (e.f 0 5))
  else if e.f 18 4 = 1 then some (.vperm2 (e.a 5) (e.f 27 1) (e.f 22 5) (e.f 14 4) (e.f 11 3) (e.f 5 6) (e.f 0 5))
  else none

/-- Opcode 0x36 with tail-size code 2: VREV, VROT, VSLIDE. -/
noncomputable def candidate36_2 (e : Enc) : Option Instr :=
  if e.f 18 4 = 0 then some (.vrev (e.a 5) (e.f 14 4) (e.f 11 3) (e.f 0 5))
  else if e.f 18 4 = 1 then some (.vrot (e.a 5) (e.f 27 1) (e.f 14 4) (e.f 11 3) (e.f 5 6) (e.f 0 5))
  else if e.f 18 4 = 2 then some (.vslide (e.a 5) (e.f 27 1) (e.f 22 5) (e.f 14 4) (e.f 11 3) (e.f 5 6) (e.f 0 5))
  else none

/-- Opcode 0x37 with tail-size code 1: VBCAST. -/
noncomputable def candidate37_1 (e : Enc) : Option Instr :=
  some (.vbcast (e.a 5) (e.f 10 3) (e.f 6 4) (e.f 0 6))

/-- Opcode 0x37 with tail-size code 2: VBCAST_ELEMENT. -/
noncomputable def candidate37_2 (e : Enc) : Option Instr :=
  some (.vbcastElement (e.a 5) (e.f 14 4) (e.f 11 3) (e.f 5 6) (e.f 0 5))

/-- Opcode 0x3C with tail-size code 1: VINDEX. -/
noncomputable def candidate3C_1 (e : Enc) : Option Instr :=
  some (.vindex (e.a 5) (e.f 10 3) (e.f 6 4) (e.f 0 6))

/-- Opcode 0x43 with tail-size code 2: VLI_W. -/
noncomputable def candidate43_2 (e : Enc) : Option Instr :=
  some (.vliW (e.a 5) (e.f 0 32))

/-- Opcode 0x43 with tail-size code 4: VLI_D. -/
noncomputable def candidate43_4 (e : Enc) : Option Instr :=
  some (.vliD (e.a 5) (e.f 0 64))

/-- Opcode 0x43 with tail-size code 6: VLI_Q. -/
noncomputable def candidate43_6 (e : Enc) : Option Instr :=
  some (.vliQ (e.a 5) (e.f 0 128))

/-- Opcode 0x42 with tail-size code 2: VMOVX, VMOVV. -/
noncomputable def candidate42_2 (e : Enc) : Option Instr :=
  if e.f 16 1 = 0 then some (.vmovx (e.a 6) (e.f 12 4) (e.f 6 6) (e.f 0 5))
  else if e.f 16 1 = 1 then some (.vmovv (e.a 5) (e.f 12 4) (e.f 6 6) (e.f 0 6))
  else none

/-- Opcode 0x38 with tail-size code 2: VRED. -/
noncomputable def candidate38_2 (e : Enc) : Option Instr :=
  some (.vred (e.a 6) (e.f 18 4) (e.f 14 4) (e.f 11 3) (e.f 0 5))

/-- Opcode 0x39 with tail-size code 2: VSCAN, VSCANX. -/
noncomputable def candidate39_2 (e : Enc) : Option Instr :=
  if e.f 20 1 = 0 then some (.vscan (e.a 5) (e.f 18 2) (e.f 14 4) (e.f 11 3) (e.f 0 5))
  else if e.f 20 1 = 1 then some (.vscanx (e.a 5) (e.f 18 2) (e.f 14 4) (e.f 11 3) (e.f 0 5))
  else none

/-- Opcode 0x3B with tail-size code 2: VCOMPRESS, VEXPAND. -/
noncomputable def candidate3B_2 (e : Enc) : Option Instr :=
  if e.f 18 4 = 0 then some (.vcompress (e.a 5) (e.f 14 4) (e.f 11 3) (e.f 0 5))
  else if e.f 18 4 = 1 then some (.vexpand (e.a 5) (e.f 14 4) (e.f 11 3) (e.f 0 5))
  else none

/-- Opcode 0x3A with tail-size code 2: VTOPK. -/
noncomputable def candidate3A_2 (e : Enc) : Option Instr :=
  some (.vtopk (e.a 5) (e.f 30 1) (e.f 29 1) (e.f 28 1) (e.f 25 3) (e.f 22 3) (e.f 16 6) (e.f 10 6) (e.f 5 5) (e.f 0 5))

/-- Opcode 0x3D with tail-size code 2: VCVT. -/
noncomputable def candidate3D_2 (e : Enc) : Option Instr :=
  some (.vcvt (e.a 5) (e.f 22 3) (e.f 21 1) (e.f 20 1) (e.f 16 4) (e.f 13 3) (e.f 9 4) (e.f 5 4) (e.f 0 5))

/-- Opcode 0x3E with tail-size code 2: VENC, VDEC. -/
noncomputable def candidate3E_2 (e : Enc) : Option Instr :=
  if e.f 25 1 = 0 then some (.venc (e.a 5) (e.f 22 3) (e.f 21 1) (e.f 16 4) (e.f 13 3) (e.f 9 4) (e.f 5 4) (e.f 0 5))
  else if e.f 25 1 = 1 then some (.vdec (e.a 5) (e.f 16 4) (e.f 13 3) (e.f 9 4) (e.f 5 4) (e.f 0 5))
  else none

/-- Opcode 0x3F with tail-size code 2: VRCPE, VRSQE, VEXPE. -/
noncomputable def candidate3F_2 (e : Enc) : Option Instr :=
  if e.f 18 4 = 0 then some (.vrcpe (e.a 5) (e.f 14 4) (e.f 11 3) (e.f 0 5))
  else if e.f 18 4 = 1 then some (.vrsqe (e.a 5) (e.f 14 4) (e.f 11 3) (e.f 0 5))
  else if e.f 18 4 = 2 then some (.vexpe (e.a 5) (e.f 14 4) (e.f 11 3) (e.f 0 5))
  else none

/-- Opcode 0x40 with tail-size code 1: PAND, POR, PXOR, PNOT, PMOV_TO_PREDICATE, PMOV_TO_SCALAR. -/
noncomputable def candidate40_1 (e : Enc) : Option Instr :=
  if e.f 6 3 = 0 then some (.pand (e.a 3) (e.f 3 3) (e.f 0 3))
  else if e.f 6 3 = 1 then some (.por (e.a 3) (e.f 3 3) (e.f 0 3))
  else if e.f 6 3 = 2 then some (.pxor (e.a 3) (e.f 3 3) (e.f 0 3))
  else if e.f 6 3 = 3 then some (.pnot (e.a 3) (e.f 0 3))
  else if e.f 6 3 = 4 then some (.pmovToPredicate (e.a 3) (e.f 0 6))
  else if e.f 6 3 = 5 then some (.pmovToScalar (e.a 6) (e.f 0 3))
  else none

/-- Opcode 0x41 with tail-size code 1: PCNT, PFIRST. -/
noncomputable def candidate41_1 (e : Enc) : Option Instr :=
  if e.f 6 1 = 0 then some (.pcnt (e.a 6) (e.f 3 3) (e.f 0 3))
  else if e.f 6 1 = 1 then some (.pfirst (e.a 6) (e.f 3 3) (e.f 0 3))
  else none

/-- Opcode 0x50 with tail-size code 2: LD_B, LD_BU, LD_H, LD_HU, LD_W, LD_WU, LD_D. -/
noncomputable def candidate50_2 (e : Enc) : Option Instr :=
  if e.f 14 3 = 0 then some (.ldB (e.a 6) (e.f 17 15) (e.f 8 6) (e.f 0 8))
  else if e.f 14 3 = 1 then some (.ldBu (e.a 6) (e.f 17 15) (e.f 8 6) (e.f 0 8))
  else if e.f 14 3 = 2 then some (.ldH (e.a 6) (e.f 17 15) (e.f 8 6) (e.f 0 8))
  else if e.f 14 3 = 3 then some (.ldHu (e.a 6) (e.f 17 15) (e.f 8 6) (e.f 0 8))
  else if e.f 14 3 = 4 then some (.ldW (e.a 6) (e.f 17 15) (e.f 8 6) (e.f 0 8))
  else if e.f 14 3 = 5 then some (.ldWu (e.a 6) (e.f 17 15) (e.f 8 6) (e.f 0 8))
  else if e.f 14 3 = 6 then some (.ldD (e.a 6) (e.f 17 15) (e.f 8 6) (e.f 0 8))
  else none

/-- Opcode 0x50 with tail-size code 4: LD_B_LONG, LD_BU_LONG, LD_H_LONG, LD_HU_LONG, LD_W_LONG, LD_WU_LONG, LD_D_LONG. -/
noncomputable def candidate50_4 (e : Enc) : Option Instr :=
  if e.f 14 3 = 0 then some (.ldBLong (e.a 6) (e.f 63 1) (e.f 17 46) (e.f 8 6) (e.f 0 8))
  else if e.f 14 3 = 1 then some (.ldBuLong (e.a 6) (e.f 63 1) (e.f 17 46) (e.f 8 6) (e.f 0 8))
  else if e.f 14 3 = 2 then some (.ldHLong (e.a 6) (e.f 63 1) (e.f 17 46) (e.f 8 6) (e.f 0 8))
  else if e.f 14 3 = 3 then some (.ldHuLong (e.a 6) (e.f 63 1) (e.f 17 46) (e.f 8 6) (e.f 0 8))
  else if e.f 14 3 = 4 then some (.ldWLong (e.a 6) (e.f 63 1) (e.f 17 46) (e.f 8 6) (e.f 0 8))
  else if e.f 14 3 = 5 then some (.ldWuLong (e.a 6) (e.f 63 1) (e.f 17 46) (e.f 8 6) (e.f 0 8))
  else if e.f 14 3 = 6 then some (.ldDLong (e.a 6) (e.f 63 1) (e.f 17 46) (e.f 8 6) (e.f 0 8))
  else none

/-- Opcode 0x51 with tail-size code 2: ST_B, ST_H, ST_W, ST_D. -/
noncomputable def candidate51_2 (e : Enc) : Option Instr :=
  if e.f 14 3 = 0 then some (.stB (e.a 6) (e.f 17 15) (e.f 8 6) (e.f 0 8))
  else if e.f 14 3 = 1 then some (.stH (e.a 6) (e.f 17 15) (e.f 8 6) (e.f 0 8))
  else if e.f 14 3 = 2 then some (.stW (e.a 6) (e.f 17 15) (e.f 8 6) (e.f 0 8))
  else if e.f 14 3 = 3 then some (.stD (e.a 6) (e.f 17 15) (e.f 8 6) (e.f 0 8))
  else none

/-- Opcode 0x51 with tail-size code 4: ST_B_LONG, ST_H_LONG, ST_W_LONG, ST_D_LONG. -/
noncomputable def candidate51_4 (e : Enc) : Option Instr :=
  if e.f 14 3 = 0 then some (.stBLong (e.a 6) (e.f 63 1) (e.f 17 46) (e.f 8 6) (e.f 0 8))
  else if e.f 14 3 = 1 then some (.stHLong (e.a 6) (e.f 63 1) (e.f 17 46) (e.f 8 6) (e.f 0 8))
  else if e.f 14 3 = 2 then some (.stWLong (e.a 6) (e.f 63 1) (e.f 17 46) (e.f 8 6) (e.f 0 8))
  else if e.f 14 3 = 3 then some (.stDLong (e.a 6) (e.f 63 1) (e.f 17 46) (e.f 8 6) (e.f 0 8))
  else none

/-- Opcode 0x52 with tail-size code 2: VLD. -/
noncomputable def candidate52_2 (e : Enc) : Option Instr :=
  some (.vld (e.a 5) (e.f 22 6) (e.f 21 1) (e.f 18 3) (e.f 14 4) (e.f 8 6) (e.f 0 8))

/-- Opcode 0x52 with tail-size code 4: VLD_LONG. -/
noncomputable def candidate52_4 (e : Enc) : Option Instr :=
  some (.vldLong (e.a 5) (e.f 32 32) (e.f 22 6) (e.f 21 1) (e.f 18 3) (e.f 14 4) (e.f 8 6) (e.f 0 8))

/-- Opcode 0x53 with tail-size code 2: VST. -/
noncomputable def candidate53_2 (e : Enc) : Option Instr :=
  some (.vst (e.a 5) (e.f 22 6) (e.f 21 1) (e.f 18 3) (e.f 14 4) (e.f 8 6) (e.f 0 8))

/-- Opcode 0x53 with tail-size code 4: VST_LONG. -/
noncomputable def candidate53_4 (e : Enc) : Option Instr :=
  some (.vstLong (e.a 5) (e.f 32 32) (e.f 22 6) (e.f 21 1) (e.f 18 3) (e.f 14 4) (e.f 8 6) (e.f 0 8))

/-- Opcode 0x54 with tail-size code 2: LDF, LDF_C, STE, CLRE. -/
noncomputable def candidate54_2 (e : Enc) : Option Instr :=
  if e.f 14 2 = 0 then some (.ldf (e.a 6) (e.f 16 16) (e.f 8 6) (e.f 0 8))
  else if e.f 14 2 = 1 then some (.ldfC (e.a 6) (e.f 16 16) (e.f 8 6) (e.f 0 8))
  else if e.f 14 2 = 2 then some (.ste (e.a 6) (e.f 16 16) (e.f 8 6) (e.f 0 8))
  else if e.f 14 2 = 3 then some (.clre (e.f 16 16) (e.f 8 6) (e.f 0 8))
  else none

/-- Opcode 0x55 with tail-size code 2: PREF, CLEAN, FLUSH. -/
noncomputable def candidate55_2 (e : Enc) : Option Instr :=
  if e.f 14 2 = 0 then some (.pref (e.f 16 16) (e.f 8 6) (e.f 0 8))
  else if e.f 14 2 = 1 then some (.clean (e.f 16 16) (e.f 8 6) (e.f 0 8))
  else if e.f 14 2 = 2 then some (.flush (e.f 16 16) (e.f 8 6) (e.f 0 8))
  else none

/-- Opcode 0x56 with tail-size code 2: STRM, STRMOFF. -/
noncomputable def candidate56_2 (e : Enc) : Option Instr :=
  if e.f 14 2 = 0 then some (.strm (e.a 5) (e.f 16 2) (e.f 8 6))
  else if e.f 14 2 = 1 then some (.strmoff (e.f 16 2))
  else none

/-- Opcode 0x57 with tail-size code 1: QRD, QWR. -/
noncomputable def candidate57_1 (e : Enc) : Option Instr :=
  if e.f 14 2 = 0 then some (.qrd (e.a 6) (e.f 12 2) (e.f 11 1) (e.f 0 3))
  else if e.f 14 2 = 1 then some (.qwr (e.a 6) (e.f 12 2) (e.f 11 1) (e.f 0 3))
  else none

/-- Opcode 0x57 with tail-size code 2: QCFG. -/
noncomputable def candidate57_2 (e : Enc) : Option Instr :=
  some (.qcfg (e.f 6 3) (e.f 0 6))

/-- Opcode 0x59 with tail-size code 2: COPY. -/
noncomputable def candidate59_2 (e : Enc) : Option Instr :=
  some (.copy (e.a 6) (e.f 7 1) (e.f 4 3) (e.f 3 1) (e.f 0 3))

/-- Opcode 0x58 with tail-size code 2: GATHER. -/
noncomputable def candidate58_2 (e : Enc) : Option Instr :=
  some (.gather (e.a 6) (e.f 7 1) (e.f 4 3))

/-- Opcode 0x5A with tail-size code 2: COPYL. -/
noncomputable def candidate5A_2 (e : Enc) : Option Instr :=
  some (.copyl (e.a 6))

/-- Opcode 0x5B with tail-size code 1: COPYW, COPYW_ALL. -/
noncomputable def candidate5B_1 (e : Enc) : Option Instr :=
  if e.f 6 1 = 0 then some (.copyw (e.f 0 6))
  else if e.f 6 1 = 1 then some (.copywAll)
  else none

/-- Opcode 0x5C with tail-size code 2: PUTS. -/
noncomputable def candidate5C_2 (e : Enc) : Option Instr :=
  some (.puts (e.a 6) (e.f 0 2))

/-- Opcode 0x60 with tail-size code 1: BARR. -/
noncomputable def candidate60_1 (e : Enc) : Option Instr :=
  some (.barr (e.f 0 2))

/-- Opcode 0x60 with tail-size code 2: BWAIT. -/
noncomputable def candidate60_2 (e : Enc) : Option Instr :=
  some (.bwait (e.a 6) (e.f 6 6) (e.f 0 2))

/-- Opcode 0x61 with tail-size code 1: ROLLW. -/
noncomputable def candidate61_1 (e : Enc) : Option Instr :=
  some (.rollw (e.a 6) (e.f 6 2) (e.f 0 6))

/-- Opcode 0x67 with tail-size code 1: PHASE. -/
noncomputable def candidate67_1 (e : Enc) : Option Instr :=
  some (.phase (e.f 0 2))

/-- Opcode 0x62 with tail-size code 2: AMO_SWAP, AMO_CAS, AMO_FADD. -/
noncomputable def candidate62_2 (e : Enc) : Option Instr :=
  if e.f 30 2 = 0 then some (.amoSwap (e.a 6) (e.f 29 1) (e.f 14 6) (e.f 8 6) (e.f 0 8))
  else if e.f 30 2 = 1 then some (.amoCas (e.a 6) (e.f 29 1) (e.f 20 6) (e.f 14 6) (e.f 8 6) (e.f 0 8))
  else if e.f 30 2 = 2 then some (.amoFadd (e.a 6) (e.f 29 1) (e.f 14 6) (e.f 8 6) (e.f 0 8))
  else none

/-- Opcode 0x66 with tail-size code 2: REGION_SET, REGION_OFF, REGION_RD, REGION_RDC. -/
noncomputable def candidate66_2 (e : Enc) : Option Instr :=
  if e.f 16 2 = 0 then some (.regionSet (e.a 6) (e.f 6 6) (e.f 0 6))
  else if e.f 16 2 = 1 then some (.regionOff (e.a 6) (e.f 6 6) (e.f 0 6))
  else if e.f 16 2 = 2 then some (.regionRd (e.a 6) (e.f 6 6) (e.f 0 6))
  else if e.f 16 2 = 3 then some (.regionRdc (e.a 6) (e.f 6 6) (e.f 0 6))
  else none

/-- Opcode 0x63 with tail-size code 2: UPD. -/
noncomputable def candidate63_2 (e : Enc) : Option Instr :=
  some (.upd (e.a 6) (e.f 14 18) (e.f 8 6) (e.f 0 8))

/-- Opcode 0x63 with tail-size code 4: UPD_LONG. -/
noncomputable def candidate63_4 (e : Enc) : Option Instr :=
  some (.updLong (e.a 6) (e.f 14 50) (e.f 8 6) (e.f 0 8))

/-- Opcode 0x64 with tail-size code 2: UPDV. -/
noncomputable def candidate64_2 (e : Enc) : Option Instr :=
  some (.updv (e.a 5) (e.f 22 4) (e.f 19 3) (e.f 14 5) (e.f 8 6) (e.f 0 8))

/-- Opcode 0x65 with tail-size code 2: UFLUSH. -/
noncomputable def candidate65_2 (e : Enc) : Option Instr :=
  some (.uflush (e.f 6 6) (e.f 0 6))

/-- Opcode 0x68 with tail-size code 2: TLOAD, TSTORE, TZERO. -/
noncomputable def candidate68_2 (e : Enc) : Option Instr :=
  if e.f 30 2 = 0 then some (.tload (e.f 29 1) (e.f 26 3) (e.f 20 6) (e.f 8 6) (e.f 0 8))
  else if e.f 30 2 = 1 then some (.tstore (e.f 26 3) (e.f 20 6) (e.f 8 6) (e.f 0 8))
  else if e.f 30 2 = 2 then some (.tzero ⟨0, e.f 29 1⟩ (e.f 26 3))
  else none

/-- Opcode 0x68 with tail-size code 4: TLOAD_LONG, TSTORE_LONG, and TZERO, whose OFF is reserved (R403). -/
noncomputable def candidate68_4 (e : Enc) : Option Instr :=
  if e.f 30 2 = 0 then some (.tloadLong (e.f 32 32) (e.f 29 1) (e.f 26 3) (e.f 20 6) (e.f 8 6) (e.f 0 8))
  else if e.f 30 2 = 1 then some (.tstoreLong (e.f 32 32) (e.f 26 3) (e.f 20 6) (e.f 8 6) (e.f 0 8))
  else if e.f 30 2 = 2 then some (.tzero ⟨1, e.f 29 1⟩ (e.f 26 3))
  else none

/-- Opcode 0x69 with tail-size code 2: TMMA, TMMA_P, TMMA_G. -/
noncomputable def candidate69_2 (e : Enc) : Option Instr :=
  if e.f 30 2 = 0 then some (.tmma (e.a 6) (e.f 26 4) (e.f 21 1) (e.f 3 3) (e.f 0 3))
  else if e.f 30 2 = 1 then some (.tmmaP (e.a 6) (e.f 26 4) (e.f 25 1) (e.f 22 3) (e.f 21 1) (e.f 12 6) (e.f 6 6) (e.f 0 6))
  else if e.f 30 2 = 2 then some (.tmmaG (e.a 6) (e.f 26 4) (e.f 25 1) (e.f 22 3) (e.f 21 1) (e.f 12 6) (e.f 6 6) (e.f 0 6))
  else none

/-- Opcode 0x6A with tail-size code 2: PLOAD, PSWAP. -/
noncomputable def candidate6A_2 (e : Enc) : Option Instr :=
  if e.f 16 1 = 0 then some (.pload (e.f 25 1) (e.f 22 3) (e.f 6 6) (e.f 0 6))
  else if e.f 16 1 = 1 then some (.pswap)
  else none

/-- Opcode 0x6B with tail-size code 1: GBIND, GUNBIND. -/
noncomputable def candidate6B_1 (e : Enc) : Option Instr :=
  if e.f 6 2 = 0 then some (.gbind (e.f 0 4))
  else if e.f 6 2 = 1 then some (.gunbind (e.f 0 4))
  else none

/-- Opcode 0x6C with tail-size code 2: TDRAIN. -/
noncomputable def candidate6C_2 (e : Enc) : Option Instr :=
  some (.tdrain (e.a 6) (e.f 28 4) (e.f 24 4) (e.f 23 1) (e.f 22 1) (e.f 12 6) (e.f 6 6) (e.f 0 6))

/-- Opcode 0x6C with tail-size code 4: TDRAIN_IMM. -/
noncomputable def candidate6C_4 (e : Enc) : Option Instr :=
  some (.tdrainImm (e.a 6) (e.f 32 32) (e.f 28 4) (e.f 24 4) (e.f 23 1) (e.f 22 1) (e.f 12 6) (e.f 6 6))

/-- Opcode 0x6D with tail-size code 2: TBLLD, QUIZ. -/
noncomputable def candidate6D_2 (e : Enc) : Option Instr :=
  if e.f 16 2 = 0 then some (.tblld (e.f 14 2) (e.f 6 8) (e.f 0 6))
  else if e.f 16 2 = 1 then some (.quiz)
  else none

/-- Opcode 0x6E with tail-size code 2: TREEMUL, TREEADD, TCONV, TRESUME. -/
noncomputable def candidate6E_2 (e : Enc) : Option Instr :=
  if e.f 30 2 = 0 then some (.treemul (e.a 6) (e.f 6 6) (e.f 0 6))
  else if e.f 30 2 = 1 then some (.treeadd (e.a 6) (e.f 6 6) (e.f 0 6))
  else if e.f 30 2 = 2 then some (.tconv (e.a 6) (e.f 0 6))
  else if e.f 30 2 = 3 then some (.tresume)
  else none

/-- Opcode 0x6F with tail-size code 2: CONTRACT. -/
noncomputable def candidate6F_2 (e : Enc) : Option Instr :=
  some (.contract (e.f 0 6))

/-- Opcode 0x70 with tail-size code 2: TRY. -/
noncomputable def candidate70_2 (e : Enc) : Option Instr :=
  some (.tryPush (e.a 6) (e.f 6 6) (e.f 0 6))

/-- Opcode 0x70 with tail-size code 1: FAIL, CUT, MARK. -/
noncomputable def candidate70_1 (e : Enc) : Option Instr :=
  if e.f 14 2 = 1 then some (.fail)
  else if e.f 14 2 = 2 then some (.cut (e.f 0 6))
  else if e.f 14 2 = 3 then some (.mark (e.a 6))
  else none

/-- Opcode 0x71 with tail-size code 2: STT_B, STT_H, STT_W, STT_D. -/
noncomputable def candidate71_2 (e : Enc) : Option Instr :=
  if e.f 14 3 = 0 then some (.sttB (e.a 6) (e.f 17 15) (e.f 8 6) (e.f 0 8))
  else if e.f 14 3 = 1 then some (.sttH (e.a 6) (e.f 17 15) (e.f 8 6) (e.f 0 8))
  else if e.f 14 3 = 2 then some (.sttW (e.a 6) (e.f 17 15) (e.f 8 6) (e.f 0 8))
  else if e.f 14 3 = 3 then some (.sttD (e.a 6) (e.f 17 15) (e.f 8 6) (e.f 0 8))
  else none

/-- Opcode 0x71 with tail-size code 4: STT_B_LONG, STT_H_LONG, STT_W_LONG, STT_D_LONG. -/
noncomputable def candidate71_4 (e : Enc) : Option Instr :=
  if e.f 14 3 = 0 then some (.sttBLong (e.a 6) (e.f 17 46) (e.f 8 6) (e.f 0 8))
  else if e.f 14 3 = 1 then some (.sttHLong (e.a 6) (e.f 17 46) (e.f 8 6) (e.f 0 8))
  else if e.f 14 3 = 2 then some (.sttWLong (e.a 6) (e.f 17 46) (e.f 8 6) (e.f 0 8))
  else if e.f 14 3 = 3 then some (.sttDLong (e.a 6) (e.f 17 46) (e.f 8 6) (e.f 0 8))
  else none

/-- Opcode 0x72 with tail-size code 1: STEAL. -/
noncomputable def candidate72_1 (e : Enc) : Option Instr :=
  some (.steal (e.a 6) (e.f 0 6))

/-- Opcode 0x73 with tail-size code 2: SFRAME, SEARCHEND. -/
noncomputable def candidate73_2 (e : Enc) : Option Instr :=
  if e.f 6 1 = 0 then some (.sframe (e.f 0 6))
  else if e.f 6 1 = 1 then some (.searchend)
  else none

/-- Opcode 0x74 with tail-size code 2: ASUMM. -/
noncomputable def candidate74_2 (e : Enc) : Option Instr :=
  some (.asumm (e.f 9 1) (e.f 6 3) (e.f 0 6))

/-- Opcode 0x75 with tail-size code 2: ASCREEN. -/
noncomputable def candidate75_2 (e : Enc) : Option Instr :=
  some (.ascreen (e.f 9 1) (e.f 6 3) (e.f 0 6))

/-- Opcode 0x75 with tail-size code 5: ASCREEN_LONG. -/
noncomputable def candidate75_5 (e : Enc) : Option Instr :=
  some (.ascreenLong (e.f 40 9) (e.f 39 1) (e.f 38 1) (e.f 32 6) (e.f 9 1) (e.f 6 3) (e.f 0 6))

/-- Opcode 0x76 with tail-size code 2: XSEND, XRECV. -/
noncomputable def candidate76_2 (e : Enc) : Option Instr :=
  if e.f 16 1 = 0 then some (.xsend (e.a 5) (e.f 12 2) (e.f 6 6))
  else if e.f 16 1 = 1 then some (.xrecv (e.a 5) (e.f 12 2) (e.f 6 6))
  else none

/-- Opcode 0x77 with tail-size code 1: XCTL_CON, XCTL_DIS, XCTL_ST. -/
noncomputable def candidate77_1 (e : Enc) : Option Instr :=
  if e.f 14 2 = 0 then some (.xctlCon (e.f 12 2) (e.f 0 6))
  else if e.f 14 2 = 1 then some (.xctlDis (e.f 12 2))
  else if e.f 14 2 = 2 then some (.xctlSt (e.a 6) (e.f 12 2))
  else none

/-- Opcode 0x7F with tail-size code 0: NOP. -/
noncomputable def candidate7F_0 (_e : Enc) : Option Instr :=
  some (.nop)

/-- The entry that opcode and tail-size code select (R208), where k is head bits 15:6. Every other pair is reserved. -/
noncomputable def candidateAt (k : Nat) (e : Enc) : Option Instr :=
  match k with
  | 10 => candidate01_2 e
  | 18 => candidate02_2 e
  | 26 => candidate03_2 e
  | 34 => candidate04_2 e
  | 36 => candidate04_4 e
  | 42 => candidate05_2 e
  | 44 => candidate05_4 e
  | 49 => candidate06_1 e
  | 50 => candidate06_2 e
  | 52 => candidate06_4 e
  | 58 => candidate07_2 e
  | 66 => candidate08_2 e
  | 68 => candidate08_4 e
  | 74 => candidate09_2 e
  | 82 => candidate0A_2 e
  | 89 => candidate0B_1 e
  | 98 => candidate0C_2 e
  | 106 => candidate0D_2 e
  | 113 => candidate0E_1 e
  | 122 => candidate0F_2 e
  | 124 => candidate0F_4 e
  | 194 => candidate18_2 e
  | 202 => candidate19_2 e
  | 209 => candidate1A_1 e
  | 218 => candidate1B_2 e
  | 226 => candidate1C_2 e
  | 258 => candidate20_2 e
  | 259 => candidate20_3 e
  | 265 => candidate21_1 e
  | 266 => candidate21_2 e
  | 273 => candidate22_1 e
  | 274 => candidate22_2 e
  | 281 => candidate23_1 e
  | 288 => candidate24_0 e
  | 298 => candidate25_2 e
  | 321 => candidate28_1 e
  | 330 => candidate29_2 e
  | 337 => candidate2A_1 e
  | 345 => candidate2B_1 e
  | 346 => candidate2B_2 e
  | 353 => candidate2C_1 e
  | 354 => candidate2C_2 e
  | 362 => candidate2D_2 e
  | 372 => candidate2E_4 e
  | 370 => candidate2E_2 e
  | 377 => candidate2F_1 e
  | 386 => candidate30_2 e
  | 394 => candidate31_2 e
  | 402 => candidate32_2 e
  | 410 => candidate33_2 e
  | 418 => candidate34_2 e
  | 426 => candidate35_2 e
  | 434 => candidate36_2 e
  | 441 => candidate37_1 e
  | 442 => candidate37_2 e
  | 481 => candidate3C_1 e
  | 538 => candidate43_2 e
  | 540 => candidate43_4 e
  | 542 => candidate43_6 e
  | 530 => candidate42_2 e
  | 450 => candidate38_2 e
  | 458 => candidate39_2 e
  | 474 => candidate3B_2 e
  | 466 => candidate3A_2 e
  | 490 => candidate3D_2 e
  | 498 => candidate3E_2 e
  | 506 => candidate3F_2 e
  | 513 => candidate40_1 e
  | 521 => candidate41_1 e
  | 642 => candidate50_2 e
  | 644 => candidate50_4 e
  | 650 => candidate51_2 e
  | 652 => candidate51_4 e
  | 658 => candidate52_2 e
  | 660 => candidate52_4 e
  | 666 => candidate53_2 e
  | 668 => candidate53_4 e
  | 674 => candidate54_2 e
  | 682 => candidate55_2 e
  | 690 => candidate56_2 e
  | 697 => candidate57_1 e
  | 698 => candidate57_2 e
  | 714 => candidate59_2 e
  | 706 => candidate58_2 e
  | 722 => candidate5A_2 e
  | 729 => candidate5B_1 e
  | 738 => candidate5C_2 e
  | 769 => candidate60_1 e
  | 770 => candidate60_2 e
  | 777 => candidate61_1 e
  | 825 => candidate67_1 e
  | 786 => candidate62_2 e
  | 818 => candidate66_2 e
  | 794 => candidate63_2 e
  | 796 => candidate63_4 e
  | 802 => candidate64_2 e
  | 810 => candidate65_2 e
  | 834 => candidate68_2 e
  | 836 => candidate68_4 e
  | 842 => candidate69_2 e
  | 850 => candidate6A_2 e
  | 857 => candidate6B_1 e
  | 866 => candidate6C_2 e
  | 868 => candidate6C_4 e
  | 874 => candidate6D_2 e
  | 882 => candidate6E_2 e
  | 890 => candidate6F_2 e
  | 898 => candidate70_2 e
  | 897 => candidate70_1 e
  | 906 => candidate71_2 e
  | 908 => candidate71_4 e
  | 913 => candidate72_1 e
  | 922 => candidate73_2 e
  | 930 => candidate74_2 e
  | 938 => candidate75_2 e
  | 941 => candidate75_5 e
  | 946 => candidate76_2 e
  | 953 => candidate77_1 e
  | 1016 => candidate7F_0 e
  | _ => none

/-- The fields of an encoding, read as the opcode, the tail size and the function field say (R208). -/
noncomputable def candidate (e : Enc) : Option Instr := candidateAt (e.head / 64) e

/-- The instruction that a head and its tail hold, or why there is none (R210). -/
noncomputable def decode (e : Enc) : Except DecodeError Instr :=
  match candidate e with
  | none => .error .reservedEncoding
  | some i =>
    if encode i = some e then
      if wellFormed i then .ok i else .error .reservedCombination
    else .error .reservedBits

/-- A 64-byte line, byte 0 lowest (R195). -/
abbrev Line := BitVec 512

/-- N of the line word (R195). -/
def lineN (l : Line) : Nat := (l.extractLsb' 11 5).toNat

/-- F of the line word (R195). -/
def lineF (l : Line) : Bool := l.getLsbD 10

/-- Head k of a line, at bytes 2k and 2k + 1 (R195). -/
def lineHead (l : Line) (k : Nat) : Nat := (l.extractLsb' (16 * k) 16).toNat

/-- The tail-size code of head k. -/
def lineTsz (l : Line) (k : Nat) : Nat := lineHead l k / 64 % 8

/-- S(k + 1) of R197: the bytes of the tails of heads 1 to k. -/
def tailSum (l : Line) : Nat → Nat
  | 0 => 0
  | k + 1 => tailSum l k + tailBytes (lineTsz l (k + 1))

/-- No head from 1 to k has the reserved tail-size code. -/
def noReservedTsz (l : Line) : Nat → Bool
  | 0 => true
  | k + 1 => lineTsz l (k + 1) != 7 && noReservedTsz l k

/-- `line_ok` of R197. -/
def lineOk (l : Line) : Bool :=
  let n := lineN l
  n != 0 && (l.extractLsb' 0 10) == 0#10 && noReservedTsz l n && decide (2 * (n + 1) + tailSum l n ≤ 64)

/-- The value of the tail of head k (R197). -/
def lineTail (l : Line) (k : Nat) : Nat :=
  let s := tailBytes (lineTsz l k)
  let hi := 64 - tailSum l (k - 1)
  (l.toNat >>> (8 * (hi - s))) % 2 ^ (8 * s)

/-- The instruction at head index k of a line (R198, R200, R210). -/
noncomputable def decodeLine (l : Line) (k : Nat) : Except DecodeError Instr :=
  if lineOk l = false ∨ k = 0 ∨ lineN l < k then .error .lineFormat
  else decode ⟨lineHead l k, lineTail l k⟩

/-- A line whose one head and tail are given, that flows on into the next line (R195, R197). -/
def lineOf (e : Enc) : Line :=
  let s := tailBytes (e.head / 64 % 8)
  BitVec.ofNat 512 (0x0C00 + e.head * 0x10000 + (e.tail % 2 ^ (8 * s)) <<< (8 * (64 - s)))

/-- The encoding whose bits are w: the head in bits 15:0 and the tail above it, as far as nbits go; the rest is 0. -/
def encOfWord (nbits w : Nat) : Enc :=
  let v := w % 2 ^ nbits
  let s := tailBytes (v / 64 % 8)
  ⟨v % 0x10000, v / 0x10000 % 2 ^ (8 * s)⟩

/-- The instruction read from an encoding numbered as the opcode table numbers it: laid out as a line, and decoded. -/
noncomputable def decodeTableWord (nbits w : Nat) : Option Instr :=
  match decodeLine (lineOf (encOfWord nbits w)) 1 with
  | .ok i => some i
  | .error _ => none

end Sys2Proof
end

