-- ==== Sys2Proof/Config.lean ====
section
/-! DEFINITION. Config.lean: what an implementation fixes, and the free values. An opaque constant has no body that a
proof could use: a statement that mentions one holds for every value it might have. The choices that the spec leaves
to the device (R2) are applied to a counter of the state, so that each choice is a fresh one. -/

namespace Sys2Proof

/-- The device's n-th choice among permitted results (R2): a number the choosing rule reduces to its own range. -/
opaque Config.freeNat : Nat → Nat

/-- A fresh word where a rule permits any value (a word that a suspect chunk wrote, R188). -/
opaque Config.freeWord : Nat → Word

/-- The estimate of an operand (R335): a fixed function of the function code, the format code and the operand. -/
opaque Config.estimate : Nat → BitVec 4 → Nat → Nat

/-- The device identity's private key, before it is reduced to its range (R467): it never leaves the package. -/
opaque Config.identitySecret : Nat

/-- The number that a signing of a message uses, before it is reduced to its range (R467): the device draws it. -/
opaque Config.identityNonce : List Byte → Nat

/-- The serial number, 16 bytes (R467). -/
opaque Config.serialNumber : List Byte

/-- The key hash fused in the package (R466). -/
opaque Config.fusedKeyHash : List Byte

/-- The sectors, 1 to 8, that the Siliskop block code needs for a block of 256 bytes (R75). -/
opaque Config.blockSectors : List Byte → Nat

/-- The 64-bit hash of a stored block (R76). -/
opaque Config.blockHash : List Byte → BitVec 64

/-- The set of a slice, of 2,048, that a line maps to (R26, R81): the spec gives the ways and not the index. The model
reduces it to its range. -/
opaque Config.l2Set : Nat → Nat

/-- The set of the eaves buffer, of 64, that a block maps to (R76). The model reduces it to its range. -/
opaque Config.eavesSet : Nat → Nat

/-- The set of a cluster TLB, of 256, that a page maps to (R87). The model reduces it to its range. -/
opaque Config.tlbSet : Nat → Nat

/-- Where the service places the DRAM areas of its own (R75, R157, R172): a number per area that the model reduces to a
DRAM address of the area's alignment. -/
opaque Config.serviceArea : Nat → Nat

end Sys2Proof
end

