-- ==== Sys2Proof/Machine/Data.lean ====
section
/-! DEFINITION. Data.lean: the parts that the machine's state is made of. Harts are numbered by cr.coreid bits 13:0
(R15, R16), compute cores by bits 11:0, and clusters of the package by 64·die + cluster. Addresses are home addresses
(R89): a physical address below 2⁴⁸, or a place in one of the local memories above it (see Homes.lean). -/

namespace Sys2Proof.Machine

/-- Entries by key, in strictly rising order of key: what is not listed is as it is after reset. -/
abbrev Table (α : Type) := List (Nat × α)

/-- A context of a hart. -/
inductive Ctx where
  | main | handler
  deriving DecidableEq, Repr

/-- One 64-byte line image that a hart reads its heads from (R204). -/
structure LineImage where
  addr : Word
  bytes : BitVec 512
  deriving DecidableEq, Repr

/-- The main context of a hart: its PC, x0 to x63, v0 to v31 and the image of the line it is in (R17, R204). -/
structure MainCtx where
  pc : Word
  x : Vector Word 64
  v : Vector VWord 32
  image : Option LineImage
  deriving DecidableEq, Repr

/-- One run of the handler context (R38): its start, privilege and what its HRET does (R102, R416). -/
inductive RunKind where
  /-- A drain run: the row of the accumulator and where it leaves to (R416). -/
  | drain (row : Nat)
  /-- A scope-miss run: the tagged unit and the scope it must reach (R102). -/
  | scopeMiss (unit : Nat) (scope : BitVec 3)
  deriving DecidableEq, Repr

/-- A pending or active run (R38, R39): x4, x5 and x6 are set from it, and x4 to x6 only. -/
structure Run where
  kind : RunKind
  entry : Word
  prv : BitVec 2
  x4 : Word
  x5 : Word
  x6 : Word
  deriving DecidableEq, Repr

/-- The handler context: its own PC, x0 to x15 and v0 to v7 (R38), and the active run. -/
structure HandlerCtx where
  pc : Word
  x : Vector Word 16
  v : Vector VWord 8
  image : Option LineImage
  run : Option Run
  /-- The fence of the active scope-miss run is already made at its scope or wider (R102). -/
  fenced : Bool
  deriving DecidableEq, Repr

/-- One copy of cr.cause, cr.epc, cr.tval and cr.tvec (R177). -/
structure TrapRegs where
  cause : Word
  epc : Word
  tval : Word
  tvec : Word
  deriving DecidableEq, Repr

/-- The pending interrupts of a hart (R176, R183). -/
structure Pending where
  /-- MACHINE_CHECK with its subcause and cr.tval. -/
  machineCheck : Option (BitVec 8 × Word)
  taskLimit : Option Word
  service : Option Word
  handlerFault : Option Word
  /-- COMPANION_TRAP, loader before storer, by their cr.tval (R45). -/
  companion : List Word
  deriving DecidableEq, Repr

/-- The trap and interrupt state of a hart (R177, R178). -/
structure TrapState where
  status : Word
  sup : TrapRegs
  mach : TrapRegs
  pend : Pending
  deriving DecidableEq, Repr

/-- The control registers that stand alone (R278). -/
structure SysRegs where
  smvec : Word
  ptbase : Word
  winmap : Word
  uhandler : Word
  xfer : Word
  fflags : Word
  mflags : Word
  fence : Word
  tasklim : Word
  preempt : Word
  /-- The PARK and FLOOR that wait for the running task's retirement while REQ is 1 (R171). -/
  preemptNext : Word
  /-- What cr.cycle, cr.time and cr.instret are ahead of the device's clocks (R279, machine writes). -/
  cycleOff : Word
  timeOff : Word
  instret : Word
  deriving DecidableEq, Repr

/-- Matrix and table registers (R122, R398, R399). -/
structure MatRegs where
  afmt : Word
  bfmt : Word
  cfmt : Word
  ascale : Word
  bscale : Word
  tbl : Word
  deriving DecidableEq, Repr

/-- Tree registers (R139). -/
structure TreeRegs where
  treeset : Word
  rankcap : Word
  tflags : Word
  npool : Word
  dpool : Word
  tresume : Word
  deriving DecidableEq, Repr

/-- A tile register: 16 rows of up to 16·32 bits, and its format tag (R404). -/
structure Tile where
  rows : Vector (BitVec 512) 16
  tag : BitVec 4
  deriving DecidableEq, Repr

/-- The contents of a table slot (R120): 256 e8m10 entries and the T4 map. -/
structure DecodeTable where
  entries : List (BitVec 19)
  t4 : List Nat
  deriving DecidableEq, Repr

/-- A stream slot (R350, R351): cr.strm's fields, the descriptor, and the strips held ahead. -/
structure Stream where
  en : Bool
  flt : Bool
  reg : BitVec 3
  left : Nat
  held : List VWord
  /-- The next strip to refill. -/
  next : Nat
  base : Word
  s0 : Word
  s1 : Word
  s2 : Word
  c0 : Nat
  c1 : Nat
  c2 : Nat
  qual : BitVec 8
  /-- The table root and privilege it was bound under, and the serial of the stores it reads after (R104, R354). -/
  root : Word
  prv : Nat
  after : Nat
  /-- The fault of a refill, as cause and cr.tval (R354). -/
  fault : Option (Word × Word)
  deriving DecidableEq, Repr

/-- A byte that waits in a store buffer, with the bits of it that are written (R345: 4-bit stores). -/
structure MaskedByte where
  addr : Nat
  val : Byte
  mask : Byte
  deriving DecidableEq, Repr

/-- A piece of a translated range: virtual address, length in bytes, home address, and whether its page is
sync-class (R82, R85). -/
structure Piece where
  va : Nat
  len : Nat
  home : Nat
  sync : Bool
  deriving DecidableEq, Repr

/-- A translated range: its pieces in order. -/
abbrev Spans := List Piece

/-- What a store-buffer entry does at its home (R62, R51, R108, R347, R349, R396). -/
inductive StoreOp where
  /-- Bytes of one access within one aligned 8-byte word. -/
  | write (cells : List MaskedByte)
  /-- A write of the search unit into its block, trail or choice stack (R426, R428). -/
  | unitWrite (cells : List MaskedByte)
  /-- A store of the core that changes TLIM or CLIM of the running search: the unit takes the limits when it is
  performed (R426). -/
  | limits (cells : List MaskedByte)
  /-- CLRE: the full–empty bit of the word becomes empty. -/
  | clre (word : Nat)
  /-- A queue write of one element (R51), with the home and length of the queue's ring, in which it gets its place when it is
  performed. -/
  | queue (q : BitVec 3) (data : List Byte) (ring len : Nat)
  /-- An update: address, size in bytes and value (R392). -/
  | update (pa : Nat) (size : Nat) (val : Word)
  /-- CLEAN and FLUSH of a line or block (R349). -/
  | clean (unit : Nat) (drop : Bool)
  /-- UFLUSH: the lines it covers (R396). -/
  | uflush (lines : List Nat)
  /-- A release fence at a scope, and whether a handler run issued it (R99, R102). -/
  | fence (scope : BitVec 3) (run : Bool)
  deriving DecidableEq, Repr

/-- A store-buffer entry in program order (R40): its operation, qualifier, and whether its page is sync-class (R82). -/
structure StoreEntry where
  op : StoreOp
  qual : BitVec 8
  sync : Bool
  /-- The bell phase the entry counts toward, per context (R57). -/
  serial : Nat
  deriving DecidableEq, Repr

/-- One translation (R87): the table root it came from, the page and its size, and the entry. -/
structure TlbEntry where
  root : Word
  page : Nat
  shift : Nat
  pte : Word
  deriving DecidableEq, Repr

/-- What a registrar does for a request (R112, R383). -/
inductive RegOp where
  | load (addr size : Nat)
  | swap (addr size : Nat) (val : Word)
  | cas (addr size : Nat) (old new : Word)
  | fadd (addr size : Nat) (val : Word)
  deriving DecidableEq, Repr

/-- What a registrar answers: the value, or the poisoned word that the request met (R113, R184). -/
inductive RegReply where
  | value (v : Word)
  | poisoned (w : Nat)
  deriving DecidableEq, Repr

/-- A request to a registrar, keyed by its requester and sequence (R113). -/
structure RegRequest where
  hart : Nat
  seq : BitVec 16
  op : RegOp
  qual : BitVec 8
  deriving DecidableEq, Repr

/-- Why a context is parked or held (R62). -/
inductive Why where
  | queue (q : BitVec 3)
  /-- At a word's full–empty bit; an LDF takes a copy of what fills it (R347), as an acquire read or as a plain one. -/
  | fullEmpty (word : Nat) (copy acquire : Bool)
  | counter | bell | bellPhase | queueEmpty | copyw | gang | thatcher | screener | channel
  | stream | steal | sleep | pause | drain | registrar | engine | limit | reply | noRuns | taskend
  /-- At a held unit (R101). -/
  | scopeMiss (unit : Nat)
  /-- An engine's places, at a held unit, for room or behind a registrar's requests (R101, R112). -/
  | places (l : Spans)
  /-- A translation has met the poisoned table entry at this address (R184). -/
  | poisoned (a : Nat)
  /-- A plain load that races an engine has read these bytes already, by home (R105). -/
  | words (seen : List Host.Cell)
  deriving DecidableEq, Repr

/-- A parked context: why, since which cycle, until which cycle at most, and the value that an LDF which waits here has
received (R347). -/
structure Park where
  why : Why
  since : Nat
  until_ : Option Nat
  value : Option Word
  deriving DecidableEq, Repr

/-- The A operand of a TMMA (R406). -/
inductive ASource where
  | tile (t : Tile)
  | panel (rows : List Spans)
  deriving DecidableEq, Repr

/-- The B operand of a TMMA (R406): a tile or the active plane. -/
inductive BSource where
  | tile (t : Tile)
  | plane
  deriving DecidableEq, Repr

/-- The commands of a matrix engine (R401). -/
inductive MatOp where
  | mma (acc pitch depth : Nat) (zero : Bool) (a : ASource) (b : BSource) (gang : Bool)
  | pload (src : Spans) (count : Nat)
  | pswap
  | drain (acc pitch rows : Nat) (hz : Bool) (handler : Option Word) (prv : BitVec 2) (dest dpitch : Word)
      (rowsTo : List Spans)
  | tblld (slot : BitVec 2) (id : BitVec 8) (table : DecodeTable)
  | quiz
  deriving DecidableEq, Repr

/-- A committed matrix-engine command with the registers it sampled (R401) and the event it requested (R407). -/
structure MatCmd where
  op : MatOp
  fa : BitVec 4
  fb : BitVec 4
  fc : BitVec 4
  ea : Int
  eb : Int
  event : Option (BitVec 3)
  /-- The state of the decode tables of the issuing context at commit, by slot (R123). -/
  tables : List (Option DecodeTable)
  /-- It reads after the issuer's stores of lower serial (R104). -/
  after : Nat
  deriving DecidableEq, Repr

/-- The command is a gang TMMA (R406). -/
def MatCmd.isGang (c : MatCmd) : Bool :=
  match c.op with
  | .mma _ _ _ _ _ _ g => g
  | _ => false

/-- The matrix engine of a compute core (R52, R401, R188). -/
structure MatEngine where
  /-- The two-entry command queue, oldest first (R52). -/
  queue : List MatCmd
  /-- The started command, and the number of chunks it has retired or rows it has placed. -/
  run : Option (MatCmd × Nat)
  /-- Operands-consumed events that are due, by counter (R407). -/
  events : List (BitVec 3)
  /-- Which physical plane is the active one (R409). -/
  plane : Bool
  /-- Engine cycles and chunks since the last passing quiz product (R188). -/
  activity : Nat
  chunks : Nat
  /-- The flags of the started command, which land when it completes (R131). -/
  flags : BitVec 5
  /-- Rows whose destination writes a drain run has yet to make or skip (R416). -/
  rowsLeft : Nat
  /-- The started gang TMMA ends with the chunk in progress: its gang was unbound (R59). -/
  stopping : Bool
  /-- The sub-arrays that have become faulty, one bit each (R188). -/
  bad : BitVec 4
  deriving DecidableEq, Repr

/-- One end of a transfer (R74, R361): the places translated at commit, or a queue. -/
inductive XferEnd where
  | memory (spans : Spans)
  | queue (q : BitVec 3)
  deriving DecidableEq, Repr

/-- A layout record (R364). -/
structure Layout where
  base : Word
  loc : Nat
  fmt : BitVec 4
  tgt : Nat
  boff : Nat
  extents : List Nat
  pitches : List Int
  /-- The bytes it covers, translated at commit: by virtual address or by offset. -/
  spans : Spans
  deriving DecidableEq, Repr

/-- What a transfer moves (R361, R363, R366, R368): a gather's source is its elements' places in turn. -/
inductive XferOp where
  | copy (src dst : XferEnd) (len : Nat)
  | copyl (src dst : Layout)
  deriving DecidableEq, Repr

/-- A committed transfer command (R359): its issuer, operation and completion. -/
structure Xfer where
  hart : Nat
  op : XferOp
  xid : BitVec 16
  int : Bool
  handler : Word
  /-- PUTS: the bell context and class whose superstep waits for it (R368). -/
  bell : Option (BitVec 2 × Word)
  /-- It reads after the issuer's stores of lower serial (R104). -/
  after : Nat
  /-- Bytes of a queue transfer moved so far (R361). -/
  moved : Nat
  /-- Offsets of destination words beyond those that are already written: outside TCM and the scratchpad a transfer
  writes its words in any order (R105, R106). -/
  ahead : List Nat
  /-- Bytes taken from a queue that wait for the rest of their destination word (R105, R106). -/
  buf : List Byte
  /-- It writes its destination words in ascending order wherever they lie: a GATHER (R363). -/
  ordered : Bool
  /-- The queue it names was disabled: it moves nothing more (R48). -/
  ended : Bool
  /-- The writes are performed; the completion event waits for room in its FIFO (R186). -/
  done : Bool
  squal : BitVec 8
  dqual : BitVec 8
  deriving DecidableEq, Repr

/-- A user-level completion event (R186). -/
structure UserEvent where
  xid : BitVec 16
  handler : Word
  deriving DecidableEq, Repr

/-- The running search of a core (R425, R426): its block's offset and the fields the search unit holds. -/
structure Search where
  block : Nat
  fbase : Nat
  flen : Nat
  tbase : Nat
  tlim : Nat
  ttop : Nat
  cbase : Nat
  clim : Nat
  ctop : Nat
  exit : Word
  stolen : Bool
  cancel : Bool
  vcore : Nat
  vcp : Nat
  vtoken : BitVec 16
  nseq : BitVec 16
  deriving DecidableEq, Repr

/-- A chunk in a transform channel (R447). -/
structure Chunk where
  data : VWord
  tag : BitVec 16
  src : Nat
  deriving DecidableEq, Repr

/-- What a theft gave its thief (R439). -/
structure Theft where
  status : Nat
  victim : Nat
  cp : Nat
  token : BitVec 16
  xa : BitVec 6
  alt : Nat
  resume : Word
  snaps : List (Nat × Word)
  /-- A cancellation of the stolen alternative has reached the thief already (R441). -/
  cancel : Bool
  deriving DecidableEq, Repr

/-- A task the dispatcher holds (R154 to R161). -/
structure Task where
  record : TaskRecord
  queue : Nat
  /-- The cycle it became ready, once it is (R161). -/
  ready : Option Nat
  /-- Its place in the order of acceptance. -/
  order : Nat
  /-- The graph instance and task it belongs to (R172). -/
  graph : Option (Nat × Nat)
  /-- The place of the queue's overflow area that holds it, when one does (R157). -/
  overflow : Option Nat
  deriving DecidableEq, Repr

/-- What a compute core's running task is, and since which cycle (R53). -/
structure Running where
  task : Task
  since : Nat
  /-- TASK_LIMIT was raised (R169). -/
  limited : Bool
  deriving DecidableEq, Repr

/-- What a hart is doing. -/
inductive Activity where
  /-- A compute core without a task; a service core before its start message. -/
  | idle
  /-- A stopped companion; TRP of R46 says whether by a trap. -/
  | stopped (trp : Bool)
  | running
  deriving DecidableEq, Repr

/-- The queue registers of a compute core (R47): cr.qctl0 to cr.qctl7, and where each queue's oldest element lies. -/
structure Queues where
  ctl : Vector Word 8
  head : Vector Nat 8
  deriving DecidableEq, Repr

/-- The bell contexts of a compute core (R370, R375). -/
structure Bells where
  roll : Vector Word 4
  /-- The fenced cores that the latest ROLLW acknowledged, per context. -/
  acked : Vector (List Nat) 4
  /-- The class values that this core has left by ROLLW and not written again, per context (R374), each with the serials of the
  core's, its loader's and its storer's next store-buffer entries as it left: the updates below them count (R57). -/
  left : Vector (List (Word × List Nat)) 4
  deriving DecidableEq, Repr

/-- The gang state of a core (R58, R413). -/
structure Gang where
  gang : Option (BitVec 4)
  lost : Option (BitVec 4)
  /-- The GBIND or GUNBIND that this core has issued and that waits for the others. -/
  bind : Option (BitVec 4)
  unbind : Option (BitVec 4)
  /-- The gang TMMA that this core has arrived at and that waits for the others (R414). -/
  command : Option MatCmd
  deriving DecidableEq, Repr

/-- The transform channels of a core (R447): connections of the outputs, and the chunks of the inputs. -/
structure Channels where
  out : Vector (Option (BitVec 14)) 4
  inp : Vector (List Chunk) 4
  deriving DecidableEq, Repr

/-- The handler runs of a core (R39, R41, R301). -/
structure HandlerQueue where
  fifo : List Run
  /-- Scope-miss messages that wait at the core's port while the FIFO is full. -/
  port : List Run
  hold : Bool
  /-- The level whose ERET lets the runs after a HANDLER_FAULT start: 1 supervisor, 2 machine (R41). -/
  blocked : Option Nat
  deriving DecidableEq, Repr

/-- The memory interface of a hart. -/
structure MemIf where
  sb : List StoreEntry
  tlb : List TlbEntry
  /-- How many overwritten words the state recorded at the last FENCE.I (R204). -/
  since : Nat
  /-- The next registrar sequence, the request that waits for its reply, and the reply (R113). -/
  regSeq : BitVec 16
  regWait : Option RegRequest
  regReply : Option RegReply
  /-- The context that the request serves. -/
  regCtx : Ctx
  /-- The latest request, which the fabric may repeat (R113). -/
  regLast : Option RegRequest
  /-- The last 64 replies, by sequence (R113). -/
  replies : List (BitVec 16 × RegReply)
  /-- The next serial of a store-buffer entry. -/
  serial : Nat
  deriving DecidableEq, Repr

/-- The copy side of a hart: its own two-entry queue into the engine (R359), and, on the core that owns the engine,
the transfers in progress and the completion events (R186). -/
structure CopySide where
  queue : List Xfer
  active : List Xfer
  events : List UserEvent
  /-- Whose command starts next, by kind, in round-robin order. -/
  turn : Nat
  deriving DecidableEq, Repr

/-- What the thatcher or the screener answers a waiting instruction with. -/
inductive Answer where
  | done
  | value (v : Word)
  | trap (cause tval : Word) (after : Bool)
  deriving DecidableEq, Repr

/-- A hart with everything the spec gives it. A hart of another kind than a compute core holds only the parts R278,
R17 and R18 give its kind; the others keep their reset values. -/
structure Hart where
  act : Activity
  halted : Bool
  main : MainCtx
  handler : HandlerCtx
  traps : TrapState
  sys : SysRegs
  mat : MatRegs
  tree : TreeRegs
  p : Vector Word 8
  e : Vector VWord 8
  tiles : Vector Tile 8
  tables : Vector (Option DecodeTable) 4
  mc : Vector (BitVec 32) 8
  queues : Queues
  bells : Bells
  streams : Vector Stream 4
  mem : MemIf
  runs : HandlerQueue
  park : Option Park
  hpark : Option Park
  engine : MatEngine
  copy : CopySide
  gang : Gang
  search : Option Search
  theft : Option Theft
  chan : Channels
  task : Option Running
  /-- The answer that the thatcher, screener or dispatcher has given the instruction this hart waits in. -/
  answer : Option Answer
  /-- A companion that a write of RUN 0 stops at its next head boundary (R46). -/
  stopReq : Bool
  deriving DecidableEq, Repr

/-- A task queue (R157 to R159). -/
structure TaskQueue where
  live : Bool
  gen : BitVec 16
  stealable : Bool
  ovAddr : Word
  ovSize : Nat
  deriving DecidableEq, Repr

/-- The dispatcher of a cluster (R24). -/
structure Dispatcher where
  /-- Queues 4 to 255 that exist; queues 0 to 3 always do. -/
  queues : Table TaskQueue
  /-- The last generation of each queue index (R157). -/
  gens : Table (BitVec 16)
  tasks : List Task
  order : Nat
  agelimit : Word
  /-- The cycle of the last round of steal probes, and the clusters still to probe (R165). -/
  probeAt : Option Nat
  probing : List Nat
  deriving DecidableEq, Repr

/-- A frame of the thatcher's walk (R149): the block's index, and bits 3:0. -/
structure Frame where
  block : Nat
  sum : Bool
  k : Bool
  quad : BitVec 2
  deriving DecidableEq, Repr

/-- The operations of the thatcher (R149). -/
inductive TreeKind where
  | mul | add | conv | contract
  deriving DecidableEq, Repr

/-- What a tree operation samples when it starts (R140). -/
structure TreeSample where
  tset : BitVec 16
  tfl : BitVec 2
  cap : Nat
  fa : BitVec 4
  fb : BitVec 4
  fc : BitVec 4
  ea : Int
  eb : Int
  deriving DecidableEq, Repr

/-- A pool descriptor as read (R146). -/
structure Pool where
  desc : Word
  base : Nat
  limit : Nat
  next : Nat
  gen : BitVec 16
  deriving DecidableEq, Repr

/-- An operand of CONTRACT (R152): base, kind, element format, log2 of the block edge, and words 2 and 3. -/
structure ConOperand where
  base : Word
  kind : Nat
  fmt : BitVec 4
  edge : Nat
  ptrs : Word
  cols : Word
  deriving DecidableEq, Repr

/-- A parameter block of CONTRACT (R152): the index strings, the extents and the operands. -/
structure Contract where
  idxA : List Nat
  idxB : List Nat
  idxC : List Nat
  acc : Bool
  ext : List Nat
  opA : ConOperand
  opB : ConOperand
  opC : ConOperand
  deriving DecidableEq, Repr

/-- The running tree or CONTRACT operation of a cluster (R141, R149, R423). -/
structure TreeRun where
  core : Nat
  kind : TreeKind
  a : Word
  b : Word
  dest : Word
  smp : TreeSample
  npool : Pool
  dpool : Pool
  frames : List Frame
  steps : Nat
  finished : Bool
  con : Option Contract
  /-- The core that the step under way runs on (R142), and the chunks of it that each engine has retired, with whether any
  was formed by a faulty sub-array (R188). -/
  at_ : Option Nat
  spent : List (Nat × Nat × Bool)
  deriving DecidableEq, Repr

/-- A tree instruction that waits for the thatcher (R421): the core, its operand addresses, and CONTRACT's block. -/
structure TreeWait where
  core : Nat
  kind : TreeKind
  resume : Bool
  a : Word
  b : Word
  dest : Word
  con : Option Contract
  deriving DecidableEq, Repr

/-- A request to the block screener (R442). -/
inductive ScreenOp where
  | summ (keys mean rad : Word) (kpitch d m : Nat) (fmt : BitVec 4)
  | screen (q means rads mask list cnt : Word) (nkb qpitch d g nq k : Nat) (qfmt : BitVec 4) (recent sink : Bool)
  deriving DecidableEq, Repr

/-- A screener request with its issuer and the counter it increments (R442). -/
structure ScreenReq where
  core : Nat
  op : ScreenOp
  done : Option (BitVec 3)
  tables : List (Option DecodeTable)
  /-- Every range it reads or writes, translated at commit. -/
  spans : Spans
  deriving DecidableEq, Repr

/-- The states of a logical loft block other than Zero (R75), with the physical block and its sectors. -/
inductive BlockState where
  | priv (phys : Nat) (sectors : Nat)
  | shared (phys : Nat) (sectors : Nat)
  | overflowed
  deriving DecidableEq, Repr

/-- A reader of the loft that the expander may decode ahead for (R79): the block screener, a stream slot of a core, the
copy engine that a core owns, or the cluster's block-transfer engine at a core's COPYL. -/
inductive Reader where
  | screener (cluster : Nat)
  | stream (core slot : Nat)
  | copy (core : Nat)
  | block (core : Nat)
  deriving DecidableEq, Repr

/-- The loft controller and eaves buffer of a cluster (R75 to R79). -/
structure Loft where
  map : Table BlockState
  /-- The 256 bytes that each stored physical block holds, by its number (R75). -/
  blocks : Table (List Byte)
  /-- Blocks held expanded: block, dirty, eviction priority, and time of last use. -/
  eaves : List (Nat × Bool × BitVec 3 × Nat)
  /-- Decode-ahead places: reader, the block it read last, and the time of that read (R79). -/
  places : List (Reader × Nat × Nat)
  /-- The readers that have no place, in the order of their first sequential read, as the places are (R79). -/
  waiting : List (Reader × Nat × Nat)
  /-- Logical blocks pending as a detach, with the physical block they left (R77). -/
  detached : List (Nat × Nat)
  deriving DecidableEq, Repr

/-- A cluster with its shared units. -/
structure Cluster where
  disp : Dispatcher
  treeWait : List TreeWait
  treeRun : Option TreeRun
  screener : List ScreenReq
  copyl : List Xfer
  /-- The core index after that of the last COPYL request served (R366). -/
  copylTurn : Nat
  loft : Loft
  tlb : List TlbEntry
  fenced : Bool
  wear : Word
  deriving DecidableEq, Repr

/-- An update region (R384, R386). -/
structure Region where
  en : Bool
  base : Nat
  len : Nat
  spill : Nat
  splen : Nat
  ordered : Bool
  op : BitVec 4
  flags : BitVec 5
  deriving DecidableEq, Repr

/-- An accepted update that is not yet applied (R110, R387), with the spilled run that holds it: 0 while it is in a bin. -/
structure GutterEntry where
  region : Nat
  addr : Nat
  size : Nat
  val : Word
  emitter : Nat
  serial : Nat
  run : Nat
  deriving DecidableEq, Repr

/-- An L2 line (R81): its line number (of a decode-ahead line, the loft byte's home over 64), its eviction
priority, whether it is dirty, whether it is a decode-ahead line and used, and the time of its last use. -/
structure L2Line where
  line : Nat
  evict : BitVec 3
  dirty : Bool
  ahead : Bool
  used : Bool
  stamp : Nat
  deriving DecidableEq, Repr

/-- A compute die with its shared units. -/
structure Die where
  regions : Table Region
  gutter : List GutterEntry
  registrar : List RegRequest
  tlb : List TlbEntry
  l2 : List L2Line
  /-- Old cluster and queue to new cluster and queue (R192). -/
  redirect : List (Nat × Nat × Nat × Nat)
  deriving DecidableEq, Repr

/-- What a hart's release tag on a home unit says (R100): writer and scope, whether the unit is a word of a sync-class
page, and whether a lift at system scope has freed the unit to be a victim (R101). -/
structure Tag where
  writer : Nat
  scope : BitVec 3
  sync : Bool
  freed : Bool
  deriving DecidableEq, Repr

/-- A hold on a home unit (R101): the writer and the scope of the tag that an acquire met, which stand whatever becomes of the
tag; the scope that the message named, whether the writer's fence is made and the lift is on its way (R102), whether the message makes room for a line that waits to be filled (R101), and the serial below which
the writer's entries and messages must be performed when its core or memory interface makes the fence by itself (R103,
R472). -/
structure Hold where
  writer : Nat
  inner : BitVec 3
  scope : BitVec 3
  lifted : Bool
  /-- An acquire from outside the tag's scope has arrived: accesses from outside wait. -/
  held : Bool
  fill : Bool
  auto : Option Nat
  deriving DecidableEq, Repr

/-- What waits at a held unit (R101): an access of a context, or a store-buffer entry of a hart. -/
inductive Waiter where
  | access (h : Nat) (ctx : Ctx)
  | entry (h serial : Nat)
  deriving DecidableEq, Repr

/-- What travels between the parts of the module and has not arrived. -/
inductive Packet where
  /-- A message payload (R297), with its place among the accesses of its sender. -/
  | msg (src target slot : Nat) (data : List Byte) (mc : BitVec 3) (serial : Nat)
  /-- An ENQ with its status address (R292). -/
  | enq (src : Nat) (handle : Word) (record : TaskRecord) (status : Nat) (mc : BitVec 3)
  /-- The reply to an ENQ or LAUNCHG (R292, R295). -/
  | reply (dst status : Nat) (code : Nat) (mc : BitVec 3)
  /-- A LAUNCHG with its patch words (R295). -/
  | launchg (src : Nat) (handle : Word) (patch : List Word) (status : Nat) (mc : BitVec 3)
  /-- A chunk of XSEND (R449). -/
  | chunk (target : Nat) (ch : Nat) (c : Chunk)
  /-- A cancellation: thief, victim, choice point and token (R441). -/
  | cancel (thief victim cp : Nat) (token : BitVec 16)
  /-- A completion: thief, victim, choice point and token (R441). -/
  | complete (thief victim cp : Nat) (token : BitVec 16)
  /-- A steal request to a victim's search unit (R439). -/
  | theft (thief victim : Nat)
  /-- A BARR's arrival on its way to the bell network (R380): core, context, phase, and the serial its release waits for. -/
  | arrival (core bell : Nat) (phase : BitVec 8) (serial : Nat)
  /-- A steal probe from a cluster to another of its die (R165). -/
  | probe (src dst : Nat)
  /-- A task that a probed dispatcher gave (R165). -/
  | stolen (dst : Nat) (t : Task)
  /-- A region table operation (R390): hart, die, index and the new region. -/
  | region (src die idx : Nat) (new : Option Region)
  deriving DecidableEq, Repr

/-- A captured graph (R172). -/
structure Graph where
  gen : BitVec 16
  body : GraphBody
  deriving DecidableEq, Repr

/-- A live instance of a graph (R172, R173): its parameter copy, and the tasks that have not retired. -/
structure GraphInstance where
  id : Nat
  graph : Nat
  params : List Byte
  /-- Where its tasks see the copy: the virtual address of its first byte. -/
  arg : Word
  left : List Nat
  waiting : List Nat
  body : GraphBody
  deriving DecidableEq, Repr

/-- A request that has begun and is not answered (R456): its header and its payload, the places that its range was translated to
when it began, and the words that a transfer has moved, by offset. -/
structure Work where
  req : Request
  payload : List Byte
  spans : Spans
  moved : List (Nat × List Byte)
  deriving DecidableEq, Repr

/-- An endpoint of the transport (R456): the last SEQ, the recorded replies by SEQ, header and all (R453), and the request that
has begun and is not answered. -/
structure Endpoint where
  last : Option Word
  replies : List (Word × List Byte)
  work : Option Work
  deriving DecidableEq, Repr

/-- An event-log record (R458). -/
structure LogRecord where
  kind : Nat
  time : Nat
  who : Word
  arg : Word
  deriving DecidableEq, Repr

/-- A checkpoint image held by the safe tier (R457): memory, full–empty bits and poison. -/
structure TierImage where
  mem : List Host.Cell
  full : List Nat
  poison : List Nat
  deriving DecidableEq, Repr

/-- A checkpoint or restore under way (R457): the endpoint and SEQ to reply to, none once the endpoint was established anew
(R456), and where the image is; of a checkpoint, the cr.preempt of every core as it was, with what was pending of it. -/
inductive TierOp where
  | checkpoint (ep : Option Nat) (seq : Word) (tier addr : Word) (was : Table (Word × Word))
  | restore (ep : Option Nat) (seq : Word) (tier addr : Word)
  /-- The restore that recovery from a die failure runs, of the image at an address (R457). -/
  | recover (tier addr : Word)
  deriving DecidableEq, Repr

/-- The service and the outside of the module (R451 to R471). -/
structure Device where
  /-- The Zarval service runs; before it only the ROM stage does (R456). -/
  service : Bool
  job : BitVec 32
  endpoints : Table Endpoint
  log : List LogRecord
  logOverflow : Nat
  graphs : Table Graph
  instances : List GraphInstance
  /-- The DRAM that the service has taken for itself, by address and length: overflow areas of default queues, copies of
  parameter blocks and nodes of tables. -/
  areas : List (Nat × Nat)
  /-- Launches that wait, by graph, with the parameter copy made at their acceptance (R173). -/
  launchQueue : List (Nat × List Byte)
  nextId : Nat
  portErrors : Table Nat
  tier : List (Word × Word × TierImage)
  tierOp : Option TierOp
  /-- The endpoint whose LOAD_IMAGE the ROM stage checks (R466). -/
  checking : Option Nat
  bootStatus : BitVec 8
  imageHash : List Byte
  rollback : BitVec 32
  podN : Nat
  podM : Nat
  podEndpoints : List Nat
  passGen : BitVec 16
  passAt : Nat
  /-- Modules this module has delivered data to since its last fence, and acknowledgements awaited (R459). -/
  podDirty : List Nat
  podWait : List Nat
  /-- Parts of pod-level completions that the fence messages of other modules have reported: module, context and class (R372). -/
  podParts : List (Nat × Nat × Word)
  /-- This module's own parts that its fence messages have reported: context and class (R372). -/
  podSent : List (Nat × Word)
  acked : List Nat
  /-- Modules to which a stop message has been sent (R457). -/
  stops : List Nat
  /-- Task records sent to other modules, by module (R460). -/
  sent : List (Nat × List TaskRecord)
  /-- The hall pass as this module last forwarded it. -/
  passOut : Option HallPass
  /-- The latest reply sent: the endpoint, and its header and payload (R453). -/
  lastReply : Option (Nat × List Byte)
  deriving DecidableEq, Repr

/-- Sensors and the SMBus side-band (R470, R471). -/
structure Board where
  watts : Nat
  temps : List Nat
  centivolts : Nat
  clockMHz : Nat
  cap : Nat
  capNext : Nat
  /-- What the slave sent in the latest SMBus read: of a block its length, the data, lowest byte first, and the PEC (R471). -/
  smbus : List Byte
  /-- Flits replayed by the links (R187). -/
  replays : Nat
  deriving DecidableEq, Repr

/-- One turn of the environment's script: who moves next, and the time that passes before it. -/
inductive Move where
  | hart (h : Nat) (ctx : Ctx)
  | event (i : Instr)
  deriving DecidableEq, Repr

/-- A turn: the move, and the cycles and nanoseconds that pass before it. -/
structure Turn where
  move : Move
  cycles : Nat
  nanos : Nat
  deriving DecidableEq, Repr

end Sys2Proof.Machine
end

