-- ==== Sys2Proof/Machine/State.lean ====
section
/-! DEFINITION. State.lean: the state of the whole module, its fault and refusal reasons, and the state after device
reset (R462). The harts, clusters and dies that a table does not list are as they are after reset. -/

namespace Sys2Proof.Machine

/-- Why a step may stop the model. -/
inductive Fault where
  /-- Raised by `step` when the script or `cur` names a number that is no hart of the package (R16). Safe: no hart of
  the module has that number, so the hardware has no such step. -/
  | noSuchHart (h : Nat)
  deriving DecidableEq, Repr

/-- Why a step may have no meaning. -/
inductive Refusal where
  /-- Raised by `exec` for an instruction that the model gives no meaning yet. Safe: the model stops. -/
  | notModelled (mnemonic : String)
  deriving DecidableEq, Repr

/-- The state of the module. `cur` and `ctx` say whose head `exec` runs; `turns` is what the environment does next. -/
structure State where
  harts : Table Hart
  clusters : Table Cluster
  dies : Table Die
  dev : Device
  board : Board
  /-- Memory by home address; a byte that is not listed reads zero. -/
  mem : List Host.Cell
  /-- The 8-byte words of TCM and scratchpad that are full (R68), by home address, rising. -/
  full : List Nat
  /-- The poisoned words (R184), by home address, rising. -/
  poison : List Nat
  tags : Table Tag
  holds : Table Hold
  /-- What waits at each held unit, in order of arrival (R101, R102). -/
  waiters : Table (List Waiter)
  /-- The values of 8-byte words that were overwritten, by home address, latest first (R204). -/
  past : List (Nat × Word)
  net : List Packet
  clock : Nat
  nanos : Nat
  /-- The model's own counter of free choices. -/
  free : Nat
  cur : Nat
  ctx : Ctx
  turns : List Turn
  deriving DecidableEq, Repr

/-- Trap registers after reset. -/
def TrapRegs.reset : TrapRegs := ⟨0, 0, 0, 0⟩

/-- A main context after reset, with the given PC (R462). -/
def MainCtx.reset (pc : Word) : MainCtx :=
  { pc := pc, x := Vector.replicate 64 0, v := Vector.replicate 32 0, image := none }

/-- The handler context after reset: no run, registers zero. -/
def HandlerCtx.reset : HandlerCtx :=
  { pc := 0, x := Vector.replicate 16 0, v := Vector.replicate 8 0, image := none, run := none, fenced := false }

/-- No interrupt pends after reset. -/
def Pending.reset : Pending := ⟨none, none, none, none, []⟩

/-- cr.status resets to machine mode with everything else clear (R177). -/
def TrapState.reset : TrapState := ⟨2, .reset, .reset, .reset⟩

/-- The reset values of R64, R168 and the other maps: LBASE all ones, LIMIT 2³², everything else zero. -/
def SysRegs.reset : SysRegs :=
  { smvec := 0, ptbase := 0, winmap := 0xFFFF_FFFF_FE00_0000, uhandler := 0, xfer := 0, fflags := 0, mflags := 0,
    fence := 0, tasklim := 0x1_0000_0000, preempt := 0, preemptNext := 0, cycleOff := 0, timeOff := 0, instret := 0 }

/-- Tile registers read as FP32 zero tiles after device reset (R404). -/
def Tile.reset : Tile := ⟨Vector.replicate 16 0, 0⟩

/-- A stream slot after reset: no stream (R351). -/
def Stream.reset : Stream :=
  { en := false, flt := false, reg := 0, left := 0, held := [], next := 0, base := 0, s0 := 0, s1 := 0,
    s2 := 0, c0 := 0, c1 := 0, c2 := 0, qual := 0, root := 0, prv := 0, after := 0, fault := none }

/-- A matrix engine after reset. -/
def MatEngine.reset : MatEngine :=
  { queue := [], run := none, events := [], plane := false, activity := 0, chunks := 0, flags := 0, rowsLeft := 0,
    stopping := false, bad := 0 }

/-- A memory interface after reset. -/
def MemIf.reset : MemIf :=
  { sb := [], tlb := [], since := 0, regSeq := 0, regWait := none, regReply := none, regCtx := .main, regLast := none,
    replies := [], serial := 0 }

/-- The activity of hart h after reset: companions are stopped, service core 0 runs, the others are idle (R462). -/
def Activity.reset (h : Nat) : Activity :=
  if h / 4096 = 1 ∨ h / 4096 = 2 then .stopped false else if h = 12288 then .running else .idle

/-- Hart h after reset (R462). Service core 0 stands at head 1 of the first ROM line. -/
def Hart.reset (h : Nat) : Hart :=
  { act := .reset h, halted := false
    main := .reset (if h = 12288 then 0x0000_FFC0_0000_0002 else 0), handler := .reset, traps := .reset, sys := .reset
    mat := ⟨0, 0, 0, 0, 0, 0⟩, tree := ⟨0, 0, 0, 0, 0, 0⟩, p := Vector.replicate 8 0, e := Vector.replicate 8 0
    tiles := Vector.replicate 8 .reset, tables := Vector.replicate 4 none, mc := Vector.replicate 8 0
    queues := ⟨Vector.replicate 8 0, Vector.replicate 8 0⟩
    bells := ⟨Vector.replicate 4 0, Vector.replicate 4 [], Vector.replicate 4 []⟩
    streams := Vector.replicate 4 .reset, mem := .reset, runs := ⟨[], [], false, none⟩, park := none, hpark := none
    engine := .reset, copy := ⟨[], [], [], 0⟩, gang := ⟨none, none, none, none, none⟩, search := none, theft := none
    chan := ⟨Vector.replicate 4 none, Vector.replicate 4 []⟩, task := none, answer := none, stopReq := false }

/-- A dispatcher after reset: the default queues alone, and an aging limit of 2²⁰ (R157, R163). -/
def Dispatcher.reset : Dispatcher :=
  { queues := [], gens := [], tasks := [], order := 0, agelimit := 0x0010_0000, probeAt := none, probing := [] }

/-- A cluster after reset. -/
def Cluster.reset : Cluster :=
  { disp := .reset, treeWait := [], treeRun := none, screener := [], copyl := [], copylTurn := 0, loft := ⟨[], [], [], [], [], []⟩, tlb := [],
    fenced := false, wear := 0 }

/-- A die after reset. -/
def Die.reset : Die :=
  { regions := [], gutter := [], registrar := [], tlb := [], l2 := [], redirect := [] }

/-- The device after reset: only the ROM stage runs, and the module is a pod of one (R456, R461). -/
def Device.reset : Device :=
  { service := false, job := 0, endpoints := [], log := [], logOverflow := 0, graphs := [], instances := [],
    areas := [], launchQueue := [], nextId := 0, portErrors := [], tier := [], tierOp := none, checking := none, bootStatus := 0, imageHash := [],
    rollback := 0, podN := 0, podM := 1, podEndpoints := [], passGen := 0, passAt := 0, podDirty := [],
    podWait := [], podParts := [], podSent := [], acked := [], stops := [], sent := [], passOut := none, lastReply := none }

/-- The board after reset: the power cap is 2,400 W and the clock 3,000 MHz (R4, R471). -/
def Board.reset : Board :=
  { watts := 0, temps := [0, 0, 0, 0, 0], centivolts := 4800, clockMHz := 3000, cap := 2400, capNext := 2400,
    smbus := [], replays := 0 }

/-- The module right after device reset (R462): service core 0 is the hart that runs. -/
def State.reset : State :=
  { harts := [], clusters := [], dies := [], dev := .reset, board := .reset, mem := [], full := [], poison := [],
    tags := [], holds := [], waiters := [], past := [], net := [], clock := 0, nanos := 0, free := 0, cur := 12288, ctx := .main, turns := [] }

end Sys2Proof.Machine
end

