-- ==== Sys2Proof/Machine/Bits.lean ====
section
/-! DEFINITION. Bits.lean: tables by key, sorted lists of addresses, memory as a canonical list of cells, and the bit
and byte helpers of the meanings (R7, R10). -/

namespace Sys2Proof.Machine

/-- The entry of a key. -/
def tget {α : Type} : Table α → Nat → Option α
  | [], _ => none
  | (j, a) :: r, k => if j = k then some a else tget r k

/-- The table with the entry of key k replaced or added, in rising order of key. -/
def tput {α : Type} : Table α → Nat → α → Table α
  | [], k, a => [(k, a)]
  | (j, b) :: r, k, a => if k < j then (k, a) :: (j, b) :: r else if j = k then (k, a) :: r else (j, b) :: tput r k a

/-- The table without the entry of key k. -/
def tdel {α : Type} : Table α → Nat → Table α
  | [], _ => []
  | (j, b) :: r, k => if j = k then r else (j, b) :: tdel r k

/-- A rising list of addresses with a added. -/
def sortedAdd : List Nat → Nat → List Nat
  | [], a => [a]
  | b :: r, a => if a < b then a :: b :: r else if a = b then b :: r else b :: sortedAdd r a

/-- A list of addresses without a. -/
def sortedDel (l : List Nat) (a : Nat) : List Nat := l.filter (fun b => b != a)

/-- What an unlisted byte of memory reads as. -/
def emptyByte : Byte := 0

/-- The byte at a home address. -/
def memGet : List Host.Cell → Nat → Byte
  | [], _ => emptyByte
  | (b, v) :: r, a => if b = a then v else memGet r a

/-- Memory without the byte at a listed. -/
def memDel : List Host.Cell → Nat → List Host.Cell
  | [], _ => []
  | (b, v) :: r, a => if b = a then r else (b, v) :: memDel r a

/-- Memory with a byte that does not read as empty listed at a. -/
def memIns : List Host.Cell → Nat → Byte → List Host.Cell
  | [], a, v => [(a, v)]
  | (b, w) :: r, a, v =>
    if a < b then (a, v) :: (b, w) :: r else if b = a then (a, v) :: r else (b, w) :: memIns r a v

/-- Memory with the byte at a written. -/
def memPut (m : List Host.Cell) (a : Nat) (v : Byte) : List Host.Cell :=
  if v = emptyByte then memDel m a else memIns m a v

/-- Every listed address lies above b, in strictly rising order, and no listed byte reads as empty. -/
def memWfFrom : Nat → List Host.Cell → Bool
  | _, [] => true
  | b, (a, v) :: r => decide (b ≤ a) && v != emptyByte && memWfFrom (a + 1) r

/-- The canonical form of memory: strictly rising addresses, and nothing listed that an unlisted byte reads as. -/
def Memory.wf (m : List Host.Cell) : Bool := memWfFrom 0 m

/-- The n bytes from a on, as a little-endian number (R7). -/
def memNat (m : List Host.Cell) (a : Nat) : Nat → Nat
  | 0 => 0
  | n + 1 => (memGet m a).toNat + 256 * memNat m (a + 1) n

/-- The n low bytes of a number, lowest first (R7). -/
def bytesOf (v : Nat) : Nat → List Byte
  | 0 => []
  | n + 1 => BitVec.ofNat 8 v :: bytesOf (v / 256) n

/-- The number that bytes hold, lowest first (R7). -/
def natOf : List Byte → Nat
  | [] => 0
  | b :: r => b.toNat + 256 * natOf r

/-- Memory with bytes written from a on. -/
def memPutList (m : List Host.Cell) (a : Nat) : List Byte → List Host.Cell
  | [] => m
  | b :: r => memPutList (memPut m a b) (a + 1) r

/-- Bits hi to lo of a word, as a number (R7). -/
def bits (v : Word) (hi lo : Nat) : Nat := v.toNat / 2 ^ lo % 2 ^ (hi + 1 - lo)

/-- One bit of a word. -/
def bit (v : Word) (n : Nat) : Bool := v.getLsbD n

/-- The word with bits hi to lo replaced by a number. -/
def setBits (v : Word) (hi lo : Nat) (x : Nat) : Word :=
  let m : Word := BitVec.ofNat 64 ((2 ^ (hi + 1 - lo) - 1) * 2 ^ lo)
  (v &&& ~~~m) ||| (BitVec.ofNat 64 (x * 2 ^ lo) &&& m)

/-- The word with one bit set to b. -/
def setBit (v : Word) (n : Nat) (b : Bool) : Word := setBits v n n (if b then 1 else 0)

/-- A number read as a signed value of w bits. -/
def signed (w v : Nat) : Int := if v % 2 ^ w < 2 ^ (w - 1) then (v % 2 ^ w : Nat) else (v % 2 ^ w : Nat) - (2 ^ w : Nat)

/-- A signed value as a word. -/
def wordOfInt (v : Int) : Word := BitVec.ofInt 64 v

/-- The word of a boolean. -/
def wordOfBool (b : Bool) : Word := if b then 1 else 0

/-- The i-th entry of a list with a default. -/
def nth {α : Type} (l : List α) (i : Nat) (d : α) : α := (l[i]?).getD d

/-- The list with its i-th entry removed. -/
def dropAt {α : Type} (l : List α) (i : Nat) : List α := l.take i ++ l.drop (i + 1)

/-- The numbers from a on, n of them. -/
def upFrom (a : Nat) : Nat → List Nat
  | 0 => []
  | n + 1 => a :: upFrom (a + 1) n

/-- The numbers of the units of a size that n bytes from a on touch. -/
def unitsOver (size a n : Nat) : List Nat := upFrom (a / size) ((a + n + size - 1) / size - a / size)

/-- The number of 1 bits among the n low bits. -/
def popBits (v : Nat) : Nat → Nat
  | 0 => 0
  | n + 1 => v % 2 + popBits (v / 2) n

/-- The positions of the 1 bits among the n low bits, rising. -/
def bitPositions (v n : Nat) : List Nat := (List.range n).filter (fun i => v.testBit i)

/-- Element i of width w of a vector register (R302). -/
def velem (v : VWord) (w i : Nat) : Nat := v.toNat / 2 ^ (w * i) % 2 ^ w

/-- The vector register whose n elements of width w are given by f (R302). -/
def vbuild (w n : Nat) (f : Nat → Nat) : VWord :=
  BitVec.ofNat 512 (((List.range n).foldr (fun i acc => acc * 2 ^ w + f i % 2 ^ w) 0))

end Sys2Proof.Machine
end

