-- ==== Sys2Proof/Machine/Float.lean ====
section
/-! DEFINITION. Float.lean: floating-point formats, exact values and rounding (R115 to R119, R126, R127, R131). An
operation takes encodings apart, computes the exact value and rounds it once. -/

namespace Sys2Proof.Machine

/-- A floating-point format by its exponent and fraction widths (R116). -/
structure FFmt where
  exp : Nat
  frac : Nat
  deriving DecidableEq, Repr

def fp64 : FFmt := ⟨11, 52⟩
def fp32 : FFmt := ⟨8, 23⟩
def bf16 : FFmt := ⟨8, 7⟩
def fp16 : FFmt := ⟨5, 10⟩
/-- The format of decode-table entries (R115, R116). -/
def e8m10 : FFmt := ⟨8, 10⟩

/-- The floating-point format of a format code 0 to 3 (R115). -/
def fmtOf (t : BitVec 4) : FFmt :=
  match t.toNat with
  | 1 => fp16 | 2 => bf16 | 3 => fp64 | _ => fp32

/-- The bias of a format (R116). -/
def FFmt.bias (f : FFmt) : Int := (2 ^ (f.exp - 1) : Nat) - 1

/-- The width in bits. -/
def FFmt.width (f : FFmt) : Nat := 1 + f.exp + f.frac

/-- The exponent of the last place of the subnormals: 1 − bias − frac. -/
def FFmt.emin (f : FFmt) : Int := 1 - f.bias - f.frac

/-- What an encoding stands for (R116): a NaN, an infinity, or (−1)^neg · m · 2^e exactly. -/
inductive FVal where
  | nan (signalling : Bool)
  | inf (neg : Bool)
  | fin (neg : Bool) (m : Nat) (e : Int)
  deriving DecidableEq, Repr

/-- The flag bits of R131. -/
abbrev Flags := BitVec 5
def flagNV : Flags := 16
def flagDZ : Flags := 8
def flagOF : Flags := 4
def flagUF : Flags := 2
def flagNX : Flags := 1

/-- A result with the flags it raises. -/
abbrev FRes := Nat × Flags

/-- The value of an encoding (R116). -/
def fdecode (f : FFmt) (b : Nat) : FVal :=
  let neg := b / 2 ^ (f.exp + f.frac) % 2 == 1
  let ex := b / 2 ^ f.frac % 2 ^ f.exp
  let fr := b % 2 ^ f.frac
  if ex = 2 ^ f.exp - 1 then
    (if fr = 0 then .inf neg else .nan (fr < 2 ^ (f.frac - 1)))
  else if ex = 0 then .fin neg fr f.emin
  else .fin neg (2 ^ f.frac + fr) (f.emin + (ex - 1 : Nat))

/-- The sign bit of an encoding. -/
def fsign (f : FFmt) (b : Nat) : Bool := b / 2 ^ (f.exp + f.frac) % 2 == 1

/-- The sign bit in place. -/
def signBit (f : FFmt) (neg : Bool) : Nat := if neg then 2 ^ (f.exp + f.frac) else 0

/-- The canonical quiet NaN (R116, R117). -/
def qnan (f : FFmt) : Nat := (2 ^ f.exp - 1) * 2 ^ f.frac + 2 ^ (f.frac - 1)

/-- An infinity. -/
def finf (f : FFmt) (neg : Bool) : Nat := signBit f neg + (2 ^ f.exp - 1) * 2 ^ f.frac

/-- A zero. -/
def fzero (f : FFmt) (neg : Bool) : Nat := signBit f neg

/-- m · 2^(−d) rounded to nearest, ties to even, and whether it is inexact. -/
def shiftRound (m d : Nat) : Nat × Bool :=
  if Nat.log2 m + 2 < d then (0, m != 0) else
  let t := m / 2 ^ d
  let r := m % 2 ^ d
  let up := if 2 * r > 2 ^ d then true else if 2 * r = 2 ^ d then t % 2 == 1 else false
  (if up then t + 1 else t, r != 0)

/-- m · 2^e at the place q: its rounded multiple of 2^q, and whether it is inexact. -/
def roundAt (m : Nat) (e q : Int) : Nat × Bool :=
  if q ≤ e then (m * 2 ^ (e - q).toNat, false) else shiftRound m (q - e).toNat

/-- (−1)^neg · m · 2^e rounded to nearest even in a format, tininess detected after rounding (R126, R127). A sticky
value lies a little above m; m then has been scaled so that its last place is well below the result's. -/
def fround (f : FFmt) (neg : Bool) (m : Nat) (e : Int) (sticky : Bool) : FRes :=
  if m = 0 ∧ sticky = false then (fzero f neg, 0) else
  let m := if sticky then 8 * m + 1 else m
  let e := if sticky then e - 3 else e
  let q0 := e + (Nat.log2 m + 1 : Nat) - (f.frac + 1 : Nat)
  let q := if q0 < f.emin then f.emin else q0
  let (t, inexact) := roundAt m e q
  let (t, q) := if t = 2 ^ (f.frac + 1) then (2 ^ f.frac, q + 1) else (t, q)
  let tiny := decide (q0 < f.emin) && !(decide (q0 + 1 = f.emin) && (roundAt m e q0).1 == 2 ^ (f.frac + 1))
  let ex := (q - f.emin).toNat + 1
  if 2 ^ f.frac ≤ t ∧ 2 ^ f.exp - 1 ≤ ex then (finf f neg, flagOF ||| flagNX)
  else
    let body := if t < 2 ^ f.frac then t else ex * 2 ^ f.frac + (t - 2 ^ f.frac)
    (signBit f neg + body, (if tiny && inexact then flagUF else 0) ||| (if inexact then flagNX else 0))

/-- An exact dyadic number n · 2^e. -/
structure Dyadic where
  n : Int
  e : Int
  deriving DecidableEq, Repr

/-- The exact value of a finite encoding. -/
def dyadicOf (neg : Bool) (m : Nat) (e : Int) : Dyadic := ⟨if neg then -(m : Int) else m, e⟩

/-- An exact sum. -/
def Dyadic.add (a b : Dyadic) : Dyadic :=
  if a.n = 0 then b else if b.n = 0 then a else
  let e := if a.e < b.e then a.e else b.e
  ⟨a.n * 2 ^ (a.e - e).toNat + b.n * 2 ^ (b.e - e).toNat, e⟩

/-- An exact product. -/
def Dyadic.mul (a b : Dyadic) : Dyadic := ⟨a.n * b.n, a.e + b.e⟩

/-- The negation. -/
def Dyadic.neg (a : Dyadic) : Dyadic := ⟨-a.n, a.e⟩

/-- a ≤ b, exactly. -/
def Dyadic.le (a b : Dyadic) : Bool := decide ((a.add b.neg).n ≤ 0)

/-- a < b, exactly. -/
def Dyadic.lt (a b : Dyadic) : Bool := decide ((a.add b.neg).n < 0)

/-- An exact value rounded once; an exact zero takes the given sign. -/
def roundDyadic (f : FFmt) (d : Dyadic) (zeroNeg : Bool) : FRes :=
  if d.n = 0 then (fzero f zeroNeg, 0) else fround f (decide (d.n < 0)) d.n.natAbs d.e false

/-- NV when either value is a signalling NaN (R117). -/
def snanFlag (a b : FVal) : Flags :=
  match a, b with
  | .nan true, _ => flagNV
  | _, .nan true => flagNV
  | _, _ => 0

/-- A NaN operand is there. -/
def anyNan (a b : FVal) : Bool :=
  match a, b with
  | .nan _, _ => true
  | _, .nan _ => true
  | _, _ => false

/-- Addition (R257). -/
def fadd (f : FFmt) (x y : Nat) : FRes :=
  match fdecode f x, fdecode f y with
  | .fin na ma ea, .fin nb mb eb => roundDyadic f ((dyadicOf na ma ea).add (dyadicOf nb mb eb)) (na && nb)
  | .inf na, .inf nb => if na = nb then (finf f na, 0) else (qnan f, flagNV)
  | .inf na, .fin _ _ _ => (finf f na, 0)
  | .fin _ _ _, .inf nb => (finf f nb, 0)
  | a, b => (qnan f, snanFlag a b)

/-- The encoding with its sign inverted. -/
def fnegBits (f : FFmt) (x : Nat) : Nat := if fsign f x then x - signBit f true else x + signBit f true

/-- Subtraction, as the addition of −c (R257). -/
def fsub (f : FFmt) (x y : Nat) : FRes := fadd f x (fnegBits f y)

/-- Multiplication (R257). -/
def fmul (f : FFmt) (x y : Nat) : FRes :=
  match fdecode f x, fdecode f y with
  | .fin na ma ea, .fin nb mb eb => fround f (na != nb) (ma * mb) (ea + eb) false
  | .inf na, .inf nb => (finf f (na != nb), 0)
  | .inf na, .fin nb mb _ => if mb = 0 then (qnan f, flagNV) else (finf f (na != nb), 0)
  | .fin na ma _, .inf nb => if ma = 0 then (qnan f, flagNV) else (finf f (na != nb), 0)
  | a, b => (qnan f, snanFlag a b)

/-- Division (R257). -/
def fdiv (f : FFmt) (x y : Nat) : FRes :=
  match fdecode f x, fdecode f y with
  | .fin na ma ea, .fin nb mb eb =>
    if mb = 0 then (if ma = 0 then (qnan f, flagNV) else (finf f (na != nb), flagDZ))
    else
      let k := f.frac + 4 + Nat.log2 mb + 1
      fround f (na != nb) (ma * 2 ^ k / mb) (ea - eb - k) (ma * 2 ^ k % mb != 0)
  | .inf _, .inf _ => (qnan f, flagNV)
  | .inf na, .fin nb _ _ => (finf f (na != nb), 0)
  | .fin na _ _, .inf nb => (fzero f (na != nb), 0)
  | a, b => (qnan f, snanFlag a b)

/-- The order of two values that are no NaN: −1, 0 or 1; zeros are equal. -/
def forder (a b : FVal) : Int :=
  let big (neg : Bool) : Int := if neg then -1 else 1
  match a, b with
  | .fin na ma ea, .fin nb mb eb => ((dyadicOf na ma ea).add (dyadicOf nb mb eb).neg).n.sign
  | .inf na, .inf nb => if na = nb then 0 else big na
  | .inf na, _ => big na
  | _, .inf nb => - big nb
  | _, _ => 0

/-- Minimum or maximum (R117, R257): −0 below +0, one NaN gives the other operand. -/
def fminmax (f : FFmt) (max : Bool) (x y : Nat) : FRes :=
  let a := fdecode f x
  let b := fdecode f y
  let fl := snanFlag a b
  match a, b with
  | .nan _, .nan _ => (qnan f, fl)
  | .nan _, _ => (y, fl)
  | _, .nan _ => (x, fl)
  | _, _ =>
    let o := forder a b
    let xLess := if o = 0 then fsign f x && !fsign f y else decide (o < 0)
    (if xLess != max then x else y, fl)

/-- ±b·c ± a, rounded once (R259). -/
def ffma (f : FFmt) (negP negA : Bool) (b c a : Nat) : FRes :=
  let vb := fdecode f b
  let vc := fdecode f c
  let va := fdecode f a
  let snan := snanFlag vb vc ||| snanFlag va va
  let sp := (fsign f b != fsign f c) != negP
  let sa := fsign f a != negA
  let invalid := match vb, vc with
    | .inf _, .fin _ m _ => m == 0
    | .fin _ m _, .inf _ => m == 0
    | _, _ => false
  if invalid then (qnan f, flagNV ||| snan)
  else if anyNan vb vc || anyNan va va then (qnan f, snan)
  else match vb, vc, va with
    | .fin _ mb eb, .fin _ mc ec, .fin _ ma ea =>
      roundDyadic f ((dyadicOf sp (mb * mc) (eb + ec)).add (dyadicOf sa ma ea)) (sp && sa)
    | .fin _ _ _, .fin _ _ _, _ => (finf f sa, 0)
    | _, _, .inf _ => if sp = sa then (finf f sp, 0) else (qnan f, flagNV)
    | _, _, _ => (finf f sp, 0)

/-- The integer square root, found bit by bit from bit n down. -/
def isqrtFrom (v : Nat) : Nat → Nat → Nat
  | 0, r => if (r + 1) * (r + 1) ≤ v then r + 1 else r
  | n + 1, r => isqrtFrom v n (if (r + 2 ^ (n + 1)) * (r + 2 ^ (n + 1)) ≤ v then r + 2 ^ (n + 1) else r)

/-- The integer square root. -/
def isqrt (v : Nat) : Nat := isqrtFrom v (Nat.log2 v / 2 + 1) 0

/-- Square root (R261). -/
def fsqrt (f : FFmt) (x : Nat) : FRes :=
  match fdecode f x with
  | .nan s => (qnan f, if s then flagNV else 0)
  | .inf neg => if neg then (qnan f, flagNV) else (finf f false, 0)
  | .fin neg m e =>
    if m = 0 then (fzero f neg, 0) else if neg then (qnan f, flagNV) else
    let e2 := e - 2 * (f.frac + 4 : Nat) - (if e % 2 = 0 then 0 else 1)
    let v := m * 2 ^ (e - e2).toNat
    fround f false (isqrt v) (e2 / 2) (isqrt v * isqrt v != v)

/-- The class code of R261. -/
def fclass (f : FFmt) (x : Nat) : Nat :=
  (if fsign f x then 8 else 0) + match fdecode f x with
    | .nan s => if s then 5 else 4
    | .inf _ => 3
    | .fin _ m _ => if m = 0 then 0 else if m < 2 ^ f.frac then 1 else 2

/-- Comparisons (R263, R316): 0 equal, 1 less, 2 less or equal; an ordered comparison raises NV for any NaN. -/
def fcompare (f : FFmt) (op : Nat) (x y : Nat) : Bool × Flags :=
  let a := fdecode f x
  let b := fdecode f y
  if anyNan a b then (false, if op = 0 then snanFlag a b else flagNV)
  else
    let o := forder a b
    (match op with | 0 => decide (o = 0) | 1 => decide (o < 0) | _ => decide (o ≤ 0), 0)

/-- A value of one format in another (R118, R126, R127). -/
def fconvert (fr to_ : FFmt) (x : Nat) : FRes :=
  match fdecode fr x with
  | .nan s => (qnan to_, if s then flagNV else 0)
  | .inf neg => (finf to_ neg, 0)
  | .fin neg m e => fround to_ neg m e false

/-- m · 2^e as an integer, toward zero or to nearest even, and whether it is inexact. -/
def toInteger (m : Nat) (e : Int) (rz : Bool) : Nat × Bool :=
  if 0 ≤ e then (m * 2 ^ e.toNat, false)
  else if rz then (m / 2 ^ (-e).toNat, m % 2 ^ (-e).toNat != 0) else shiftRound m (-e).toNat

/-- A float as a signed integer of w bits (R127): rounded, saturated, NaN to 0; the result is the low w bits. -/
def floatToInt (f : FFmt) (w : Nat) (rz : Bool) (x : Nat) : FRes :=
  let top : Nat := 2 ^ (w - 1)
  let sat (neg : Bool) : Nat := if neg then top else top - 1
  match fdecode f x with
  | .nan _ => (0, flagNV)
  | .inf neg => (sat neg, flagNV)
  | .fin neg m e =>
    let (v, inexact) := toInteger m e rz
    if (neg ∧ top < v) ∨ (neg = false ∧ top ≤ v) then (sat neg, flagNV)
    else ((if neg then (2 ^ w - v) % 2 ^ w else v), if inexact then flagNX else 0)

/-- A signed integer as a float (R127). -/
def intToFloat (f : FFmt) (v : Int) : FRes := roundDyadic f ⟨v, 0⟩ false

/-- A signed integer saturated to w bits (R119). -/
def saturate (w : Nat) (v : Int) : Nat :=
  let top : Int := 2 ^ (w - 1)
  let r := if v < -top then -top else if top - 1 < v then top - 1 else v
  (r % (2 ^ w : Int)).toNat

/-- The least FP32 value at or above an exact nonnegative ratio n · 2^e / d (R444, R446), +∞ beyond the range. -/
def ceilFp32 (m : Nat) (e : Int) (inexact : Bool) : Nat :=
  if m = 0 ∧ inexact = false then 0 else
  let m := 2 * m + (if inexact then 1 else 0)
  let e := e - 1
  let q0 := e + (Nat.log2 m + 1 : Nat) - 24
  let q := if q0 < fp32.emin then fp32.emin else q0
  let t := if q ≤ e then m * 2 ^ (e - q).toNat
           else (m + 2 ^ (q - e).toNat - 1) / 2 ^ (q - e).toNat
  let (t, q) := if t = 2 ^ 24 then (2 ^ 23, q + 1) else (t, q)
  let ex := (q - fp32.emin).toNat + 1
  if 2 ^ 23 ≤ t ∧ 255 ≤ ex then finf fp32 false
  else if t < 2 ^ 23 then t else ex * 2 ^ 23 + (t - 2 ^ 23)

/-! ## Estimates (R335) -/

/-- 2^f for the fixed-point fraction f of n bits, as a fixed-point number of 200 bits, taking bit after bit with the
square roots of 2. -/
def exp2Frac (f : Nat) : Nat → Nat → Nat → Nat
  | 0, _, acc => acc
  | n + 1, root, acc =>
    let root := isqrt (root * 2 ^ 200)
    exp2Frac f n root (if f / 2 ^ n % 2 = 1 then acc * root / 2 ^ 200 else acc)

/-- The reference for an estimate of a finite positive operand m · 2^e: a close value r · 2^q, and whether it is exact. -/
def estimateRef (op : Nat) (m : Nat) (e : Int) (neg : Bool) : Nat × Int × Bool :=
  match op with
  | 0 => (2 ^ 300 / m, -e - 300, 2 ^ 300 % m == 0)
  | 1 =>
    let e2 := if e % 2 = 0 then e else e - 1
    let m2 := if e % 2 = 0 then m else 2 * m
    let v := 2 ^ 400 / m2
    (isqrt v, -(e2 / 2) - 200, v * m2 == 2 ^ 400 && isqrt v * isqrt v == v)
  | _ =>
    let x : Int := if neg then -(m : Int) else m
    if 0 ≤ e then (1, x * 2 ^ (if e < 20 then e.toNat else 20), true)
    else
      let d := (-e).toNat
      let i := x / (2 ^ d : Int)
      let fr := (x % (2 ^ d : Int)).toNat
      (exp2Frac fr d (2 * 2 ^ 200) (2 ^ 200), i - 200, fr == 0)

/-- Whether a value keeps the error bound of R335 against an exact result that lies at r · 2^q, or above it by less than 2^q
when it is not exact: a relative 2⁻¹⁴ for .f32, and one unit in the last place of the result for .f16 and .bf16. -/
def estimateOk (f : FFmt) (relative sgn exact : Bool) (r : Nat) (q : Int) (g : Nat) : Bool :=
  match fdecode f g with
  | .fin ng mg eg =>
    let ref : Dyadic := ⟨-(r : Int), q⟩
    if relative then
      let d := (⟨mg, eg⟩ : Dyadic).add ref
      ng == sgn && Dyadic.le ⟨d.n.natAbs * 2 ^ 14, d.e⟩ ⟨r * (2 ^ 100 + 1), q - 100⟩
    else
      let place := (Nat.log2 r : Int) + q - f.frac
      let ulp : Dyadic := ⟨1, if place < f.emin then f.emin else place⟩
      let above : Dyadic := if exact then ref else ⟨-(r + 1 : Int), q⟩
      ng == sgn && Dyadic.le ((⟨mg, eg⟩ : Dyadic).add ref) ulp && Dyadic.le ((⟨mg, eg⟩ : Dyadic).add above).neg ulp
  | _ => false

/-- An estimate (R335): the device's own value where it keeps the bound, the rounded reference otherwise. A tiny result is
the rounded one, with UF and NX. op is 0 for 1/b, 1 for 1/√b, 2 for 2^b. -/
def festimate (op : Nat) (t : BitVec 4) (x : Nat) : FRes :=
  let f := fmtOf t
  let close (m : Nat) (e : Int) (neg : Bool) : FRes :=
    let (r, q, exact) := estimateRef op m e neg
    let sgn := if op = 0 then neg else false
    let (c, fl) := fround f sgn r q (!exact)
    if (fl &&& flagOF) != 0 then (c, fl)
    else match fdecode f c with
      | .fin _ mc _ =>
        if mc < 2 ^ f.frac ∨ (fl &&& flagUF) != 0 then (c, flagUF ||| flagNX)
        else
          let g := Config.estimate op t x
          let v := if estimateOk f (t == 0) sgn exact r q g then g else c
          (v, if exact && v == c && fl == 0 then 0 else flagNX)
      | _ => (c, fl)
  match fdecode f x with
  | .nan s => (qnan f, if s then flagNV else 0)
  | .inf neg =>
    if neg = false then (if op = 2 then finf f false else fzero f false, 0)
    else match op with
      | 0 => (fzero f true, 0)
      | 1 => (qnan f, flagNV)
      | _ => (fzero f false, 0)
  | .fin neg m e =>
    if m = 0 then (match op with
      | 2 => fround f false 1 0 false
      | _ => (finf f neg, flagDZ))
    else if op = 1 ∧ neg then (qnan f, flagNV) else close m e neg

end Sys2Proof.Machine
end

