-- ==== Sys2Proof/Machine/Parts.lean ====
section
/-! DEFINITION. Parts.lean: harts, clusters and dies by number (R13 to R16), the parts of the state, and the one way memory
changes (R204). -/

namespace Sys2Proof.Machine

/-! ## Numbers of harts, cores, clusters and dies (R13 to R16) -/

/-- KIND of R15: 0 compute core, 1 loader, 2 storer, 3 service core. -/
def kindOf (h : Nat) : Nat := h / 4096

/-- The compute core that hart h is or sits beside: cr.coreid bits 11:0 (R15). -/
def coreOf (h : Nat) : Nat := h % 4096

/-- The cluster of the package that hart h lies in: 64·die + cluster (R14). -/
def clusterOf (h : Nat) : Nat := coreOf h / 16

/-- The die of hart h (R14). -/
def dieOf (h : Nat) : Nat := coreOf h / 1024

/-- The package holds hart h (R16): every core of kinds 0 to 2, and service cores 0 to 3. -/
def hartExists (h : Nat) : Bool := decide (h < 12292)

/-- The sixteen cores of a cluster (R13). -/
def coresOf (k : Nat) : List Nat := upFrom (16 * k) 16

/-- A cluster's row and column on its die's 8×8 grid, and the grid distance (R14). -/
def gridDistance (j k : Nat) : Nat :=
  let r (c : Nat) : Nat := c / 8 % 8
  let q (c : Nat) : Nat := c % 8
  (r j - r k) + (r k - r j) + (q j - q k) + (q k - q j)

/-! ## Parts of the state -/

/-- Hart h of the state. -/
def State.hart (s : State) (h : Nat) : Hart := (tget s.harts h).getD (Hart.reset h)

/-- The state with hart h changed by f. -/
def State.modHart (s : State) (h : Nat) (f : Hart → Hart) : State :=
  { s with harts := tput s.harts h (f (s.hart h)) }

/-- Cluster k of the state. -/
def State.cluster (s : State) (k : Nat) : Cluster := (tget s.clusters k).getD .reset

/-- The state with cluster k changed by f. -/
def State.modCluster (s : State) (k : Nat) (f : Cluster → Cluster) : State :=
  { s with clusters := tput s.clusters k (f (s.cluster k)) }

/-- Die d of the state. -/
def State.die (s : State) (d : Nat) : Die := (tget s.dies d).getD .reset

/-- The state with die d changed by f. -/
def State.modDie (s : State) (d : Nat) (f : Die → Die) : State :=
  { s with dies := tput s.dies d (f (s.die d)) }

/-- The state with the device's service part changed. -/
def State.modDev (s : State) (f : Device → Device) : State := { s with dev := f s.dev }

/-- The hart whose head executes. -/
def State.me (s : State) : Hart := s.hart s.cur

/-- The state with the executing hart changed. -/
def State.modMe (s : State) (f : Hart → Hart) : State := s.modHart s.cur f

/-- The state with a packet under way. -/
def State.send (s : State) (p : Packet) : State := { s with net := s.net ++ [p] }

/-- A fresh choice among n results (R2), n at least 1; with one result there is nothing to choose. -/
def State.choose (s : State) (n : Nat) : Nat × State :=
  if n ≤ 1 then (0, s) else (Config.freeNat s.free % n, { s with free := s.free + 1 })

/-- cr.cycle of hart h (R279). -/
def State.cycleOf (s : State) (h : Nat) : Word := BitVec.ofNat 64 s.clock + (s.hart h).sys.cycleOff

/-- cr.time of hart h (R279). -/
def State.timeOf (s : State) (h : Nat) : Word := BitVec.ofNat 64 s.nanos + (s.hart h).sys.timeOff

/-- The core is fenced (R190). -/
def State.fencedCore (s : State) (c : Nat) : Bool := bit (s.hart c).sys.fence 8

/-- The number of unfenced sub-arrays of a core (R189). -/
def State.subArrays (s : State) (c : Nat) : Nat := 4 - popBits (bits (s.hart c).sys.fence 3 0) 4

/-- THE ONE WAY MEMORY CHANGES: bytes from a home address on are written, and the value that each aligned 8-byte word
held before is recorded when it changes (R204). -/
def State.poke (s : State) (a : Nat) (d : List Byte) : State :=
  let m := memPutList s.mem a d
  let words := (unitsOver 8 a d.length).filter
    (fun w => memNat m (8 * w) 8 != memNat s.mem (8 * w) 8)
  { s with mem := m, past := (words.map (fun w => (8 * w, BitVec.ofNat 64 (memNat s.mem (8 * w) 8)))) ++ s.past }

/-- What is stored at the homes that a predicate names is gone: they read as memory that nothing has written, and what their
words held is recorded (R204). -/
def State.wipe (s : State) (p : Nat → Bool) : State :=
  let m := s.mem.filter (fun c => !p c.1)
  let words := ((s.mem.filter (fun c => p c.1)).map (fun c => 8 * (c.1 / 8))).eraseDups.filter
    (fun w => memNat m w 8 != memNat s.mem w 8)
  { s with mem := m, past := words.map (fun w => (w, BitVec.ofNat 64 (memNat s.mem w 8))) ++ s.past }

end Sys2Proof.Machine
end

