-- ==== Sys2Proof/Machine/Homes.lean ====
section
/-! DEFINITION. Homes.lean: homes (R89), update regions applied on read and write (R110, R111), caches and the loft (R75 to
R81), and what an engine's read and write do at a home (R104 to R106). -/

namespace Sys2Proof.Machine

/-! ## Home addresses -/

/-- Where a TCM word of core c lies among the home addresses. -/
def tcmHome (c off : Nat) : Nat := 0x1_0000_0000_0000 + c * 0x8000 + off

/-- An instruction store byte: i is the core for a loader, and 4,096 more for a storer. -/
def storeHome (i off : Nat) : Nat := 0x1_0000_1000_0000 + i * 0x2000 + off

/-- A byte of the physical plane (0 or 1) of a core (R73). -/
def planeHome (c plane off : Nat) : Nat := 0x1_0000_2000_0000 + c * 0x8000 + plane * 0x4000 + off

/-- A scratchpad byte of cluster k. -/
def padHome (k off : Nat) : Nat := 0x1_0000_4000_0000 + k * 0x10_0000 + off

/-- A loft byte of cluster k. -/
def loftHome (k off : Nat) : Nat := 0x1_0002_0000_0000 + k * 0x200_0000 + off

/-- The kinds of home (R89). -/
inductive Home where
  | dram | service | tcm | store | plane | pad | loft
  deriving DecidableEq, Repr

/-- The kind of a home address. -/
def homeOf (a : Nat) : Home :=
  if a < 0x40_0000_0000 then .dram
  else if a < 0x1_0000_0000_0000 then .service
  else if a < 0x1_0000_1000_0000 then .tcm
  else if a < 0x1_0000_2000_0000 then .store
  else if a < 0x1_0000_4000_0000 then .plane
  else if a < 0x1_0002_0000_0000 then .pad
  else .loft

/-- The die a home lies on; 4 for the I/O die (R89, R80). -/
def homeDie (a : Nat) : Nat :=
  match homeOf a with
  | .dram => a / 0x10_0000_0000
  | .service => 4
  | .tcm => (a - 0x1_0000_0000_0000) / 0x8000 / 1024
  | .store => (a - 0x1_0000_1000_0000) / 0x2000 % 4096 / 1024
  | .plane => (a - 0x1_0000_2000_0000) / 0x8000 / 1024
  | .pad => (a - 0x1_0000_4000_0000) / 0x10_0000 / 64
  | .loft => (a - 0x1_0002_0000_0000) / 0x200_0000 / 64

/-- TCM and scratchpad words carry a full–empty bit (R68). -/
def hasFullBit (a : Nat) : Bool := homeOf a == .tcm || homeOf a == .pad

/-- The address of the aligned 8-byte word that holds a byte. -/
def wordAt (a : Nat) : Nat := a / 8 * 8

/-- The size of the word that SECDED protects at a home (R184): a bank word of the scratchpad has 4 bytes. -/
def secdedSize (a : Nat) : Nat := if homeOf a = .pad then 4 else 8

/-- The address of the protected word that holds a byte (R184). -/
def secdedWord (a : Nat) : Nat := a / secdedSize a * secdedSize a

/-- The unit that carries a release tag (R100): a DRAM line, a loft block, or an 8-byte word. -/
def unitOf (a : Nat) (sync : Bool) : Nat :=
  match homeOf a with
  | .dram => if sync then wordAt a else a / 64 * 64
  | .loft => a / 256 * 256
  | _ => wordAt a

/-- The bytes of the unit that carries a release tag (R100). -/
def unitSize (unit : Nat) (sync : Bool) : Nat :=
  match homeOf unit with
  | .dram => if sync then 8 else 64
  | .loft => 256
  | _ => 8

/-- The full–empty bit of a word is full. -/
def State.isFull (s : State) (w : Nat) : Bool := s.full.contains w

/-- The lowest poisoned word among n bytes from a on (R184). -/
def State.poisonIn (s : State) (a n : Nat) : Option Nat :=
  if s.poison = [] then none else
    (s.poison.filter (fun w => decide (w < a + n ∧ a < w + secdedSize w))).head?

/-- The context waits as an LDF on a word (R347). -/
def Park.copies (p : Park) (w : Nat) : Bool :=
  match p.why with
  | .fullEmpty a copy _ => a == w && copy
  | _ => false

/-- Every LDF that waits on a word as it becomes full has its value (R347). -/
def State.deliver (s : State) (w : Nat) : State :=
  if (s.poisonIn w 8).isSome then s else
  let v : Word := BitVec.ofNat 64 (memNat s.mem w 8)
  let give (p : Option Park) : Option Park := p.map fun p =>
    if p.copies w ∧ p.value = none then { p with value := some v } else p
  { s with harts := s.harts.map fun e => (e.1, { e.2 with park := give e.2.park, hpark := give e.2.hpark }) }

/-- The state with the full–empty bit of a word written, its data already there; other homes have none (R68). -/
def State.setFull (s : State) (w : Nat) (b : Bool) : State :=
  if hasFullBit w then
    let t := { s with full := if b then sortedAdd s.full w else sortedDel s.full w }
    if b && !s.isFull w then t.deliver w else t
  else s

/-- The state with bytes written at a home address, as an engine or a delivery writes them: every full–empty bit of a
word touched becomes full (R68), and a word covered whole loses its poison (R184). -/
def State.putBytes (s : State) (a : Nat) (d : List Byte) : State :=
  let s := s.poke a d
  let s := { s with poison := s.poison.filter (fun w => !(decide (a ≤ w ∧ w + secdedSize w ≤ a + d.length))) }
  if hasFullBit a ∧ d ≠ [] then (unitsOver 8 a d.length).foldl (fun s w => s.setFull (8 * w) true) s else s

/-- The bytes from a home address on. -/
def State.getBytes (s : State) (a n : Nat) : List Byte := (List.range n).map (fun i => memGet s.mem (a + i))

/-! ## Update regions (R110, R111, R384 to R387) -/

/-- The element size of an operator (R385). -/
def opSize (op : BitVec 4) : Nat :=
  match op.toNat with
  | 0 => 4 | 2 => 4 | 4 => 4 | 6 => 4 | 8 => 4 | 10 => 4 | _ => 8

/-- The operator is a floating-point addition (R385). -/
def opIsFloat (op : BitVec 4) : Bool := op == 2 || op == 3

/-- A stored value or entry combined with an entry under an operator, with its flags (R385). -/
def combine (op : BitVec 4) (a b : Nat) : FRes :=
  let smin (w : Nat) (max : Bool) : Nat := if (signed w a ≤ signed w b) != max then a else b
  let umin (max : Bool) : Nat := if (decide (a ≤ b)) != max then a else b
  match op.toNat with
  | 0 => ((a + b) % 2 ^ 32, 0)
  | 1 => ((a + b) % 2 ^ 64, 0)
  | 2 => fadd fp32 a b
  | 3 => fadd fp64 a b
  | 4 => (smin 32 false, 0)
  | 5 => (smin 64 false, 0)
  | 6 => (umin false, 0)
  | 7 => (umin false, 0)
  | 8 => (smin 32 true, 0)
  | 9 => (smin 64 true, 0)
  | 10 => (umin true, 0)
  | 11 => (umin true, 0)
  | 12 => (a ||| b, 0)
  | 13 => (a &&& b, 0)
  | _ => (a ^^^ b, 0)

/-- The region of a die that covers a physical address (R388). -/
def regionAt (d : Die) (pa : Nat) : Option (Nat × Region) :=
  d.regions.find? (fun e => e.2.en && decide (e.2.base ≤ pa ∧ pa < e.2.base + e.2.len))

/-- A home address in the spill area of an enabled region, of whichever die, where writes are discarded and reads give
zero (R387). -/
def State.inSpill (s : State) (a : Nat) : Bool :=
  homeOf a == .dram && s.dies.any (fun d => d.2.regions.any fun e =>
    e.2.en && decide (e.2.splen ≠ 0 ∧ e.2.spill ≤ a ∧ a < e.2.spill + e.2.splen * 4096))

/-- Values combined in any order and bracketing (R111): while more than two are left, the device picks a pair.
The fuel is the number of values. -/
def combineAny (op : BitVec 4) : Nat → List Nat → Flags → State → Nat × Flags × State
  | 0, l, fl, s => (l.headD 0, fl, s)
  | n + 1, l, fl, s =>
    match l with
    | [] => (0, fl, s)
    | [a] => (a, fl, s)
    | [a, b] => let r := combine op a b; (r.1, fl ||| r.2, s)
    | _ =>
      let (i, s) := s.choose l.length
      let rest := dropAt l i
      let (j, s) := s.choose rest.length
      let r := combine op (nth l i 0) (nth rest j 0)
      combineAny op n (r.1 :: dropAt rest j) (fl ||| r.2) s

/-- An entry before another in the order of R111: by emitter, then by issue order. -/
def entryBefore (a b : GutterEntry) : Bool :=
  decide (a.emitter < b.emitter) || (a.emitter == b.emitter && decide (a.serial ≤ b.serial))

/-- Insertion into a list sorted by a relation. -/
def insertBy {α : Type} (le : α → α → Bool) (a : α) : List α → List α
  | [] => [a]
  | b :: r => if le a b then a :: b :: r else b :: insertBy le a r

/-- A list sorted by a relation, stable. -/
def sortBy {α : Type} (le : α → α → Bool) (l : List α) : List α := l.foldr (insertBy le) []

/-- One element's entries applied to its stored value (R110, R111). That the flags of a combination reach the region's flag
word only here, when the entries are applied, and not already as the bins combine them, is the model's choice (assumption 104). -/
def State.applyElement (s : State) (d : Nat) (r : Nat) (rg : Region) (addr : Nat) (es : List GutterEntry) : State :=
  let size := opSize rg.op
  let stored := memNat s.mem addr size
  let vals := es.map (fun e => e.val.toNat)
  let (v, fl, s) :=
    if opIsFloat rg.op && rg.ordered then
      let (v, fl) := (sortBy entryBefore es).foldl
        (fun (acc : Nat × Flags) e => let r := combine rg.op acc.1 e.val.toNat; (r.1, acc.2 ||| r.2)) (stored, 0)
      (v, fl, s)
    else combineAny rg.op (vals.length + 1) (stored :: vals) 0 s
  let s := s.poke addr (bytesOf v size)
  s.modDie d fun t => { t with regions := tput t.regions r { rg with flags := rg.flags ||| fl } }

/-- Every pending entry that p selects is applied, element by element (R110). -/
def State.applyEntries (s : State) (d : Nat) (p : GutterEntry → Bool) : State :=
  let todo := (s.die d).gutter.filter p
  if todo = [] then s else
  let s := s.modDie d fun t => { t with gutter := t.gutter.filter (fun e => !p e) }
  let addrs := (todo.map (fun e => (e.region, e.addr))).dedup
  addrs.foldl (fun s ra =>
    match tget (s.die d).regions ra.1 with
    | some rg => s.applyElement d ra.1 rg ra.2 (todo.filter (fun e => e.region == ra.1 && e.addr == ra.2))
    | none => s) s

/-- A read or store at a DRAM line applies its accepted updates first (R110). -/
def State.applyLine (s : State) (a : Nat) : State :=
  if homeOf a = .dram then s.applyEntries (homeDie a) (fun e => e.addr / 64 == a / 64) else s

/-! ## Release tags at a write (R100) -/

/-- A plain write of n bytes from a on clears the tags of the units it touches (R100). -/
def State.clearTags (s : State) (a n : Nat) : State :=
  { s with tags := s.tags.filter (fun t => !(decide (a < t.1 + unitSize t.1 t.2.sync ∧ t.1 < a + n))) }

/-- n bytes from a on cut where a 64-byte line ends: each part's address and length. -/
def linePartsOf (a n : Nat) : List (Nat × Nat) :=
  (unitsOver 64 a n).map fun l => (max a (64 * l), min (a + n) (64 * l + 64) - max a (64 * l))

/-! ## Caches: residency only, no value lives in them (R75 to R79, R81, R101) -/

/-- The slice that a DRAM line homes at (R81). -/
def sliceOf (a : Nat) : Nat :=
  let f (lo : Nat) : Nat := a / 2 ^ lo % 64
  (((f 6 ^^^ f 12) ^^^ f 18) ^^^ f 24) ^^^ f 30

/-- The cluster whose loft holds a home address, and the block of it (R75). -/
def loftPlace (a : Nat) : Nat × Nat :=
  ((a - 0x1_0002_0000_0000) / 0x200_0000, (a - 0x1_0002_0000_0000) % 0x200_0000 / 256)

/-- The slice that holds a line: its home's, or for a decode-ahead line its cluster's own (R81). -/
def L2Line.slice (l : L2Line) : Nat := if l.ahead then (loftPlace (64 * l.line)).1 % 64 else sliceOf (64 * l.line)

/-- A unit may be a victim: no hold, and no tag but one that a lift at system scope has freed (R101). -/
def State.evictable (s : State) (unit : Nat) : Bool :=
  (tget s.holds unit).isNone && match tget s.tags unit with
    | some t => t.freed
    | none => true

/-- Whether one L2 line is a victim before another (R81). -/
def worseLine (x y : L2Line) : Bool :=
  if (x.ahead && x.used) != (y.ahead && y.used) then x.ahead && x.used
  else if x.evict ≠ y.evict then decide (y.evict.toNat < x.evict.toNat) else decide (x.stamp ≤ y.stamp)

/-- The lines of an L2 set beside a line of it, and whether the line itself is there. -/
def Die.ways (d : Die) (new : L2Line) : List L2Line × Bool :=
  let same (l : L2Line) : Bool := l.line == new.line && l.ahead == new.ahead
  ((d.l2.filter (fun l => !same l)).filter (fun l => l.slice == new.slice && Config.l2Set l.line % 2048 == Config.l2Set new.line % 2048),
   d.l2.any same)

/-- The line of a full set of 16 ways that must be freed before a new line enters: all are tagged, and it is the least
recently used (R101). -/
def State.blockedL2 (s : State) (d : Nat) (new : L2Line) : Option Nat :=
  let (ways, here) := (s.die d).ways new
  if here ∨ ways.length < 16 ∨ ways.any (fun l => l.ahead || s.evictable (64 * l.line)) then none
  else ((sortBy (fun (x y : L2Line) => decide (x.stamp ≤ y.stamp)) ways).head?).map (fun l => 64 * l.line)

/-- A line enters the L2 of a die, and a full set of 16 ways loses its victim (R81). -/
def State.fillL2 (s : State) (d : Nat) (new : L2Line) : State :=
  let same (l : L2Line) : Bool := l.line == new.line && l.ahead == new.ahead
  let rest := (s.die d).l2.filter (fun l => !same l)
  let (ways, here) := (s.die d).ways new
  if here ∨ ways.length < 16 then s.modDie d fun t => { t with l2 := rest ++ [new] }
  else match sortBy worseLine (ways.filter (fun l => l.ahead || s.evictable (64 * l.line))) with
    | v :: _ =>
      let s := s.modDie d fun t => { t with l2 := rest.filter (fun l => l != v) ++ [new] }
      if v.ahead then s else { s with tags := tdel s.tags (64 * v.line) }
    | [] => s

/-- The L2 line of a DRAM access: its priority is the access's EVICT (R81). -/
def State.touchL2 (s : State) (a : Nat) (qual : BitVec 8) (store : Bool) : State :=
  let line := a / 64
  let dirty := (s.die (homeDie a)).l2.any (fun l => l.line == line && !l.ahead && l.dirty)
  s.fillL2 (homeDie a) ⟨line, qual.setWidth 3, store || dirty, false, false, s.clock⟩

/-- The state with the loft controller of a cluster changed. -/
def State.modLoft (s : State) (k : Nat) (f : Loft → Loft) : State :=
  s.modCluster k fun c => { c with loft := f c.loft }

/-- The physical block of a block state, with its sectors. -/
def BlockState.phys : BlockState → Option (Nat × Nat)
  | .priv p n => some (p, n)
  | .shared p n => some (p, n)
  | .overflowed => none

/-- The physical blocks of a loft, each once. -/
def Loft.physical (l : Loft) : List (Nat × Nat) := (l.map.filterMap (fun e => e.2.phys)).dedup

/-- A physical block is the own one of the logical block that maps to it, Shared when two or more do, and gone with its
contents when none does (R75 to R77). -/
def Loft.settle (l : Loft) : Loft :=
  let refs (p n : Nat) : Nat := (l.map.filter (fun f => f.2.phys == some (p, n))).length
  { l with map := l.map.map fun e => match e.2.phys with
             | some (p, n) => (e.1, if refs p n < 2 then .priv p n else .shared p n)
             | none => e
           blocks := l.blocks.filter fun e => l.physical.any (fun p => p.1 == e.1) }

/-- The DRAM address of cluster k's loft overflow area, which the service placed when it loaded its image (R76): 24 MiB
each and apart from the others', at an address the spec leaves to the service (assumption 96). -/
def loftArea (k : Nat) : Nat := (Config.serviceArea k % 42 * 256 + k) * 0x180_0000

/-- Poison goes with n bytes from one home to another: the words there are poisoned as these are (R184). -/
def State.copyPoison (s : State) (a b n : Nat) : State :=
  let gone := s.poison.filter (fun w => !decide (b ≤ w ∧ w < b + n))
  { s with poison := ((s.poison.filter (fun w => decide (a ≤ w ∧ w < a + n))).map (fun w => b + (w - a))).foldl sortedAdd gone }

/-- A plain read of n bytes of DRAM, line by line (R81, R110, R387). -/
def State.dramRead (s : State) (a n : Nat) : List Byte × State :=
  (linePartsOf a n).foldl (fun acc q =>
    let s := (acc.2.applyLine q.1).touchL2 q.1 0 false
    (acc.1 ++ (if s.inSpill q.1 then List.replicate q.2 0 else s.getBytes q.1 q.2), s)) ([], s)

/-- A plain write of DRAM, line by line (R81, R100, R110, R184, R387). -/
def State.dramWrite (s : State) (a : Nat) (d : List Byte) : State :=
  (linePartsOf a d.length).foldl (fun s q =>
    if s.inSpill q.1 then s else
    (((s.applyLine q.1).touchL2 q.1 0 true).putBytes q.1 ((d.drop (q.1 - a)).take q.2)).clearTags q.1 q.2) s

/-- The raw bytes of Overflowed block b are read from its place in the overflow area into the expanded copy (R75, R76). -/
def State.readRaw (s : State) (k b : Nat) : State :=
  let (d, s) := s.dramRead (loftArea k + 256 * b) 256
  (s.poke (loftHome k (256 * b)) d).copyPoison (loftArea k + 256 * b) (loftHome k (256 * b)) 256

/-- Block b of cluster k is held raw in the overflow area alone: it is Overflowed and not expanded (R75, R76). -/
def State.heldRaw (s : State) (k b : Nat) : Bool :=
  let l := (s.cluster k).loft
  tget l.map b == some .overflowed && !l.eaves.any (fun e => e.1 == b)

/-- The loft controller writes block b of cluster k back (R76): Zero; Shared with a stored physical block of the same hash
and contents, unless a detach from it is pending (R77); Private in new sectors; or Overflowed when the 262,144 sectors do not
suffice, raw in the overflow area. DESIGN CHOICE (assumption 75): a detach stays pending until the detached block's own
write-back. -/
def State.writeBack (s : State) (k b : Nat) : State :=
  let home := loftHome k (256 * b)
  let data := s.getBytes home 256
  let clean (l : Loft) : Loft :=
    { l with detached := l.detached.filter (fun d => d.1 != b)
             eaves := l.eaves.map (fun e => if e.1 == b then (e.1, false, e.2.2) else e) }
  let l := clean (s.cluster k).loft
  let twin := (l.blocks.find? fun e => Config.blockHash e.2 == Config.blockHash data && e.2 == data).bind fun e =>
    if l.detached.any (fun d => d.2 == e.1) then none else l.physical.find? (fun p => p.1 == e.1)
  let bare := Loft.settle { l with map := tdel l.map b }
  let n := min 8 (max 1 (Config.blockSectors data))
  let used := (bare.physical.map (·.2)).foldl (· + ·) 0
  let fresh := (bare.physical.map (·.1) ++ l.detached.map (·.2)).foldl max 0 + 1
  if data.all (· == 0) then s.modLoft k fun _ => bare
  else match twin with
    | some (p, m) => s.modLoft k fun _ => Loft.settle { l with map := tput l.map b (.priv p m) }
    | none =>
      if used + n ≤ 262144 then s.modLoft k fun _ =>
        { bare with map := tput bare.map b (.priv fresh n), blocks := tput bare.blocks fresh data }
      else
        let area := loftArea k + 256 * b
        ((s.dramWrite area data).copyPoison home area 256).modLoft k fun _ =>
          { bare with map := tput bare.map b .overflowed }

/-- A store makes the expanded copy of a block dirty: a Shared block detaches (R77), and the block's decode-ahead lines
go (R79). -/
def State.dirtyBlock (s : State) (k b : Nat) : State :=
  let s := s.modDie (k / 64) fun d =>
    { d with l2 := d.l2.filter (fun l => !(l.ahead && loftPlace (64 * l.line) == (k, b))) }
  s.modLoft k fun l =>
    match tget l.map b with
    | some (.shared p _) => Loft.settle { l with map := tdel l.map b, detached := l.detached ++ [(b, p)] }
    | _ => l

/-- Whether one block of the eaves buffer is a victim before another (R76). -/
def worseBlock (x y : Nat × Bool × BitVec 3 × Nat) : Bool :=
  if x.2.2.1 ≠ y.2.2.1 then decide (y.2.2.1.toNat < x.2.2.1.toNat) else decide (x.2.2.2 ≤ y.2.2.2)

/-- The blocks of an eaves set beside a block of it, and whether the block itself is there. -/
def Loft.ways (l : Loft) (b : Nat) : List (Nat × Bool × BitVec 3 × Nat) × Bool :=
  ((l.eaves.filter (fun e => e.1 != b)).filter (fun e => Config.eavesSet e.1 % 64 == Config.eavesSet b % 64),
   l.eaves.any (fun e => e.1 == b))

/-- The block of a full set of 16 ways that must be freed before block b enters: all are tagged, and it is the least
recently used (R101). -/
def State.blockedEaves (s : State) (k b : Nat) : Option Nat :=
  let (ways, here) := (s.cluster k).loft.ways b
  if here ∨ ways.length < 16 ∨ ways.any (fun e => s.evictable (loftHome k (256 * e.1))) then none
  else ((sortBy (fun (x y : Nat × Bool × BitVec 3 × Nat) => decide (x.2.2.2 ≤ y.2.2.2)) ways).head?).map
    (fun e => loftHome k (256 * e.1))

/-- A block enters the eaves buffer expanded, an Overflowed one from the overflow area; a full set of 16 ways loses its
victim, which is written back when it is dirty (R76). -/
def State.fillEaves (s : State) (k : Nat) (new : Nat × Bool × BitVec 3 × Nat) : State :=
  let (ways, here) := (s.cluster k).loft.ways new.1
  let add (s : State) : State :=
    (if s.heldRaw k new.1 then s.readRaw k new.1 else s).modLoft k fun l =>
      { l with eaves := l.eaves.filter (fun e => e.1 != new.1) ++ [new] }
  if here ∨ ways.length < 16 then add s
  else match sortBy worseBlock (ways.filter (fun e => s.evictable (loftHome k (256 * e.1)))) with
    | v :: _ =>
      let s := if v.2.1 then s.writeBack k v.1 else s
      let s := s.modLoft k fun l => { l with eaves := l.eaves.filter (fun e => e.1 != v.1) }
      add { s with tags := tdel s.tags (loftHome k (256 * v.1)) }
    | [] => s

/-- The cluster a reader reads for (R79). -/
def Reader.cluster : Reader → Nat
  | .screener k => k
  | .stream c _ => clusterOf c
  | .copy c => clusterOf c
  | .block c => clusterOf c

/-- The readers that wait take the free places of the four, in the order of their first sequential read (R79). -/
def Loft.promote (l : Loft) : Loft :=
  { l with places := l.places ++ l.waiting.take (4 - l.places.length), waiting := l.waiting.drop (4 - l.places.length) }

/-- A loft read of a reader that may be decoded ahead for (R79): it holds one of the four places of its own cluster, or joins
the readers that wait for one, last; the place and its idle clock move with its own reads, and the line it reads is used. -/
def State.readAhead (s : State) (k b a : Nat) (r : Reader) : State :=
  if r.cluster ≠ k then s else
  let l := (s.cluster k).loft
  if l.places.any (fun p => p.1 == r) then
    let s := s.modDie (k / 64) fun d =>
      { d with l2 := d.l2.map (fun l => if l.ahead && l.line == a / 64 then { l with used := true } else l) }
    s.modLoft k fun l => { l with places := l.places.map (fun p => if p.1 = r then (r, b, s.clock) else p) }
  else s.modLoft k fun l => Loft.promote
    { l with waiting := if l.waiting.any (fun p => p.1 == r) then l.waiting.map (fun p => if p.1 = r then (r, b, s.clock) else p)
                        else l.waiting ++ [(r, b, s.clock)] }

/-- A loft access at the eaves buffer and the loft controller (R76, R77, R79). -/
def State.touchLoft (s : State) (a : Nat) (qual : BitVec 8) (store : Bool) (reader : Option Reader) : State :=
  let (k, b) := loftPlace a
  let dirty := (s.cluster k).loft.eaves.any (fun e => e.1 == b && e.2.1)
  let s := s.fillEaves k (b, store || dirty, qual.setWidth 3, s.clock)
  if store then s.dirtyBlock k b
  else match reader with
    | some r => s.readAhead k b a r
    | none => s

/-- What an access at a home does to the caches. -/
def State.touch (s : State) (a : Nat) (qual : BitVec 8) (store : Bool) (reader : Option Reader) : State :=
  match homeOf a with
  | .dram => s.touchL2 a qual store
  | .loft => s.touchLoft a qual store reader
  | _ => s

/-! ## An engine's read and write at a home (R104 to R106, R110, R387) -/

/-- Who an engine's access is for: the hart whose command it serves, the qualifier of its fills, and the sequential reader
that it is (R79). -/
structure Via where
  hart : Nat
  qual : BitVec 8
  reader : Option Reader
  deriving DecidableEq, Repr

/-- An engine's read of n bytes at a home, line by line (R104, R110): the lines and blocks it reads enter the caches, but
for words of a sync-class page (R82), and a spill area reads zero. -/
def State.engineReadAs (s : State) (v : Via) (sync : Bool) (a n : Nat) : List Byte × State :=
  (linePartsOf a n).foldl (fun acc q =>
    let s := acc.2
    let s := if sync then s else (s.applyLine q.1).touch q.1 v.qual false v.reader
    (acc.1 ++ (if s.inSpill q.1 then List.replicate q.2 0 else s.getBytes q.1 q.2), s)) ([], s)

/-- An engine's plain read at a home. -/
def State.engineRead (s : State) (a n : Nat) : List Byte × State := s.engineReadAs ⟨0, 0, none⟩ false a n

/-- An engine's write at a home, ascending, line by line (R106, R110, R387): it sets full bits and clears release tags. -/
def State.engineWriteAs (s : State) (v : Via) (sync : Bool) (a : Nat) (d : List Byte) : State :=
  (linePartsOf a d.length).foldl (fun s q =>
    if s.inSpill q.1 then s else
    let s := if sync then s else (s.applyLine q.1).touch q.1 v.qual true none
    (s.putBytes q.1 ((d.drop (q.1 - a)).take q.2)).clearTags q.1 q.2) s

/-- An engine's plain write at a home. -/
def State.engineWrite (s : State) (a : Nat) (d : List Byte) : State := s.engineWriteAs ⟨0, 0, none⟩ false a d

end Sys2Proof.Machine
end

