-- ==== Sys2Proof/Machine/Ops.lean ====
section
/-! DEFINITION. Ops.lean: the registers of a context, the program counter, taking a
trap and returning from one, fencing a core, and how a meaning ends (next head, trap, or parked). -/

namespace Sys2Proof.Machine

/-! ## Registers of the executing context (R17, R38) -/

/-- x register n of the executing context; x0 reads zero (R17, R38). -/
def State.x (s : State) (n : BitVec 6) : Word :=
  if n = 0 then 0 else
    match s.ctx with
    | .main => (s.me.main.x[n.toNat]?).getD 0
    | .handler => (s.me.handler.x[n.toNat]?).getD 0

/-- The state with x register n of the executing context written; a write to x0 is discarded (R17, R38). -/
def State.setX (s : State) (n : BitVec 6) (v : Word) : State :=
  if n = 0 then s else
    match s.ctx with
    | .main => s.modMe fun h => { h with main := { h.main with x := h.main.x.setIfInBounds n.toNat v } }
    | .handler => s.modMe fun h => { h with handler := { h.handler with x := h.handler.x.setIfInBounds n.toNat v } }

/-- v register n of the executing context (R17, R38). A register in stream mode holds its last popped strip. -/
def State.v (s : State) (n : BitVec 5) : VWord :=
  match s.ctx with
  | .main => (s.me.main.v[n.toNat]?).getD 0
  | .handler => (s.me.handler.v[n.toNat]?).getD 0

/-- The state with v register n of the executing context written. -/
def State.setV (s : State) (n : BitVec 5) (v : VWord) : State :=
  match s.ctx with
  | .main => s.modMe fun h => { h with main := { h.main with v := h.main.v.setIfInBounds n.toNat v } }
  | .handler => s.modMe fun h => { h with handler := { h.handler with v := h.handler.v.setIfInBounds n.toNat v } }

/-- p register n; p0 reads all ones (R17). -/
def State.p (s : State) (n : BitVec 3) : Word :=
  if n = 0 then BitVec.allOnes 64 else (s.me.p[n.toNat]?).getD 0

/-- The state with p register n written; a write to p0 is discarded (R17). -/
def State.setP (s : State) (n : BitVec 3) (v : Word) : State :=
  if n = 0 then s else s.modMe fun h => { h with p := h.p.setIfInBounds n.toNat v }

/-- The PC of the executing context. -/
def State.pc (s : State) : Word :=
  match s.ctx with
  | .main => s.me.main.pc
  | .handler => s.me.handler.pc

/-- The line image of the executing context (R204). -/
def State.image (s : State) : Option LineImage :=
  match s.ctx with
  | .main => s.me.main.image
  | .handler => s.me.handler.image

/-- The line address of a PC (R199). -/
def lineOfPc (pc : Word) : Word := pc &&& ~~~0x3F#64

/-- The head index of a PC (R199). -/
def headIndex (pc : Word) : Nat := bits pc 5 1

/-- An image is kept while the PC stays in its line (R204). -/
def keepImage (im : Option LineImage) (pc : Word) : Option LineImage :=
  match im with
  | none => none
  | some i => if i.addr = lineOfPc pc then some i else none

/-- The state with the PC of the executing context written. -/
def State.setPc (s : State) (pc : Word) : State :=
  match s.ctx with
  | .main => s.modMe fun h => { h with main := { h.main with pc := pc, image := keepImage h.main.image pc }, park := none }
  | .handler => s.modMe fun h =>
      { h with handler := { h.handler with pc := pc, image := keepImage h.handler.image pc }, hpark := none }

/-- The current privilege of the executing context (R177, R38): 0 user, 1 supervisor, 2 machine. -/
def State.prv (s : State) : Nat :=
  match s.ctx with
  | .main => bits s.me.traps.status 1 0
  | .handler => match s.me.handler.run with
    | some r => r.prv.toNat
    | none => 0

/-! ## The sequential successor (R201) and PC-relative targets (R202) -/

/-- N of the executing context's line; without an image the line is taken as full. -/
def State.lineCount (s : State) : Nat :=
  match s.image with
  | some i => lineN i.bytes
  | none => 31

/-- F of the executing context's line. -/
def State.lineFalls (s : State) : Bool :=
  match s.image with
  | some i => lineF i.bytes
  | none => true

/-- Head 1 of the line after the line of a PC. -/
def nextLine (p : Word) : Word := (lineOfPc p + 64) ||| 2

/-- `link_next` of R201. -/
def State.linkNext (s : State) : Word := if headIndex s.pc < s.lineCount then s.pc + 2 else nextLine s.pc

/-- `rel_target` of R202 for a field of w bits. -/
def relTarget (p : Word) (f w : Nat) : Word :=
  (lineOfPc p + wordOfInt (signed (w - 5) (f / 32)) * 64) + BitVec.ofNat 64 (2 * (f % 32))

/-- A register value as a target: bit 0 is ignored (R203). -/
def targetOf (v : Word) : Word := v &&& ~~~1#64

/-! ## How a meaning ends -/

/-- Why a meaning ends before its head completes: a trap at the head, a trap at its successor (R284), or a wait. -/
inductive Stop where
  | trap (cause tval : Word)
  | trapAfter (cause tval : Word)
  | park (why : Why) (limit : Option Nat)
  deriving DecidableEq, Repr

/-- A computation over the state that may stop. What it changed before it stops stands, so that checks come first. -/
abbrev M := ExceptT Stop (StateM State)

/-- The cause word of a synchronous fault (R175, R176). -/
def faultCause (code sub : Nat) : Word := BitVec.ofNat 64 (sub * 256 + code)

/-- The cause word of an interrupt (R175, R176). -/
def interruptCause (code sub : Nat) : Word := BitVec.ofNat 64 (2 ^ 63 + sub * 256 + code)

/-- Stop with a trap of the given code. -/
def trapM {α : Type} (code sub : Nat) (tval : Word) : M α := throw (.trap (faultCause code sub) tval)

/-- ILLEGAL needs the head for its cr.tval (R176). -/
def illegalM {α : Type} (head : Nat) : M α := trapM 0x03 0 (BitVec.ofNat 64 head)

/-- OPERAND (R176). -/
def operandM {α : Type} (tval : Word) : M α := trapM 0x05 0 tval

/-- ACCESS_FAULT (R176). -/
def accessFaultM {α : Type} (tval : Word) : M α := trapM 0x0C 0 tval

/-- Wait under R62. -/
def parkM {α : Type} (why : Why) : M α := throw (.park why none)

/-- Wait under R62 with a limit in cycles. -/
def parkUntilM {α : Type} (why : Why) (limit : Option Nat) : M α := throw (.park why limit)

/-! ## Gangs, runs and units that a trap or a fence touches -/

/-- The chunk at which a cluster's gang operation is under way: every core that holds a gang TMMA has started it and stands
at that chunk (R406, R414). -/
def State.gangAt (s : State) (k : Nat) : Option Nat :=
  let gangs (c : Nat) : Bool := (s.hart c).engine.queue.any MatCmd.isGang || (s.hart c).engine.run.any (fun r => r.1.isGang)
  let stands := ((coresOf k).filter gangs).map fun c => ((s.hart c).engine.run.filter (fun r => r.1.isGang)).map (·.2)
  match stands with
  | some n :: r => if r.all (· == some n) then some n else none
  | _ => none

/-- Unbind the gang of core c, if it has one (R59): each other member loses its gang. The operation in flight ends with
the chunk in progress; gang commands that committed and have not started stay queued, for committed commands complete
(R180; assumption 78). -/
def State.unbindGang (s : State) (c : Nat) (self : Bool) : State :=
  match (s.hart c).gang.gang with
  | none => s
  | some g =>
    let moving := (s.gangAt (clusterOf c)).isSome
    (coresOf (clusterOf c)).foldl (fun s k =>
      s.modHart k fun h =>
        if h.gang.gang = some g then
          { h with gang := { h.gang with gang := none, unbind := none, command := none,
                                         lost := if k = c ∧ self = false then h.gang.lost else some g },
                   engine := { h.engine with stopping := moving && h.engine.run.any (fun r => r.1.isGang) } }
        else h) s

/-- Lift the hold of a unit, and widen to a scope the tag that it was for, when the unit still carries one of that writer
(R100, R102, R103). A unit whose message made room for a line that waits to be filled may now be a victim (R101). -/
def State.liftHold (s : State) (unit : Nat) (scope : BitVec 3) : State :=
  match tget s.holds unit with
  | none => s
  | some h =>
    { s with tags := match tget s.tags unit with
               | some t => if t.writer = h.writer then
                   tput s.tags unit { t with scope := if scope.toNat < t.scope.toNat then t.scope else scope
                                             freed := t.freed || h.fill }
                 else s.tags
               | none => s.tags
             holds := tdel s.holds unit }

/-- The fence that lifts the hold of a unit is made without an HRET, by the writer's core after a run that trapped or was
discarded (R54, R103) or by its memory interface (R472): it covers the accesses below a serial of hart w, when the hold is
toward that writer. -/
def State.fenceBySelf (s : State) (w unit serial : Nat) : State :=
  { s with holds := match tget s.holds unit with
      | some h => if h.writer = w then tput s.holds unit { h with auto := some serial } else s.holds
      | none => s.holds }

/-- The held units whose hold is toward hart h, the writer of the tag that an acquire met (R101). -/
def State.heldToward (s : State) (h : Nat) : List (Nat × Hold) := s.holds.filter fun e => e.2.writer == h

/-- Lift every hold toward a hart without a fence (R103). -/
def State.liftToward (s : State) (h : Nat) : State :=
  (s.heldToward h).foldl (fun s e => s.liftHold e.1 e.2.scope) s

/-- Append an event-log record; a full ring loses its oldest record and counts it (R458). -/
def State.logEvent (s : State) (kind : Nat) (who arg : Word) : State :=
  s.modDev fun d =>
    let l := d.log ++ [⟨kind, s.nanos, who, arg⟩]
    if 4096 < l.length then { d with log := l.drop 1, logOverflow := d.logOverflow + 1 } else { d with log := l }

/-- A SLEEP ends (R286). -/
def Park.wake (p : Park) : Park := if p.why = .sleep then { p with until_ := some 0 } else p

/-- Increment a mailbox counter of a hart (R60): a SLEEP in which a context that reaches the counter is parked ends with
it (R279, R286): the hart's own contexts, and its loader and storer. -/
def State.bumpCounter (s : State) (h : Nat) (n : BitVec 3) : State :=
  let s := s.modHart h fun t =>
    { t with mc := t.mc.setIfInBounds n.toNat ((t.mc[n.toNat]?).getD 0 + 1)
             park := t.park.map Park.wake, hpark := t.hpark.map Park.wake }
  if kindOf h = 0 then
    (s.modHart (4096 + h) fun t => { t with park := t.park.map Park.wake }).modHart (8192 + h) fun t =>
      { t with park := t.park.map Park.wake }
  else s

/-- A retirement notice of a task record with DV: the counter of the core that DCORE names (R154, R156).
A fenced core's increment is discarded (R191). -/
def State.notifyDone (s : State) (r : TaskRecord) : State :=
  if bit r.w3 15 then
    let c := bits r.w3 11 0
    if s.fencedCore c then s else s.bumpCounter c (BitVec.ofNat 3 (bits r.w3 14 12))
  else s

/-! ## Task queues: where a record is held (R157) -/

/-- The queue of an index: queues 0 to 3 always exist, with generation 0 (R157). -/
def Dispatcher.queue (d : Dispatcher) (q : Nat) : Option TaskQueue :=
  match tget d.queues q with
  | some t => some t
  | none => if q < 4 then some ⟨true, 0, true, 0, 0⟩ else none

/-- Held records in the dispatcher's SRAM (R157). -/
def Dispatcher.sram (d : Dispatcher) : Nat := (d.tasks.filter (fun t => t.overflow.isNone)).length

/-- The lowest free place of a queue's overflow area (R157). -/
def Dispatcher.freePlace (d : Dispatcher) (q : Nat) : Nat :=
  let used := d.tasks.filterMap (fun t => if t.queue = q then t.overflow else none)
  ((List.range (used.length + 1)).find? (fun i => !used.contains i)).getD 0

/-- Where one more record of a queue goes (R157, R160): `some none` is SRAM, `some (some i)` place i of the overflow area,
and `none` says that both are full. A swapped queue's records go to the area first. -/
def Dispatcher.room (d : Dispatcher) (q : Nat) : Option (Option Nat) :=
  match d.queue q with
  | none => none
  | some tq =>
    let i := d.freePlace q
    if tq.live ∧ d.sram < 1024 then some none
    else if i < tq.ovSize / 32 then some (some i)
    else if d.sram < 1024 then some none
    else none

/-- The bytes of a task record (R154). -/
def recordBytes (r : TaskRecord) : List Byte := [r.w0, r.w1, r.w2, r.w3].flatMap fun w => bytesOf w.toNat 8

/-- A task joins a queue of cluster k, last in the order of acceptance; a record in the overflow area is written in DRAM at its
place, as a plain write (R100, R157). -/
def State.holdTask (s : State) (k q : Nat) (t : Task) (place : Option Nat) : State :=
  let s := match place, (s.cluster k).disp.queue q with
    | some i, some tq =>
      let a := tq.ovAddr.toNat + 32 * i
      if a + 32 ≤ 0x40_0000_0000 then s.dramWrite a (recordBytes t.record) else s
    | _, _ => s
  s.modCluster k fun c =>
    { c with disp := { c.disp with tasks := c.disp.tasks ++ [{ t with queue := q, order := c.disp.order, overflow := place }]
                                   order := c.disp.order + 1 } }

/-- A task that was running on a fenced core restarts or is lost (R193). When SRAM and area are full the area takes one
record more, for the spec loses no task with RESTART 1 (assumption 90). -/
def State.loseTask (s : State) (k : Nat) (t : Task) : State :=
  if bit t.record.w2 5 then
    let q := bits t.record.w2 1 0
    let d := (s.cluster k).disp
    s.holdTask k q { t with ready := some s.clock } ((d.room q).getD (some (d.freePlace q)))
  else (s.logEvent 1 t.record.w0 t.record.w1).notifyDone t.record

/-! ## Stopping and fencing -/

/-- The hart whose record holds the I/O die's copy engine, which serves every service core (R338). -/
def ioEngine : Nat := 12288

/-- The transfers of service core h leave the I/O die's copy engine (R191, R464). -/
def State.cutService (s : State) (h : Nat) : State :=
  s.modHart ioEngine fun t => { t with copy := { t.copy with active := t.copy.active.filter (fun x => x.hart != h) } }

/-- A hart stops where it stands: no head, no run and no wait of it goes on (R191, R464). The transfers of other service
cores go on in the engine that a record holds for them. -/
def Hart.stopAt (h : Hart) (act : Activity) : Hart :=
  { h with act := act, park := none, hpark := none, answer := none, theft := none, stopReq := false
           handler := { h.handler with run := none }, runs := { h.runs with fifo := [], port := [] }
           engine := { h.engine with queue := [], run := none, events := [], rowsLeft := 0, flags := 0, stopping := false }
           mem := { h.mem with regWait := none, regReply := none }
           copy := { h.copy with queue := [], active := h.copy.active.filter (fun x => kindOf x.hart == 3) }, gang := { h.gang with bind := none, unbind := none, command := none } }

/-- Stop a compute core with its companions and engines (R191). The triple's store buffers keep their entries, each
of which may still be performed or never is. -/
def State.stopTriple (s : State) (c : Nat) : State :=
  let s := s.unbindGang c true
  let s := (s.liftToward c).liftToward (4096 + c) |>.liftToward (8192 + c)
  let s := s.modCluster (clusterOf c) fun k =>
    { k with treeWait := k.treeWait.filter (fun w => w.core != c)
             treeRun := match k.treeRun with
               | some r => if r.core = c then none else some r
               | none => none
             screener := k.screener.filter (fun r => r.core != c)
             copyl := k.copyl.filter (fun x => coreOf x.hart != c) }
  let s := s.modHart c fun h => h.stopAt .idle
  let s := s.modHart (4096 + c) fun h => h.stopAt (.stopped false)
  s.modHart (8192 + c) fun h => h.stopAt (.stopped false)

/-- Fence a hart (R191, R179): a compute core with its triple; a service core alone. -/
def State.fenceHart (s : State) (h : Nat) : State :=
  if kindOf h = 3 then
    (((s.logEvent 2 (BitVec.ofNat 64 h) 0).liftToward h).cutService h).modHart h fun t =>
      { t.stopAt .idle with sys := { t.sys with fence := setBit t.sys.fence 8 true } }
  else
    let c := coreOf h
    if s.fencedCore c then s else
      let task := (s.hart c).task
      let s := s.stopTriple c
      let s := s.modHart c fun t => { t with task := none, search := none, sys := { t.sys with fence := setBit t.sys.fence 8 true } }
      let s := s.logEvent 2 (BitVec.ofNat 64 c) 0
      match task with
      | some r => s.loseTask (clusterOf c) r.task
      | none => s

/-! ## Taking a trap and returning (R177, R178, R179) -/

/-- The level a trap of a hart goes to (R178): 1 supervisor, 2 machine; none is a double trap. A service core takes every
trap at machine level. -/
def trapLevel (kind : Nat) (status : Word) : Option Nat :=
  match bits status 1 0 with
  | 0 => some (if kind = 3 then 2 else 1)
  | 1 => some (if kind = 3 ∨ bit status 10 then 2 else 1)
  | _ => if bit status 11 then none else some 2

/-- The trap state with a trap taken at a level: cause, pc and value saved, the previous privilege in SPREV or MPREV,
SIT or MIT set, and PRV the level's (R178). -/
def TrapState.take (t : TrapState) (level : Nat) (cause epc tval : Word) : TrapState :=
  let prv := bits t.status 1 0
  if level = 1 then
    { t with sup := { t.sup with cause := cause, epc := epc, tval := tval }
             status := setBits (setBits (setBit t.status 10 true) 13 13 prv) 1 0 1 }
  else
    { t with mach := { t.mach with cause := cause, epc := epc, tval := tval }
             status := setBits (setBits (setBit t.status 11 true) 15 14 prv) 1 0 2 }

/-- cr.tvec of a level. -/
def TrapState.vector (t : TrapState) (level : Nat) : Word := if level = 1 then t.sup.tvec else t.mach.tvec

/-- Take a trap in the main context of hart h, a compute or service core (R178). A double trap stops and fences the
hart (R179). A trap on a gang member unbinds the gang (R59). -/
def State.trapMain (s : State) (h : Nat) (cause epc tval : Word) : State :=
  let s := s.unbindGang h true
  let t := (s.hart h).traps
  match trapLevel (kindOf h) t.status with
  | none => (s.logEvent 5 (BitVec.ofNat 64 h) 0).fenceHart h
  | some level =>
    if headIndex (t.vector level) = 0 then (s.logEvent 5 (BitVec.ofNat 64 h) 0).fenceHart h
    else s.modHart h fun hh =>
      { hh with traps := t.take level cause epc tval, park := none, answer := none, theft := none
                main := { hh.main with pc := targetOf (t.vector level), image := none } }

/-- A trap of a loader or storer core stops it, keeps the trap in its machine copies and makes COMPANION_TRAP pend on
its compute core (R45, R178). -/
def State.trapCompanion (s : State) (h : Nat) (cause epc tval : Word) : State :=
  let s := s.modHart h fun t =>
    { t with act := .stopped true, park := none
             traps := { t.traps with mach := { t.traps.mach with cause := cause, epc := epc, tval := tval } }
             main := { t.main with pc := epc, image := none } }
  let v := setBit epc 0 (kindOf h == 2)
  s.modHart (coreOf h) fun t =>
    let others := t.traps.pend.companion.filter (fun w => bit w 0 != (kindOf h == 2))
    { t with traps := { t.traps with pend := { t.traps.pend with companion := others ++ [v] } } }

/-- A trap in the handler context ends the run (R41): the core makes the fence and lift of a scope-miss run (R103), a drain
run's row is skipped (R416), HANDLER_FAULT pends with the PC at fault, and the runs after it wait. -/
def State.trapHandler (s : State) (h : Nat) (epc : Word) : State :=
  let t := s.hart h
  let s := match t.handler.run with
    | some r => match r.kind with
      | .scopeMiss u _ => s.fenceBySelf h u (if t.handler.fenced then 0 else t.mem.serial)
      | .drain _ => s.modHart h fun t => { t with engine := { t.engine with rowsLeft := t.engine.rowsLeft - 1 } }
    | none => s
  s.modHart h fun t =>
    { t with handler := { t.handler with run := none, image := none }, hpark := none
             runs := { t.runs with blocked := some 0 }
             traps := { t.traps with pend := { t.traps.pend with handlerFault := some epc } } }

/-- TAKING A TRAP: the one operation through which the executing context takes a synchronous trap, with the PC that is
saved (R41, R45, R178). -/
def State.takeTrap (s : State) (cause epc tval : Word) : State :=
  match s.ctx with
  | .handler => s.trapHandler s.cur epc
  | .main => if kindOf s.cur = 1 ∨ kindOf s.cur = 2 then s.trapCompanion s.cur cause epc tval
             else s.trapMain s.cur cause epc tval

/-- RETURNING FROM A TRAP at a level (R178, R284): PC from cr.epc, PRV from SPREV or MPREV, SIT or MIT cleared. A service
core has machine mode alone (R34) and stays there. The runs that waited since a HANDLER_FAULT of that level may start (R41). -/
def State.trapReturn (s : State) (level : Nat) : State :=
  let t := s.me.traps
  let epc := if level = 1 then t.sup.epc else t.mach.epc
  let status := if level = 1 then setBits (setBit t.status 10 false) 1 0 (bits t.status 13 13)
                else setBits (setBit t.status 11 false) 1 0 (if kindOf s.cur = 3 then 2 else bits t.status 15 14)
  (s.modMe fun h =>
    { h with traps := { h.traps with status := status }
             runs := if h.runs.blocked = some level then { h.runs with blocked := none } else h.runs }).setPc (targetOf epc)

/-- Park the executing context (R62): its PC stays at the head, which executes again when it wakes. What an LDF has received
stays with it when it goes on to wait at a held unit (R101, R347). -/
def State.parkCtx (s : State) (why : Why) (limit : Option Nat) : State :=
  let keep (p : Option Park) : Option Park :=
    match p with
    | some q => if q.why = why then some q else some ⟨why, s.clock, limit.map (s.clock + ·), q.value⟩
    | none => some ⟨why, s.clock, limit.map (s.clock + ·), none⟩
  match s.ctx with
  | .main => s.modMe fun h => { h with park := keep h.park }
  | .handler => s.modMe fun h => { h with hpark := keep h.hpark }

/-- The park record of the executing context, when it is parked for the given reason. -/
def State.parkedAs (s : State) (why : Why) : Option Park :=
  match (match s.ctx with | .main => s.me.park | .handler => s.me.hpark) with
  | some p => if p.why = why then some p else none
  | none => none

/-- The value that the head of the executing context has received as an LDF (R347). -/
def State.parkValue (s : State) : Option Word :=
  (match s.ctx with | .main => s.me.park | .handler => s.me.hpark).bind (·.value)

/-- The bytes that the head of the executing context has read already, by home (R105). -/
def State.seenBytes (s : State) : List Host.Cell :=
  match (match s.ctx with | .main => s.me.park | .handler => s.me.hpark) with
  | some p => match p.why with
    | .words l => l
    | _ => []
  | none => []

/-- The head counts as committed (R279). -/
def State.countHead (s : State) : State :=
  s.modMe fun h => { h with sys := { h.sys with instret := h.sys.instret + 1 } }

/-- The head completes and control goes to pc. -/
def State.goto (s : State) (pc : Word) : State := s.countHead.setPc pc

/-- The head completes and control goes to its sequential successor; without one the hart takes LINE_FORMAT with
cr.epc at `link_next` and cr.tval at the line (R201). -/
def State.retire (s : State) : State :=
  if s.lineCount ≤ headIndex s.pc ∧ s.lineFalls = false then
    s.countHead.takeTrap (faultCause 0x02 0) s.linkNext (lineOfPc s.pc)
  else s.goto s.linkNext

/-- A reply that the executing context was waiting for is dropped: its head traps. -/
def State.dropReply (s : State) : State :=
  s.modMe fun h =>
    if h.mem.regCtx = s.ctx then { h with mem := { h.mem with regWait := none, regReply := none } } else h

/-- The end of a meaning: the next state, after a trap (R180, R284), or parked (R62). -/
def finish (r : Except Stop Unit × State) : Host.Outcome State Fault Refusal :=
  match r with
  | (.ok (), s) => .next s
  | (.error (.trap c v), s) => .next (s.dropReply.takeTrap c s.pc v)
  | (.error (.trapAfter c v), s) => .next (s.countHead.takeTrap c s.linkNext v)
  | (.error (.park w l), s) => .next (s.parkCtx w l)

/-! ## Acceptance (R38, R43, R209) -/

/-- Which kinds of hart and context accept an entry: the main context of a compute core, its handler context, loader
and storer cores, service cores. -/
structure Accept where
  main : Bool
  handler : Bool
  companion : Bool
  service : Bool
  deriving DecidableEq, Repr

/-- The executing hart and context accept the entry. -/
def Accept.ok (a : Accept) (s : State) : Bool :=
  match kindOf s.cur, s.ctx with
  | 0, .main => a.main
  | 0, .handler => a.handler
  | 3, _ => a.service
  | _, _ => a.companion

/-- The handler context sees x0 to x15 and v0 to v7, and no predicate register (R38, R308). -/
def State.visible (s : State) (xs : List (BitVec 6)) (vs : List (BitVec 5)) (pred : BitVec 3) : Bool :=
  match s.ctx with
  | .main => true
  | .handler => xs.all (fun n => n.toNat < 16) && vs.all (fun n => n.toNat < 8) && pred == 0

/-- Run a meaning on the executing hart: an entry that the hart's kind or context does not accept, or that names a
register not visible there, raises ILLEGAL with the head in cr.tval (R38, R43, R209, R210). -/
def runHead (a : Accept) (head : Nat) (xs : List (BitVec 6)) (vs : List (BitVec 5)) (pred : BitVec 3) (m : M Unit)
    (s : State) : Host.Outcome State Fault Refusal :=
  if a.ok s && s.visible xs vs pred then finish (m.run s)
  else .next (s.takeTrap (faultCause 0x03 0) s.pc (BitVec.ofNat 64 head))

/-- Accepted everywhere: the scalar integer and control groups (R34, R43, R209). -/
def acceptAll : Accept := ⟨true, true, true, true⟩

/-- Accepted on compute and service cores: scalar float and vector instructions (R43, R209). -/
def acceptCompute : Accept := ⟨true, true, false, true⟩

/-- Accepted in the main context of a compute core alone (R397, R424). -/
def acceptMain : Accept := ⟨true, false, false, false⟩

/-- A computation whose stop is kept for later: of several faults the order of R183 picks one. -/
def attempt {α : Type} (m : M α) : M (Except Stop α) := fun s => ((.ok (m.run s).1), (m.run s).2)

/-- Change the state. -/
def doM (f : State → State) : M Unit := modify f

/-- Raise flags in cr.fflags of the executing hart (R132). -/
def State.raiseFlags (s : State) (f : BitVec 5) : State :=
  s.modMe fun h => { h with sys := { h.sys with fflags := h.sys.fflags ||| f.setWidth 64 } }

/-- Raise flags in cr.mflags of a core (R132). -/
def State.raiseMflags (s : State) (c : Nat) (f : BitVec 5) : State :=
  s.modHart c fun h => { h with sys := { h.sys with mflags := h.sys.mflags ||| f.setWidth 64 } }

/-- MACHINE_CHECK becomes pending on a core, with its subcause and value (R176, R184, R188). One that still pends is replaced
by it, which is the model's choice (assumption 105). -/
def State.machineCheck (s : State) (h : Nat) (sub : Nat) (tval : Word) : State :=
  s.modHart h fun t =>
    { t with traps := { t.traps with pend := { t.traps.pend with machineCheck := some (BitVec.ofNat 8 sub, tval) } } }

end Sys2Proof.Machine
end

