-- ==== Sys2Proof/Machine/Registers.lean ====
section
/-! DEFINITION. Registers.lean: the control registers by number, their readers and writers with the side effects their
rules give (R46 to R48, R64, R139, R163, R168 to R171, R177, R278 to R282, R351), and the hart control window (R464). -/

namespace Sys2Proof.Machine

/-- A row of the table of R278: least privilege to read, least privilege to write (none: not written), and which kinds
of hart hold the register. -/
structure CrRule where
  read : Nat
  write : Option Nat
  compute : Bool
  companion : Bool
  service : Bool
  deriving DecidableEq, Repr

/-- The table of R278. -/
def crRule (n : Nat) : Option CrRule :=
  if n = 0 then some ⟨0, none, true, true, true⟩
  else if n ≤ 3 then some ⟨0, some 2, true, true, true⟩
  else if n = 0x10 then some ⟨0, some 0, true, true, true⟩
  else if 0x11 ≤ n ∧ n ≤ 0x14 then some ⟨1, some 1, true, true, true⟩
  else if n = 0x15 then some ⟨1, some 1, true, false, false⟩
  else if n = 0x16 then some ⟨1, some 1, true, false, true⟩
  else if n = 0x17 then some ⟨0, some 2, true, true, false⟩
  else if n = 0x20 ∨ n = 0x21 ∨ n = 0x23 then some ⟨0, some 0, true, false, false⟩
  else if n = 0x22 then some ⟨0, some 0, true, false, true⟩
  else if n = 0x24 then some ⟨0, none, true, false, false⟩
  else if n = 0x26 ∨ n = 0x29 then some ⟨1, some 1, true, false, false⟩
  else if n = 0x27 ∨ n = 0x28 ∨ n = 0x2A ∨ n = 0x2B then some ⟨1, none, true, false, false⟩
  else if 0x30 ≤ n ∧ n ≤ 0x34 then some ⟨0, some 0, true, false, false⟩
  else if n = 0x35 then some ⟨0, none, true, false, false⟩
  else if 0x38 ≤ n ∧ n ≤ 0x3D then some ⟨0, some 0, true, false, false⟩
  else if 0x40 ≤ n ∧ n ≤ 0x43 then some ⟨0, none, true, false, false⟩
  else if 0x48 ≤ n ∧ n ≤ 0x4F then some ⟨0, some 0, true, true, false⟩
  else if 0x50 ≤ n ∧ n ≤ 0x53 then some ⟨0, some 0, true, false, false⟩
  else if 0x58 ≤ n ∧ n ≤ 0x5F then some ⟨0, some 0, true, true, true⟩
  else if n = 0x60 then some ⟨0, some 1, true, false, false⟩
  else if n = 0x61 ∨ n = 0x62 then some ⟨0, some 2, true, false, false⟩
  else if n = 0x63 then some ⟨2, none, true, false, true⟩
  else none

/-- A hart of the given kind holds the register. -/
def CrRule.holds (r : CrRule) (kind : Nat) : Bool :=
  match kind with
  | 0 => r.compute
  | 3 => r.service
  | _ => r.companion

/-- The hart whose mailbox counters hart h reaches (R279). -/
def counterOwner (h : Nat) : Nat := if kindOf h = 3 then h else coreOf h

/-! ## Companion control (R46) -/

/-- cr.ldctl or cr.stctl as read, for the companion h (R46). -/
def State.companionCtl (s : State) (h : Nat) : Word :=
  match (s.hart h).act with
  | .running => 0x8000_0000_0000_0000
  | .stopped trp => setBit ((s.hart h).main.pc &&& 0x1FFE#64) 62 trp
  | .idle => (s.hart h).main.pc &&& 0x1FFE#64

/-- Start companion h in user mode at a PC; its first fetches are new ones (R44, R46, R53). -/
def State.startCompanion (s : State) (h : Nat) (pc : Word) : State :=
  s.modHart h fun t =>
    { t with act := .running, park := none, answer := none, stopReq := false
             traps := { t.traps with status := setBits t.traps.status 1 0 0 }
             main := { t.main with pc := pc, image := none }, mem := { t.mem with since := s.past.length } }

/-- Stop companion h at its next head boundary: at once, unless a registrar reply is awaited (R46, R112). A wait is
abandoned with what it was answered. -/
def State.stopCompanion (s : State) (h : Nat) : State :=
  s.modHart h fun t =>
    if t.act ≠ .running then t
    else if t.mem.regWait.isSome || t.mem.regReply.isSome then { t with stopReq := true }
    else { t with act := .stopped false, park := none, answer := none, stopReq := false }

/-- A write of cr.ldctl or cr.stctl for companion h (R46); none when it raises OPERAND. -/
def State.writeCompanionCtl (s : State) (h : Nat) (v : Word) : Option State :=
  let runs := (s.hart h).act == .running
  if bit v 63 = runs then some s
  else if runs then some (s.stopCompanion h)
  else if headIndex v = 0 then none
  else some (s.startCompanion h (v &&& 0x1FFE#64))

/-! ## Queue registers (R47, R48) -/

/-- cr.qctln of core c. -/
def State.qctl (s : State) (c : Nat) (q : BitVec 3) : Word := ((s.hart c).queues.ctl[q.toNat]?).getD 0

/-- The state with cr.qctln of core c written, and the place of the oldest element. -/
def State.setQctl (s : State) (c : Nat) (q : BitVec 3) (v : Word) (head : Nat) : State :=
  s.modHart c fun t =>
    { t with queues := ⟨t.queues.ctl.setIfInBounds q.toNat v, t.queues.head.setIfInBounds q.toNat head⟩ }

/-- Element size of a queue in bytes (R47). -/
def queueSize (v : Word) : Nat := match bits v 27 26 with | 0 => 4 | 1 => 8 | 2 => 16 | _ => 64

/-- COUNT of a queue (R47). -/
def queueCount (v : Word) : Nat := bits v 48 36

/-- Depth of a queue in elements (R47). -/
def queueDepth (v : Word) : Nat := 2 ^ bits v 31 28

/-- The queue that a transfer names. -/
def Xfer.queue? (x : Xfer) : Option (BitVec 3) :=
  match x.op with
  | .copy (.queue q) _ _ => some q
  | .copy _ (.queue q) _ => some q
  | _ => none

/-- Transfers on a queue that is disabled move nothing more (R48). -/
def State.endQueueXfers (s : State) (c : Nat) (q : BitVec 3) : State :=
  let cut (l : List Xfer) : List Xfer := l.map fun x => if x.queue? = some q then { x with ended := true } else x
  [c, 4096 + c, 8192 + c].foldl (fun s h =>
    s.modHart h fun t => { t with copy := { t.copy with queue := cut t.copy.queue, active := cut t.copy.active } }) s

/-- A queue of core c is disabled: its held elements are discarded, transfers on it end, and a hart blocked on it takes
QUEUE_DISABLED (R48). DESIGN CHOICE (assumption 74): queue writes that still stand in a store buffer are dropped with the
elements, for the spec names only the held ones. -/
def State.dropQueue (s : State) (c : Nat) (q : BitVec 3) : State :=
  [c, 4096 + c, 8192 + c].foldl (fun s h =>
    s.modHart h fun t =>
      { t with mem := { t.mem with sb := t.mem.sb.filter fun e => match e.op with | .queue k _ _ _ => k != q | _ => true }
               answer := match t.park with
                 | some p => if p.why = .queue q then some (.trap (faultCause 0x0E 0) (q.setWidth 64) false) else t.answer
                 | none => t.answer }) (s.endQueueXfers c q)

/-- A value that enables a queue passes the range check of R48. -/
def queueRangeOk (v : Word) : Bool :=
  bits v 35 34 != 3 && bits v 33 32 != 3 && decide (bits v 31 28 ≤ 12) &&
    decide (bits v 19 6 * 64 + queueDepth v * queueSize v ≤ 0x10_0000)

/-- The RW fields of cr.qctl. -/
def queueFields : Word := 0x8000_000F_FC0F_FFC0

/-- A write of cr.qctln of core c (R48); none when it raises OPERAND. -/
def State.writeQctl (s : State) (c : Nat) (q : BitVec 3) (v : Word) : Option State :=
  let old := s.qctl c q
  if bit old 63 then
    if bit v 63 then some s
    else some ((s.setQctl c q (setBits (setBit old 63 false) 48 36 0) 0).dropQueue c q)
  else if bit v 63 && !queueRangeOk v then none
  else some (s.setQctl c q (v &&& queueFields) 0)

/-! ## Streams (R351, R353) -/

/-- STRMOFF of a slot: the strips held ahead are discarded (R353). -/
def Stream.off (t : Stream) : Stream := if t.en then { t with en := false, flt := false, held := [], fault := none } else t

/-- cr.strmn as read (R351). -/
def Stream.word (t : Stream) : Word :=
  BitVec.ofNat 64 ((if t.en then 2 ^ 63 else 0) + (if t.flt then 2 ^ 62 else 0) + t.reg.toNat * 2 ^ 59 + t.left)

/-- The state with a stream slot of core c changed. -/
def State.modStream (s : State) (c : Nat) (k : BitVec 2) (f : Stream → Stream) : State :=
  s.modHart c fun t => { t with streams := t.streams.setIfInBounds k.toNat (f ((t.streams[k.toNat]?).getD .reset)) }

/-- A stream slot of core c. -/
def State.stream (s : State) (c : Nat) (k : BitVec 2) : Stream := ((s.hart c).streams[k.toNat]?).getD .reset

/-! ## Reading and writing by number (R278 to R282) -/

/-- The worst cluster's wear word: of those that hold a prediction, the one with the least LIFE (R468). -/
def State.worstWear (s : State) : Word :=
  s.clusters.foldl (fun w e =>
    let v := e.2.wear
    if bit v 63 && (!bit w 63 || decide (bits v 47 32 < bits w 47 32)) then v else w) 0

/-- The copy of the trap registers that a level reaches (R177). -/
def TrapState.copy (t : TrapState) (level : Nat) : TrapRegs := if level = 1 then t.sup else t.mach

/-- Control register num of hart h as read at a level: 1 reaches the supervisor copies, 2 the machine copies. -/
def State.crRead (s : State) (h level num : Nat) : Word :=
  let t := s.hart h
  let c := s.hart (coreOf h)
  if 0x40 ≤ num ∧ num ≤ 0x43 then (t.bells.roll[num - 0x40]?).getD 0
  else if 0x48 ≤ num ∧ num ≤ 0x4F then (c.queues.ctl[num - 0x48]?).getD 0
  else if 0x50 ≤ num ∧ num ≤ 0x53 then (s.stream h (BitVec.ofNat 2 (num - 0x50))).word
  else if 0x58 ≤ num ∧ num ≤ 0x5F then
    (((s.hart (counterOwner h)).mc[num - 0x58]?).getD 0).setWidth 64
  else match num with
    | 0x00 => BitVec.ofNat 64 h
    | 0x01 => s.cycleOf h
    | 0x02 => s.timeOf h
    | 0x03 => t.sys.instret
    | 0x10 => t.traps.status
    | 0x11 => (t.traps.copy level).cause
    | 0x12 => (t.traps.copy level).epc
    | 0x13 => (t.traps.copy level).tval
    | 0x14 => (t.traps.copy level).tvec
    | 0x15 => t.sys.smvec
    | 0x16 => t.sys.ptbase
    | 0x17 => c.sys.winmap
    | 0x20 => t.sys.uhandler
    | 0x21 => t.sys.xfer
    | 0x22 => t.sys.fflags
    | 0x23 => t.sys.mflags
    | 0x24 => t.sys.fence
    | 0x26 => s.companionCtl (4096 + h)
    | 0x27 => (s.hart (4096 + h)).traps.mach.cause
    | 0x28 => (s.hart (4096 + h)).traps.mach.tval
    | 0x29 => s.companionCtl (8192 + h)
    | 0x2A => (s.hart (8192 + h)).traps.mach.cause
    | 0x2B => (s.hart (8192 + h)).traps.mach.tval
    | 0x30 => t.mat.afmt
    | 0x31 => t.mat.bfmt
    | 0x32 => t.mat.cfmt
    | 0x33 => t.mat.ascale
    | 0x34 => t.mat.bscale
    | 0x35 => t.mat.tbl
    | 0x38 => t.tree.treeset
    | 0x39 => t.tree.rankcap
    | 0x3A => t.tree.tflags
    | 0x3B => t.tree.npool
    | 0x3C => t.tree.dpool
    | 0x3D => t.tree.tresume
    | 0x60 => t.sys.tasklim
    | 0x61 => (s.cluster (clusterOf h)).disp.agelimit
    | 0x62 => t.sys.preempt
    | 0x63 => if kindOf h = 3 then s.worstWear else (s.cluster (clusterOf h)).wear
    | _ => 0

/-- A write of cr.status from a privilege (R278): user changes UEN; supervisor also SEN, SPREV and SIT; machine every
RW field, but a 3 leaves MPREV unchanged. -/
def statusWrite (prv : Nat) (old v : Word) : Word :=
  let m : Word := match prv with
    | 0 => 0x20
    | 1 => 0x2460
    | _ => if bits v 15 14 = 3 then 0x2CE0 else 0xECE0
  (old &&& ~~~m) ||| (v &&& m)

/-- A write of cr.winmap: ignored once LOCK is 1 (R64). -/
def winmapWrite (old v : Word) : Word := if bit old 0 then old else v &&& 0xFFFF_FFFF_FE00_0001

/-- A write of cr.tasklim: a limit below 0x1000 sets 0x1000 (R168). -/
def tasklimWrite (v : Word) : Word := if bits v 47 0 < 0x1000 then 0x1000 else v &&& 0xFFFF_FFFF_FFFF

/-- A write of cr.tasklim of core h: the running task's count meets the new limit afresh (R168, R169). -/
def State.writeTasklim (s : State) (h : Nat) (v : Word) : State :=
  s.modHart h fun t => { t with sys := { t.sys with tasklim := tasklimWrite v }
                                task := t.task.map (fun r => { r with limited := false }) }

/-- A write of cr.preempt of core h (R171). -/
def State.writePreempt (s : State) (h : Nat) (v : Word) : State :=
  let low := v &&& 7#64
  s.modHart h fun t =>
    if bit v 63 && t.task.isSome then
      { t with sys := { t.sys with preempt := setBit t.sys.preempt 63 true, preemptNext := low } }
    else { t with sys := { t.sys with preempt := low, preemptNext := 0 } }

/-- The state with the control registers that stand alone changed on hart h. -/
def State.modSys (s : State) (h : Nat) (f : SysRegs → SysRegs) : State := s.modHart h fun t => { t with sys := f t.sys }

/-- The state with the trap registers of a level changed on hart h. -/
def State.modTrap (s : State) (h level : Nat) (f : TrapRegs → TrapRegs) : State :=
  s.modHart h fun t =>
    { t with traps := if level = 1 then { t.traps with sup := f t.traps.sup } else { t.traps with mach := f t.traps.mach } }

/-- Control register num of hart h written at a level, from a privilege (R282); none when the register's own rule
refuses the write. -/
def State.crWrite (s : State) (h prv num : Nat) (v : Word) : Option State :=
  if 0x48 ≤ num ∧ num ≤ 0x4F then s.writeQctl (coreOf h) (BitVec.ofNat 3 (num - 0x48)) v
  else if 0x50 ≤ num ∧ num ≤ 0x53 then
    some (if bit v 63 then s else s.modStream h (BitVec.ofNat 2 (num - 0x50)) Stream.off)
  else if 0x58 ≤ num ∧ num ≤ 0x5F then
    some (s.modHart (counterOwner h) fun t => { t with mc := t.mc.setIfInBounds (num - 0x58) (v.setWidth 32) })
  else match num with
    | 0x01 => some (s.modSys h fun r => { r with cycleOff := v - BitVec.ofNat 64 s.clock })
    | 0x02 => some (s.modSys h fun r => { r with timeOff := v - BitVec.ofNat 64 s.nanos })
    | 0x03 => some (s.modSys h fun r => { r with instret := v })
    | 0x10 => some (s.modHart h fun t => { t with traps := { t.traps with status := statusWrite prv t.traps.status v } })
    | 0x11 => some (s.modTrap h prv fun r => { r with cause := v &&& 0x8000_0000_0000_FFFF })
    | 0x12 => some (s.modTrap h prv fun r => { r with epc := v })
    | 0x13 => some (s.modTrap h prv fun r => { r with tval := v })
    | 0x14 => some (s.modTrap h prv fun r => { r with tvec := v })
    | 0x15 => some (s.modSys h fun r => { r with smvec := v })
    | 0x16 => some (s.modSys h fun r => { r with ptbase := v })
    | 0x17 => some (s.modSys (coreOf h) fun r => { r with winmap := winmapWrite r.winmap v })
    | 0x20 => some (s.modSys h fun r => { r with uhandler := v })
    | 0x21 => some (s.modSys h fun r => { r with xfer := v })
    | 0x22 => some (s.modSys h fun r => { r with fflags := v &&& 0x1F })
    | 0x23 => some (s.modSys h fun r => { r with mflags := v &&& 0x1F })
    | 0x26 => s.writeCompanionCtl (4096 + h) v
    | 0x29 => s.writeCompanionCtl (8192 + h) v
    | 0x30 => some (s.modHart h fun t => { t with mat := { t.mat with afmt := v &&& 0xF } })
    | 0x31 => some (s.modHart h fun t => { t with mat := { t.mat with bfmt := v &&& 0xF } })
    | 0x32 => some (s.modHart h fun t => { t with mat := { t.mat with cfmt := v &&& 0xF } })
    | 0x33 => some (s.modHart h fun t => { t with mat := { t.mat with ascale := v &&& 0xFF } })
    | 0x34 => some (s.modHart h fun t => { t with mat := { t.mat with bscale := v &&& 0xFF } })
    | 0x38 => some (s.modHart h fun t => { t with tree := { t.tree with treeset := v &&& 0xFFFF } })
    | 0x39 => some (s.modHart h fun t => { t with tree := { t.tree with rankcap := v &&& 0xF } })
    | 0x3A => some (s.modHart h fun t => { t with tree := { t.tree with tflags := v &&& 3 } })
    | 0x3B => some (s.modHart h fun t => { t with tree := { t.tree with npool := v &&& ~~~0x1F#64 } })
    | 0x3C => some (s.modHart h fun t => { t with tree := { t.tree with dpool := v &&& ~~~0x1F#64 } })
    | 0x3D => some (s.modHart h fun t => { t with tree := { t.tree with tresume := v &&& ~~~0xFF#64 } })
    | 0x60 => some (s.writeTasklim h v)
    | 0x61 => some (s.modCluster (clusterOf h) fun c => { c with disp := { c.disp with agelimit := v &&& 0xFFFF_FFFF } })
    | 0x62 => some (s.writePreempt h v)
    | _ => some s

/-! ## The hart control window (R464) -/

/-- An address in the hart control window. -/
def inHartWindow (a : Nat) : Bool := decide (0xFFC0_1000_0000 ≤ a ∧ a ≤ 0xFFC0_13FF_FFFF)

/-- The transfers of companion h leave its core's copy engine (R464). -/
def State.cutCompanion (s : State) (h : Nat) : State :=
  s.modHart (coreOf h) fun t => { t with copy := { t.copy with active := t.copy.active.filter (fun x => x.hart != h) } }

/-- Halt hart h (R464): a compute core stops with its companions and engines as a fenced core does, and its running
task is abandoned; another hart stops alone, with its transfers. That a REQ of the abandoned task stays pending until the next
task retires is the model's choice (assumption 107). -/
def State.haltHart (s : State) (h : Nat) : State :=
  if (s.hart h).halted then s else
  let s := if kindOf h = 0 then (s.stopTriple h).modHart h fun t =>
             { t with task := none, search := none, traps := { t.traps with pend := { t.traps.pend with taskLimit := none } } }
           else if kindOf h = 3 then ((s.liftToward h).cutService h).modHart h fun t => t.stopAt .idle
           else ((s.liftToward h).cutCompanion h).modHart h fun t => t.stopAt (.stopped false)
  s.modHart h fun t => { t with halted := true }

/-- Release hart h (R464): stores that were not performed never are; a service core continues at its machine cr.epc. -/
def State.releaseHart (s : State) (h : Nat) : State :=
  if (s.hart h).halted = false then s else
  s.modHart h fun t =>
    let u := { t with halted := false, mem := { t.mem with sb := [] } }
    if kindOf h = 3 then
      { u with act := .running, main := { u.main with pc := targetOf u.traps.mach.epc, image := none } }
    else u

/-- What a load at an offset of hart h's page returns (R464). -/
def State.windowRead (s : State) (h off : Nat) : Word :=
  if hartExists h = false then 0
  else if off ≤ 0x7F8 then
    match crRule (off / 8) with
    | some r => if r.holds (kindOf h) then s.crRead h 2 (off / 8) else 0
    | none => 0
  else match off with
    | 0x800 => if kindOf h = 1 ∨ kindOf h = 2 then 0 else (s.hart h).traps.sup.cause
    | 0x808 => if kindOf h = 1 ∨ kindOf h = 2 then 0 else (s.hart h).traps.sup.epc
    | 0x810 => if kindOf h = 1 ∨ kindOf h = 2 then 0 else (s.hart h).traps.sup.tval
    | 0x818 => if kindOf h = 1 ∨ kindOf h = 2 then 0 else (s.hart h).traps.sup.tvec
    | 0xF00 => if (s.hart h).halted then 3 else 0
    | _ => 0

/-- What a store at an offset of hart h's page does (R464). A write that the register's rule refuses changes nothing. -/
def State.windowWrite (s : State) (h off : Nat) (v : Word) : State :=
  if hartExists h = false then s
  else if off ≤ 0x7F8 then
    match crRule (off / 8) with
    | some r => if r.holds (kindOf h) && r.write.isSome && !(decide (0x48 ≤ off / 8 ∧ off / 8 ≤ 0x4F) && kindOf h != 0)
                then (s.crWrite h 2 (off / 8) v).getD s else s
    | none => s
  else match off with
    | 0x800 => if kindOf h = 1 ∨ kindOf h = 2 then s else s.modTrap h 1 fun r => { r with cause := v &&& 0x8000_0000_0000_FFFF }
    | 0x808 => if kindOf h = 1 ∨ kindOf h = 2 then s else s.modTrap h 1 fun r => { r with epc := v }
    | 0x810 => if kindOf h = 1 ∨ kindOf h = 2 then s else s.modTrap h 1 fun r => { r with tval := v }
    | 0x818 => if kindOf h = 1 ∨ kindOf h = 2 then s else s.modTrap h 1 fun r => { r with tvec := v }
    | 0xF00 => if bit v 0 then s.haltHart h else s.releaseHart h
    | _ => s

end Sys2Proof.Machine
end

