-- ==== Sys2Proof/Machine/Memory.lean ====
section
/-! DEFINITION. Memory.lean: windows (R64 to R66), translation (R85 to R88), release tags and holds (R100, R101), loads,
the store buffer and its retirement (R92 to R97). -/

namespace Sys2Proof.Machine

/-! ## Windows (R64 to R66) -/

/-- The windows of the address space; the two sides of the local block count apart. -/
inductive Window where
  | loft | pad | tcm | hole
  | global (above : Bool)
  deriving DecidableEq, Repr

/-- cr.winmap that hart h uses: its compute core's (R65). -/
def State.winmapOf (s : State) (h : Nat) : Word := (s.hart (coreOf h)).sys.winmap

/-- The window of an address for hart h, and the offset in it (R64, R65). A service core has no local block. -/
def State.windowOf (s : State) (h : Nat) (va : Nat) : Window × Nat :=
  let base := (s.winmapOf h).toNat / 0x200_0000
  if kindOf h = 3 then (.global false, va)
  else if va / 0x200_0000 = base then
    let o := va % 0x200_0000
    if o < 0x180_0000 then (.loft, o)
    else if o < 0x190_0000 then (.pad, o - 0x180_0000)
    else if o < 0x190_8000 then (.tcm, o - 0x190_0000)
    else (.hole, o)
  else (.global (decide (base < va / 0x200_0000)), va)

/-- The window address of a TCM offset for hart h. -/
def State.tcmVa (s : State) (h off : Nat) : Word :=
  BitVec.ofNat 64 ((s.winmapOf h).toNat / 0x200_0000 * 0x200_0000 + 0x190_0000 + off)

/-- The window address of a scratchpad offset for hart h. -/
def State.padVa (s : State) (h off : Nat) : Word :=
  BitVec.ofNat 64 ((s.winmapOf h).toNat / 0x200_0000 * 0x200_0000 + 0x180_0000 + off)

/-- The window check of R66 for n bytes from va on: one window, without wrapping, and not the hole. -/
def windowCheck (s : State) (h va n : Nat) : Except Stop (Window × Nat) :=
  let (w, o) := s.windowOf h va
  if va + n > 2 ^ 64 then .error (.trap (faultCause 0x09 0) (BitVec.ofNat 64 va))
  else if (s.windowOf h (va + n - 1)).1 ≠ w then .error (.trap (faultCause 0x09 0) (BitVec.ofNat 64 va))
  else if w = .hole then .error (.trap (faultCause 0x0A 0) (BitVec.ofNat 64 va))
  else .ok (w, o)

/-! ## Scopes, tags and holds (R37, R100 to R103) -/

/-- A party that is no hart, as scopes count it (R37): a private engine of hart h. -/
def privateEngine (h : Nat) : Nat := 16384 + h

/-- A party that is no hart: a unit of the cluster that hart h lies in, at work for it (R37). -/
def clusterEngine (h : Nat) : Nat := 32768 + h

/-- A party that no scope below the package holds: what the network delivers and what comes from outside (R37). -/
def outsideParty : Nat := privateEngine 12288

/-- Party h, a hart or an engine, lies in the scope that a hart names (R37): an engine is in no thread, and a unit of a
cluster in no core. -/
def inScope (of_ : Nat) (scope : BitVec 3) (h : Nat) : Bool :=
  let a := h % 16384
  let svc := kindOf of_ == 3 || kindOf a == 3
  match scope.toNat with
  | 0 => of_ == h
  | 1 => if svc then of_ == h else coreOf of_ == coreOf a && decide (h < 32768)
  | 2 => if svc then of_ == h else clusterOf of_ == clusterOf a
  | 3 => if svc then of_ == h else dieOf of_ == dieOf a
  | _ => true

/-- The smallest scope that holds both harts (R101). -/
def smallestScope (a b : Nat) : BitVec 3 :=
  if inScope a 0 b then 0 else if inScope a 1 b then 1 else if inScope a 2 b then 2 else if inScope a 3 b then 3 else 4

/-- ORD of a qualifier (R90). -/
def qualOrd (q : BitVec 8) : Nat := q.toNat / 64

/-- SCOPE of a qualifier (R90). -/
def qualScope (q : BitVec 8) : BitVec 3 := BitVec.ofNat 3 (q.toNat / 8)

/-- The kind of home that x6 of a scope-miss run names, and the address in x4 (R102). -/
def unitName (unit : Nat) (sync : Bool) : Word × Word :=
  match homeOf unit with
  | .tcm => (BitVec.ofNat 64 ((unit - 0x1_0000_0000_0000) % 0x8000), 2)
  | .pad => (BitVec.ofNat 64 ((unit - 0x1_0000_4000_0000) % 0x10_0000), 3)
  | .loft => (BitVec.ofNat 64 ((unit - 0x1_0002_0000_0000) % 0x200_0000), 4)
  | _ => (BitVec.ofNat 64 unit, if sync then 1 else 0)

/-- A writer that a scope-miss message no longer reaches: it is fenced or halted, or its core is (R103, R191). -/
def State.writerGone (s : State) (w : Nat) : Bool :=
  let own := if kindOf w = 3 then w else coreOf w
  bit (s.hart own).sys.fence 8 || (s.hart own).halted || (s.hart w).halted

/-- A scope-miss message reaches its writer's FIFO, or waits at the port while the FIFO is full (R39, R102). Toward a
loader, storer or service core it goes to the memory interface, which serves it for every access made before (R472). -/
def State.sendScopeMiss (s : State) (writer unit : Nat) (scope : BitVec 3) : State :=
  let t := s.hart writer
  if s.writerGone writer then s.liftHold unit scope else
  let sync := match tget s.tags unit with | some g => g.sync | none => false
  let (a, k) := unitName unit sync
  let r : Run := ⟨.scopeMiss unit scope, 0, 1, a, BitVec.ofNat 64 scope.toNat, k⟩
  let s := s.modHart writer fun t =>
    if kindOf writer = 0 ∧ t.runs.fifo.length < 16 ∧ t.runs.port = [] then
      { t with runs := { t.runs with fifo := t.runs.fifo ++ [r] } }
    else { t with runs := { t.runs with port := t.runs.port ++ [r] } }
  if kindOf writer = 0 then s else s.fenceBySelf writer unit t.mem.serial

/-- An acquire from outside a tag's scope is held, and the writer gets a message unless one is under way (R101). -/
def State.holdAcquire (s : State) (h unit : Nat) : State :=
  match tget s.tags unit with
  | none => s
  | some t =>
    match tget s.holds unit with
    | some d => { s with holds := tput s.holds unit { d with held := true } }
    | none =>
      let sc := smallestScope t.writer h
      ({ s with holds := tput s.holds unit ⟨t.writer, t.scope, sc, false, true, false, none⟩ }).sendScopeMiss t.writer unit sc

/-- An access of party h at a unit waits: the unit is held and h lies outside the scope of the tag that the hold is for,
whatever has become of the tag since (R101). -/
def State.heldFor (s : State) (h unit : Nat) : Bool :=
  match tget s.holds unit with
  | some d => d.held && !inScope d.writer d.inner h
  | none => false

/-- A waiter still waits at a unit: its context is parked there, or its entry is in the store buffer. -/
def State.stillWaits (s : State) (unit : Nat) : Waiter → Bool
  | .access h .main => match (s.hart h).park with | some p => p.why == .scopeMiss unit | none => false
  | .access h .handler => match (s.hart h).hpark with | some p => p.why == .scopeMiss unit | none => false
  | .entry h n => (s.hart h).mem.sb.any (fun e => e.serial == n)

/-- What waits at a unit, in order of arrival. -/
def State.waitersAt (s : State) (unit : Nat) : List Waiter := ((tget s.waiters unit).getD []).filter (s.stillWaits unit)

/-- Whether an access of party h at a unit must wait (R101, R102): outside the scope of a held unit, and once the hold is
lifted until those that arrived before it have gone. An engine's access stands in no line: `none`. -/
def State.mustWait (s : State) (h unit : Nat) (w : Option Waiter) : Bool :=
  match tget s.holds unit with
  | some d => if d.held then s.heldFor h unit else false
  | none => match s.waitersAt unit with
    | [] => false
    | a :: _ => w != some a

/-- A waiter joins the line of a unit. -/
def State.joinLine (s : State) (unit : Nat) (w : Option Waiter) : State :=
  match w with
  | none => s
  | some a =>
    let l := s.waitersAt unit
    { s with waiters := tput s.waiters unit (if l.contains a then l else l ++ [a]) }

/-- An acquire LDF whose word a release has just filled reads it: from outside the tag's scope it is held (R101, R347). -/
def State.holdWaiting (s : State) (unit : Nat) : State :=
  let reads (p : Option Park) : Bool := p.any fun p =>
    p.value.isSome && match p.why with
      | .fullEmpty w true true => w == unit
      | _ => false
  s.harts.foldl (fun t e =>
    match tget t.tags unit with
    | some g => if (reads e.2.park || reads e.2.hpark) && !inScope g.writer g.scope e.1 then t.holdAcquire e.1 unit else t
    | none => t) s

/-- The tag that a write leaves at its unit: a release tags it, a plain write clears it (R100). -/
def State.tagWrite (s : State) (h unit : Nat) (qual : BitVec 8) (sync : Bool) : State :=
  if 2 ≤ qualOrd qual then ({ s with tags := tput s.tags unit ⟨h, qualScope qual, sync, false⟩ }).holdWaiting unit
  else { s with tags := tdel s.tags unit }

/-! ## Where an access waits (R101) -/

/-- Every way of a set is tagged: a message naming system scope goes to the writer of the given unit, the least recently
used, unless one is under way, and the fill waits for the lift (R101). -/
def State.tagMiss (s : State) (u : Nat) : State :=
  match tget s.tags u, tget s.holds u with
  | some t, none =>
    ({ s with holds := tput s.holds u ⟨t.writer, t.scope, 6, false, false, true, none⟩ }).sendScopeMiss t.writer u 6
  | _, _ => s

/-- The tagged unit that must be freed before an access at a home finds its line or block (R101). -/
def State.blockedAt (s : State) (a : Nat) : Option Nat :=
  match homeOf a with
  | .dram => s.blockedL2 (homeDie a) ⟨a / 64, 0, false, false, false, 0⟩
  | .loft => let (k, b) := loftPlace a; s.blockedEaves k b
  | _ => none

/-- An Overflowed block enters the eaves buffer from the overflow area before an access reads what it holds (R75, R76). -/
def State.openBlock (s : State) (a : Nat) : State :=
  if homeOf a = .loft then
    let (k, b) := loftPlace a
    if s.heldRaw k b then s.fillEaves k (b, false, 0, s.clock) else s
  else s

/-- WHERE AN ACCESS OF PARTY h AT A HOME MUST WAIT (R101): at its own unit while that is held, or at the tagged unit that is
to make room for it. The state has the waiter in line, or the message on its way; where nothing waits, an Overflowed block is
there. -/
def State.waitAt (s : State) (h : Nat) (w : Option Waiter) (a : Nat) (sync : Bool) : Option Nat × State :=
  let u := unitOf a sync
  if s.mustWait h u w then (some u, s.joinLine u w)
  else if sync then (none, s)
  else match s.blockedAt a with
    | none => (none, s.openBlock a)
    | some v =>
      let s := s.tagMiss v
      if (s.blockedAt a).isNone then (none, s.openBlock a) else (some v, s)

/-! ## Translation (R85 to R88) -/

/-- The kinds of access that translation and permission tell apart (R86, R176). -/
inductive Acc where
  | load | store | update | fetch
  deriving DecidableEq, Repr

/-- PAGE_FAULT with the subcause of the access; a fetch raises FETCH_ACCESS (R176). -/
def pageFault (acc : Acc) : Word :=
  match acc with
  | .load => faultCause 0x0B 0
  | .store => faultCause 0x0B 1
  | .update => faultCause 0x0B 2
  | .fetch => faultCause 0x01 1

/-- ACCESS_FAULT at translation; a fetch raises FETCH_ACCESS with SUB 2 (R176). -/
def accessFault (acc : Acc) : Word := if acc = .fetch then faultCause 0x01 2 else faultCause 0x0C 0

/-- A leaf allows the access at the privilege (R86). -/
def leafAllows (pte : Word) (acc : Acc) (prv : Nat) : Bool :=
  (prv != 0 || bit pte 4) && bit pte 6 &&
  match acc with
  | .load => bit pte 1
  | .store => bit pte 2 && bit pte 7
  | .update => bit pte 2 && bit pte 7
  | .fetch => bit pte 3

/-- The index bits of a level: its lowest VA bit and its width (R85). -/
def levelShift (level : Nat) : Nat × Nat :=
  match level with
  | 3 => (39, 9) | 2 => (30, 9) | 1 => (21, 9) | _ => (16, 5)

/-- How a walk ends: a leaf with its page size, a page fault, a node outside DRAM, a poisoned entry, or a wait at a held
unit (R101). -/
inductive Walk where
  | leaf (shift : Nat) (pte : Word)
  | fault
  | outside
  | poisoned (a : Nat)
  | waits (unit : Nat)
  deriving DecidableEq, Repr

/-- The walk of hart h from a node at a level down (R85 to R87). Each entry is read as a plain load through L2: a held
line is waited for (R101), its accepted updates are applied first (R110), and a spill area reads zero (R387). -/
def walkFrom (h va : Nat) : Nat → Nat → State → Walk × State
  | level, node, s =>
    let (lo, w) := levelShift level
    let ea := node + 8 * (va / 2 ^ lo % 2 ^ w)
    if homeOf node ≠ .dram then (.outside, s) else
    match s.waitAt h none ea false with
    | (some u, s) => (.waits u, s)
    | (none, s) =>
    let s := (s.applyLine ea).touch ea 0 false none
    if (s.poisonIn ea 8).isSome then (.poisoned ea, s) else
    let pte : Word := if s.inSpill ea then 0 else BitVec.ofNat 64 (memNat s.mem ea 8)
    let ppn := bits pte 47 8 * 256
    if bit pte 0 = false ∨ bits pte 63 48 ≠ 0 ∨ (bit pte 2 ∧ bit pte 1 = false) then (.fault, s)
    else
      let leafBits := bit pte 1 || bit pte 2 || bit pte 3
      match level with
      | 0 => if ppn % 2 ^ 16 ≠ 0 then (.fault, s) else (.leaf 16 pte, s)
      | n + 1 =>
        if n = 2 then (if leafBits then (.fault, s) else walkFrom h va n ppn s)
        else if leafBits then (if ppn % 2 ^ lo ≠ 0 then (.fault, s) else (.leaf lo pte, s))
        else walkFrom h va n ppn s

/-- A TLB entry that translates va under a root. -/
def tlbHit (l : List TlbEntry) (root : Word) (va : Nat) : Option TlbEntry :=
  l.find? (fun e => e.root == root && e.page == va / 2 ^ e.shift)

/-- A TLB of n entries with an entry added. When it is full the oldest entry goes, which is the model's choice. -/
def tlbAdd (l : List TlbEntry) (e : TlbEntry) (n : Nat) : List TlbEntry :=
  (if l.contains e then l else l ++ [e]).drop ((if l.contains e then l.length else l.length + 1) - n)

/-- The set of the cluster TLB that an entry lies in (R87). -/
def tlbSetOf (e : TlbEntry) : Nat := Config.tlbSet e.page % 256

/-- The cluster TLB, 256 sets of 8 ways, with an entry added; a full set loses its oldest entry. -/
def tlbAddSet (l : List TlbEntry) (e : TlbEntry) : List TlbEntry :=
  l.filter (fun o => tlbSetOf o != tlbSetOf e) ++ tlbAdd (l.filter (fun o => tlbSetOf o == tlbSetOf e)) e 8

/-- A translation of hart h enters its core's TLB (R65, R87). -/
def State.fillCore (s : State) (h : Nat) (e : TlbEntry) : State :=
  let own := if kindOf h = 3 then h else coreOf h
  s.modHart own fun t => { t with mem := { t.mem with tlb := tlbAdd t.mem.tlb e 64 } }

/-- A translation enters the cluster's and the die's TLB (R87). A service core stands on no compute die. -/
def State.fillShared (s : State) (h : Nat) (e : TlbEntry) : State :=
  if kindOf h = 3 then s else
  let s := s.modCluster (clusterOf h) fun c => { c with tlb := tlbAddSet c.tlb e }
  s.modDie (dieOf h) fun d => { d with tlb := tlbAdd d.tlb e 262144 }

/-- The translation of va for hart h under a root: core, cluster and last-level TLB, then a walk (R87). -/
def State.lookup (s : State) (h : Nat) (root : Word) (va : Nat) : Walk × State :=
  let own := if kindOf h = 3 then h else coreOf h
  match tlbHit (s.hart own).mem.tlb root va with
  | some e => (.leaf e.shift e.pte, s)
  | none =>
    let shared := if kindOf h = 3 then none else
      match tlbHit (s.cluster (clusterOf h)).tlb root va with
      | some e => some e
      | none => tlbHit (s.die (dieOf h)).tlb root va
    match shared with
    | some e => (.leaf e.shift e.pte, s.fillCore h e)
    | none =>
      match walkFrom h va 3 (bits root 47 12 * 4096) s with
      | (.leaf sh pte, s) =>
        let e : TlbEntry := ⟨root, va / 2 ^ sh, sh, pte⟩
        (.leaf sh pte, (s.fillShared h e).fillCore h e)
      | r => r

/-- The table root that hart h's translations start from (R65, R85). -/
def State.rootOf (s : State) (h : Nat) : Word := (s.hart (if kindOf h = 3 then h else coreOf h)).sys.ptbase

/-- A place in memory: its home address and whether its page is sync-class (R82). -/
structure Place where
  home : Nat
  sync : Bool
  deriving DecidableEq, Repr

/-- What a physical address allows hart h (R80, R462, R463). A service core fetches from service memory alone (R34). -/
def physicalOk (h : Nat) (acc : Acc) (pa : Nat) : Bool :=
  match homeOf pa with
  | .dram => !(kindOf h == 3 && acc == .fetch)
  | _ =>
    kindOf h == 3 && (
      (decide (0xFFC0_0000_0000 ≤ pa ∧ pa ≤ 0xFFC0_0003_FFFF) && (acc == .load || acc == .fetch)) ||
      decide (0xFFC0_0100_0000 ≤ pa ∧ pa ≤ 0xFFC0_03FF_FFFF) ||
      (decide (0xFFC0_1000_0000 ≤ pa ∧ pa ≤ 0xFFC0_13FF_FFFF) && (acc == .load || acc == .store)))

/-- A global address translated for hart h at a privilege (R85 to R87), with cr.tval for a fault. -/
def translate (h : Nat) (root : Word) (prv : Nat) (acc : Acc) (va : Nat) (tval : Word) : M Place := do
  let s ← get
  if kindOf h = 3 ∧ root = 0 then
    if 2 ^ 48 ≤ va ∨ physicalOk h acc va = false then throw (.trap (accessFault acc) tval)
    else pure ⟨va, false⟩
  else if 2 ^ 48 ≤ va then throw (.trap (pageFault acc) tval)
  else
    let (w, s) := s.lookup h root va
    set s
    match w with
    | .fault => throw (.trap (pageFault acc) tval)
    | .outside => throw (.trap (accessFault acc) tval)
    | .poisoned a =>
      set (s.machineCheck (if kindOf h = 3 then h else coreOf h) 2 (BitVec.ofNat 64 a))
      parkM (.poisoned a)
    | .waits u => parkM (.scopeMiss u)
    | .leaf sh pte =>
      if leafAllows pte acc prv = false then throw (.trap (pageFault acc) tval)
      else
        let pa := bits pte 47 8 * 256 + va % 2 ^ sh
        if physicalOk h acc pa = false then throw (.trap (accessFault acc) tval)
        else pure ⟨pa, bit pte 5⟩

/-- The home of a local window's offset for hart h. -/
def localHome (h : Nat) (w : Window) (off : Nat) : Nat :=
  match w with
  | .tcm => tcmHome (coreOf h) off
  | .pad => padHome (clusterOf h) off
  | _ => loftHome (clusterOf h) off

/-- The window check and translation of n bytes from va on, for hart h (R66). -/
def placeOf (h : Nat) (root : Word) (prv : Nat) (acc : Acc) (va n : Nat) (tval : Word) : M Place := do
  let (w, o) ← liftExcept (windowCheck (← get) h va n)
  match w with
  | .global _ => translate h root prv acc va tval
  | w => pure ⟨localHome h w o, false⟩
where
  /-- A check's result in the monad of meanings. -/
  liftExcept {α : Type} (e : Except Stop α) : M α :=
    match e with
    | .ok a => pure a
    | .error x => throw x

/-- The accesses of the executing hart: its privilege and table root. -/
def myPlace (acc : Acc) (va : Word) (n : Nat) : M Place := do
  let s ← get
  placeOf s.cur (s.rootOf s.cur) s.prv acc va.toNat n va

/-- The pieces of n bytes from va on, cut where a smallest page ends (R85). -/
def piecesOf (va n : Nat) : List (Nat × Nat) :=
  let first := va / 2 ^ 16
  (List.range ((va + n + 65535) / 2 ^ 16 - first)).map fun i =>
    let lo := max va ((first + i) * 2 ^ 16)
    (lo, min (va + n) ((first + i + 1) * 2 ^ 16) - lo)

/-- An engine's range of n bytes from va on, translated for hart h page by page (R88, R181): every page before any
byte, with cr.tval at the lowest faulting address. -/
def spansOf (h : Nat) (root : Word) (prv : Nat) (acc : Acc) (va n : Nat) (noSync : Bool) : M Spans :=
  if n = 0 then pure [] else do
    let (w, o) ← placeOf.liftExcept (windowCheck (← get) h va n)
    match w with
    | .global _ => (piecesOf va n).mapM fun p => do
        let q ← translate h root prv acc p.1 (BitVec.ofNat 64 p.1)
        if noSync && q.sync then accessFaultM (BitVec.ofNat 64 p.1) else pure ⟨p.1, p.2, q.home, q.sync⟩
    | w => pure [⟨va, n, localHome h w o, false⟩]

/-- A range of the executing hart, translated at its privilege. -/
def mySpans (acc : Acc) (va : Word) (n : Nat) : M Spans := do
  let s ← get
  spansOf s.cur (s.rootOf s.cur) s.prv acc va.toNat n false

/-- The home of a virtual address or offset in translated ranges. -/
def homeIn (l : Spans) (va : Nat) : Option Nat :=
  match l.find? (fun p => decide (p.va ≤ va ∧ va < p.va + p.len)) with
  | some p => some (p.home + (va - p.va))
  | none => none

/-! ## The store buffer (R40, R62, R92) -/

/-- The bytes an entry writes. -/
def StoreOp.cells : StoreOp → List MaskedByte
  | .write c => c
  | .unitWrite c => c
  | _ => []

/-- The bytes of a line or block whose base is given (R349). -/
def cacheBytes (base : Nat) : List Nat := upFrom base (unitSize base false)

/-- The addresses by which an entry is ordered against others (R92, R94). -/
def StoreOp.addrs : StoreOp → List Nat
  | .write c => c.map (·.addr)
  | .unitWrite c => c.map (·.addr)
  | .limits c => c.map (·.addr)
  | .clre w => upFrom w 8
  | .queue _ _ _ _ => []
  | .update pa n _ => upFrom pa n
  | .clean u _ => cacheBytes u
  | .uflush l => l
  | .fence _ _ => []

/-- The entry acts at a home on the die of hart h (R89). -/
def StoreEntry.dieHomed (e : StoreEntry) (h : Nat) : Bool :=
  match e.op with
  | .queue _ _ _ _ => true
  | _ => e.op.addrs.all (fun a => homeDie a == dieOf h && kindOf h != 3)

/-- Two entries touch a byte in common. -/
def overlaps (a b : StoreEntry) : Bool := a.op.addrs.any (fun x => b.op.addrs.contains x)

/-- The youngest buffered store that touches n bytes from a on: all of them, some of them, or none (R92). -/
inductive Forward where
  | none
  | all (v : Nat)
  | part
  deriving DecidableEq, Repr

/-- A load of n bytes from a on cannot tell what the entry leaves there before it is performed: a store of a search's limits
(R426), or a queue write, whose place in its ring is settled then (R51). -/
def StoreOp.hides (o : StoreOp) (a n : Nat) : Bool :=
  match o with
  | .limits l => l.any (fun m => wordAt m.addr == wordAt a)
  | .queue _ _ ring len => decide (a < ring + len ∧ ring < a + n)
  | _ => false

/-- Forwarding from a store buffer, youngest entry first (R51, R92, R426). -/
def forwardFrom (a n : Nat) : List StoreEntry → Forward
  | [] => .none
  | e :: r =>
    let c := e.op.cells
    if e.op.hides a n then .part else
    let hit := (upFrom a n).filter (fun x => c.any (fun m => m.addr == x))
    if hit = [] then forwardFrom a n r
    else
      let v := (upFrom a n).map (fun x => c.reverse.find? (fun m => m.addr == x && m.mask == 0xFF))
      if v.all (·.isSome) then .all (natOf (v.map (fun m => (m.map (·.val)).getD 0))) else .part

/-- Entries of the buffer by which a load waits (R109): an own update to a line it reads. -/
def waitsForUpdate (a n : Nat) (l : List StoreEntry) : Bool :=
  l.any fun e => match e.op with
    | .update pa _ _ => decide (a / 64 ≤ pa / 64 ∧ pa / 64 ≤ (a + n - 1) / 64)
    | _ => false

/-- A load that CLRE of the same hart precedes at the word waits for it (R347). -/
def waitsForWord (w : Nat) (l : List StoreEntry) : Bool := l.any (fun e => e.op.addrs.contains w || e.op.hides w 8)

/-- The hart has messages under way (R95). -/
def State.msgsOut (s : State) (h : Nat) : Nat :=
  (s.net.filter (fun p => match p with | .msg src _ _ _ _ _ => src == h | _ => false)).length

/-- The accesses of hart h below a serial are performed: its entries and messages of lower serial are gone (R103, R472). -/
def State.performedBelow (s : State) (h n : Nat) : Bool :=
  (s.hart h).mem.sb.all (fun e => decide (n ≤ e.serial)) &&
    s.net.all (fun p => match p with | .msg src _ _ _ _ k => src != h || decide (n ≤ k) | _ => true)

/-- Earlier accesses of hart h are performed with respect to a scope: its store buffer is empty, its messages are
delivered, and beyond the package the fences sent are acknowledged (R95, R459). -/
def State.drained (s : State) (h : Nat) (scope : BitVec 3) : Bool :=
  (s.hart h).mem.sb.isEmpty && s.msgsOut h == 0 &&
    (decide (scope.toNat < 5) || (s.dev.podDirty.isEmpty && s.dev.podWait.isEmpty))

/-- A fence to every module and host that data went to, when a pod-scope release waits for it (R459). -/
def State.podFence (s : State) (scope : BitVec 3) : State :=
  if scope.toNat < 5 ∨ s.dev.podDirty = [] ∨ s.dev.podWait ≠ [] then s
  else s.modDev fun d => { d with podWait := d.podDirty, podDirty := [] }

/-- Wait until the executing hart's earlier accesses are performed at a scope (R97, R99). -/
def drainM (scope : BitVec 3) : M Unit := do
  modify (fun s => s.podFence scope)
  let s ← get
  if s.drained s.cur scope then pure () else parkM .drain

/-- Wait until the executing hart's store buffer is empty: its stores are performed at their homes. -/
def emptyBufferM : M Unit := do
  let s ← get
  if s.me.mem.sb.isEmpty then pure () else parkM .drain

/-- The number of entries a store buffer is not limited to: the spec gives no size. An entry joins in program order. -/
def State.pushStore (s : State) (op : StoreOp) (qual : BitVec 8) (sync : Bool) : State :=
  s.modMe fun h => { h with mem := { h.mem with sb := h.mem.sb ++ [⟨op, qual, sync, h.mem.serial⟩]
                                                serial := h.mem.serial + 1 } }

/-- Masked bytes grouped by the aligned 8-byte word they lie in, in order. -/
def groupWords : List MaskedByte → List (List MaskedByte)
  | [] => []
  | m :: r =>
    match groupWords r with
    | (n :: g) :: rest => if wordAt m.addr = wordAt n.addr then (m :: n :: g) :: rest else [m] :: (n :: g) :: rest
    | gs => [m] :: gs

/-- What a store of the executing hart to bytes of one word is (R426): while its search is active, a store of a core to word
1 or 2 of the search's block changes TLIM or CLIM alone, which lie in bytes 2 and 3 of those words. -/
def State.storeOpOf (s : State) (cells : List MaskedByte) : StoreOp :=
  match (if kindOf s.cur = 0 then s.me.search else none) with
  | none => .write cells
  | some q =>
    let b := tcmHome s.cur q.block
    if cells.any (fun c => decide (b + 8 ≤ c.addr ∧ c.addr < b + 24)) then
      .limits (cells.filter fun c => c.addr % 8 == 2 || c.addr % 8 == 3)
    else .write cells

/-- Masked bytes enter the store buffer, one entry per 8-byte word (R93). -/
def State.pushCells (s : State) (cells : List MaskedByte) (qual : BitVec 8) (sync : Bool) : State :=
  (groupWords cells).foldl (fun s g => s.pushStore (s.storeOpOf g) qual sync) s

/-- Whole bytes from a home address on. -/
def cellsAt (a : Nat) (d : List Byte) : List MaskedByte :=
  match d with
  | [] => []
  | b :: r => ⟨a, b, 0xFF⟩ :: cellsAt (a + 1) r

/-- A byte under masked bytes, the later ones over the earlier (R345). -/
def maskedOver (cells : List MaskedByte) (a : Nat) (v : Byte) : Byte :=
  cells.foldl (fun v m => if m.addr = a then (m.val &&& m.mask) ||| (v &&& ~~~m.mask) else v) v

/-- Masked bytes of one word land at its home, indivisibly (R93, R345): the word becomes full (R68), and one that is covered
whole loses its poison (R184). -/
def State.mergeWord (s : State) (w : Nat) (cells : List MaskedByte) : State :=
  let s := s.poke w ((upFrom w 8).map fun a => maskedOver cells a (memGet s.mem a))
  let mask (a : Nat) : Byte := (cells.filter (fun c => c.addr == a)).foldl (fun m c => m ||| c.mask) 0
  let whole (p : Nat) : Bool := (upFrom p (secdedSize p)).all (fun a => mask a == 0xFF)
  ({ s with poison := s.poison.filter (fun p => !(wordAt p == w && whole p)) }).setFull w true

/-- The write of a store's bytes of one word at its home (R68, R77, R100, R110, R184, R387). -/
def State.performWrite (s : State) (h : Nat) (cells : List MaskedByte) (qual : BitVec 8) (sync : Bool) : State :=
  match cells with
  | [] => s
  | m :: _ =>
    if inHartWindow m.addr then
      s.windowWrite ((m.addr - 0xFFC0_1000_0000) / 4096) (m.addr % 4096) (BitVec.ofNat 64 (natOf (cells.map (·.val))))
    else
    let s := s.applyLine m.addr
    if s.inSpill m.addr then s else
    let s := if sync then s else s.touch m.addr qual true none
    let s := s.mergeWord (wordAt m.addr) cells
    s.tagWrite h (unitOf m.addr sync) qual sync

/-- A store of core h into the limit of word 1 or 2 of its search's block (R426): it changes the limit only when the new
value is not below TTOP or CTOP, which the unit holds while the search runs, and the block otherwise. -/
def State.performLimits (s : State) (h : Nat) (cells : List MaskedByte) (qual : BitVec 8) : State :=
  match cells with
  | [] => s
  | m :: _ =>
    let w := wordAt m.addr
    let new := natOf ((upFrom (w + 2) 2).map fun a => maskedOver cells a (memGet s.mem a))
    match (s.hart h).search with
    | some q =>
      let trail := w == tcmHome h (q.block + 8)
      if (trail ∨ w = tcmHome h (q.block + 16)) then
        if new < (if trail then q.ttop else q.ctop) then s
        else (s.performWrite h cells qual false).modHart h fun t =>
          { t with search := some (if trail then { q with tlim := new } else { q with clim := new }) }
      else if new < memNat s.mem (w + 4) 2 then s else s.performWrite h cells qual false
    | none => if new < memNat s.mem (w + 4) 2 then s else s.performWrite h cells qual false

/-! ## Registrars (R82, R112, R113) -/

/-- The bytes that a registrar request is at, and their number. -/
def RegOp.place : RegOp → Nat × Nat
  | .load a n => (a, n)
  | .swap a n _ => (a, n)
  | .cas a n _ _ => (a, n)
  | .fadd a n _ => (a, n)

/-- One request performed at its registrar, indivisibly, with the value it replies (R112, R383). -/
def State.registrarDo (s : State) (r : RegRequest) : Word × State :=
  let upd (addr size : Nat) (v : Word) : State :=
    (s.poke addr (bytesOf v.toNat size)).tagWrite r.hart (wordAt addr) r.qual true
  let old (addr size : Nat) : Word := BitVec.ofNat 64 (memNat s.mem addr size)
  match r.op with
  | .load a n => (old a n, s)
  | .swap a n v => (old a n, upd a n v)
  | .cas a n o v => (old a n, if old a n = o then upd a n v else s)
  | .fadd a n v => (old a n, upd a n (old a n + v))

/-- A reply reaches the hart that waits for it. -/
def State.giveReply (s : State) (r : RegRequest) (v : RegReply) : State :=
  s.modHart r.hart fun t =>
    match t.mem.regWait with
    | some q => if q.seq = r.seq then { t with mem := { t.mem with regWait := none, regReply := some v } } else t
    | none => t

/-- A registrar serves a request (R113): a key among the requester's last 64 replies gets the recorded reply, and a request
that meets a poisoned word changes nothing (R184). -/
def State.registrarServe (s : State) (r : RegRequest) : State :=
  match (s.hart r.hart).mem.replies.find? (fun e => e.1 == r.seq) with
  | some e => s.giveReply r e.2
  | none =>
    let (v, s) : RegReply × State := match s.poisonIn r.op.place.1 r.op.place.2 with
      | some w => (.poisoned w, s)
      | none => let q := s.registrarDo r; (.value q.1, q.2)
    (s.modHart r.hart fun t =>
      { t with mem := { t.mem with replies := (t.mem.replies ++ [(r.seq, v)]).drop (t.mem.replies.length + 1 - 64) } }).giveReply r v

/-- Requests for a byte of n from a on stand in the queue of the word's registrar: a plain access arrives behind them (R112). -/
def State.registrarHas (s : State) (a n : Nat) : Bool :=
  (s.die (homeDie a)).registrar.any fun r => decide (wordAt r.op.place.1 < a + n ∧ a < wordAt r.op.place.1 + 8)

/-- The executing hart has a registrar request or reply. -/
def State.registrarBusy (s : State) : Bool := s.me.mem.regWait.isSome || s.me.mem.regReply.isSome

/-- The executing context has a registrar request or reply: its head was checked before it was sent. -/
def State.registrarMine (s : State) : Bool := s.registrarBusy && s.me.mem.regCtx == s.ctx

/-- The reply of a registrar as the value of the head that waits for it, or its trap (R184). -/
def replyM (home : Nat) (va : Word) (r : RegReply) : M Word := do
  modify fun s => s.modMe fun h => { h with mem := { h.mem with regReply := none } }
  match r with
  | .value v => pure v
  | .poisoned w => trapM 0x0F 0 (va + BitVec.ofNat 64 w - BitVec.ofNat 64 home)

/-- The executing hart's access through a registrar: the first pass sends the request, and the head waits for the
reply; a registrar without earlier requests serves it at once (R112). -/
def registrarM (op : RegOp) (qual : BitVec 8) (home : Nat) (va : Word) : M Word := do
  let s ← get
  if s.registrarBusy ∧ s.me.mem.regCtx ≠ s.ctx then parkM .registrar else
  match s.me.mem.regReply with
  | some v => replyM home va v
  | none =>
    if s.me.mem.regWait.isSome then parkM .registrar else
    let r : RegRequest := ⟨s.cur, s.me.mem.regSeq, op, qual⟩
    let d := homeDie home
    let s := s.modMe fun h => { h with mem := { h.mem with regSeq := h.mem.regSeq + 1, regWait := some r, regCtx := s.ctx, regLast := some r } }
    if (s.die d).registrar = [] then
      let s := s.registrarServe r
      set s
      match s.me.mem.regReply with
      | some v => replyM home va v
      | none => parkM .registrar
    else
      set (s.modDie d fun t => { t with registrar := t.registrar ++ [r] })
      parkM .registrar

/-- The home of the executing hart's latest registrar request. -/
def State.sentHome (s : State) : Nat :=
  match s.me.mem.regLast with
  | some r => r.op.place.1
  | none => 0

/-- The place of an access that may go to a registrar: once its request is sent it was checked and translated, and the reply
ends it whatever becomes of its page (R112, R383). -/
def sentPlaceM (m : M Place) : M Place := do
  let s ← get
  if s.registrarMine then pure ⟨s.sentHome, true⟩ else m

/-! ## Loads (R92 to R97, R109, R110, R184) -/

/-- The order that a load's qualifier asks for, before it is performed (R97). -/
def orderBeforeLoad (qual : BitVec 8) : M Unit := if qualOrd qual = 3 then drainM (qualScope qual) else pure ()

/-- An access of the executing hart meets the tag and hold of its unit, and room for its line or block (R101): an acquire
from outside a tag's scope is held when its turn has come. -/
def meetTag (a : Nat) (sync acquire : Bool) : M Unit := do
  let s ← get
  let u := unitOf a sync
  let w := some (Waiter.access s.cur s.ctx)
  let out := match tget s.tags u with
    | some t => acquire && !inScope t.writer t.scope s.cur
    | none => false
  let s := if out && ((tget s.holds u).isSome || !s.mustWait s.cur u w) then s.holdAcquire s.cur u else s
  match s.waitAt s.cur w a sync with
  | (some v, s) =>
    set s
    parkM (.scopeMiss v)
  | (none, s) => set s

/-- Some engine may be writing at one of n bytes from a on: a transfer in progress whose destination holds it, or a unit at
work whose results may lie there (R105). -/
def State.engineAt (s : State) (a n : Nat) : Bool :=
  let meets (l : Spans) : Bool := l.any fun p => decide (p.home < a + n ∧ a < p.home + p.len)
  let pad := homeOf a == .pad
  let moves (x : Xfer) : Bool := !x.done && match x.op with
    | .copy _ (.memory l) _ => meets l
    | .copy _ (.queue _) _ => pad
    | .copyl _ l => meets l.spans
  s.harts.any (fun e => e.2.copy.active.any moves || e.2.engine.run.any fun r => match r.1.op with
    | .mma .. => pad
    | .drain _ _ _ _ _ _ _ _ rows => pad || rows.any meets
    | _ => false) ||
  s.clusters.any (fun e => e.2.treeRun.isSome || e.2.screener.any (fun r => meets r.spans)) ||
  s.dev.endpoints.any (fun e => e.2.work.any (fun w => meets w.spans))

/-- The value of n bytes at a home to the executing context: what its head has read already, and for the rest what is there. -/
def State.readNat (s : State) (a n : Nat) : Nat :=
  natOf ((upFrom a n).map fun x => match s.seenBytes.find? (fun c => c.1 == x) with
    | some c => c.2
    | none => memGet s.mem x)

/-- A plain load that races an engine may read one of its words early and the others later, each for itself: a word of 8 bytes,
or of 4 in a scratchpad, whose bank adders write such words (R105). Whether it does is a free choice; the head then reads on. -/
def earlyWordM (a n : Nat) : M Unit := do
  let s ← get
  if s.engineAt a n = false then pure () else
  let w := if homeOf a = .pad then 4 else 8
  (unitsOver w a n).forM fun u => do
    let s ← get
    if s.seenBytes.any (fun c => c.1 == w * u) then pure () else
    let (early, s) := s.choose 2
    set s
    if early = 0 then pure ()
    else parkM (.words (s.seenBytes ++ (upFrom (w * u) w).map (fun x => (x, memGet s.mem x))))

/-- The value of n bytes at a place, read by the executing hart with a qualifier, little-endian. A scalar load of a
sync-class word goes through the registrar's queue; a part of a wider read arrives there when no request for its word is
in the queue (R112). The hart control window takes scalar loads alone (R464). -/
def loadCore (queued : Bool) (p : Place) (n : Nat) (qual : BitVec 8) (va : Word) : M Nat := do
  let s ← get
  if p.sync && queued && s.registrarMine then
    let v ← registrarM (.load p.home n) qual p.home va
    pure (v.toNat % 2 ^ (8 * n))
  else
  orderBeforeLoad qual
  let s ← get
  if inHartWindow p.home then
    if queued ∧ n = 8 ∧ p.home % 8 = 0 then
      if s.me.mem.sb.any (fun e => e.op.addrs.any inHartWindow) then parkM .drain
      else pure (s.windowRead ((p.home - 0xFFC0_1000_0000) / 4096) (p.home % 4096)).toNat
    else accessFaultM va
  else if waitsForUpdate p.home n s.me.mem.sb then parkM .drain
  else match forwardFrom p.home n s.me.mem.sb.reverse with
    | .part => parkM .drain
    | .all v => pure v
    | .none =>
      meetTag p.home p.sync (decide (qualOrd qual = 1 ∨ qualOrd qual = 3))
      let s ← get
      if p.sync && queued then
        let v ← registrarM (.load p.home n) qual p.home va
        pure (v.toNat % 2 ^ (8 * n))
      else if p.sync && s.registrarHas p.home n then parkM .drain
      else match s.poisonIn p.home n with
      | some w => trapM 0x0F 0 (va + BitVec.ofNat 64 w - BitVec.ofNat 64 p.home)
      | none =>
        set (if p.sync then s else (s.applyLine p.home).touch p.home qual false none)
        let s ← get
        if s.inSpill p.home then pure 0 else do
          if qualOrd qual = 0 then earlyWordM p.home n else pure ()
          pure ((← get).readNat p.home n)

/-- A scalar load. -/
def loadAt (p : Place) (n : Nat) (qual : BitVec 8) (va : Word) : M Nat := loadCore true p n qual va

/-- A part of a vector load, a record or a payload. -/
def loadPart (p : Place) (n : Nat) (qual : BitVec 8) (va : Word) : M Nat := loadCore false p n qual va

/-! ## Stores (R66, R72, R97, R343, R464) -/

/-- A store's bytes may land at their home: not in the thatcher's stack (R72), and in the hart control window only as
one aligned 8-byte store (R464). -/
def storeCheck (p : Place) (n : Nat) (va : Word) : M Unit :=
  if homeOf p.home = .pad ∧ 0xF_C000 ≤ (p.home - 0x1_0000_4000_0000) % 0x10_0000 then accessFaultM va
  else if inHartWindow p.home ∧ ¬ (n = 8 ∧ p.home % 8 = 0) then accessFaultM va
  else pure ()

/-- An ordered store waits until everything before it has been performed (R97). -/
def storeOrder (qual : BitVec 8) : M Unit := if qualOrd qual = 3 then drainM (qualScope qual) else pure ()

/-- The first unit that a store of the executing hart must wait at before it is performed, with the waits of R101 and R112. -/
def meetCells (cells : List MaskedByte) (sync : Bool) : M Unit :=
  (groupWords cells).forM fun g =>
    match g with
    | [] => pure ()
    | m :: _ => do
      meetTag m.addr sync false
      let s ← get
      if sync && s.registrarHas (wordAt m.addr) 8 then parkM .drain else pure ()

/-- A store of the executing hart that is performed at its head, word by word (R97, R347, R426). -/
def State.storeNow (s : State) (cells : List MaskedByte) (qual : BitVec 8) (sync : Bool) : State :=
  (groupWords cells).foldl (fun s g => match s.storeOpOf g with
    | .limits c => s.performLimits s.cur c qual
    | _ => s.performWrite s.cur g qual sync) s

/-- Masked bytes that passed their checks are stored: they enter the store buffer, and an ordered store is performed
once everything before it has been (R40, R97). -/
def storeCells (cells : List MaskedByte) (qual : BitVec 8) (sync : Bool) : M Unit :=
  if qualOrd qual = 3 then do
    meetCells cells sync
    modify fun s => s.storeNow cells qual sync
  else modify fun s => s.pushCells cells qual sync

/-- A word of masked bytes that an engine writes (R68, R100, R184, R387). -/
def State.engineMasked (s : State) (v : Via) (w : Nat) (cells : List MaskedByte) : State :=
  if s.inSpill w then s else
  (((s.applyLine w).touch w v.qual true none).mergeWord w cells).clearTags w 8

/-- Search-unit bytes enter the store buffer of the core (R426). -/
def State.unitStore (s : State) (off : Nat) (d : List Byte) : State :=
  (groupWords (cellsAt (tcmHome s.cur off) d)).foldl (fun s g => s.pushStore (.unitWrite g) 0 false) s

/-! ## Reads and writes of records and engines -/

/-- Words of a record read once with plain loads by the executing hart, from an aligned address on (R359). -/
def loadWords (va : Word) (n : Nat) : M (List Word) :=
  (List.range n).mapM fun i => do
    let a := va + BitVec.ofNat 64 (8 * i)
    let p ← myPlace .load a 8
    let v ← loadPart p 8 0 a
    pure (BitVec.ofNat 64 v)

/-- The newest value of a byte as hart h sees it: the home's value under every buffered store. -/
def State.viewByte (s : State) (h a : Nat) : Byte :=
  (s.hart h).mem.sb.foldl (fun v e => maskedOver e.op.cells a v) (memGet s.mem a)

/-- n bytes as hart h sees them, as a number. -/
def State.viewNat (s : State) (h a n : Nat) : Nat := natOf ((List.range n).map (fun i => s.viewByte h (a + i)))

/-! ## Engines (R100 to R106, R110, R387) -/

/-- Whether a party's access at a place must wait: at a held unit or for room (R101), or behind the requests that a
registrar holds for a word of a sync-class page (R112). -/
def State.pieceWaits (s : State) (h : Nat) (p : Piece) : Bool × State :=
  (linePartsOf p.home p.len).foldl (fun acc q =>
    if p.sync then
      (acc.1 || acc.2.registrarHas q.1 q.2 ||
        (unitsOver 8 q.1 q.2).any (fun w => acc.2.mustWait h (8 * w) none), acc.2)
    else match homeOf q.1 with
      | .tcm | .pad | .store | .plane | .service =>
        (acc.1 || (unitsOver 8 q.1 q.2).any (fun w => acc.2.mustWait h (8 * w) none), acc.2)
      | _ => let r := acc.2.waitAt h none q.1 false; (acc.1 || r.1.isSome, r.2)) (false, s)

/-- Whether a party's access to translated places must wait; the state has the messages that it waits for on their way. -/
def State.partyWaits (s : State) (h : Nat) (l : Spans) : Bool × State :=
  l.foldl (fun acc p => let r := acc.2.pieceWaits h p; (acc.1 || r.1, r.2)) (false, s)

/-- Whether the access of a private engine of hart h to translated places must wait (R37, R101, R112). -/
def State.spansWait (s : State) (h : Nat) (l : Spans) : Bool × State := s.partyWaits (privateEngine h) l

/-- Whether the access of a unit of core c's cluster, at work for it, to translated places must wait (R37, R101, R112). -/
def State.unitWaits (s : State) (c : Nat) (l : Spans) : Bool × State := s.partyWaits (clusterEngine c) l

/-- An engine's read of translated places, in order. -/
def State.readSpansAs (s : State) (v : Via) (l : Spans) : List Byte × State :=
  l.foldl (fun acc p => let r := acc.2.engineReadAs v p.sync p.home p.len; (acc.1 ++ r.1, r.2)) ([], s)

/-- An engine's plain read of translated places, in order. -/
def State.engineReadSpans (s : State) (l : Spans) : List Byte × State := s.readSpansAs ⟨0, 0, none⟩ l

/-- The lowest poisoned word under translated places, by the address that the command named it with (R176). -/
def State.poisonSpans (s : State) (l : Spans) : Option Word :=
  l.findSome? fun p => (s.poisonIn p.home p.len).map fun w => BitVec.ofNat 64 p.va + BitVec.ofNat 64 w - BitVec.ofNat 64 p.home

/-- An engine's write of bytes to translated places, in ascending order (R106). -/
def State.writeSpansAs (s : State) (v : Via) : Spans → List Byte → State
  | [], _ => s
  | p :: r, d => (s.engineWriteAs v p.sync p.home (d.take p.len)).writeSpansAs v r (d.drop p.len)

/-- An engine's plain write of bytes to translated places. -/
def State.engineWriteSpans (s : State) (l : Spans) (d : List Byte) : State := s.writeSpansAs ⟨0, 0, none⟩ l d

/-- Bytes read by the executing hart as plain loads, one by one (R297). -/
def loadBytes (va : Word) (n : Nat) : M (List Byte) :=
  (List.range n).mapM fun i => do
    let a := va + BitVec.ofNat 64 i
    let p ← myPlace .load a 1
    let v ← loadPart p 1 0 a
    pure (BitVec.ofNat 8 v)

end Sys2Proof.Machine
end

