-- ==== Sys2Proof/Machine/Crypto.lean ====
section
/-! DEFINITION. Crypto.lean: SHA-512 and ECDSA over the P-521 curve, which R32 names and does not restate: as the standards
FIPS 180-4, FIPS 186-4 and SP 800-186 give them, numbers as octet strings with the most significant octet first
(assumption 93). -/

namespace Sys2Proof.Machine

/-! ## SHA-512 -/

/-- The round constants: the first 64 bits of the fractional parts of the cube roots of the first eighty primes. -/
def shaK : List Word :=
  [0x428A2F98D728AE22, 0x7137449123EF65CD, 0xB5C0FBCFEC4D3B2F, 0xE9B5DBA58189DBBC,
    0x3956C25BF348B538, 0x59F111F1B605D019, 0x923F82A4AF194F9B, 0xAB1C5ED5DA6D8118,
    0xD807AA98A3030242, 0x12835B0145706FBE, 0x243185BE4EE4B28C, 0x550C7DC3D5FFB4E2,
    0x72BE5D74F27B896F, 0x80DEB1FE3B1696B1, 0x9BDC06A725C71235, 0xC19BF174CF692694] ++
  [0xE49B69C19EF14AD2, 0xEFBE4786384F25E3, 0x0FC19DC68B8CD5B5, 0x240CA1CC77AC9C65,
    0x2DE92C6F592B0275, 0x4A7484AA6EA6E483, 0x5CB0A9DCBD41FBD4, 0x76F988DA831153B5,
    0x983E5152EE66DFAB, 0xA831C66D2DB43210, 0xB00327C898FB213F, 0xBF597FC7BEEF0EE4,
    0xC6E00BF33DA88FC2, 0xD5A79147930AA725, 0x06CA6351E003826F, 0x142929670A0E6E70] ++
  [0x27B70A8546D22FFC, 0x2E1B21385C26C926, 0x4D2C6DFC5AC42AED, 0x53380D139D95B3DF,
    0x650A73548BAF63DE, 0x766A0ABB3C77B2A8, 0x81C2C92E47EDAEE6, 0x92722C851482353B,
    0xA2BFE8A14CF10364, 0xA81A664BBC423001, 0xC24B8B70D0F89791, 0xC76C51A30654BE30,
    0xD192E819D6EF5218, 0xD69906245565A910, 0xF40E35855771202A, 0x106AA07032BBD1B8] ++
  [0x19A4C116B8D2D0C8, 0x1E376C085141AB53, 0x2748774CDF8EEB99, 0x34B0BCB5E19B48A8,
    0x391C0CB3C5C95A63, 0x4ED8AA4AE3418ACB, 0x5B9CCA4F7763E373, 0x682E6FF3D6B2B8A3,
    0x748F82EE5DEFB2FC, 0x78A5636F43172F60, 0x84C87814A1F0AB72, 0x8CC702081A6439EC,
    0x90BEFFFA23631E28, 0xA4506CEBDE82BDE9, 0xBEF9A3F7B2C67915, 0xC67178F2E372532B] ++
  [0xCA273ECEEA26619C, 0xD186B8C721C0C207, 0xEADA7DD6CDE0EB1E, 0xF57D4F7FEE6ED178,
    0x06F067AA72176FBA, 0x0A637DC5A2C898A6, 0x113F9804BEF90DAE, 0x1B710B35131C471B,
    0x28DB77F523047D84, 0x32CAAB7B40C72493, 0x3C9EBE0A15C9BEBC, 0x431D67C49C100D4C,
    0x4CC5D4BECB3E42B6, 0x597F299CFC657E2A, 0x5FCB6FAB3AD6FAEC, 0x6C44198C4A475817]

/-- The start value: the same of the square roots of the first eight primes. -/
def shaStart : List Word :=
  [0x6A09E667F3BCC908, 0xBB67AE8584CAA73B, 0x3C6EF372FE94F82B, 0xA54FF53A5F1D36F1,
    0x510E527FADE682D1, 0x9B05688C2B3E6C1F, 0x1F83D9ABFB41BD6B, 0x5BE0CD19137E2179]

/-- The schedule of a block: sixteen words, newest first, extended word by word. -/
def shaSchedule : Nat → List Word → List Word
  | 0, l => l
  | n + 1, l =>
    let w (i : Nat) : Word := nth l i 0
    let x := w 14
    let y := w 1
    let s0 := (x.rotateRight 1 ^^^ x.rotateRight 8) ^^^ (x >>> 7)
    let s1 := (y.rotateRight 19 ^^^ y.rotateRight 61) ^^^ (y >>> 6)
    shaSchedule n ((w 15 + s0 + w 6 + s1) :: l)

/-- One round, on the eight working words a to h. -/
def shaRound (v : List Word) (kw : Word) : List Word :=
  match v with
  | [a, b, c, d, e, f, g, h] =>
    let s1 := (e.rotateRight 14 ^^^ e.rotateRight 18) ^^^ e.rotateRight 41
    let ch := (e &&& f) ^^^ (~~~e &&& g)
    let t1 := h + s1 + ch + kw
    let s0 := (a.rotateRight 28 ^^^ a.rotateRight 34) ^^^ a.rotateRight 39
    let maj := ((a &&& b) ^^^ (a &&& c)) ^^^ (b &&& c)
    [t1 + s0 + maj, a, b, c, d + t1, e, f, g]
  | _ => v

/-- A number from octets, the most significant first. -/
def octets (l : List Byte) : Nat := natOf l.reverse

/-- n octets of a number, the most significant first. -/
def octetsOf (v n : Nat) : List Byte := (bytesOf v n).reverse

/-- One block of 128 octets. -/
def shaBlock (v : List Word) (blk : List Byte) : List Word :=
  let w := (List.range 16).map (fun i => BitVec.ofNat 64 (octets ((blk.drop (8 * i)).take 8)))
  let kw := (shaK.zip (shaSchedule 64 w.reverse).reverse).map (fun p => p.1 + p.2)
  (v.zip (kw.foldl shaRound v)).map (fun p => p.1 + p.2)

/-- The blocks of a message of n octets, padded with a one bit, zeros and its length in bits. -/
def sha512 (m : List Byte) : List Byte :=
  let n := m.length
  let total := (n + 17 + 127) / 128
  let padded := m ++ [0x80] ++ List.replicate (128 * total - n - 17) 0 ++ octetsOf (8 * n) 16
  ((List.range total).foldl (fun v i => shaBlock v ((padded.drop (128 * i)).take 128)) shaStart).flatMap
    (fun w => octetsOf w.toNat 8)

/-! ## The curve -/

/-- The field's prime. -/
def p521 : Nat := 2 ^ 521 - 1

/-- The order of the base point. -/
def n521 : Nat :=
  0x01FFFFFFFFFFFFFFFFFFFFFFFFFFFFFFFFFFFFFFFFFFFFFFFFFFFFFFFFFFFFFFFFFA51868783BF2F966B7FCC0148F709A5D03BB5C9B8899C47AEBB6FB71E91386409

/-- The coefficient b; a is -3. -/
def b521 : Nat :=
  0x0051953EB9618E1C9A1F929A21A0B68540EEA2DA725B99B315F3B8B489918EF109E156193951EC7E937B1652C0BD3BB1BF073573DF883D2C34F1EF451FD46B503F00

/-- A point: none is the point at infinity. -/
abbrev EcPoint := Option (Nat × Nat)

/-- The base point. -/
def g521 : EcPoint :=
  some (0x00C6858E06B70404E9CD9E3ECB662395B4429C648139053FB521F828AF606B4D3DBAA14B5E77EFE75928FE1DC127A2FFA8DE3348B3C1856A429BF97E7E31C2E5BD66,
    0x011839296A789A3BC0045C8A5FB42C7D1BD998F54449579B446817AFBD17273E662C97EE72995EF42640C550B9013FAD0761353C7086A272C24088BE94769FD16650)

/-- b to the power e modulo m. The fuel is above the number of bits of e. -/
def powMod (m : Nat) : Nat → Nat → Nat → Nat
  | 0, _, _ => 1
  | n + 1, b, e =>
    if e = 0 then 1
    else
      let r := powMod m n (b * b % m) (e / 2)
      if e % 2 = 1 then b * r % m else r

/-- The inverse modulo a prime. -/
def invMod (m a : Nat) : Nat := powMod m 522 (a % m) (m - 2)

/-- The sum of two points. -/
def ecAdd (a b : EcPoint) : EcPoint :=
  match a, b with
  | none, q => q
  | p, none => p
  | some (x, y), some (u, v) =>
    if x = u ∧ (y + v) % p521 = 0 then none
    else
      let l := if x = u then (3 * x * x + (p521 - 3)) * invMod p521 (2 * y) else (v + (p521 - y)) * invMod p521 (u + (p521 - x))
      let l := l % p521
      let z := (l * l + (p521 - x) + (p521 - u)) % p521
      some (z, (l * (x + (p521 - z)) + (p521 - y)) % p521)

/-- k times a point. The fuel is above the number of bits of k. -/
def ecMul : Nat → Nat → EcPoint → EcPoint
  | 0, _, _ => none
  | n + 1, k, a =>
    if k = 0 then none
    else
      let r := ecMul n (k / 2) (ecAdd a a)
      if k % 2 = 1 then ecAdd a r else r

/-- A point lies on the curve, and its coordinates are below the prime. -/
def onCurve (x y : Nat) : Bool :=
  decide (x < p521 ∧ y < p521) && (y * y) % p521 == (x * x * x + (p521 - 3) * x + b521) % p521

/-! ## ECDSA with SHA-512 -/

/-- A signature r, s over a message verifies under a public key x, y: each number is 66 octets (R465, R466). -/
def ecdsaVerifies (key m sig : List Byte) : Bool :=
  let x := octets (key.take 66)
  let y := octets (key.drop 66)
  let r := octets (sig.take 66)
  let s := octets (sig.drop 66)
  let w := invMod n521 s
  let z := octets (sha512 m)
  onCurve x y && decide (1 ≤ r ∧ r < n521 ∧ 1 ≤ s ∧ s < n521) &&
    match ecAdd (ecMul 522 (z * w % n521) g521) (ecMul 522 (r * w % n521) (some (x, y))) with
    | some (u, _) => u % n521 == r
    | none => false

/-- The signature of a message under a private key d with the number k of the signing (R467). -/
def ecdsaSign (d k : Nat) (m : List Byte) : List Byte :=
  let r := match ecMul 522 k g521 with
    | some (x, _) => x % n521
    | none => 0
  let s := invMod n521 k * (octets (sha512 m) + r * d) % n521
  octetsOf r 66 ++ octetsOf s 66

/-- The public key of a private key: x then y. -/
def ecdsaPublic (d : Nat) : List Byte :=
  match ecMul 522 d g521 with
  | some (x, y) => octetsOf x 66 ++ octetsOf y 66
  | none => []

/-- The device's private key: from 1 to below the order. It never leaves the package (R467). -/
def identitySecret : Nat := Config.identitySecret % (n521 - 1) + 1

/-- The device identity public key (R467). -/
def identityKey : List Byte := ecdsaPublic identitySecret

/-- The device's signature over a message: the number of the signing is the device's choice, from 1 to below the order. -/
def identitySign (m : List Byte) : List Byte :=
  ecdsaSign identitySecret (Config.identityNonce m % (n521 - 1) + 1) m

end Sys2Proof.Machine
end

