-- ==== Sys2Proof/Machine/Interrupts.lean ====
section
/-! DEFINITION. Interrupts.lean: which interrupt a head boundary takes (R178, R183), and user-level completion
interrupts (R186). -/

namespace Sys2Proof.Machine

/-- Interrupts other than MACHINE_CHECK are taken at the hart's current privilege (R178). -/
def interruptsEnabled (status : Word) : Bool :=
  match bits status 1 0 with
  | 0 => true
  | 1 => bit status 6
  | _ => bit status 7

/-- The pending interrupt that a head boundary takes (R183): its cause and cr.tval, and the pending state without it. -/
def Pending.top (p : Pending) (enabled : Bool) : Option (Word × Word × Pending) :=
  match p.machineCheck with
  | some (sub, v) => some (interruptCause 0x01 sub.toNat, v, { p with machineCheck := none })
  | none =>
    if enabled = false then none else
    match p.taskLimit with
    | some v => some (interruptCause 0x02 0, v, { p with taskLimit := none })
    | none =>
      match p.service with
      | some v => some (interruptCause 0x03 0, v, { p with service := none })
      | none =>
        match p.handlerFault with
        | some v => some (interruptCause 0x04 0, v, { p with handlerFault := none })
        | none =>
          match p.companion with
          | v :: r => some (interruptCause 0x05 0, v, { p with companion := r })
          | [] => none

/-- The instruction that hart h waits in may not be left: its registrar request, its region change, its theft or its tree
operation is under way (R112, R390, R421, R440). -/
def State.committed (s : State) (h : Nat) : Bool :=
  let t := s.hart h
  ((t.mem.regWait.isSome || t.mem.regReply.isSome) && t.mem.regCtx == .main) || t.theft.isSome || t.answer.isSome ||
    s.net.any (fun p => match p with | .region k _ _ _ => k == h | _ => false) ||
    (match (s.cluster (clusterOf h)).treeRun with
     | some r => r.core == h && kindOf h == 0
     | none => false)

/-- A waiting instruction of hart h that an interrupt leaves has had no effect (R50, R411, R421). -/
def State.abandonWait (s : State) (h : Nat) : State :=
  let s := { s with net := s.net.filter (fun p => match p with | .theft t _ => t != h | _ => true) }
  let s := s.modHart h fun t => { t with park := none, gang := { t.gang with bind := none, unbind := none, command := none } }
  if kindOf h = 0 then
    s.modCluster (clusterOf h) fun c => { c with treeWait := c.treeWait.filter (fun w => w.core != h) }
  else s

/-- Hart h is inside a SLEEP or PAUSE, which completes before the next head boundary (R286). -/
def State.asleep (s : State) (h : Nat) : Bool :=
  match (s.hart h).park with
  | some p => p.why == .sleep || p.why == .pause
  | none => false

/-- The fence and lift of a scope-miss run of core h that trapped are still to come: HANDLER_FAULT waits for them (R103). -/
def State.owesLift (s : State) (h : Nat) : Bool :=
  kindOf h == 0 && (s.heldToward h).any (fun e => e.2.auto.isSome)

/-- The interrupt that hart h takes at its next head boundary, if one is (R178, R183). -/
def State.interruptFor (s : State) (h : Nat) : Option (Word × Word × Pending) :=
  let p := (s.hart h).traps.pend
  if s.committed h || s.asleep h then none
  else if s.owesLift h && p.handlerFault.isSome then
    (Pending.top { p with handlerFault := none } (interruptsEnabled (s.hart h).traps.status)).map fun (c, v, q) =>
      (c, v, { q with handlerFault := p.handlerFault })
  else p.top (interruptsEnabled (s.hart h).traps.status)

/-- Take the highest pending enabled interrupt of hart h, with cr.epc at the head that does not execute (R183). The
level that takes HANDLER_FAULT is the one whose ERET lets the later runs start (R41). -/
def State.takeInterrupt (s : State) (h : Nat) : State :=
  match s.interruptFor h with
  | none => s
  | some (cause, tval, pend) =>
    let s := s.abandonWait h
    let s := s.modHart h fun t => { t with traps := { t.traps with pend := pend } }
    if kindOf h = 1 ∨ kindOf h = 2 then s.trapCompanion h cause (s.hart h).main.pc tval
    else
      let level := trapLevel (kindOf h) (s.hart h).traps.status
      let s := s.trapMain h cause (s.hart h).main.pc tval
      if cause = interruptCause 0x04 0 then
        s.modHart h fun t => { t with runs := { t.runs with blocked := level } }
      else s

/-- The conditions under which the main context of core h takes its oldest completion event (R186). -/
def State.userEventFor (s : State) (h : Nat) : Option UserEvent :=
  let t := s.hart h
  if kindOf h = 0 ∧ bits t.traps.status 1 0 = 0 ∧ bit t.traps.status 5 ∧ bit t.sys.uhandler 0 = false ∧
      (s.interruptFor h).isNone ∧ s.committed h = false ∧ s.asleep h = false
  then t.copy.events.head? else none

/-- Take the oldest completion event (R186): UEPC at the next head, INH 1, the transfer id, and the handler's PC. -/
def State.takeUserEvent (s : State) (h : Nat) : State :=
  match s.userEventFor h with
  | none => s
  | some e =>
    (s.abandonWait h).modHart h fun t =>
      { t with sys := { t.sys with uhandler := setBit t.main.pc 0 true, xfer := e.xid.setWidth 64 }
               copy := { t.copy with events := t.copy.events.drop 1 }
               main := { t.main with pc := targetOf e.handler, image := none } }

end Sys2Proof.Machine
end

