-- ==== Sys2Proof/Machine/Fetch.lean ====
section
/-! DEFINITION. Fetch.lean: the line image of the executing context and the instruction at its PC (R44, R204, R205). -/

namespace Sys2Proof.Machine

/-- A companion's instruction store, by hart (R44). -/
def storeOf (h : Nat) (off : Nat) : Nat := storeHome (coreOf h + (if kindOf h = 2 then 4096 else 0)) off

/-- The place that the line at an address is fetched from (R34, R44, R205). -/
def fetchPlace (line : Word) : M Place := do
  let s ← get
  if kindOf s.cur = 1 ∨ kindOf s.cur = 2 then
    if 0x2000 ≤ line.toNat then throw (.trap (faultCause 0x01 0) s.pc)
    else pure ⟨storeOf s.cur line.toNat, false⟩
  else placeOf s.cur (s.rootOf s.cur) s.prv .fetch line.toNat 64 s.pc

/-- The values that an aligned word may be fetched as (R204): the one memory holds, and each that the word has held since
the hart's last FENCE.I, the latest first. A spill area reads zero (R387). -/
def State.fetchValues (s : State) (w : Nat) : List Word :=
  let now : Word := if s.inSpill w then 0 else BitVec.ofNat 64 (memNat s.mem w 8)
  let old := (s.past.take (s.past.length - s.me.mem.since)).filterMap (fun e => if e.1 = w then some e.2 else none)
  (now :: old).dedup

/-- Read the line image that the executing context enters (R204), through the caches as a plain load of its home does
(R76, R81, R101, R112). Each aligned 8-byte word is one of its values; with one value there is nothing to choose. -/
def fetchImage (line : Word) : M LineImage := do
  let p ← fetchPlace line
  meetTag p.home p.sync false
  let s ← get
  if p.sync && s.registrarHas p.home 64 then parkM .drain else
  match s.poisonIn p.home 64 with
  | some w => trapM 0x0F 0 (line + BitVec.ofNat 64 (w - p.home))
  | none =>
    let s := if p.sync then s else (s.applyLine p.home).touch p.home 0 false none
    let (words, s) := (List.range 8).foldl (fun (q : List Word × State) j =>
      let vals := q.2.fetchValues (p.home + 8 * j)
      let (k, t) := q.2.choose vals.length
      (q.1 ++ [nth vals k 0], t)) ([], s)
    set s
    pure ⟨line, BitVec.ofNat 512 (words.foldr (fun w n => n * 2 ^ 64 + w.toNat) 0)⟩

/-- The executing context keeps the image while it stays in the line. -/
def State.setImage (s : State) (im : LineImage) : State :=
  match s.ctx with
  | .main => s.modMe fun h => { h with main := { h.main with image := some im } }
  | .handler => s.modMe fun h => { h with handler := { h.handler with image := some im } }

/-- The image of the line that the PC lies in. -/
def currentImage : M LineImage := do
  let s ← get
  match s.image with
  | some i => if i.addr = lineOfPc s.pc then pure i else enter (lineOfPc s.pc)
  | none => enter (lineOfPc s.pc)
where
  /-- Enter a line. -/
  enter (line : Word) : M LineImage := do
    let i ← fetchImage line
    modify (fun s => s.setImage i)
    pure i

/-- The instruction at the PC (R198, R200, R210): LINE_FORMAT for a line that is not well formed or a head index
outside it, ILLEGAL for a head that is no instruction. -/
noncomputable def fetchInstr : M Instr := do
  let i ← currentImage
  let s ← get
  match decodeLine i.bytes (headIndex s.pc) with
  | .ok x => pure x
  | .error .lineFormat => trapM 0x02 0 (lineOfPc s.pc)
  | .error _ => illegalM (lineHead i.bytes (headIndex s.pc))

/-- The executing context of a hart can execute a head: the hart is neither halted nor fenced, and it runs, or the context
is the handler context of a compute core, whose runs need no task (R38, R39). -/
def State.canRun (s : State) (h : Nat) : Bool :=
  ((s.hart h).act == .running || (s.ctx == .handler && kindOf h == 0)) && !(s.hart h).halted && !bit (s.hart h).sys.fence 8 &&
    !bit (s.hart (if kindOf h = 3 then h else coreOf h)).sys.fence 8

/-- Time passes (R4, R279). -/
def State.elapse (s : State) (cycles nanos : Nat) : State :=
  { s with clock := s.clock + cycles, nanos := s.nanos + nanos }

/-- A core on which a program can be placed for its very next head: compute core 0 in machine mode, its PC at head 1
of a line of its TCM. -/
def State.placeCore (s : State) : State :=
  let s := { s with cur := 0, ctx := .main, turns := [] }
  s.modHart 0 fun h =>
    { h with act := .running, park := none, main := { h.main with pc := s.tcmVa 0 0x1002, image := none } }

/-- A line that stands at a home address from the start: nothing else was there before. -/
def State.storeLine (s : State) (home : Nat) (l : BitVec 512) : State :=
  { s with mem := memPutList s.mem home (bytesOf l.toNat 64) }

end Sys2Proof.Machine
end

