-- ==== Sys2Proof/Machine/SearchOps.lean ====
section
/-! DEFINITION. SearchOps.lean: the search unit's fields and trail (R425 to R429), which trailed stores and the search
instructions share. -/

namespace Sys2Proof.Machine

/-- The running search of the executing core. -/
def State.mySearch (s : State) : Option Search := if kindOf s.cur = 0 then s.me.search else none

/-- The state with the running search changed. -/
def State.setSearch (s : State) (q : Search) : State := s.modMe fun h => { h with search := some q }

/-- TTOP changes, and the unit writes it back (R426). -/
def State.putTtop (s : State) (q : Search) (v : Nat) : State :=
  (s.setSearch { q with ttop := v }).unitStore (q.block + 12) (bytesOf v 2)

/-- CTOP changes, and the unit writes it back (R426). -/
def State.putCtop (s : State) (q : Search) (v : Nat) : State :=
  (s.setSearch { q with ctop := v }).unitStore (q.block + 20) (bytesOf v 2)

/-- NSEQ changes, and the unit writes it back (R426). -/
def State.putNseq (s : State) (q : Search) (v : BitVec 16) : State :=
  (s.setSearch { q with nseq := v }).unitStore (q.block + 40) (bytesOf v.toNat 2)

/-- The status word of a block: word 4 of R425. -/
def Search.statusWord (q : Search) (fin : Nat) (active : Bool) : Nat :=
  q.vtoken.toNat * 2 ^ 48 + q.vcore * 2 ^ 40 + q.vcp * 2 ^ 16 + fin * 32 +
    (if q.cancel then 16 else 0) + (if q.stolen then 8 else 0) + (if active then 1 else 0)

/-- The status fields are written back (R426). -/
def State.putStatus (s : State) (q : Search) (fin : Nat) (active : Bool) : State :=
  s.unitStore (q.block + 32) (bytesOf (q.statusWord fin active) 8)

/-- n bytes at a TCM offset as the executing core sees them. -/
def State.tcmNat (s : State) (off n : Nat) : Nat := s.viewNat s.cur (tcmHome s.cur off) n

/-- The address of a poisoned word among n bytes of the executing core's TCM, which the search unit is to read (R184). -/
def State.unitPoison (s : State) (off n : Nat) : Option Word :=
  (s.poisonIn (tcmHome s.cur off) n).map fun w => s.tcmVa s.cur (w - tcmHome s.cur 0)

/-- The search unit meets a poisoned word: MACHINE_CHECK is pending on the core whose command it serves, and the head has
not executed (R184). -/
def unitPoisonM (w : Option Word) : M Unit := do
  match w with
  | none => pure ()
  | some a =>
    modify fun s => s.machineCheck s.cur 2 a
    parkM .drain

/-- Room for n more trail entries, else SEARCH_TRAIL with the address of TTOP (R428). -/
def trailRoom (q : Search) (n : Nat) : M Unit := do
  let s ← get
  if q.tlim < q.ttop + 16 * n then trapM 0x13 0 (s.tcmVa s.cur q.ttop) else pure ()

/-- One trail entry is appended; there is room (R428). -/
def State.trailAppend (s : State) (w0 w1 : Nat) : State :=
  match s.mySearch with
  | none => s
  | some q => ((s.unitStore q.ttop (bytesOf w0 8)).unitStore (q.ttop + 8) (bytesOf w1 8)).putTtop q (q.ttop + 16)

/-- The search unit's writes in the executing core's store buffer are performed at once, in order: those of a store that is
performed at its head, behind an empty buffer (R97, R429). -/
def State.performUnit (s : State) : State :=
  s.me.mem.sb.foldl (fun s e => match e.op with
    | .unitWrite (m :: c) => s.engineMasked ⟨s.cur, 0, none⟩ (wordAt m.addr) (m :: c)
    | _ => s) (s.modMe fun h => { h with mem := { h.mem with sb := h.mem.sb.filter fun e => match e.op with
        | .unitWrite _ => false
        | _ => true } })

/-- The trail entry that a store of the executing core at a home makes before it writes (R429): an ST is trailed in the
frame, an STT anywhere in the TCM. OLD is what the store would replace, so that a store of the search's limits in the same word
is performed first; the entry of a store that is performed at its head (`now`) is written before it. That a poisoned old word
ends the store with MACHINE_CHECK, unperformed, is the model's choice (assumption 106). -/
def trailStore (home : Nat) (stt now : Bool) : M Unit := do
  let s ← get
  match s.mySearch with
  | none => pure ()
  | some q =>
    if homeOf home ≠ .tcm then pure () else
    let off := home - tcmHome s.cur 0
    if stt || decide (q.fbase ≤ off ∧ off < q.fbase + q.flen) then
      trailRoom q 1
      let w := off / 8 * 8
      if s.me.mem.sb.any (fun e => e.op.hides (tcmHome s.cur w) 8) then parkM .drain else
      unitPoisonM (s.unitPoison w 8)
      if now then do
        meetCells (cellsAt (tcmHome s.cur q.ttop) (List.replicate 16 0)) false
        meetCells (cellsAt (tcmHome s.cur (q.block + 12)) (List.replicate 2 0)) false
        modify fun s => (s.trailAppend w (s.tcmNat w 8)).performUnit
      else modify fun s => s.trailAppend w (s.tcmNat w 8)
    else pure ()

end Sys2Proof.Machine
end

