-- ==== Sys2Proof/Machine/Flags.lean ====
section
/-! DEFINITION. Flags.lean: where the flags of an operation land (R131, R132), and the floating-point operations of
the scalar and vector units on register contents (R223, R257, R259). -/

namespace Sys2Proof.Machine

/-- The format of a scalar float instruction: D is 0 for .f32 and 1 for .f64 (R256). -/
def dpFmt (dp : BitVec 1) : FFmt := if dp = 1 then fp64 else fp32

/-- A scalar operand: bits 31:0 for FP32, the whole register for FP64 (R223). -/
def floatArg (dp : BitVec 1) (v : Word) : Nat := if dp = 1 then v.toNat else v.toNat % 2 ^ 32

/-- A result with its flags, written to an x register and ORed into cr.fflags (R223). -/
def writeF (d : BitVec 6) (f : State → FRes) : M Unit := modify fun s =>
  let r := f s
  ((s.setX d (BitVec.ofNat 64 r.1)).raiseFlags r.2).retire

/-- The binary float operations by function code (R257). -/
def floatOp (fn : Nat) (f : FFmt) (x y : Nat) : FRes :=
  match fn with
  | 0 => fadd f x y
  | 1 => fsub f x y
  | 2 => fmul f x y
  | 3 => fdiv f x y
  | 4 => fminmax f false x y
  | _ => fminmax f true x y

/-- The fused operations by function code (R259). -/
def fusedOp (fn : Nat) (f : FFmt) (b c a : Nat) : FRes :=
  match fn with
  | 0 => ffma f false false b c a
  | 1 => ffma f false true b c a
  | 2 => ffma f true true b c a
  | _ => ffma f true false b c a

/-- The exact sign change or clearing of VFABS and VFNEG, with a NaN made canonical (R307, R313). -/
def signOp (f : FFmt) (negate : Bool) (x : Nat) : FRes :=
  match fdecode f x with
  | .nan sn => (qnan f, if sn then flagNV else 0)
  | _ => if negate then (fnegBits f x, 0) else (if fsign f x then x - signBit f true else x, 0)

/-- A value converted between format codes 0 to 7 (R127). INT sources are signed. -/
def convertFmt (fromF toF : BitVec 4) (rz : Bool) (x : Nat) : FRes :=
  let isFloat (t : BitVec 4) : Bool := decide (t.toNat < 4)
  let w := fmtBits toF
  if isFloat fromF then
    if isFloat toF then fconvert (fmtOf fromF) (fmtOf toF) x else floatToInt (fmtOf fromF) w rz x
  else
    let v := signed (fmtBits fromF) x
    if isFloat toF then intToFloat (fmtOf toF) v else (saturate w v, 0)

end Sys2Proof.Machine
end

