-- ==== Sys2Proof/Machine/Operands.lean ====
section
/-! DEFINITION. Operands.lean: the operand forms of the scalar, memory and vector instructions, and the integer
operations on them (R223, R227 to R253, R305, R339). -/

namespace Sys2Proof.Machine

/-- The head writes one x register and goes on: every source is read before the write (R222). -/
def writeX (d : BitVec 6) (f : State → Word) : M Unit := modify fun s => (s.setX d (f s)).retire

/-- Shift left, zero filled, by less than 64 (R229). -/
def shiftLeft (b : Word) (n : Nat) : Word := b <<< n

/-- Shift right, zero filled (R229). -/
def shiftRight (b : Word) (n : Nat) : Word := b >>> n

/-- Shift right, filled with the sign (R229). -/
def shiftArith (b : Word) (n : Nat) : Word := b.sshiftRight n

/-- Rotate left (R229). -/
def rotateLeft (b : Word) (n : Nat) : Word := (b <<< n) ||| (b >>> (64 - n))

/-- Rotate right (R229). -/
def rotateRight (b : Word) (n : Nat) : Word := (b >>> n) ||| (b <<< (64 - n))

/-- Bits 127:64 of an exact product (R231). -/
def mulHigh (b c : Int) : Word := wordOfInt (b * c / 2 ^ 64)

/-- Signed quotient, truncated toward zero; a zero divisor gives 0 (R231). -/
def divSigned (b c : Word) : Word := if c = 0 then 0 else wordOfInt (b.toInt.tdiv c.toInt)

/-- Unsigned quotient; a zero divisor gives 0 (R231). -/
def divUnsigned (b c : Word) : Word := if c = 0 then 0 else BitVec.ofNat 64 (b.toNat / c.toNat)

/-- Signed remainder b − c × div; a zero divisor gives 0 (R231). -/
def remSigned (b c : Word) : Word := if c = 0 then 0 else wordOfInt (b.toInt.tmod c.toInt)

/-- Unsigned remainder; a zero divisor gives 0 (R231). -/
def remUnsigned (b c : Word) : Word := if c = 0 then 0 else BitVec.ofNat 64 (b.toNat % c.toNat)

/-- The number of zero bits above the highest 1 bit; 64 for zero (R247). -/
def countLeading (b : Word) : Word := if b = 0 then 64 else BitVec.ofNat 64 (63 - Nat.log2 b.toNat)

/-- The number of zero bits below the lowest 1 bit; 64 for zero (R247). -/
def countTrailing (b : Word) : Word := BitVec.ofNat 64 ((bitPositions b.toNat 64).headD 64)

/-- The number of 1 bits (R247). -/
def countOnes (b : Word) : Word := BitVec.ofNat 64 (popBits b.toNat 64)

/-- A bit field, zero-extended (R249). -/
def fieldUnsigned (b : Word) (pos w : Nat) : Word := BitVec.ofNat 64 (b.toNat / 2 ^ pos % 2 ^ w)

/-- A bit field, sign-extended (R249). -/
def fieldSigned (b : Word) (pos w : Nat) : Word := wordOfInt (signed w (b.toNat / 2 ^ pos))

/-- A bit field inserted into an old value (R251). -/
def fieldInsert (old b : Word) (pos w : Nat) : Word := setBits old (pos + w - 1) pos (b.toNat % 2 ^ w)

/-- The n low bytes in reverse order, zero-extended (R253). -/
def swapBytes (b : Word) (n : Nat) : Word := BitVec.ofNat 64 (natOf (bytesOf b.toNat n).reverse)

/-- The address of LD, ST and STT: the base register, or with P the head's line, plus an offset (R339). -/
def memAddr (p : BitVec 1) (b : BitVec 6) (off : Word) (s : State) : Word :=
  (if p = 1 then lineOfPc s.pc else s.x b) + off

end Sys2Proof.Machine
end

