-- ==== Sys2Proof/Machine/System.lean ====
section
/-! DEFINITION. System.lean: traps and returns, control registers, fences and waits, translation invalidation, messages
and counters, and handler-context control (R278 to R288, R296 to R301). -/

namespace Sys2Proof.Machine

/-! ## Control registers (R278 to R282) -/

/-- A control-register access of function fn: 0 read, 1 write, 2 set, 3 clear (R282). -/
def crM (fn : Nat) (d : BitVec 6) (num : BitVec 12) (b : BitVec 6) (head : Nat) : M Unit := do
  let s ← get
  let n := num.toNat
  let v := s.x b
  let writes := fn = 1 ∨ (2 ≤ fn ∧ v ≠ 0)
  match crRule n with
  | none => illegalM head
  | some r =>
    if r.holds (kindOf s.cur) = false ∨ s.prv < r.read then illegalM head
    else if s.ctx = .handler ∧ fn ≠ 0 ∧ 0x10 ≤ n ∧ n ≤ 0x14 then illegalM head
    else
      let old := s.crRead s.cur s.prv n
      if writes then
        match r.write with
        | none => illegalM head
        | some w =>
          if s.prv < w ∨ (0x48 ≤ n ∧ n ≤ 0x4F ∧ kindOf s.cur ≠ 0) then illegalM head
          else
            let new := if fn = 1 then v else if fn = 2 then old ||| v else old &&& ~~~v
            match s.crWrite s.cur s.prv n new with
            | some t => set ((t.setX d old).retire)
            | none => operandM 0
      else set ((s.setX d old).retire)

/-- CRR (R282). -/
def execCrr (d : BitVec 6) (num : BitVec 12) (s : State) : Host.Outcome State Fault Refusal :=
  let head := headOf 0x29 2 d.toNat
  runHead acceptAll head [d] [] 0 (crM 0 d num 0 head) s

/-- CRW (R282). -/
def execCrw (d : BitVec 6) (num : BitVec 12) (b : BitVec 6) (s : State) : Host.Outcome State Fault Refusal :=
  let head := headOf 0x29 2 d.toNat
  runHead acceptAll head [d, b] [] 0 (crM 1 d num b head) s

/-- CRS (R282). -/
def execCrs (d : BitVec 6) (num : BitVec 12) (b : BitVec 6) (s : State) : Host.Outcome State Fault Refusal :=
  let head := headOf 0x29 2 d.toNat
  runHead acceptAll head [d, b] [] 0 (crM 2 d num b head) s

/-- CRC (R282). -/
def execCrc (d : BitVec 6) (num : BitVec 12) (b : BitVec 6) (s : State) : Host.Outcome State Fault Refusal :=
  let head := headOf 0x29 2 d.toNat
  runHead acceptAll head [d, b] [] 0 (crM 3 d num b head) s

/-! ## Traps and returns (R284) -/

/-- TRAP: cr.epc is the head after it (R284). -/
def execTrap (imm : BitVec 14) (s : State) : Host.Outcome State Fault Refusal :=
  runHead ⟨true, false, true, true⟩ (headOf 0x28 1 0) [] [] 0
    (throw (.trapAfter (faultCause 0x04 0) (imm.setWidth 64))) s

/-- ERET at the current privilege (R284). -/
def execEret (s : State) : Host.Outcome State Fault Refusal :=
  let head := headOf 0x28 1 0
  runHead ⟨true, false, true, true⟩ head [] [] 0 (do
    let s ← get
    if s.prv = 0 ∨ (s.prv = 2 ∧ bits s.me.traps.status 15 14 = 3) then illegalM head
    else set (s.countHead.trapReturn s.prv)) s

/-- ULRET ends a user-level handler (R186, R284). -/
def execUlret (s : State) : Host.Outcome State Fault Refusal :=
  let head := headOf 0x28 1 0
  runHead ⟨true, false, false, false⟩ head [] [] 0 (do
    let s ← get
    let u := s.me.sys.uhandler
    if bit u 0 = false then illegalM head
    else set ((s.modMe fun h => { h with sys := { h.sys with uhandler := setBit u 0 false } }).goto (targetOf u))) s

/-! ## Fences and waits (R286) -/

/-- A scope-miss run of hart h has completed a fence at a scope (R102). -/
def State.noteFence (s : State) (h : Nat) (scope : BitVec 3) : State :=
  s.modHart h fun t =>
    match t.handler.run with
    | some r => match r.kind with
      | .scopeMiss _ sc => { t with handler := { t.handler with fenced := t.handler.fenced || decide (sc.toNat ≤ scope.toNat) } }
      | .drain _ => t
    | none => t

/-- FENCE (R99, R286): an acquire has nothing to wait for, since loads are performed in order at their heads; a release
stands in the store buffer before every later store; an ordered fence drains the buffer. -/
def execFence (qual : BitVec 8) (s : State) : Host.Outcome State Fault Refusal :=
  runHead acceptAll (headOf 0x2A 1 0) [] [] 0 (do
    let sc := qualScope qual
    if qualOrd qual = 3 then
      drainM sc
      modify fun s => (if s.ctx = .handler then s.noteFence s.cur sc else s).retire
    else if qualOrd qual = 2 then modify fun s => (s.pushStore (.fence sc (s.ctx == .handler)) qual false).retire
    else modify State.retire) s

/-- Every line image of the executing hart is discarded, and what a word held before counts no more (R204, R286). -/
def State.dropImages (s : State) : State :=
  s.modMe fun h => { h with main := { h.main with image := none }, handler := { h.handler with image := none }
                            mem := { h.mem with since := s.past.length } }

/-- FENCE.I (R286). -/
def execFenceI (s : State) : Host.Outcome State Fault Refusal :=
  runHead acceptAll (headOf 0x2A 1 0) [] [] 0 (do
    emptyBufferM
    modify fun s => s.retire.dropImages) s

/-- The wait for which the executing context is parked has ended by its limit. -/
def State.parkOver (s : State) (p : Park) : Bool :=
  match p.until_ with
  | some t => decide (t ≤ s.clock)
  | none => false

/-- PAUSE holds issue for 1 to 32 cycles (R286). -/
def execPause (s : State) : Host.Outcome State Fault Refusal :=
  runHead acceptAll (headOf 0x2A 1 0) [] [] 0 (do
    let s ← get
    match s.parkedAs .pause with
    | some p => if s.parkOver p then set s.retire else parkM .pause
    | none =>
      let (n, s) := s.choose 32
      set s
      parkUntilM .pause (some (n + 1))) s

/-- An interrupt is pending on a hart, enabled or not (R286). -/
def Hart.anyPending (h : Hart) : Bool :=
  h.traps.pend.machineCheck.isSome || h.traps.pend.taskLimit.isSome || h.traps.pend.service.isSome ||
    h.traps.pend.handlerFault.isSome || !h.traps.pend.companion.isEmpty || !h.copy.events.isEmpty

/-- A limit in cycles, where 0 means none. -/
def limitOf (v : Word) : Option Nat := if v = 0 then none else some v.toNat

/-- SLEEP (R286). -/
def execSleep (b : BitVec 6) (s : State) : Host.Outcome State Fault Refusal :=
  runHead acceptAll (headOf 0x2A 1 b.toNat) [b] [] 0 (do
    let s ← get
    let timeUp := match s.parkedAs .sleep with
      | some p => s.parkOver p
      | none => false
    if timeUp || s.me.anyPending then set s.retire else parkUntilM .sleep (limitOf (s.x b))) s

/-! ## Translation (R288) -/

/-- A translation's page meets addresses lo to hi. -/
def TlbEntry.meets (e : TlbEntry) (lo hi : Nat) : Bool :=
  decide (e.page * 2 ^ e.shift ≤ hi ∧ lo < (e.page + 1) * 2 ^ e.shift)

/-- Every translation of the pages that meet lo to hi leaves the TLBs that hart h names at a scope (R288). -/
def State.tlbDrop (s : State) (h : Nat) (scope : Nat) (lo hi : Nat) : State :=
  let keep (l : List TlbEntry) : List TlbEntry := l.filter (fun e => !e.meets lo hi)
  let svc := kindOf h == 3
  let own := if svc then h else coreOf h
  let harts : List (Nat × Hart) := s.harts.map fun e =>
    let hit := e.1 == own || decide (4 ≤ scope) || (kindOf e.1 == 0 && (
      (!svc && ((scope == 2 && clusterOf e.1 == clusterOf h) || (scope == 3 && dieOf e.1 == dieOf h)))))
    if hit then (e.1, { e.2 with mem := { e.2.mem with tlb := keep e.2.mem.tlb } }) else e
  let clusters := s.clusters.map fun e =>
    if decide (4 ≤ scope) || (!svc && (e.1 == clusterOf h || (scope == 3 && e.1 / 64 == dieOf h)))
    then (e.1, { e.2 with tlb := keep e.2.tlb }) else e
  let dies := s.dies.map fun e =>
    if decide (4 ≤ scope) || (!svc && e.1 == dieOf h) then (e.1, { e.2 with tlb := keep e.2.tlb }) else e
  { s with harts := harts, clusters := clusters, dies := dies }

/-- A TLBI over addresses lo to hi, when there are any; the store buffer drains first (R288). -/
def tlbiM (scope : BitVec 3) (head : Nat) (range : State → Option (Nat × Nat)) : M Unit := do
  let s ← get
  if s.prv = 0 then illegalM head else
  emptyBufferM
  modify fun s => (match range s with
    | some r => s.tlbDrop s.cur scope.toNat r.1 r.2
    | none => s).retire

/-- TLBI.VA (R288). -/
def execTlbiVa (scope : BitVec 3) (b : BitVec 6) (s : State) : Host.Outcome State Fault Refusal :=
  let head := headOf 0x2B 1 0
  runHead ⟨true, true, false, true⟩ head [b] [] 0
    (tlbiM scope head fun s => some ((s.x b).toNat, (s.x b).toNat)) s

/-- TLBI.ALL (R288). -/
def execTlbiAll (scope : BitVec 3) (s : State) : Host.Outcome State Fault Refusal :=
  let head := headOf 0x2B 1 0
  runHead ⟨true, true, false, true⟩ head [] [] 0 (tlbiM scope head fun _ => some (0, 2 ^ 64)) s

/-- TLBI.RNG (R288). -/
def execTlbiRng (scope : BitVec 3) (c b : BitVec 6) (s : State) : Host.Outcome State Fault Refusal :=
  let head := headOf 0x2B 2 0
  runHead ⟨true, true, false, true⟩ head [c, b] [] 0
    (tlbiM scope head fun s =>
      if s.x c = 0 then none else some ((s.x b).toNat, (s.x b).toNat + (s.x c).toNat - 1)) s

/-! ## Messages and counters (R297, R299) -/

/-- MSG (R297): the payload is read once, and at most 16 messages of a hart are undelivered. -/
def execMsg (lenm : BitVec 8) (slot : BitVec 4) (mc : BitVec 3) (c t : BitVec 6) (s : State) :
    Host.Outcome State Fault Refusal :=
  runHead acceptAll (headOf 0x2E 4 0) [c, t] [] 0 (do
    let s ← get
    let target := s.x t
    if 4096 ≤ target.toNat then operandM target else
    if 16 ≤ s.msgsOut s.cur then parkM .drain else
    let data ← loadBytes (s.x c) (lenm.toNat + 1)
    modify fun s => ((s.send (.msg s.cur target.toNat slot.toNat data mc s.me.mem.serial)).modMe fun h =>
      { h with mem := { h.mem with serial := h.mem.serial + 1 } }).retire) s

/-- A mailbox counter that hart h reaches. -/
def State.counter (s : State) (h : Nat) (n : BitVec 3) : BitVec 32 := ((s.hart (counterOwner h)).mc[n.toNat]?).getD 0

/-- WAITC (R299). -/
def execWaitc (d : BitVec 6) (mc : BitVec 3) (c b : BitVec 6) (s : State) : Host.Outcome State Fault Refusal :=
  runHead acceptAll (headOf 0x2E 2 d.toNat) [d, c, b] [] 0 (do
    let s ← get
    let n := s.counter s.cur mc
    let timeUp := match s.parkedAs .counter with
      | some p => s.parkOver p
      | none => false
    if (n - (s.x b).setWidth 32).toInt < 0 ∧ timeUp = false then parkUntilM .counter (limitOf (s.x c))
    else set ((s.setX d (n.setWidth 64)).retire)) s

/-! ## The handler context (R301) -/

/-- HCTL.HOLD stops new runs and waits until none is active (R301). -/
def execHctlHold (s : State) : Host.Outcome State Fault Refusal :=
  let head := headOf 0x2F 1 0
  runHead acceptMain head [] [] 0 (do
    let s ← get
    if s.prv = 0 then illegalM head else
    set (s.modMe fun h => { h with runs := { h.runs with hold := true } })
    let s ← get
    if s.me.handler.run.isSome then parkM .noRuns else set s.retire) s

/-- HCTL.GO (R301). -/
def execHctlGo (s : State) : Host.Outcome State Fault Refusal :=
  let head := headOf 0x2F 1 0
  runHead acceptMain head [] [] 0 (do
    let s ← get
    if s.prv = 0 then illegalM head else
    set ((s.modMe fun h => { h with runs := { h.runs with hold := false } }).retire)) s

/-- HCTL.ST (R301). -/
def execHctlSt (d : BitVec 6) (s : State) : Host.Outcome State Fault Refusal :=
  runHead acceptMain (headOf 0x2F 1 d.toNat) [d] [] 0
    (writeX d fun s => BitVec.ofNat 64 ((if s.me.runs.hold then 256 else 0) +
      (if s.me.handler.run.isSome then 32 else 0) + s.me.runs.fifo.length)) s

end Sys2Proof.Machine
end

