-- ==== Sys2Proof/Machine/Tables.lean ====
section
/-! DEFINITION. Tables.lean: decode tables: the slot's contents, validation of an image, decoding and encoding
(R120 to R125, R128). -/

namespace Sys2Proof.Machine

/-- A format code names a table format; T4 from code 12 on (R115). -/
def tableFmt (t : BitVec 4) : Bool := decide (8 ≤ t.toNat)

/-- A T4 format. -/
def isT4 (t : BitVec 4) : Bool := decide (12 ≤ t.toNat)

/-- The slot that serves a table format (R120). -/
def slotOf (t : BitVec 4) : Nat := t.toNat % 4

/-- The e8m10 encoding that a code stands for (R124). -/
def tableEntry (tb : DecodeTable) (t4 : Bool) (code : Nat) : Nat :=
  (nth tb.entries (if t4 then nth tb.t4 code 0 else code) 0).toNat

/-- A code decoded into a float format; only the rounding into it raises flags (R124, R127). -/
def decodeCode (tb : DecodeTable) (t4 : Bool) (f : FFmt) (code : Nat) : FRes :=
  match fdecode e8m10 (tableEntry tb t4 code) with
  | .nan _ => (qnan f, 0)
  | .inf neg => (finf f neg, 0)
  | .fin neg m e => fround f neg m e false

/-- The number of codes of a format. -/
def codeCount (t4 : Bool) : Nat := if t4 then 16 else 256

/-- The codes with their values (R124). -/
def codeValues (tb : DecodeTable) (t4 : Bool) : List (Nat × FVal) :=
  (List.range (codeCount t4)).map (fun c => (c, fdecode e8m10 (tableEntry tb t4 c)))

/-- A candidate code comes before another (R125): by distance, then by lower |v|, even code, lowest code. -/
def candBefore (a b : Dyadic × Dyadic × Nat) : Bool :=
  let abs (d : Dyadic) : Dyadic := ⟨d.n.natAbs, d.e⟩
  if Dyadic.lt a.1 b.1 then true
  else if Dyadic.lt b.1 a.1 then false
  else if Dyadic.lt (abs a.2.1) (abs b.2.1) then true
  else if Dyadic.lt (abs b.2.1) (abs a.2.1) then false
  else if a.2.2 % 2 ≠ b.2.2 % 2 then a.2.2 % 2 == 0
  else decide (a.2.2 ≤ b.2.2)

/-- The first of the candidates (R125). -/
def firstCand : List (Dyadic × Dyadic × Nat) → Option (Dyadic × Dyadic × Nat)
  | [] => none
  | a :: r =>
    match firstCand r with
    | none => some a
    | some b => if candBefore a b then some a else some b

/-- The finite codes with their exact values. -/
def finiteCodes (tb : DecodeTable) (t4 : Bool) : List (Nat × Dyadic) :=
  (codeValues tb t4).filterMap fun p => match p.2 with
    | .fin neg m e => some (p.1, dyadicOf neg m e)
    | _ => none

/-- A finite value encoded (step 5 of R125) with its flags. -/
def encodeFinite (tb : DecodeTable) (t4 : Bool) (y : Dyadic) : FRes :=
  let fin := finiteCodes tb t4
  let dist (v : Dyadic) : Dyadic := let d := v.add y.neg; ⟨d.n.natAbs, d.e⟩
  match firstCand (fin.map (fun p => (dist p.2, p.2, p.1))) with
  | none => (0, 0)
  | some (d, _, c) =>
    if d.n = 0 then (c, 0)
    else
      let beyond := fin.all (fun p => Dyadic.lt p.2 y) || fin.all (fun p => Dyadic.lt y p.2)
      (c, if beyond then flagOF ||| flagNX else flagNX)

/-- An FP32 value encoded into a table format (R125). -/
def encodeCode (tb : DecodeTable) (t4 : Bool) (y : Nat) : FRes :=
  let vals := codeValues tb t4
  let zero : Dyadic := ⟨0, 0⟩
  match fdecode fp32 y with
  | .nan s =>
    match vals.find? (fun p => match p.2 with | .nan _ => true | _ => false) with
    | some p => (p.1, if s then flagNV else 0)
    | none => ((encodeFinite tb t4 zero).1, flagNV)
  | .inf neg =>
    let same := vals.filter (fun p => p.2 == .inf neg)
    if same ≠ [] then
      (((firstCand (same.map (fun p => (zero, zero, p.1)))).map (·.2.2)).getD 0, 0)
    else
      let fin := finiteCodes tb t4
      let top := fin.filter (fun p => fin.all (fun q => if neg then Dyadic.le p.2 q.2 else Dyadic.le q.2 p.2))
      (((firstCand (top.map (fun p => (zero, p.2, p.1)))).map (·.2.2)).getD 0, flagOF ||| flagNX)
  | .fin neg m e => encodeFinite tb t4 (dyadicOf neg m e)

/-- A float of a format as FP32: exact for FP16 and BF16, rounded for FP64 (R127). -/
def toFp32 (t : BitVec 4) (x : Nat) : FRes := if t = 0 then (x, 0) else fconvert (fmtOf t) fp32 x

/-- A float of a format encoded into a table format (R127, R333). -/
def encodeFrom (tb : DecodeTable) (t4 : Bool) (t : BitVec 4) (x : Nat) : FRes :=
  match fdecode (fmtOf t) x with
  | .nan s => encodeCode tb t4 (if s then 0x7F80_0001 else 0x7FC0_0000)
  | _ =>
    let y := toFp32 t x
    let c := encodeCode tb t4 y.1
    (c.1, y.2 ||| c.2)

/-- The error-feedback step of one element (R128): the code, its flags, and the new residue. -/
def feedbackStep (x e : Nat) (enc : Nat → FRes) (dec : Nat → Nat) : Nat × Flags × Nat :=
  let nv : Flags := snanFlag (fdecode fp32 x) (fdecode fp32 e)
  let y := (fadd fp32 x e).1
  let c := enc y
  let d := dec c.1
  let finite (v : Nat) : Bool := match fdecode fp32 v with | .fin _ _ _ => true | _ => false
  (c.1, nv ||| c.2, if finite y && finite d then (fsub fp32 y d).1 else 0)

/-! ## Validating an image (R121) -/

/-- An entry's value is below another's, both not NaN; −0 equals +0 (R121). -/
def entryLt (a b : Nat) : Bool := decide (forder (fdecode e8m10 a) (fdecode e8m10 b) < 0)

/-- An entry is NaN. -/
def entryNan (a : Nat) : Bool := match fdecode e8m10 a with | .nan _ => true | _ => false

/-- An entry's value equals another's. -/
def entryEq (a b : Nat) : Bool :=
  !entryNan a && !entryNan b && decide (forder (fdecode e8m10 a) (fdecode e8m10 b) = 0)

/-- The failing words of an image by entry, from its 256 words (R121, rules 1 to 5). -/
def badEntries (w : List Nat) : List Nat :=
  let v (c : Nat) : Nat := nth w c 0 % 2 ^ 19
  (List.range 256).filter fun c =>
    decide (2 ^ 19 ≤ nth w c 0) ||
    (decide (c < 255) && entryNan (v c)) ||
    (decide (1 ≤ c ∧ c ≤ 254) && entryLt (v c) (v (c - 1))) ||
    (c == 255 && !entryNan (v 255) && entryLt (v 255) (v 254)) ||
    (decide (2 ≤ c) && entryEq (v (c - 2)) (v (c - 1)) && entryEq (v (c - 1)) (v c))

/-- A list of numbers is strictly increasing. -/
def increasing : List Nat → Bool
  | a :: b :: r => decide (a < b) && increasing (b :: r)
  | _ => true

/-- A table image of 1,040 bytes: the table, or the offset of the lowest failing word (R120, R121). -/
def readTable (img : List Byte) : Except Nat DecodeTable :=
  let w := (List.range 256).map (fun c => natOf ((img.drop (4 * c)).take 4))
  let map := ((img.drop 1024).take 16).map (·.toNat)
  match badEntries w with
  | c :: _ => .error (4 * c)
  | [] => if increasing map then .ok ⟨w.map (BitVec.ofNat 19), map⟩ else .error 1024

/-! ## Slots (R122, R123) -/

/-- A table load of the slot is queued or under way in the core's engine (R123). -/
def MatEngine.tablePending (e : MatEngine) (slot : Nat) : Bool :=
  let hit (c : MatCmd) : Bool := match c.op with | .tblld s _ _ => s.toNat == slot | _ => false
  e.queue.any hit || (match e.run with | some r => hit r.1 | none => false)

/-- The table that a use of a slot by the executing core sees: it waits for the loads that committed before it, and a
slot that is not valid raises OPERAND (R122, R123). -/
def slotM (slot : Nat) (tval : Word) : M DecodeTable := do
  let s ← get
  if s.me.engine.tablePending slot then parkM .engine
  else match (s.me.tables[slot]?).getD none with
    | some t => pure t
    | none => operandM tval

/-- The identity field of a slot in cr.tbl (R122). -/
def tableId (tbl : Word) (slot : Nat) : Nat := bits tbl (8 * slot + 7) (8 * slot)

/-- The state with a table installed in a slot of core c, or the slot invalid (R121, R122, R418). -/
def State.setTable (s : State) (c slot : Nat) (t : Option DecodeTable) (id : Nat) : State :=
  s.modHart c fun h =>
    let tbl := setBit h.mat.tbl (32 + slot) t.isSome
    { h with tables := h.tables.setIfInBounds slot t
             mat := { h.mat with tbl := if t.isSome then setBits tbl (8 * slot + 7) (8 * slot) id else tbl } }

end Sys2Proof.Machine
end

