-- ==== Sys2Proof/Machine/Vector.lean ====
section
/-! DEFINITION. Vector.lean: the vector instructions (R302 to R337): elements, predicates and stream reads once, then
one meaning per instruction. -/

namespace Sys2Proof.Machine

/-! ## Stream-mode registers (R306, R353, R354) -/

/-- The slot that holds vector register n of the executing main context in stream mode. -/
def State.streamSlot (s : State) (n : BitVec 5) : Option (BitVec 2) :=
  if kindOf s.cur ≠ 0 ∨ s.ctx = .handler then none
  else ([0, 1, 2, 3] : List (BitVec 2)).find? fun k =>
    let t := s.stream s.cur k
    t.en && decide (n.toNat = 24 + t.reg.toNat)

/-- The value that a source field reads: a stream's next strip, or the register (R306). -/
def readSource (n : BitVec 5) : M VWord := do
  let s ← get
  match s.streamSlot n with
  | none => pure (s.v n)
  | some k =>
    let t := s.stream s.cur k
    match t.held with
    | v :: _ => pure v
    | [] => match t.fault with
      | some (c, v) => throw (.trap c v)
      | none => parkM .stream

/-- The fault that a source's next strip holds (R354). -/
def sourceFaultM (n : BitVec 5) : M Unit := do
  let s ← get
  match s.streamSlot n with
  | none => pure ()
  | some k =>
    match (s.stream s.cur k).held, (s.stream s.cur k).fault with
    | [], some (c, v) => throw (.trap c v)
    | _, _ => pure ()

/-- The pop of a source's strip: LEFT falls, and the last pop ends the stream (R353). -/
def State.popSource (s : State) (n : BitVec 5) : State :=
  match s.streamSlot n with
  | none => s
  | some k =>
    match (s.stream s.cur k).held with
    | [] => s
    | v :: _ =>
      (s.modStream s.cur k fun t =>
        { t with held := t.held.drop 1, left := t.left - 1, en := decide (1 < t.left) }).setV n v

/-- A register named as a destination, or in a group, is in no stream (R306). -/
def noStreamM (ds : List (BitVec 5)) : M Unit := do
  let s ← get
  if ds.any (fun d => (s.streamSlot d).isSome) then operandM 0 else pure ()

/-- A vector instruction: its destinations are in no stream, its sources are read, its effect is made from their
values, and the strips are popped (R303, R306). Popping precedes the writes, and no destination is popped. -/
def vectorM (dsts srcs : List (BitVec 5)) (f : (BitVec 5 → VWord) → State → State) : M Unit := do
  noStreamM dsts
  let vals ← srcs.mapM fun n => do
    let v ← readSource n
    pure (n, v)
  modify fun s =>
    let rd (n : BitVec 5) : VWord := ((vals.find? (fun p => p.1 == n)).map (·.2)).getD (s.v n)
    (f rd (srcs.dedup.foldl State.popSource s)).retire

/-! ## Elements (R302 to R305) -/

/-- Element i is active under a predicate (R303): PRED = 0 makes every element active, those past 63 too. -/
def State.active (s : State) (pred : BitVec 3) (i : Nat) : Bool := pred == 0 || (s.p pred).getLsbD i

/-- Element i of operand c: of vc, or of the scalar x[C] (R304, R305). -/
def operandC (s : State) (rd : BitVec 5 → VWord) (sc : BitVec 1) (c : BitVec 6) (w i : Nat) : Nat :=
  if sc = 1 then (s.x c).toNat % 2 ^ w else velem (rd (c.setWidth 5)) w i

/-- The vector and scalar registers that operand c names. -/
def vsOfC (sc : BitVec 1) (c : BitVec 6) : List (BitVec 5) := if sc = 1 then [] else [c.setWidth 5]
def xsOfC (sc : BitVec 1) (c : BitVec 6) : List (BitVec 6) := if sc = 1 then [c] else []

/-- Active elements computed, the others kept, with the flags of the active ones (R303, R307). -/
def mapActive (w n : Nat) (act : Nat → Bool) (old : VWord) (f : Nat → FRes) : VWord × Flags :=
  (vbuild w n fun i => if act i then (f i).1 else velem old w i,
   (List.range n).foldl (fun fl i => if act i then fl ||| (f i).2 else fl) 0)

/-- An element-wise instruction writes vd and raises its flags in cr.fflags (R303, R307). -/
def elementwise (d : BitVec 5) (t : BitVec 4) (pred : BitVec 3) (srcs : List (BitVec 5))
    (f : (BitVec 5 → VWord) → State → Nat → FRes) : M Unit :=
  vectorM [d] srcs fun rd s =>
    let r := mapActive (fmtBits t) (elemCount t) (s.active pred) (s.v d) (f rd s)
    (s.setV d r.1).raiseFlags r.2

/-- A vector instruction is accepted on compute and service cores. -/
def vecHead (opc tsz : Nat) (d : BitVec 5) (vs : List (BitVec 5)) (xs : List (BitVec 6)) (pred : BitVec 3) (m : M Unit)
    (s : State) : Host.Outcome State Fault Refusal :=
  runHead acceptCompute (headOf opc tsz d.toNat) xs (d :: vs) pred m s

/-- A vector instruction that touches a predicate or residue register is not accepted in the handler context (R308). -/
def predHead (opc tsz opa : Nat) (m : M Unit) (s : State) : Host.Outcome State Fault Refusal :=
  runHead ⟨true, false, false, true⟩ (headOf opc tsz opa) [] [] 0 m s

/-! ## Integer and float elements (R311, R313, R314) -/

/-- The integer element operations by function code, on elements of w bits (R311). -/
def intElem (fn w b c : Nat) : Nat :=
  let sh := c % w
  match fn with
  | 0 => (b + c) % 2 ^ w
  | 1 => (b + 2 ^ w - c) % 2 ^ w
  | 2 => b * c % 2 ^ w
  | 3 => if signed w b ≤ signed w c then b else c
  | 4 => if signed w b ≤ signed w c then c else b
  | 5 => b &&& c
  | 6 => b ||| c
  | 7 => b ^^^ c
  | 8 => b * 2 ^ sh % 2 ^ w
  | 9 => b / 2 ^ sh
  | 10 => ((signed w b / 2 ^ sh) % (2 ^ w : Int)).toNat
  | _ => if signed w b < 0 then (2 ^ w - b) % 2 ^ w else b

/-- The integer element instructions (R311). -/
def intVector (fn : Nat) (d : BitVec 5) (sc : BitVec 1) (t : BitVec 4) (pred : BitVec 3) (c : BitVec 6) (b : BitVec 5) : M Unit :=
  elementwise d t pred (b :: vsOfC sc c) fun rd s i =>
    (intElem fn (fmtBits t) (velem (rd b) (fmtBits t) i) (operandC s rd sc c (fmtBits t) i), 0)

/-- The float element instructions with two operands (R313). -/
def floatVector (fn : Nat) (d : BitVec 5) (sc : BitVec 1) (t : BitVec 4) (pred : BitVec 3) (c : BitVec 6) (b : BitVec 5) : M Unit :=
  elementwise d t pred (b :: vsOfC sc c) fun rd s i =>
    floatOp fn (fmtOf t) (velem (rd b) (fmtBits t) i) (operandC s rd sc c (fmtBits t) i)

/-- The fused element instructions (R314). -/
def fusedVector (fn : Nat) (d : BitVec 5) (sc : BitVec 1) (a : BitVec 5) (t : BitVec 4) (pred : BitVec 3) (c : BitVec 6) (b : BitVec 5) : M Unit :=
  elementwise d t pred (b :: a :: vsOfC sc c) fun rd s i =>
    fusedOp fn (fmtOf t) (velem (rd b) (fmtBits t) i) (operandC s rd sc c (fmtBits t) i) (velem (rd a) (fmtBits t) i)

/-- VADD (R311). -/
def execVadd (d : BitVec 5) (sc : BitVec 1) (t : BitVec 4) (pred : BitVec 3) (c : BitVec 6) (b : BitVec 5) (s : State) :
    Host.Outcome State Fault Refusal :=
  vecHead 0x30 2 d (b :: vsOfC sc c) (xsOfC sc c) pred (intVector 0 d sc t pred c b) s

/-- VSUB (R311). -/
def execVsub (d : BitVec 5) (sc : BitVec 1) (t : BitVec 4) (pred : BitVec 3) (c : BitVec 6) (b : BitVec 5) (s : State) :
    Host.Outcome State Fault Refusal :=
  vecHead 0x30 2 d (b :: vsOfC sc c) (xsOfC sc c) pred (intVector 1 d sc t pred c b) s

/-- VMUL (R311). -/
def execVmul (d : BitVec 5) (sc : BitVec 1) (t : BitVec 4) (pred : BitVec 3) (c : BitVec 6) (b : BitVec 5) (s : State) :
    Host.Outcome State Fault Refusal :=
  vecHead 0x30 2 d (b :: vsOfC sc c) (xsOfC sc c) pred (intVector 2 d sc t pred c b) s

/-- VMIN (R311). -/
def execVmin (d : BitVec 5) (sc : BitVec 1) (t : BitVec 4) (pred : BitVec 3) (c : BitVec 6) (b : BitVec 5) (s : State) :
    Host.Outcome State Fault Refusal :=
  vecHead 0x30 2 d (b :: vsOfC sc c) (xsOfC sc c) pred (intVector 3 d sc t pred c b) s

/-- VMAX (R311). -/
def execVmax (d : BitVec 5) (sc : BitVec 1) (t : BitVec 4) (pred : BitVec 3) (c : BitVec 6) (b : BitVec 5) (s : State) :
    Host.Outcome State Fault Refusal :=
  vecHead 0x30 2 d (b :: vsOfC sc c) (xsOfC sc c) pred (intVector 4 d sc t pred c b) s

/-- VAND (R311). -/
def execVand (d : BitVec 5) (sc : BitVec 1) (t : BitVec 4) (pred : BitVec 3) (c : BitVec 6) (b : BitVec 5) (s : State) :
    Host.Outcome State Fault Refusal :=
  vecHead 0x30 2 d (b :: vsOfC sc c) (xsOfC sc c) pred (intVector 5 d sc t pred c b) s

/-- VOR (R311). -/
def execVor (d : BitVec 5) (sc : BitVec 1) (t : BitVec 4) (pred : BitVec 3) (c : BitVec 6) (b : BitVec 5) (s : State) :
    Host.Outcome State Fault Refusal :=
  vecHead 0x30 2 d (b :: vsOfC sc c) (xsOfC sc c) pred (intVector 6 d sc t pred c b) s

/-- VXOR (R311). -/
def execVxor (d : BitVec 5) (sc : BitVec 1) (t : BitVec 4) (pred : BitVec 3) (c : BitVec 6) (b : BitVec 5) (s : State) :
    Host.Outcome State Fault Refusal :=
  vecHead 0x30 2 d (b :: vsOfC sc c) (xsOfC sc c) pred (intVector 7 d sc t pred c b) s

/-- VSLL (R311). -/
def execVsll (d : BitVec 5) (sc : BitVec 1) (t : BitVec 4) (pred : BitVec 3) (c : BitVec 6) (b : BitVec 5) (s : State) :
    Host.Outcome State Fault Refusal :=
  vecHead 0x30 2 d (b :: vsOfC sc c) (xsOfC sc c) pred (intVector 8 d sc t pred c b) s

/-- VSRL (R311). -/
def execVsrl (d : BitVec 5) (sc : BitVec 1) (t : BitVec 4) (pred : BitVec 3) (c : BitVec 6) (b : BitVec 5) (s : State) :
    Host.Outcome State Fault Refusal :=
  vecHead 0x30 2 d (b :: vsOfC sc c) (xsOfC sc c) pred (intVector 9 d sc t pred c b) s

/-- VSRA (R311). -/
def execVsra (d : BitVec 5) (sc : BitVec 1) (t : BitVec 4) (pred : BitVec 3) (c : BitVec 6) (b : BitVec 5) (s : State) :
    Host.Outcome State Fault Refusal :=
  vecHead 0x30 2 d (b :: vsOfC sc c) (xsOfC sc c) pred (intVector 10 d sc t pred c b) s

/-- VABS (R311). -/
def execVabs (d : BitVec 5) (t : BitVec 4) (pred : BitVec 3) (b : BitVec 5) (s : State) : Host.Outcome State Fault Refusal :=
  vecHead 0x30 2 d [b] [] pred (intVector 11 d 0 t pred (b.setWidth 6) b) s

/-- VFADD (R313). -/
def execVfadd (d : BitVec 5) (sc : BitVec 1) (t : BitVec 4) (pred : BitVec 3) (c : BitVec 6) (b : BitVec 5) (s : State) :
    Host.Outcome State Fault Refusal :=
  vecHead 0x31 2 d (b :: vsOfC sc c) (xsOfC sc c) pred (floatVector 0 d sc t pred c b) s

/-- VFSUB (R313). -/
def execVfsub (d : BitVec 5) (sc : BitVec 1) (t : BitVec 4) (pred : BitVec 3) (c : BitVec 6) (b : BitVec 5) (s : State) :
    Host.Outcome State Fault Refusal :=
  vecHead 0x31 2 d (b :: vsOfC sc c) (xsOfC sc c) pred (floatVector 1 d sc t pred c b) s

/-- VFMUL (R313). -/
def execVfmul (d : BitVec 5) (sc : BitVec 1) (t : BitVec 4) (pred : BitVec 3) (c : BitVec 6) (b : BitVec 5) (s : State) :
    Host.Outcome State Fault Refusal :=
  vecHead 0x31 2 d (b :: vsOfC sc c) (xsOfC sc c) pred (floatVector 2 d sc t pred c b) s

/-- VFDIV (R313). -/
def execVfdiv (d : BitVec 5) (sc : BitVec 1) (t : BitVec 4) (pred : BitVec 3) (c : BitVec 6) (b : BitVec 5) (s : State) :
    Host.Outcome State Fault Refusal :=
  vecHead 0x31 2 d (b :: vsOfC sc c) (xsOfC sc c) pred (floatVector 3 d sc t pred c b) s

/-- VFMIN (R313). -/
def execVfmin (d : BitVec 5) (sc : BitVec 1) (t : BitVec 4) (pred : BitVec 3) (c : BitVec 6) (b : BitVec 5) (s : State) :
    Host.Outcome State Fault Refusal :=
  vecHead 0x31 2 d (b :: vsOfC sc c) (xsOfC sc c) pred (floatVector 4 d sc t pred c b) s

/-- VFMAX (R313). -/
def execVfmax (d : BitVec 5) (sc : BitVec 1) (t : BitVec 4) (pred : BitVec 3) (c : BitVec 6) (b : BitVec 5) (s : State) :
    Host.Outcome State Fault Refusal :=
  vecHead 0x31 2 d (b :: vsOfC sc c) (xsOfC sc c) pred (floatVector 5 d sc t pred c b) s

/-- VFABS (R313). -/
def execVfabs (d : BitVec 5) (t : BitVec 4) (pred : BitVec 3) (b : BitVec 5) (s : State) : Host.Outcome State Fault Refusal :=
  vecHead 0x31 2 d [b] [] pred
    (elementwise d t pred [b] fun rd _ i => signOp (fmtOf t) false (velem (rd b) (fmtBits t) i)) s

/-- VFNEG (R313). -/
def execVfneg (d : BitVec 5) (t : BitVec 4) (pred : BitVec 3) (b : BitVec 5) (s : State) : Host.Outcome State Fault Refusal :=
  vecHead 0x31 2 d [b] [] pred
    (elementwise d t pred [b] fun rd _ i => signOp (fmtOf t) true (velem (rd b) (fmtBits t) i)) s

/-- VFMA (R314). -/
def execVfma (d : BitVec 5) (sc : BitVec 1) (a : BitVec 5) (t : BitVec 4) (pred : BitVec 3) (c : BitVec 6) (b : BitVec 5)
    (s : State) : Host.Outcome State Fault Refusal :=
  vecHead 0x32 2 d (b :: a :: vsOfC sc c) (xsOfC sc c) pred (fusedVector 0 d sc a t pred c b) s

/-- VFMS (R314). -/
def execVfms (d : BitVec 5) (sc : BitVec 1) (a : BitVec 5) (t : BitVec 4) (pred : BitVec 3) (c : BitVec 6) (b : BitVec 5)
    (s : State) : Host.Outcome State Fault Refusal :=
  vecHead 0x32 2 d (b :: a :: vsOfC sc c) (xsOfC sc c) pred (fusedVector 1 d sc a t pred c b) s

/-- VFNMA (R314). -/
def execVfnma (d : BitVec 5) (sc : BitVec 1) (a : BitVec 5) (t : BitVec 4) (pred : BitVec 3) (c : BitVec 6) (b : BitVec 5)
    (s : State) : Host.Outcome State Fault Refusal :=
  vecHead 0x32 2 d (b :: a :: vsOfC sc c) (xsOfC sc c) pred (fusedVector 2 d sc a t pred c b) s

/-- VFNMS (R314). -/
def execVfnms (d : BitVec 5) (sc : BitVec 1) (a : BitVec 5) (t : BitVec 4) (pred : BitVec 3) (c : BitVec 6) (b : BitVec 5)
    (s : State) : Host.Outcome State Fault Refusal :=
  vecHead 0x32 2 d (b :: a :: vsOfC sc c) (xsOfC sc c) pred (fusedVector 3 d sc a t pred c b) s

/-! ## Compare, select and rearrange (R316 to R323) -/

/-- A condition of VCMP on two elements, with its flags (R316). -/
def compareElem (cond t : BitVec 4) (b c : Nat) : Bool × Flags :=
  let w := fmtBits t
  if floatFmt t then
    let f := fmtOf t
    let nan := anyNan (fdecode f b) (fdecode f c)
    let sn := snanFlag (fdecode f b) (fdecode f c)
    match cond.toNat with
    | 0 => fcompare f 0 b c
    | 1 => (nan || !(fcompare f 0 b c).1, sn)
    | 2 => fcompare f 1 b c
    | 3 => fcompare f 2 b c
    | _ => (nan, sn)
  else match cond.toNat with
    | 0 => (b == c, 0)
    | 1 => (b != c, 0)
    | 2 => (decide (signed w b < signed w c), 0)
    | 3 => (decide (signed w b ≤ signed w c), 0)
    | 4 => (decide (b < c), 0)
    | _ => (decide (b ≤ c), 0)

/-- A predicate value from its bits below n. -/
def predOf (n : Nat) (f : Nat → Bool) : Word :=
  BitVec.ofNat 64 ((List.range n).foldl (fun a i => if f i then a + 2 ^ i else a) 0)

/-- VCMP (R316). -/
def execVcmp (d : BitVec 3) (sc : BitVec 1) (cond t : BitVec 4) (pred : BitVec 3) (c : BitVec 6) (b : BitVec 5) (s : State) :
    Host.Outcome State Fault Refusal :=
  predHead 0x33 2 d.toNat (vectorM [] (b :: vsOfC sc c) fun rd s =>
    let w := fmtBits t
    let r (i : Nat) := compareElem cond t (velem (rd b) w i) (operandC s rd sc c w i)
    let fl := (List.range (elemCount t)).foldl (fun fl i => if s.active pred i then fl ||| (r i).2 else fl) 0
    (s.setP d (predOf (elemCount t) fun i => s.active pred i && (r i).1)).raiseFlags fl) s

/-- VSEL: every element is written (R317). -/
def execVsel (d : BitVec 5) (sc : BitVec 1) (t : BitVec 4) (pred : BitVec 3) (c : BitVec 6) (b : BitVec 5) (s : State) :
    Host.Outcome State Fault Refusal :=
  vecHead 0x34 2 d (b :: vsOfC sc c) (xsOfC sc c) pred (vectorM [d] (b :: vsOfC sc c) fun rd s =>
    let w := fmtBits t
    s.setV d (vbuild w (elemCount t) fun i =>
      if s.active pred i then velem (rd b) w i else operandC s rd sc c w i)) s

/-- Element j of two registers one after the other, 0 beyond them (R318, R319). -/
def pairElem (lo hi : VWord) (w n j : Nat) : Nat := if j < n then velem lo w j else if j < 2 * n then velem hi w (j - n) else 0

/-- VPERM with one table (R318). -/
def execVperm (d : BitVec 5) (sc : BitVec 1) (t : BitVec 4) (pred : BitVec 3) (c : BitVec 6) (b : BitVec 5) (s : State) :
    Host.Outcome State Fault Refusal :=
  vecHead 0x35 2 d (b :: vsOfC sc c) (xsOfC sc c) pred (elementwise d t pred (b :: vsOfC sc c) fun rd s i =>
    let w := fmtBits t
    let j := operandC s rd sc c w i
    (if j < elemCount t then velem (rd b) w j else 0, 0)) s

/-- VPERM with two tables (R318). -/
def execVperm2 (d : BitVec 5) (sc : BitVec 1) (a : BitVec 5) (t : BitVec 4) (pred : BitVec 3) (c : BitVec 6) (b : BitVec 5)
    (s : State) : Host.Outcome State Fault Refusal :=
  vecHead 0x35 2 d (b :: a :: vsOfC sc c) (xsOfC sc c) pred (elementwise d t pred (b :: a :: vsOfC sc c) fun rd s i =>
    let w := fmtBits t
    (pairElem (rd b) (rd a) w (elemCount t) (operandC s rd sc c w i), 0)) s

/-- VREV (R319). -/
def execVrev (d : BitVec 5) (t : BitVec 4) (pred : BitVec 3) (b : BitVec 5) (s : State) : Host.Outcome State Fault Refusal :=
  vecHead 0x36 2 d [b] [] pred (elementwise d t pred [b] fun rd _ i =>
    (velem (rd b) (fmtBits t) (elemCount t - 1 - i), 0)) s

/-- The amount of VROT and VSLIDE: an immediate or x[C], modulo 2n (R319). -/
def slideAmount (s : State) (sc : BitVec 1) (c : BitVec 6) (n : Nat) : Nat :=
  (if sc = 1 then (s.x c).toNat else c.toNat) % (2 * n)

/-- VROT (R319). -/
def execVrot (d : BitVec 5) (sc : BitVec 1) (t : BitVec 4) (pred : BitVec 3) (c : BitVec 6) (b : BitVec 5) (s : State) :
    Host.Outcome State Fault Refusal :=
  vecHead 0x36 2 d [b] (xsOfC sc c) pred (elementwise d t pred [b] fun rd s i =>
    let n := elemCount t
    (velem (rd b) (fmtBits t) ((i + slideAmount s sc c n) % n), 0)) s

/-- VSLIDE (R319). -/
def execVslide (d : BitVec 5) (sc : BitVec 1) (a : BitVec 5) (t : BitVec 4) (pred : BitVec 3) (c : BitVec 6) (b : BitVec 5)
    (s : State) : Host.Outcome State Fault Refusal :=
  vecHead 0x36 2 d [b, a] (xsOfC sc c) pred (elementwise d t pred [b, a] fun rd s i =>
    let n := elemCount t
    (pairElem (rd b) (rd a) (fmtBits t) n (i + slideAmount s sc c n), 0)) s

/-- VBCAST of a scalar (R320). -/
def execVbcast (d : BitVec 5) (pred : BitVec 3) (t : BitVec 4) (x : BitVec 6) (s : State) : Host.Outcome State Fault Refusal :=
  vecHead 0x37 1 d [] [x] pred (elementwise d t pred [] fun _ s _ => ((s.x x).toNat % 2 ^ fmtBits t, 0)) s

/-- VBCAST of an element (R320). -/
def execVbcastElement (d : BitVec 5) (t : BitVec 4) (pred : BitVec 3) (idx : BitVec 6) (b : BitVec 5) (s : State) :
    Host.Outcome State Fault Refusal :=
  vecHead 0x37 2 d [b] [] pred (elementwise d t pred [b] fun rd _ _ => (velem (rd b) (fmtBits t) idx.toNat, 0)) s

/-- VINDEX (R321). -/
def execVindex (d : BitVec 5) (pred : BitVec 3) (t : BitVec 4) (x : BitVec 6) (s : State) : Host.Outcome State Fault Refusal :=
  vecHead 0x3C 1 d [] [x] pred (elementwise d t pred [] fun _ s i => (((s.x x).toNat + i) % 2 ^ fmtBits t, 0)) s

/-- A pattern of w bits repeated through a register (R322). -/
def patternM (d : BitVec 5) (w : Nat) (imm : Nat) : M Unit :=
  vectorM [d] [] fun _ s => s.setV d (vbuild w (512 / w) fun _ => imm)

/-- VLI of 32 bits (R322). -/
def execVliW (d : BitVec 5) (imm : BitVec 32) (s : State) : Host.Outcome State Fault Refusal :=
  vecHead 0x43 2 d [] [] 0 (patternM d 32 imm.toNat) s

/-- VLI of 64 bits (R322). -/
def execVliD (d : BitVec 5) (imm : BitVec 64) (s : State) : Host.Outcome State Fault Refusal :=
  vecHead 0x43 4 d [] [] 0 (patternM d 64 imm.toNat) s

/-- VLI of 128 bits (R322). -/
def execVliQ (d : BitVec 5) (imm : BitVec 128) (s : State) : Host.Outcome State Fault Refusal :=
  vecHead 0x43 6 d [] [] 0 (patternM d 128 imm.toNat) s

/-- An element as it stands in an x register (R323). -/
def placeElem (t : BitVec 4) (v : Nat) : Word := if intFmt t then wordOfInt (signed (fmtBits t) v) else BitVec.ofNat 64 v

/-- VMOVX (R323). -/
def execVmovx (d : BitVec 6) (t : BitVec 4) (idx : BitVec 6) (b : BitVec 5) (s : State) : Host.Outcome State Fault Refusal :=
  runHead acceptCompute (headOf 0x42 2 d.toNat) [d] [b] 0 (vectorM [] [b] fun rd s =>
    s.setX d (placeElem t (velem (rd b) (fmtBits t) idx.toNat))) s

/-- VMOVV (R323). -/
def execVmovv (d : BitVec 5) (t : BitVec 4) (idx : BitVec 6) (x : BitVec 6) (s : State) : Host.Outcome State Fault Refusal :=
  vecHead 0x42 2 d [] [x] 0 (vectorM [d] [] fun _ s =>
    s.setV d (vbuild (fmtBits t) (elemCount t) fun i =>
      if i = idx.toNat then (s.x x).toNat % 2 ^ fmtBits t else velem (s.v d) (fmtBits t) i)) s

/-! ## Reductions and scans (R325 to R327) -/

/-- The combining operations by code: 0 sum, 1 min, 2 max, 3 and, 4 or, 5 xor (R325). -/
def reduceOp (op : Nat) (t : BitVec 4) (a b : Nat) : FRes :=
  if floatFmt t then
    match op with
    | 0 => fadd (fmtOf t) a b
    | 1 => fminmax (fmtOf t) false a b
    | _ => fminmax (fmtOf t) true a b
  else (intElem (match op with | 0 => 0 | 1 => 3 | 2 => 4 | 3 => 5 | 4 => 6 | _ => 7) (fmtBits t) a b, 0)

/-- The identities (R325). -/
def reduceUnit (op : Nat) (t : BitVec 4) : Nat :=
  let w := fmtBits t
  match op with
  | 1 => if floatFmt t then finf (fmtOf t) false else 2 ^ (w - 1) - 1
  | 2 => if floatFmt t then finf (fmtOf t) true else 2 ^ (w - 1)
  | 3 => 2 ^ w - 1
  | _ => 0

/-- One level of the pairwise tree: values with their presence, and flags (R325). -/
def reduceLevel (op : Nat) (t : BitVec 4) : List (Nat × Bool) → List (Nat × Bool) × Flags
  | a :: b :: r =>
    let (l, fl) := reduceLevel op t r
    if a.2 && b.2 then let c := reduceOp op t a.1 b.1; ((c.1, true) :: l, fl ||| c.2)
    else if b.2 then (b :: l, fl)
    else ((a.1, a.2 || b.2) :: l, fl)
  | l => (l, 0)

/-- The tree over a number of levels. -/
def reduceTree (op : Nat) (t : BitVec 4) : Nat → List (Nat × Bool) → List (Nat × Bool) × Flags
  | 0, l => (l, 0)
  | k + 1, l =>
    let (l1, f1) := reduceLevel op t l
    let (l2, f2) := reduceTree op t k l1
    (l2, f1 ||| f2)

/-- A float NaN made canonical (R117, R307); other values stay. -/
def canonical (t : BitVec 4) (v : Nat) : Nat :=
  if floatFmt t then (match fdecode (fmtOf t) v with | .nan _ => qnan (fmtOf t) | _ => v) else v

/-- NV for any active signalling NaN (R307). -/
def activeSnan (t : BitVec 4) (n : Nat) (act : Nat → Bool) (v : VWord) : Flags :=
  if floatFmt t then
    (List.range n).foldl (fun fl i => if act i then
      (match fdecode (fmtOf t) (velem v (fmtBits t) i) with | .nan true => flagNV | _ => fl) else fl) 0
  else 0

/-- VRED (R325). -/
def execVred (d : BitVec 6) (op t : BitVec 4) (pred : BitVec 3) (b : BitVec 5) (s : State) : Host.Outcome State Fault Refusal :=
  runHead acceptCompute (headOf 0x38 2 d.toNat) [d] [b] pred (vectorM [] [b] fun rd s =>
    let n := elemCount t
    let (l, fl) := reduceTree op.toNat t (Nat.log2 n)
      ((List.range n).map (fun i => (velem (rd b) (fmtBits t) i, s.active pred i)))
    let r := match l with
      | (v, true) :: _ => canonical t v
      | _ => reduceUnit op.toNat t
    (s.setX d (placeElem t r)).raiseFlags (fl ||| activeSnan t n (s.active pred) (rd b))) s

/-- The outputs of a scan in ascending order, with the running value and the flags (R326). -/
def scanFrom (op : Nat) (t : BitVec 4) (ex : Bool) : List (Nat × Nat × Bool) → Option Nat → List Nat × Flags
  | [], _ => ([], 0)
  | (v, old, act) :: r, run =>
    if act then
      let (nw, fl) := match run with
        | some a => reduceOp op t a v
        | none => (v, 0)
      let out := if ex then (match run with | some a => canonical t a | none => reduceUnit op t) else canonical t nw
      let (l, f2) := scanFrom op t ex r (some nw)
      (out :: l, fl ||| f2)
    else
      let (l, f2) := scanFrom op t ex r run
      (old :: l, f2)

/-- The scans (R326). -/
def scanVector (ex : Bool) (d : BitVec 5) (op : BitVec 2) (t : BitVec 4) (pred : BitVec 3) (b : BitVec 5) : M Unit :=
  vectorM [d] [b] fun rd s =>
    let w := fmtBits t
    let n := elemCount t
    let (l, fl) := scanFrom op.toNat t ex
      ((List.range n).map (fun i => (velem (rd b) w i, velem (s.v d) w i, s.active pred i))) none
    (s.setV d (vbuild w n fun i => nth l i 0)).raiseFlags (fl ||| activeSnan t n (s.active pred) (rd b))

/-- VSCAN (R326). -/
def execVscan (d : BitVec 5) (op : BitVec 2) (t : BitVec 4) (pred : BitVec 3) (b : BitVec 5) (s : State) :
    Host.Outcome State Fault Refusal :=
  vecHead 0x39 2 d [b] [] pred (scanVector false d op t pred b) s

/-- VSCANX (R326). -/
def execVscanx (d : BitVec 5) (op : BitVec 2) (t : BitVec 4) (pred : BitVec 3) (b : BitVec 5) (s : State) :
    Host.Outcome State Fault Refusal :=
  vecHead 0x39 2 d [b] [] pred (scanVector true d op t pred b) s

/-- VCOMPRESS (R327). -/
def execVcompress (d : BitVec 5) (t : BitVec 4) (pred : BitVec 3) (b : BitVec 5) (s : State) : Host.Outcome State Fault Refusal :=
  vecHead 0x3B 2 d [b] [] pred (vectorM [d] [b] fun rd s =>
    let w := fmtBits t
    let n := elemCount t
    let l := ((List.range n).filter (s.active pred)).map (velem (rd b) w)
    s.setV d (vbuild w n fun i => nth l i (velem (s.v d) w i))) s

/-- VEXPAND (R327). -/
def execVexpand (d : BitVec 5) (t : BitVec 4) (pred : BitVec 3) (b : BitVec 5) (s : State) : Host.Outcome State Fault Refusal :=
  vecHead 0x3B 2 d [b] [] pred (vectorM [d] [b] fun rd s =>
    let w := fmtBits t
    let n := elemCount t
    s.setV d (vbuild w n fun i =>
      if s.active pred i then velem (rd b) w ((List.range i).filter (s.active pred)).length else velem (s.v d) w i)) s

/-! ## Top-k selection (R329, R330) -/

/-- A candidate of the ranking: value, index, and whether it comes from the list. -/
structure Cand where
  val : Nat
  idx : Nat
  list : Bool
  deriving DecidableEq, Repr

/-- Value a ranks above value b in the order of R329, rule 1. -/
def rankAbove (isInt : Bool) (a b : Nat) : Bool :=
  if isInt then decide (signed 32 b < signed 32 a)
  else if entryNan32 a then false
  else if entryNan32 b then true
  else decide (0 < forder (fdecode fp32 a) (fdecode fp32 b))
where
  /-- An FP32 NaN. -/
  entryNan32 (v : Nat) : Bool := match fdecode fp32 v with | .nan _ => true | _ => false

/-- Candidate a ranks ahead of b, or stands level with it (R329). -/
def candLe (isInt : Bool) (a b : Cand) : Bool :=
  if rankAbove isInt a.val b.val then true
  else if rankAbove isInt b.val a.val then false
  else if a.idx ≠ b.idx then decide (a.idx < b.idx) else a.list || !b.list

/-- The element j of a group of four registers. -/
def State.slot (s : State) (g : BitVec 5) (j : Nat) : Nat := velem (s.v (g + BitVec.ofNat 5 (j / 16))) 32 (j % 16)

/-- The state with the first k slots of a group written. -/
def State.setSlots (s : State) (g : BitVec 5) (k : Nat) (f : Nat → Nat) : State :=
  (List.range 4).foldl (fun s q =>
    let r := g + BitVec.ofNat 5 q
    s.setV r (vbuild 32 16 fun i => if 16 * q + i < k then f (16 * q + i) else velem (s.v r) 32 i)) s

/-- VTOPK (R330). -/
def execVtopk (d : BitVec 5) (nz m t : BitVec 1) (pred pd : BitVec 3) (xb xk : BitVec 6) (vi b : BitVec 5) (s : State) :
    Host.Outcome State Fault Refusal :=
  predHead 0x3A 2 d.toNat (do
    let s ← get
    if 64 < (s.x xk).toNat then operandM 0 else
    vectorM [d, d + 1, d + 2, d + 3, vi, vi + 1, vi + 2, vi + 3] [b] fun rd s =>
      let k := (s.x xk).toNat
      if k = 0 then s else
      let isInt := t == 1
      let list := if m = 1 then
          ((List.range 64).filter (s.active pd)).map (fun j => (⟨s.slot d j, s.slot vi j, true⟩ : Cand)) else []
      let zero (v : Nat) : Bool := v == 0 || (!isInt && v == 0x8000_0000)
      let row := ((List.range 16).filter (fun i => s.active pred i && !(nz == 1 && zero (velem (rd b) 32 i)))).map
        (fun i => (⟨velem (rd b) 32 i, ((s.x xb).toNat + i) % 2 ^ 32, false⟩ : Cand))
      let cand := sortBy (candLe isInt) (list ++ row)
      let fill : Cand := ⟨if isInt then 0x8000_0000 else 0xFF80_0000, 0xFFFF_FFFF, false⟩
      let out := ((s.setSlots d k fun j => (nth cand j fill).val).setSlots vi k fun j => (nth cand j fill).idx)
      out.setP pd (predOf (if k < cand.length then k else cand.length) fun _ => true)) s

/-! ## Conversions (R331 to R333) -/

/-- The element of a register at which a conversion reads or writes: element i of the wider side, PART·n + i of the
narrower side, with n elements of the wider width (R332). -/
def partIndex (mine other : BitVec 4) (part : BitVec 4) (i : Nat) : Nat :=
  if fmtBits other ≤ fmtBits mine then i else part.toNat * (512 / fmtBits other) + i

/-- A conversion of the active elements of one part (R332). -/
def convertVector (d : BitVec 5) (part : BitVec 4) (pred : BitVec 3) (toF fromF : BitVec 4) (b : BitVec 5)
    (f : Nat → FRes) : M Unit :=
  vectorM [d] [b] fun rd s =>
    let n := 512 / Nat.max (fmtBits toF) (fmtBits fromF)
    let r (i : Nat) := f (velem (rd b) (fmtBits fromF) (partIndex fromF toF part i))
    let written (j : Nat) : Option Nat :=
      (List.range n).find? (fun i => partIndex toF fromF part i == j && s.active pred i)
    let out := vbuild (fmtBits toF) (elemCount toF) fun j =>
      match written j with
      | some i => (r i).1
      | none => velem (s.v d) (fmtBits toF) j
    let fl := (List.range n).foldl (fun fl i => if s.active pred i then fl ||| (r i).2 else fl) 0
    (s.setV d out).raiseFlags fl

/-- Residue register n. -/
def State.residue (s : State) (n : BitVec 3) : VWord := (s.me.e[n.toNat]?).getD 0

/-- An error-feedback conversion with residue register er (R128). -/
def feedbackVector (d : BitVec 5) (er : BitVec 3) (part : BitVec 4) (pred : BitVec 3) (toF : BitVec 4) (b : BitVec 5)
    (enc : Nat → FRes) (dec : Nat → Nat) : M Unit :=
  vectorM [d] [b] fun rd s =>
    let w := fmtBits toF
    let r (i : Nat) := feedbackStep (velem (rd b) 32 i) (velem (s.residue er) 32 i) enc dec
    let base := part.toNat * 16
    let out := vbuild w (elemCount toF) fun j =>
      if base ≤ j ∧ j < base + 16 ∧ s.active pred (j - base) then (r (j - base)).1 else velem (s.v d) w j
    let res := vbuild 32 16 fun i => if s.active pred i then (r i).2.2 else velem (s.residue er) 32 i
    let fl := (List.range 16).foldl (fun fl i => if s.active pred i then fl ||| (r i).2.1 else fl) 0
    ((s.setV d out).modMe fun h => { h with e := h.e.setIfInBounds er.toNat res }).raiseFlags fl

/-- VCVT (R332). -/
def execVcvt (d : BitVec 5) (er : BitVec 3) (ef rz : BitVec 1) (part : BitVec 4) (pred : BitVec 3) (toF fromF : BitVec 4)
    (b : BitVec 5) (s : State) : Host.Outcome State Fault Refusal :=
  if ef = 1 then
    predHead 0x3D 2 d.toNat (feedbackVector d er part pred toF b (fconvert fp32 (fmtOf toF))
      (fun c => (fconvert (fmtOf toF) fp32 c).1)) s
  else vecHead 0x3D 2 d [b] [] pred (convertVector d part pred toF fromF b (convertFmt fromF toF (rz == 1))) s

/-- VENC (R333). -/
def execVenc (d : BitVec 5) (er : BitVec 3) (ef : BitVec 1) (part : BitVec 4) (pred : BitVec 3) (toF fromF : BitVec 4)
    (b : BitVec 5) (s : State) : Host.Outcome State Fault Refusal :=
  if ef = 1 then
    predHead 0x3E 2 d.toNat (do
      let tb ← slotM (slotOf toF) 0
      feedbackVector d er part pred toF b (encodeCode tb (isT4 toF)) (fun c => (decodeCode tb (isT4 toF) fp32 c).1)) s
  else vecHead 0x3E 2 d [b] [] pred (do
    let tb ← slotM (slotOf toF) 0
    convertVector d part pred toF fromF b (encodeFrom tb (isT4 toF) fromF)) s

/-- VDEC (R333). -/
def execVdec (d : BitVec 5) (part : BitVec 4) (pred : BitVec 3) (toF fromF : BitVec 4) (b : BitVec 5) (s : State) :
    Host.Outcome State Fault Refusal :=
  vecHead 0x3E 2 d [b] [] pred (do
    let tb ← slotM (slotOf fromF) 0
    convertVector d part pred toF fromF b (decodeCode tb (isT4 fromF) (fmtOf toF))) s

/-- VRCPE (R335). -/
def execVrcpe (d : BitVec 5) (t : BitVec 4) (pred : BitVec 3) (b : BitVec 5) (s : State) : Host.Outcome State Fault Refusal :=
  vecHead 0x3F 2 d [b] [] pred
    (elementwise d t pred [b] fun rd _ i => festimate 0 t (velem (rd b) (fmtBits t) i)) s

/-- VRSQE (R335). -/
def execVrsqe (d : BitVec 5) (t : BitVec 4) (pred : BitVec 3) (b : BitVec 5) (s : State) : Host.Outcome State Fault Refusal :=
  vecHead 0x3F 2 d [b] [] pred
    (elementwise d t pred [b] fun rd _ i => festimate 1 t (velem (rd b) (fmtBits t) i)) s

/-- VEXPE (R335). -/
def execVexpe (d : BitVec 5) (t : BitVec 4) (pred : BitVec 3) (b : BitVec 5) (s : State) : Host.Outcome State Fault Refusal :=
  vecHead 0x3F 2 d [b] [] pred
    (elementwise d t pred [b] fun rd _ i => festimate 2 t (velem (rd b) (fmtBits t) i)) s

/-! ## Predicate instructions (R336, R337) -/

/-- PAND (R336). -/
def execPand (d pb pa : BitVec 3) (s : State) : Host.Outcome State Fault Refusal :=
  predHead 0x40 1 d.toNat (modify fun s => (s.setP d (s.p pa &&& s.p pb)).retire) s

/-- POR (R336). -/
def execPor (d pb pa : BitVec 3) (s : State) : Host.Outcome State Fault Refusal :=
  predHead 0x40 1 d.toNat (modify fun s => (s.setP d (s.p pa ||| s.p pb)).retire) s

/-- PXOR (R336). -/
def execPxor (d pb pa : BitVec 3) (s : State) : Host.Outcome State Fault Refusal :=
  predHead 0x40 1 d.toNat (modify fun s => (s.setP d (s.p pa ^^^ s.p pb)).retire) s

/-- PNOT (R336). -/
def execPnot (d pa : BitVec 3) (s : State) : Host.Outcome State Fault Refusal :=
  predHead 0x40 1 d.toNat (modify fun s => (s.setP d (~~~s.p pa)).retire) s

/-- PMOV to a predicate register (R336). -/
def execPmovToPredicate (d : BitVec 3) (x : BitVec 6) (s : State) : Host.Outcome State Fault Refusal :=
  predHead 0x40 1 d.toNat (modify fun s => (s.setP d (s.x x)).retire) s

/-- PMOV to an x register (R336). -/
def execPmovToScalar (d : BitVec 6) (pa : BitVec 3) (s : State) : Host.Outcome State Fault Refusal :=
  predHead 0x40 1 d.toNat (writeX d fun s => s.p pa) s

/-- PCNT (R337). -/
def execPcnt (d : BitVec 6) (pm pa : BitVec 3) (s : State) : Host.Outcome State Fault Refusal :=
  predHead 0x41 1 d.toNat (writeX d fun s => countOnes (s.p pa &&& s.p pm)) s

/-- PFIRST (R337). -/
def execPfirst (d : BitVec 6) (pm pa : BitVec 3) (s : State) : Host.Outcome State Fault Refusal :=
  predHead 0x41 1 d.toNat (writeX d fun s => countTrailing (s.p pa &&& s.p pm)) s

end Sys2Proof.Machine
end

