-- ==== Sys2Proof/Machine/MemoryInstr.lean ====
section
/-! DEFINITION. MemoryInstr.lean: scalar and vector loads and stores, full–empty access and cache maintenance (R338 to
R349), and the trailed stores that share them (R436, R437). -/

namespace Sys2Proof.Machine

/-! ## Scalar loads and stores (R339 to R343) -/

/-- A scalar load of size bytes from an address (R341). -/
def loadM (d : BitVec 6) (size : Nat) (sx : Bool) (qual : BitVec 8) (addr : State → Word) : M Unit := do
  let s ← get
  let a := addr s
  if a.toNat % size ≠ 0 then trapM 0x08 0 a else
  let p ← sentPlaceM (myPlace .load a size)
  let v ← loadAt p size qual a
  modify fun s => (s.setX d (if sx then wordOfInt (signed (8 * size) v) else BitVec.ofNat 64 v)).retire

/-- A scalar store of the low bytes of a value to a place whose checks passed: trailed where a search asks for it, then
stored (R343, R429). -/
def storeAtM (p : Place) (size : Nat) (v : Word) (qual : BitVec 8) (a : Word) (stt : Bool) : M Unit := do
  storeCheck p size a
  storeOrder qual
  if qualOrd qual = 3 then meetTag p.home p.sync false else pure ()
  trailStore p.home stt (qualOrd qual == 3)
  storeCells (cellsAt p.home (bytesOf v.toNat size)) qual p.sync
  modify State.retire

/-- ST (R343). -/
def storeM (src : BitVec 6) (size : Nat) (qual : BitVec 8) (addr : State → Word) : M Unit := do
  let s ← get
  let a := addr s
  if a.toNat % size ≠ 0 then trapM 0x08 0 a else
  let p ← myPlace .store a size
  storeAtM p size (s.x src) qual a false

/-- STT: ST into the TCM window, trailed anywhere in it (R437). -/
def storeTrailedM (src : BitVec 6) (size : Nat) (qual : BitVec 8) (addr : State → Word) : M Unit := do
  let s ← get
  let a := addr s
  if (s.windowOf s.cur a.toNat).1 ≠ .tcm then operandM a
  else if a.toNat % size ≠ 0 then trapM 0x08 0 a else
  let p ← myPlace .store a size
  storeAtM p size (s.x src) qual a true

/-- The registers that an address of R339 names. -/
def addrRegs (p : BitVec 1) (b : BitVec 6) : List (BitVec 6) := if p = 1 then [] else [b]

/-- LD.B (R341). -/
def execLdB (d : BitVec 6) (off : BitVec 15) (b : BitVec 6) (qual : BitVec 8) (s : State) :
    Host.Outcome State Fault Refusal :=
  runHead acceptAll (headOf 0x50 2 d.toNat) [d, b] [] 0 (loadM d 1 true qual (memAddr 0 b (off.signExtend 64))) s

/-- LD.B with the 8-byte tail (R341). -/
def execLdBLong (d : BitVec 6) (p : BitVec 1) (off : BitVec 46) (b : BitVec 6) (qual : BitVec 8) (s : State) :
    Host.Outcome State Fault Refusal :=
  runHead acceptAll (headOf 0x50 4 d.toNat) (d :: addrRegs p b) [] 0
    (loadM d 1 true qual (memAddr p b (off.signExtend 64))) s

/-- LD.BU (R341). -/
def execLdBu (d : BitVec 6) (off : BitVec 15) (b : BitVec 6) (qual : BitVec 8) (s : State) :
    Host.Outcome State Fault Refusal :=
  runHead acceptAll (headOf 0x50 2 d.toNat) [d, b] [] 0 (loadM d 1 false qual (memAddr 0 b (off.signExtend 64))) s

/-- LD.BU with the 8-byte tail (R341). -/
def execLdBuLong (d : BitVec 6) (p : BitVec 1) (off : BitVec 46) (b : BitVec 6) (qual : BitVec 8) (s : State) :
    Host.Outcome State Fault Refusal :=
  runHead acceptAll (headOf 0x50 4 d.toNat) (d :: addrRegs p b) [] 0
    (loadM d 1 false qual (memAddr p b (off.signExtend 64))) s

/-- LD.H (R341). -/
def execLdH (d : BitVec 6) (off : BitVec 15) (b : BitVec 6) (qual : BitVec 8) (s : State) :
    Host.Outcome State Fault Refusal :=
  runHead acceptAll (headOf 0x50 2 d.toNat) [d, b] [] 0 (loadM d 2 true qual (memAddr 0 b (off.signExtend 64))) s

/-- LD.H with the 8-byte tail (R341). -/
def execLdHLong (d : BitVec 6) (p : BitVec 1) (off : BitVec 46) (b : BitVec 6) (qual : BitVec 8) (s : State) :
    Host.Outcome State Fault Refusal :=
  runHead acceptAll (headOf 0x50 4 d.toNat) (d :: addrRegs p b) [] 0
    (loadM d 2 true qual (memAddr p b (off.signExtend 64))) s

/-- LD.HU (R341). -/
def execLdHu (d : BitVec 6) (off : BitVec 15) (b : BitVec 6) (qual : BitVec 8) (s : State) :
    Host.Outcome State Fault Refusal :=
  runHead acceptAll (headOf 0x50 2 d.toNat) [d, b] [] 0 (loadM d 2 false qual (memAddr 0 b (off.signExtend 64))) s

/-- LD.HU with the 8-byte tail (R341). -/
def execLdHuLong (d : BitVec 6) (p : BitVec 1) (off : BitVec 46) (b : BitVec 6) (qual : BitVec 8) (s : State) :
    Host.Outcome State Fault Refusal :=
  runHead acceptAll (headOf 0x50 4 d.toNat) (d :: addrRegs p b) [] 0
    (loadM d 2 false qual (memAddr p b (off.signExtend 64))) s

/-- LD.W (R341). -/
def execLdW (d : BitVec 6) (off : BitVec 15) (b : BitVec 6) (qual : BitVec 8) (s : State) :
    Host.Outcome State Fault Refusal :=
  runHead acceptAll (headOf 0x50 2 d.toNat) [d, b] [] 0 (loadM d 4 true qual (memAddr 0 b (off.signExtend 64))) s

/-- LD.W with the 8-byte tail (R341). -/
def execLdWLong (d : BitVec 6) (p : BitVec 1) (off : BitVec 46) (b : BitVec 6) (qual : BitVec 8) (s : State) :
    Host.Outcome State Fault Refusal :=
  runHead acceptAll (headOf 0x50 4 d.toNat) (d :: addrRegs p b) [] 0
    (loadM d 4 true qual (memAddr p b (off.signExtend 64))) s

/-- LD.WU (R341). -/
def execLdWu (d : BitVec 6) (off : BitVec 15) (b : BitVec 6) (qual : BitVec 8) (s : State) :
    Host.Outcome State Fault Refusal :=
  runHead acceptAll (headOf 0x50 2 d.toNat) [d, b] [] 0 (loadM d 4 false qual (memAddr 0 b (off.signExtend 64))) s

/-- LD.WU with the 8-byte tail (R341). -/
def execLdWuLong (d : BitVec 6) (p : BitVec 1) (off : BitVec 46) (b : BitVec 6) (qual : BitVec 8) (s : State) :
    Host.Outcome State Fault Refusal :=
  runHead acceptAll (headOf 0x50 4 d.toNat) (d :: addrRegs p b) [] 0
    (loadM d 4 false qual (memAddr p b (off.signExtend 64))) s

/-- LD.D (R341). -/
def execLdD (d : BitVec 6) (off : BitVec 15) (b : BitVec 6) (qual : BitVec 8) (s : State) :
    Host.Outcome State Fault Refusal :=
  runHead acceptAll (headOf 0x50 2 d.toNat) [d, b] [] 0 (loadM d 8 false qual (memAddr 0 b (off.signExtend 64))) s

/-- LD.D with the 8-byte tail (R341). -/
def execLdDLong (d : BitVec 6) (p : BitVec 1) (off : BitVec 46) (b : BitVec 6) (qual : BitVec 8) (s : State) :
    Host.Outcome State Fault Refusal :=
  runHead acceptAll (headOf 0x50 4 d.toNat) (d :: addrRegs p b) [] 0
    (loadM d 8 false qual (memAddr p b (off.signExtend 64))) s

/-- ST.B (R343). -/
def execStB (src : BitVec 6) (off : BitVec 15) (b : BitVec 6) (qual : BitVec 8) (s : State) :
    Host.Outcome State Fault Refusal :=
  runHead acceptAll (headOf 0x51 2 src.toNat) [src, b] [] 0 (storeM src 1 qual (memAddr 0 b (off.signExtend 64))) s

/-- ST.B with the 8-byte tail (R343). -/
def execStBLong (src : BitVec 6) (p : BitVec 1) (off : BitVec 46) (b : BitVec 6) (qual : BitVec 8) (s : State) :
    Host.Outcome State Fault Refusal :=
  runHead acceptAll (headOf 0x51 4 src.toNat) (src :: addrRegs p b) [] 0
    (storeM src 1 qual (memAddr p b (off.signExtend 64))) s

/-- ST.H (R343). -/
def execStH (src : BitVec 6) (off : BitVec 15) (b : BitVec 6) (qual : BitVec 8) (s : State) :
    Host.Outcome State Fault Refusal :=
  runHead acceptAll (headOf 0x51 2 src.toNat) [src, b] [] 0 (storeM src 2 qual (memAddr 0 b (off.signExtend 64))) s

/-- ST.H with the 8-byte tail (R343). -/
def execStHLong (src : BitVec 6) (p : BitVec 1) (off : BitVec 46) (b : BitVec 6) (qual : BitVec 8) (s : State) :
    Host.Outcome State Fault Refusal :=
  runHead acceptAll (headOf 0x51 4 src.toNat) (src :: addrRegs p b) [] 0
    (storeM src 2 qual (memAddr p b (off.signExtend 64))) s

/-- ST.W (R343). -/
def execStW (src : BitVec 6) (off : BitVec 15) (b : BitVec 6) (qual : BitVec 8) (s : State) :
    Host.Outcome State Fault Refusal :=
  runHead acceptAll (headOf 0x51 2 src.toNat) [src, b] [] 0 (storeM src 4 qual (memAddr 0 b (off.signExtend 64))) s

/-- ST.W with the 8-byte tail (R343). -/
def execStWLong (src : BitVec 6) (p : BitVec 1) (off : BitVec 46) (b : BitVec 6) (qual : BitVec 8) (s : State) :
    Host.Outcome State Fault Refusal :=
  runHead acceptAll (headOf 0x51 4 src.toNat) (src :: addrRegs p b) [] 0
    (storeM src 4 qual (memAddr p b (off.signExtend 64))) s

/-- ST.D (R343). -/
def execStD (src : BitVec 6) (off : BitVec 15) (b : BitVec 6) (qual : BitVec 8) (s : State) :
    Host.Outcome State Fault Refusal :=
  runHead acceptAll (headOf 0x51 2 src.toNat) [src, b] [] 0 (storeM src 8 qual (memAddr 0 b (off.signExtend 64))) s

/-- ST.D with the 8-byte tail (R343). -/
def execStDLong (src : BitVec 6) (p : BitVec 1) (off : BitVec 46) (b : BitVec 6) (qual : BitVec 8) (s : State) :
    Host.Outcome State Fault Refusal :=
  runHead acceptAll (headOf 0x51 4 src.toNat) (src :: addrRegs p b) [] 0
    (storeM src 8 qual (memAddr p b (off.signExtend 64))) s

/-- STT.B (R437). -/
def execSttB (src : BitVec 6) (off : BitVec 15) (b : BitVec 6) (qual : BitVec 8) (s : State) :
    Host.Outcome State Fault Refusal :=
  runHead acceptMain (headOf 0x71 2 src.toNat) [src, b] [] 0
    (storeTrailedM src 1 qual (memAddr 0 b (off.signExtend 64))) s

/-- STT.B with the 8-byte tail (R437). -/
def execSttBLong (src : BitVec 6) (off : BitVec 46) (b : BitVec 6) (qual : BitVec 8) (s : State) :
    Host.Outcome State Fault Refusal :=
  runHead acceptMain (headOf 0x71 4 src.toNat) [src, b] [] 0
    (storeTrailedM src 1 qual (memAddr 0 b (off.signExtend 64))) s

/-- STT.H (R437). -/
def execSttH (src : BitVec 6) (off : BitVec 15) (b : BitVec 6) (qual : BitVec 8) (s : State) :
    Host.Outcome State Fault Refusal :=
  runHead acceptMain (headOf 0x71 2 src.toNat) [src, b] [] 0
    (storeTrailedM src 2 qual (memAddr 0 b (off.signExtend 64))) s

/-- STT.H with the 8-byte tail (R437). -/
def execSttHLong (src : BitVec 6) (off : BitVec 46) (b : BitVec 6) (qual : BitVec 8) (s : State) :
    Host.Outcome State Fault Refusal :=
  runHead acceptMain (headOf 0x71 4 src.toNat) [src, b] [] 0
    (storeTrailedM src 2 qual (memAddr 0 b (off.signExtend 64))) s

/-- STT.W (R437). -/
def execSttW (src : BitVec 6) (off : BitVec 15) (b : BitVec 6) (qual : BitVec 8) (s : State) :
    Host.Outcome State Fault Refusal :=
  runHead acceptMain (headOf 0x71 2 src.toNat) [src, b] [] 0
    (storeTrailedM src 4 qual (memAddr 0 b (off.signExtend 64))) s

/-- STT.W with the 8-byte tail (R437). -/
def execSttWLong (src : BitVec 6) (off : BitVec 46) (b : BitVec 6) (qual : BitVec 8) (s : State) :
    Host.Outcome State Fault Refusal :=
  runHead acceptMain (headOf 0x71 4 src.toNat) [src, b] [] 0
    (storeTrailedM src 4 qual (memAddr 0 b (off.signExtend 64))) s

/-- STT.D (R437). -/
def execSttD (src : BitVec 6) (off : BitVec 15) (b : BitVec 6) (qual : BitVec 8) (s : State) :
    Host.Outcome State Fault Refusal :=
  runHead acceptMain (headOf 0x71 2 src.toNat) [src, b] [] 0
    (storeTrailedM src 8 qual (memAddr 0 b (off.signExtend 64))) s

/-- STT.D with the 8-byte tail (R437). -/
def execSttDLong (src : BitVec 6) (off : BitVec 46) (b : BitVec 6) (qual : BitVec 8) (s : State) :
    Host.Outcome State Fault Refusal :=
  runHead acceptMain (headOf 0x71 4 src.toNat) [src, b] [] 0
    (storeTrailedM src 8 qual (memAddr 0 b (off.signExtend 64))) s

/-! ## Vector loads and stores (R345) -/

/-- One active element of a vector access: its index and address. -/
structure VElem where
  idx : Nat
  addr : Word
  deriving DecidableEq, Repr

/-- The base of a vector access; an odd element offset of a 4-bit format is MISALIGNED (R345). -/
def vectorBase (t : BitVec 4) (b : BitVec 6) (off : BitVec 32) : M Word := do
  let s ← get
  if fmtBits t = 4 then
    let a := s.x b + (off.signExtend 64).sshiftRight 1
    if off.getLsbD 0 then trapM 0x08 0 a else pure a
  else pure (s.x b + off.signExtend 64)

/-- The active elements of a vector access with their addresses (R345). -/
def vectorElems (s : State) (t : BitVec 4) (pred : BitVec 3) (sc : BitVec 1) (c : BitVec 6) (a : Word) : List VElem :=
  ((List.range (elemCount t)).filter (s.active pred)).map fun i =>
    ⟨i, if sc = 1 then a + BitVec.ofNat 64 i * s.x c else a + BitVec.ofNat 64 (i * fmtBits t / 8)⟩

/-- The checks of a vector access: alignment of each element, the windows of the whole range, the translation of each
element, lowest address first (R66, R88, R345). The result pairs each element with its place. -/
def vectorPlaces (acc : Acc) (t : BitVec 4) (l : List VElem) : M (List (VElem × Place)) := do
  let size := (fmtBits t + 7) / 8
  let up := sortBy (fun (x y : VElem) => decide (x.addr.toNat ≤ y.addr.toNat)) l
  match up with
  | [] => pure []
  | e :: _ =>
    match up.find? (fun e => e.addr.toNat % size != 0) with
    | some bad => trapM 0x08 0 bad.addr
    | none =>
      let lo := e.addr.toNat
      let hi := (up.map (fun e => e.addr.toNat)).foldl max lo
      let s ← get
      let (w, o) ← placeOf.liftExcept (windowCheck s s.cur lo (hi + size - lo))
      let placed ← up.mapM fun e => do
        let p ← match w with
          | .global _ => translate s.cur (s.rootOf s.cur) s.prv acc e.addr.toNat e.addr
          | w => pure ⟨localHome s.cur w (o + (e.addr.toNat - lo)), false⟩
        if acc = .store then storeCheck p size e.addr else pure ()
        pure (e, p)
      pure (l.filterMap fun e => placed.find? (fun q => q.1 == e))

/-- VLD (R345). -/
def vectorLoadM (d : BitVec 5) (off : BitVec 32) (c : BitVec 6) (sc : BitVec 1) (pred : BitVec 3) (t : BitVec 4)
    (b : BitVec 6) (qual : BitVec 8) : M Unit := do
  noStreamM [d]
  let a ← vectorBase t b off
  let s ← get
  let places ← vectorPlaces .load t (vectorElems s t pred sc c a)
  let vals ← places.mapM fun q => do
    let v ← loadPart q.2 ((fmtBits t + 7) / 8) qual q.1.addr
    pure (q.1.idx, if fmtBits t = 4 then v / 16 ^ (q.1.idx % 2) % 16 else v)
  modify fun s =>
    (s.setV d (vbuild (fmtBits t) (elemCount t) fun i =>
      match vals.find? (fun p => p.1 == i) with
      | some p => p.2
      | none => velem (s.v d) (fmtBits t) i)).retire

/-- The bytes that a vector store writes: a 4-bit store only the nibbles of its active elements (R345). -/
def vectorCells (t : BitVec 4) (v : VWord) (l : List (VElem × Place)) : List MaskedByte :=
  if fmtBits t = 4 then
    (List.range 64).filterMap fun k =>
      let lo := l.find? (fun q => q.1.idx == 2 * k)
      let hi := l.find? (fun q => q.1.idx == 2 * k + 1)
      match lo, hi with
      | none, none => none
      | some q, none => some ⟨q.2.home, BitVec.ofNat 8 (velem v 8 k), 0x0F⟩
      | none, some q => some ⟨q.2.home, BitVec.ofNat 8 (velem v 8 k), 0xF0⟩
      | some q, some _ => some ⟨q.2.home, BitVec.ofNat 8 (velem v 8 k), 0xFF⟩
  else l.flatMap fun q => cellsAt q.2.home (bytesOf (velem v (fmtBits t) q.1.idx) (fmtBits t / 8))

/-- VST (R345). -/
def vectorStoreM (src : BitVec 5) (off : BitVec 32) (c : BitVec 6) (sc : BitVec 1) (pred : BitVec 3) (t : BitVec 4)
    (b : BitVec 6) (qual : BitVec 8) : M Unit := do
  let a ← vectorBase t b off
  let s ← get
  let places ← vectorPlaces .store t (vectorElems s t pred sc c a)
  let v ← readSource src
  storeOrder qual
  let cells (sync : Bool) : List MaskedByte := vectorCells t v (places.filter (fun q => q.2.sync == sync))
  if qualOrd qual = 3 then do
    meetCells (cells false) false
    meetCells (cells true) true
  else pure ()
  modify fun s => s.popSource src
  storeCells (cells false) qual false
  storeCells (cells true) qual true
  modify State.retire

/-- The registers that the handler context must see for VLD and VST. -/
def vectorMemHead (opc tsz : Nat) (d : BitVec 5) (c : BitVec 6) (sc : BitVec 1) (pred : BitVec 3) (b : BitVec 6) (m : M Unit)
    (s : State) : Host.Outcome State Fault Refusal :=
  runHead acceptCompute (headOf opc tsz d.toNat) (b :: xsOfC sc c) [d] pred m s

/-- VLD (R345). -/
def execVld (d : BitVec 5) (c : BitVec 6) (sc : BitVec 1) (pred : BitVec 3) (t : BitVec 4) (b : BitVec 6) (qual : BitVec 8)
    (s : State) : Host.Outcome State Fault Refusal :=
  vectorMemHead 0x52 2 d c sc pred b (vectorLoadM d 0 c sc pred t b qual) s

/-- VLD with the 8-byte tail (R345). -/
def execVldLong (d : BitVec 5) (off : BitVec 32) (c : BitVec 6) (sc : BitVec 1) (pred : BitVec 3) (t : BitVec 4) (b : BitVec 6)
    (qual : BitVec 8) (s : State) : Host.Outcome State Fault Refusal :=
  vectorMemHead 0x52 4 d c sc pred b (vectorLoadM d off c sc pred t b qual) s

/-- VST (R345). -/
def execVst (d : BitVec 5) (c : BitVec 6) (sc : BitVec 1) (pred : BitVec 3) (t : BitVec 4) (b : BitVec 6) (qual : BitVec 8)
    (s : State) : Host.Outcome State Fault Refusal :=
  vectorMemHead 0x53 2 d c sc pred b (vectorStoreM d 0 c sc pred t b qual) s

/-- VST with the 8-byte tail (R345). -/
def execVstLong (d : BitVec 5) (off : BitVec 32) (c : BitVec 6) (sc : BitVec 1) (pred : BitVec 3) (t : BitVec 4) (b : BitVec 6)
    (qual : BitVec 8) (s : State) : Host.Outcome State Fault Refusal :=
  vectorMemHead 0x53 4 d c sc pred b (vectorStoreM d off c sc pred t b qual) s

/-! ## Full–empty access (R347) -/

/-- The address of a full–empty access, its checks, and the word's home (R66, R347). -/
def fullEmptyPlace (acc : Acc) (b : BitVec 6) (off : BitVec 16) : M (Word × Nat) := do
  let s ← get
  let a := s.x b + off.signExtend 64
  if a.toNat % 8 ≠ 0 then trapM 0x08 0 a else
  let p ← myPlace acc a 8
  if hasFullBit p.home then
    if acc = .store then storeCheck p 8 a else pure ()
    pure (a, p.home)
  else trapM 0x0D 0 a

/-- LDF and LDF.C wait for the full bit and for the hart's earlier accesses to the word; an LDF that waited when the word
became full returns the value of then, also when another party has emptied the word since (R347); as an acquire read it waits
at the word while that is held (R101). -/
def loadFullM (d : BitVec 6) (consume : Bool) (off : BitVec 16) (b : BitVec 6) (qual : BitVec 8) : M Unit := do
  let (a, w) ← fullEmptyPlace .load b off
  orderBeforeLoad qual
  let s ← get
  let acquire := decide (qualOrd qual = 1 ∨ qualOrd qual = 3)
  match s.parkValue with
  | some v =>
    meetTag w false acquire
    modify fun s => (s.setX d v).retire
  | none =>
  if waitsForWord w s.me.mem.sb then parkM .drain
  else if s.isFull w = false then parkM (.fullEmpty w (!consume) acquire)
  else
    meetTag w false acquire
    let s ← get
    match s.poisonIn w 8 with
    | some q => trapM 0x0F 0 (a + BitVec.ofNat 64 (q - w))
    | none =>
      let v : Word := BitVec.ofNat 64 (memNat s.mem w 8)
      set (((if consume then s.setFull w false else s).setX d v).retire)

/-- LDF (R347). -/
def execLdf (d : BitVec 6) (off : BitVec 16) (b : BitVec 6) (qual : BitVec 8) (s : State) : Host.Outcome State Fault Refusal :=
  runHead ⟨true, true, true, false⟩ (headOf 0x54 2 d.toNat) [d, b] [] 0 (loadFullM d false off b qual) s

/-- LDF.C (R347). -/
def execLdfC (d : BitVec 6) (off : BitVec 16) (b : BitVec 6) (qual : BitVec 8) (s : State) : Host.Outcome State Fault Refusal :=
  runHead ⟨true, true, true, false⟩ (headOf 0x54 2 d.toNat) [d, b] [] 0 (loadFullM d true off b qual) s

/-- The executing hart's earlier stores that are die-homed, which a store performed at its head follows (R92). -/
def afterStoresM : M Unit := do
  let s ← get
  if s.me.mem.sb.any (fun e => e.dieHomed s.cur) then parkM .drain else pure ()

/-- STE waits for the empty bit, and is performed at its head after the hart's earlier stores (R92, R347). -/
def execSte (src : BitVec 6) (off : BitVec 16) (b : BitVec 6) (qual : BitVec 8) (s : State) :
    Host.Outcome State Fault Refusal :=
  runHead ⟨true, true, true, false⟩ (headOf 0x54 2 src.toNat) [src, b] [] 0 (do
    let (_, w) ← fullEmptyPlace .store b off
    if 2 ≤ qualOrd qual then drainM (qualScope qual) else afterStoresM
    meetTag w false false
    let s ← get
    if s.isFull w then parkM (.fullEmpty w false false)
    else set ((s.storeNow (cellsAt w (bytesOf (s.x src).toNat 8)) qual false).setFull w true).retire) s

/-- CLRE enters the store buffer (R347). -/
def execClre (off : BitVec 16) (b : BitVec 6) (qual : BitVec 8) (s : State) : Host.Outcome State Fault Refusal :=
  runHead ⟨true, true, true, false⟩ (headOf 0x54 2 0) [b] [] 0 (do
    let (_, w) ← fullEmptyPlace .store b off
    storeOrder qual
    if qualOrd qual = 3 then do
      meetTag w false false
      modify fun s => ((s.setFull w false).tagWrite s.cur w qual false).retire
    else modify fun s => (s.pushStore (.clre w) qual false).retire) s

/-! ## Prefetch and cache maintenance (R349) -/

/-- The unit of a cache-maintenance instruction: a DRAM line or a loft block; none for other memory. -/
def cacheUnit (p : Place) : Option Nat :=
  if p.sync then none
  else match homeOf p.home with
    | .dram => some (p.home / 64 * 64)
    | .loft => some (p.home / 256 * 256)
    | _ => none

/-- PREF never traps: an address that would fault makes it do nothing (R349). -/
def execPref (off : BitVec 16) (b : BitVec 6) (qual : BitVec 8) (s : State) : Host.Outcome State Fault Refusal :=
  runHead acceptAll (headOf 0x55 2 0) [b] [] 0 (modify fun s =>
    match (myPlace .load (s.x b + off.signExtend 64) 1).run s with
    | (.ok p, t) =>
      (if (cacheUnit p).isSome ∧ (t.waitAt s.cur none p.home p.sync).1.isNone then t.touch p.home qual false none else t).retire
    | (.error _, _) => s.retire) s

/-- CLEAN and FLUSH enter the store buffer (R349). -/
def cleanM (drop : Bool) (off : BitVec 16) (b : BitVec 6) (qual : BitVec 8) : M Unit := do
  let s ← get
  let p ← myPlace .load (s.x b + off.signExtend 64) 1
  modify fun s => (match cacheUnit p with
    | some u => s.pushStore (.clean u drop) qual false
    | none => s).retire

/-- CLEAN (R349). -/
def execClean (off : BitVec 16) (b : BitVec 6) (qual : BitVec 8) (s : State) : Host.Outcome State Fault Refusal :=
  runHead acceptAll (headOf 0x55 2 0) [b] [] 0 (cleanM false off b qual) s

/-- FLUSH (R349). -/
def execFlush (off : BitVec 16) (b : BitVec 6) (qual : BitVec 8) (s : State) : Host.Outcome State Fault Refusal :=
  runHead acceptAll (headOf 0x55 2 0) [b] [] 0 (cleanM true off b qual) s

end Sys2Proof.Machine
end

