-- ==== Sys2Proof/Machine/Queue.lean ====
section
/-! DEFINITION. Queue.lean: queue access and reconfiguration (R49 to R51, R355 to R357), and stream-mode registers (R350
to R354). -/

namespace Sys2Proof.Machine

/-! ## Queues (R47 to R51) -/

/-- A hart's code in PROD and CONS (R47). -/
def queueCode (h : Nat) : Nat := match kindOf h with | 0 => 1 | 1 => 0 | _ => 2

/-- Queue writes of a triple that are on their way in its store buffers. -/
def State.queuePending (s : State) (c : Nat) (q : BitVec 3) : Nat :=
  ([c, 4096 + c, 8192 + c].map fun h =>
    ((s.hart h).mem.sb.filter (fun e => match e.op with | .queue k _ _ _ => k == q | _ => false)).length).sum

/-- The scratchpad offset of the element at a place after the oldest. -/
def State.queueOffset (s : State) (c : Nat) (q : BitVec 3) (i : Nat) : Nat :=
  let v := s.qctl c q
  bits v 19 6 * 64 + (((s.hart c).queues.head[q.toNat]?).getD 0 + i) % queueDepth v * queueSize v

/-- The home of a scratchpad offset of core c's cluster. -/
def padOf (c off : Nat) : Nat := padHome (clusterOf c) off

/-- The home and length of a queue's ring (R47). -/
def State.queueRing (s : State) (c : Nat) (q : BitVec 3) : Nat × Nat :=
  let v := s.qctl c q
  (padOf c (bits v 19 6 * 64), queueDepth v * queueSize v)

/-- The oldest element is taken (R50). -/
def State.queueTake (s : State) (c : Nat) (q : BitVec 3) : List Byte × State :=
  let v := s.qctl c q
  let d := s.getBytes (padOf c (s.queueOffset c q 0)) (queueSize v)
  (d, s.setQctl c q (setBits v 48 36 (queueCount v - 1)) ((((s.hart c).queues.head[q.toNat]?).getD 0 + 1) % queueDepth v))

/-- The place of the element i places after the oldest. -/
def State.queuePiece (s : State) (c : Nat) (q : BitVec 3) (i : Nat) : Piece :=
  ⟨(s.padVa c (s.queueOffset c q i)).toNat, queueSize (s.qctl c q), padOf c (s.queueOffset c q i), false⟩

/-- An element is appended, which sets the full–empty bits of its words and clears their tags (R51, R68, R100). -/
def State.queuePut (s : State) (c : Nat) (q : BitVec 3) (d : List Byte) : State :=
  let v := s.qctl c q
  let a := padOf c (s.queueOffset c q (queueCount v))
  let s := (s.putBytes a d).clearTags a d.length
  s.setQctl c q (setBits v 48 36 (queueCount v + 1)) (((s.hart c).queues.head[q.toNat]?).getD 0)

/-- An answer that was given to the waiting instruction is taken. -/
def answerM : M Unit := do
  let s ← get
  match s.me.answer with
  | some (.trap c v after) =>
    set (s.modMe fun h => { h with answer := none })
    throw (if after then .trapAfter c v else .trap c v)
  | _ => pure ()

/-- The operand checks of a queue access (R49). -/
def queueOperandM (q : BitVec 3) (write : Bool) (size : Nat) : M Unit := do
  answerM
  let s ← get
  let v := s.qctl (coreOf s.cur) q
  if (if write then bits v 33 32 else bits v 35 34) ≠ queueCode s.cur ∨ queueSize v ≠ size then operandM 0 else pure ()

/-- A queue access meets EN at 0 (R49), which ranks after the address faults of its operands (R183). -/
def queueEnabledM (q : BitVec 3) : M Word := do
  let s ← get
  let v := s.qctl (coreOf s.cur) q
  if bit v 63 = false then trapM 0x0E 0 (q.setWidth 64) else pure v

/-- The bytes of W (R355). -/
def queueWidth (w : BitVec 2) : Nat := match w.toNat with | 0 => 4 | 1 => 8 | 2 => 16 | _ => 64

/-- An element of the next n to be written reaches the thatcher's stack (R72). -/
def State.queueStack (s : State) (c : Nat) (q : BitVec 3) (n : Nat) : Option Nat :=
  let v := s.qctl c q
  ((List.range (min n (queueDepth v))).map (fun i => s.queueOffset c q (queueCount v + s.queuePending c q + i))).find?
    (fun o => decide (0xF_C000 < o + queueSize v))

/-- A V form on a companion, or one that names registers the context does not see, is ILLEGAL (R356). -/
def queueHead (d : BitVec 6) (v : BitVec 1) (m : M Unit) (s : State) : Host.Outcome State Fault Refusal :=
  let head := headOf 0x57 1 d.toNat
  runHead ⟨true, false, true, false⟩ head [] [] 0 (do
    let s ← get
    if v = 1 ∧ kindOf s.cur ≠ 0 then illegalM head else m) s

/-- QRD (R356). -/
def execQrd (d : BitVec 6) (w : BitVec 2) (v : BitVec 1) (q : BitVec 3) (s : State) : Host.Outcome State Fault Refusal :=
  queueHead d v (do
    if v = 1 then noStreamM [d.setWidth 5] else pure ()
    queueOperandM q false (queueWidth w)
    let ctl ← queueEnabledM q
    let s ← get
    let c := coreOf s.cur
    if queueCount ctl = 0 then parkM (.queue q)
    else
    (unitsOver 8 (padOf c (s.queueOffset c q 0)) (queueSize ctl)).forM fun u => meetTag (8 * u) false true
    let s ← get
    match s.poisonIn (padOf c (s.queueOffset c q 0)) (queueSize ctl) with
      | some a => trapM 0x0F 0 (s.padVa s.cur (a - padOf c 0))
      | none =>
        let (b, s) := s.queueTake c q
        set (if v = 1 then s.setV (d.setWidth 5) (BitVec.ofNat 512 (natOf b)) else s.setX d (BitVec.ofNat 64 (natOf b))).retire) s

/-- QWR (R356). -/
def execQwr (d : BitVec 6) (w : BitVec 2) (v : BitVec 1) (q : BitVec 3) (s : State) : Host.Outcome State Fault Refusal :=
  queueHead d v (do
    queueOperandM q true (queueWidth w)
    if v = 1 then sourceFaultM (d.setWidth 5) else pure ()
    let s ← get
    let c := coreOf s.cur
    match if bit (s.qctl c q) 63 then s.queueStack c q 1 else none with
    | some o => accessFaultM (s.padVa s.cur o)
    | none =>
      let ctl ← queueEnabledM q
      if queueDepth ctl ≤ queueCount ctl + s.queuePending c q then parkM (.queue q) else
      let x ← if v = 1 then readSource (d.setWidth 5) else pure ((s.x d).setWidth 512)
      modify fun s =>
        let s := if v = 1 then s.popSource (d.setWidth 5) else s
        let (ring, len) := s.queueRing c q
        (s.pushStore (.queue q (bytesOf x.toNat (queueWidth w)) ring len) 0 false).retire) s

/-- QCFG waits until the queue is empty, with no write on its way, or disabled; then it clears EN, with what R48 gives that,
and writes (R357). -/
def execQcfg (q : BitVec 3) (b : BitVec 6) (s : State) : Host.Outcome State Fault Refusal :=
  runHead acceptMain (headOf 0x57 2 0) [b] [] 0 (do
    let s ← get
    let old := s.qctl s.cur q
    let v := s.x b
    if bit old 63 ∧ (queueCount old ≠ 0 ∨ s.queuePending s.cur q ≠ 0) then parkM .queueEmpty
    else if bit v 63 && !queueRangeOk v then operandM 0
    else set ((if bit old 63 then s.dropQueue s.cur q else s).setQctl s.cur q (v &&& queueFields) 0).retire) s

/-! ## Streams (R350 to R354) -/

/-- ORD of a record's qualifier is plain (R353, R361). -/
def plainQual (q : Nat) : Bool := decide (q / 64 = 0)

/-- SCOPE of a record's qualifier is the reserved 7, which raises ILLEGAL with any ORD (R91). -/
def scopeBad (q : Nat) : Bool := decide (q / 8 % 8 = 7)

/-- STRM (R353). -/
def execStrm (d : BitVec 5) (slot : BitVec 2) (b : BitVec 6) (s : State) : Host.Outcome State Fault Refusal :=
  let head := headOf 0x56 2 d.toNat
  runHead acceptMain head [b] [] 0 (do
    let s ← get
    let a := s.x b
    if a.toNat % 16 ≠ 0 ∨ d.toNat < 24 ∨ (s.stream s.cur slot).en ∨ (s.streamSlot d).isSome then operandM a else
    let w ← loadWords a 6
    let w4 := nth w 4 0
    let w5 := nth w 5 0
    let c0 := bits w4 31 0
    let c1 := bits w4 63 32
    let c2 := bits w5 31 0
    if scopeBad (bits w5 39 32) then illegalM head else
    if c0 * c1 * c2 = 0 ∨ 2 ^ 32 ≤ c0 * c1 * c2 ∨ bits w5 63 40 ≠ 0 ∨ plainQual (bits w5 39 32) = false then operandM a
    else modify fun s =>
      (s.modStream s.cur slot fun _ =>
        { en := true, flt := false, reg := BitVec.ofNat 3 (d.toNat - 24), left := c0 * c1 * c2, held := [], next := 0
          base := nth w 0 0, s0 := nth w 1 0, s1 := nth w 2 0, s2 := nth w 3 0, c0 := c0, c1 := c1, c2 := c2
          qual := BitVec.ofNat 8 (bits w5 39 32), root := s.rootOf s.cur, prv := s.prv, after := s.me.mem.serial
          fault := none }).retire) s

/-- STRMOFF (R353). -/
def execStrmoff (slot : BitVec 2) (s : State) : Host.Outcome State Fault Refusal :=
  runHead acceptMain (headOf 0x56 2 0) [] [] 0 (modify fun s => (s.modStream s.cur slot Stream.off).retire) s

/-- The address of strip j (R350). -/
def Stream.strip (t : Stream) (j : Nat) : Word :=
  t.base + BitVec.ofNat 64 (j % t.c0) * t.s0 + BitVec.ofNat 64 (j / t.c0 % t.c1) * t.s1 +
    BitVec.ofNat 64 (j / (t.c0 * t.c1)) * t.s2

/-- The stores of hart h of a lower serial have left its store buffer (R104). -/
def State.storesBefore (s : State) (h after : Nat) : Bool := (s.hart h).mem.sb.all (fun e => decide (after ≤ e.serial))

/-- A refill of a stream slot: the next strip joins those held, or its fault is kept (R354). -/
def State.refill (s : State) (c : Nat) (slot : BitVec 2) : State :=
  let t := s.stream c slot
  if t.en = false ∨ t.flt ∨ 4 ≤ t.held.length ∨ t.c0 * t.c1 * t.c2 ≤ t.next ∨ s.storesBefore c t.after = false then s else
  let a := t.strip t.next
  if a.toNat % 8 ≠ 0 then s.modStream c slot fun t => { t with flt := true, fault := some (faultCause 0x08 0, a) } else
  match (spansOf c t.root t.prv .load a.toNat 64 false).run s with
  | (.error (.trap k v), s) => s.modStream c slot fun t => { t with flt := true, fault := some (k, v) }
  | (.error (.park (.scopeMiss _) _), s) => s
  | (.error _, s) => s.modStream c slot fun t => { t with flt := true }
  | (.ok l, s) =>
    match s.spansWait c l with
    | (true, s) => s
    | (false, s) =>
    match s.poisonSpans l with
    | some a => (s.machineCheck c 2 a).modStream c slot fun t => { t with flt := true }
    | none =>
      let (d, s) := s.readSpansAs ⟨c, t.qual, some (.stream c slot.toNat)⟩ l
      s.modStream c slot fun t => { t with held := t.held ++ [BitVec.ofNat 512 (natOf d)], next := t.next + 1 }

/-- STREAM_REFILL (R354). -/
def execStreamRefill (core : Nat) (slot : BitVec 2) (s : State) : Host.Outcome State Fault Refusal :=
  .next (if kindOf core = 0 then s.refill core slot else s)

end Sys2Proof.Machine
end

