-- ==== Sys2Proof/Machine/Copy.lean ====
section
/-! DEFINITION. Copy.lean: transfer blocks and layout records, the copy commands, and the steps of the copy engines and of
the block-transfer engine (R52, R74, R84, R104 to R107, R181, R184, R186, R358 to R368). -/

namespace Sys2Proof.Machine

/-! ## Targets (R74, R191, R192) -/

/-- The limit of a local target code; none for global memory and for reserved codes (R74). -/
def targetLimit (t : Nat) : Option Nat :=
  match t with
  | 1 => some 0x8000 | 2 => some 0x10_0000 | 3 => some 0x180_0000 | 4 => some 0x2000 | 5 => some 0x2000 | _ => none

/-- A target code, its LOC field and a range of n bytes from a on are in order (R74, R358). -/
def targetEndOk (t loc a n : Nat) : Bool :=
  if t = 0 then loc == 0
  else match targetLimit t with
    | some lim => decide (a + n ≤ lim) && !((t == 2 || t == 3) && loc % 16 != 0)
    | none => false

/-- The home of an offset of a local target. -/
def targetHome (t loc a : Nat) : Nat :=
  match t with
  | 1 => tcmHome loc a
  | 2 => padHome (loc / 16) a
  | 3 => loftHome (loc / 16) a
  | 4 => storeHome loc a
  | _ => storeHome (4096 + loc) a

/-- A target is lost to a fence (R191, R192). -/
def State.targetFenced (s : State) (t loc : Nat) : Bool :=
  match t with
  | 0 => false
  | 2 => (s.cluster (loc / 16)).fenced
  | 3 => (s.cluster (loc / 16)).fenced
  | _ => s.fencedCore loc

/-- A range that a transfer touches. -/
structure XRange where
  acc : Acc
  tgt : Nat
  loc : Nat
  va : Nat
  len : Nat
  deriving DecidableEq, Repr

/-- A written span lies neither in the thatcher's stack nor in the hart control window (R72, R464). -/
def spanFault (acc : Acc) (p : Piece) : Option Nat :=
  if inHartWindow p.home then some p.va
  else if acc = .store ∧ homeOf p.home = .pad then
    let off := (p.home - 0x1_0000_4000_0000) % 0x10_0000
    if 0xF_C000 < off + p.len then some (p.va + (0xF_C000 - off)) else none
  else none

/-- The parts of a range that are translated one by one: its smallest pages in global memory, and all of it elsewhere (R85). -/
def State.rangeParts (s : State) (r : XRange) : List XRange :=
  if r.len = 0 then [] else
  match r.tgt, (s.windowOf s.cur r.va).1 with
  | 0, .global _ => (piecesOf r.va r.len).map fun p => { r with va := p.1, len := p.2 }
  | _, _ => [r]

/-- The windows of every range of global or local-window addresses, lowest address first (R66). -/
def rangeWindowsM (rs : List XRange) : M Unit := do
  let s ← get
  (sortBy (fun (a b : XRange) => decide (a.va ≤ b.va)) (rs.filter (fun r => r.len != 0 && r.tgt == 0))).forM fun r => do
    let _ ← placeOf.liftExcept (windowCheck s s.cur r.va r.len)

/-- One part of a range translated, or the fault that it meets (R72, R74, R86, R191). -/
def rangePartM (noSync stack : Bool) (r : XRange) : M Spans := do
  let s ← get
  let clear (l : Spans) : M Spans :=
    match l.findSome? (spanFault (if stack then r.acc else .load)) with
    | some a => accessFaultM (BitVec.ofNat 64 a)
    | none => pure l
  if r.tgt = 0 then do clear (← spansOf s.cur (s.rootOf s.cur) s.prv r.acc r.va r.len noSync)
  else if s.targetFenced r.tgt r.loc then accessFaultM (BitVec.ofNat 64 r.va)
  else clear [⟨r.va, r.len, targetHome r.tgt r.loc r.va, false⟩]

/-- Every range of a command of the executing hart is checked and translated before it commits: windows first, then the pages
of all the ranges in ascending order of address, so that the lowest that faults is the one named (R66, R88, R181, R361); the
spans come back in the order of the ranges. `stack` says whether written ranges are dense, so that any byte of one may not lie
in the thatcher's stack. -/
def rangesM (noSync stack : Bool) (rs : List XRange) : M (List Spans) := do
  rangeWindowsM rs
  let s ← get
  let up := sortBy (fun (a b : XRange) => decide (a.va ≤ b.va)) (rs.flatMap s.rangeParts)
  let got ← up.mapM fun r => do pure (r, ← rangePartM noSync stack r)
  pure (rs.map fun r => (s.rangeParts r).flatMap fun p => match got.find? (fun g => g.1 == p) with
    | some g => g.2
    | none => [])

/-! ## Spans -/

/-- Translated places without their first k bytes. -/
def skipSpans : Spans → Nat → Spans
  | [], _ => []
  | p :: r, k => if p.len ≤ k then skipSpans r (k - p.len) else ⟨p.va + k, p.len - k, p.home + k, p.sync⟩ :: r

/-- The first k bytes of translated places. -/
def takeSpans : Spans → Nat → Spans
  | [], _ => []
  | p :: r, k => if k = 0 then [] else if p.len ≤ k then p :: takeSpans r (k - p.len) else [⟨p.va, k, p.home, p.sync⟩]

/-- k bytes of translated places from an offset on. -/
def partSpans (l : Spans) (off k : Nat) : Spans := takeSpans (skipSpans l off) k

/-- The bytes of translated places cut where an aligned 8-byte word of a home ends: offset and length of each (R105). -/
def wordCuts : Spans → Nat → List (Nat × Nat)
  | [], _ => []
  | p :: r, off =>
    ((unitsOver 8 p.home p.len).map fun w =>
      (off + (max p.home (8 * w) - p.home), min (p.home + p.len) (8 * w + 8) - max p.home (8 * w))) ++ wordCuts r (off + p.len)

/-- The places lie one after another at their homes. -/
def contiguous : Spans → Bool
  | p :: q :: r => q.home == p.home + p.len && contiguous (q :: r)
  | _ => true

/-- A transfer writes these places in ascending order: TCM and scratchpad words carry a full–empty bit (R106). -/
def ascends (l : Spans) : Bool := l.any (fun p => hasFullBit p.home)

/-! ## Commands (R358 to R363, R368) -/

/-- The hart whose record holds the copy engine that hart h uses: its compute core's, or the I/O die's for a service core
(R338, R359). -/
def engineOf (h : Nat) : Nat := if kindOf h = 3 then ioEngine else coreOf h

/-- The hart whose FIFO takes the completion events of hart h's transfers (R186, R338). -/
def eventHart (h : Nat) : Nat := if kindOf h = 3 then h else coreOf h

/-- The completion of a transfer of the engine of hart o: its event joins the FIFO, or the engine holds it while the FIFO is
full (R186). -/
def State.completeXfer (s : State) (o : Nat) (x : Xfer) : State :=
  let e := eventHart x.hart
  if x.int = false then s
  else if (s.hart e).copy.events.length < 8 then
    s.modHart e fun h => { h with copy := { h.copy with events := h.copy.events ++ [⟨x.xid, x.handler⟩] } }
  else s.modHart o fun h => { h with copy := { h.copy with active := h.copy.active ++ [{ x with done := true }] } }

/-- A command that passed every check enters its hart's two-entry queue; it stalls while that is full (R52, R359). -/
def enqueueM (x : Xfer) (empty : Bool) : M Unit := do
  let s ← get
  if empty then set (s.completeXfer (engineOf s.cur) x).retire
  else if 2 ≤ s.me.copy.queue.length then parkM .engine
  else set ((s.modMe fun h => { h with copy := { h.copy with queue := h.copy.queue ++ [x] } }).retire)

/-- The queue that one side of a command names is its issuer's, and LEN counts whole elements (R49, R361). -/
def State.queueSideOk (s : State) (q : Option (BitVec 3)) (write : Bool) (len : Nat) : Bool :=
  match q with
  | none => true
  | some q =>
    let v := s.qctl (coreOf s.cur) q
    (if write then bits v 33 32 else bits v 35 34) == queueCode s.cur && len % queueSize v == 0

/-- The fields that INT and HANDLER allow (R358, R361). -/
def handlerOk (int : Bool) (handler : Word) : Bool := if int then headIndex handler != 0 else handler == 0

/-- The index list of a gather, read once at commit (R363). -/
def indexListM (a : Word) (count iw : Nat) : M (List Nat) := do
  let w := if iw = 0 then 4 else 8
  let b ← loadBytes a (count * w)
  pure ((List.range count).map (fun j => natOf ((b.drop (j * w)).take w)))

/-- COPY, GATHER and PUTS (R361, R363, R368). -/
def copyM (b : BitVec 6) (gather : Bool) (qd qs : Option (BitVec 3)) (bell : Option (BitVec 2)) (head : Nat) : M Unit := do
  let s ← get
  if (qd.isSome || qs.isSome) && (kindOf s.cur == 3 || s.ctx == .handler) then illegalM head else
  let a := s.x b
  if a.toNat % 64 ≠ 0 then operandM a else
  let ws ← loadWords a 8
  let src := (nth ws 0 0).toNat
  let dst := (nth ws 1 0).toNat
  let w2 := nth ws 2 0
  let w3 := nth ws 3 0
  let handler := nth ws 4 0
  let index := nth ws 5 0
  let w6 := nth ws 6 0
  let len := bits w2 31 0
  let stgt := bits w2 34 32
  let dtgt := bits w2 38 36
  let sloc := bits w2 51 40
  let dloc := bits w2 63 52
  let int := bit w3 32
  let count := bits w6 31 0
  let iw := bits w6 33 32
  let total := if gather then len * count else len
  let s ← get
  let reserved := bit w2 39 || bit w2 35 || bits w3 47 33 != 0 || bits w3 31 16 != 0 || bits w6 63 34 != 0 ||
    nth ws 7 0 != 0
  let quals := plainQual (bits w3 15 8) && plainQual (bits w3 7 0)
  let shape := if gather then stgt == 0 && decide (len ≤ 8192) && decide (iw ≤ 1) && decide (count ≤ 4096)
               else index == 0 && w6 == 0
  let queues := s.queueSideOk qs false len && s.queueSideOk qd true len &&
    !(qs.isSome && (src != 0 || stgt != 0 || sloc != 0)) && !(qd.isSome && (dst != 0 || dtgt != 0 || dloc != 0))
  let sides := (qs.isSome || (if gather then sloc == 0 else targetEndOk stgt sloc src len)) &&
    (qd.isSome || targetEndOk dtgt dloc dst total)
  let belled := match bell with
    | none => true
    | some k => !int && bit ((s.me.bells.roll[k.toNat]?).getD 0) 63
  if scopeBad (bits w3 15 8) || scopeBad (bits w3 7 0) then illegalM head else
  if reserved || len == 0 || !quals || !handlerOk int handler || !shape || !queues || !sides || !belled then operandM a else
  let idx ← if gather then indexListM index count iw else pure []
  let srcs : List XRange :=
    if qs.isSome then []
    else if gather then idx.map (fun i => ⟨.load, 0, 0, (src + i * len) % 2 ^ 64, len⟩)
    else [⟨.load, stgt, sloc, src, len⟩]
  let dsts : List XRange := if qd.isSome then [] else [⟨.store, dtgt, dloc, dst, total⟩]
  let spans ← rangesM true true (srcs ++ dsts)
  let s ← get
  let size (q : BitVec 3) : Nat := queueSize (s.qctl (coreOf s.cur) q)
  match qd.bind (fun q => s.queueStack (coreOf s.cur) q (total / size q)) with
  | some o => accessFaultM (s.padVa s.cur o)
  | none =>
    match (qs.toList ++ qd.toList).find? (fun q => !bit (s.qctl (coreOf s.cur) q) 63) with
    | some q => trapM 0x0E 0 (q.setWidth 64)
    | none =>
      let sEnd : XferEnd := match qs with | some q => .queue q | none => .memory (spans.take srcs.length).flatten
      let dEnd : XferEnd := match qd with | some q => .queue q | none => .memory (spans.drop srcs.length).flatten
      enqueueM { hart := s.cur, op := .copy sEnd dEnd total, xid := BitVec.ofNat 16 (bits w3 63 48), int := int
                 handler := handler, bell := bell.map fun k => (k, (s.me.bells.roll[k.toNat]?).getD 0)
                 after := s.me.mem.serial, moved := 0, ahead := [], buf := [], ordered := gather, ended := false, done := false
                 squal := BitVec.ofNat 8 (bits w3 15 8), dqual := BitVec.ofNat 8 (bits w3 7 0) } (total == 0)

/-- A queue field of a command: the queue when its V bit is 1. -/
def queueField (v : BitVec 1) (q : BitVec 3) : Option (BitVec 3) := if v = 1 then some q else none

/-- COPY (R361). -/
def execCopy (b : BitVec 6) (qdv : BitVec 1) (qd : BitVec 3) (qsv : BitVec 1) (qs : BitVec 3) (s : State) :
    Host.Outcome State Fault Refusal :=
  let head := headOf 0x59 2 b.toNat
  runHead acceptAll head [b] [] 0 (copyM b false (queueField qdv qd) (queueField qsv qs) none head) s

/-- GATHER (R363). -/
def execGather (b : BitVec 6) (qdv : BitVec 1) (qd : BitVec 3) (s : State) : Host.Outcome State Fault Refusal :=
  let head := headOf 0x58 2 b.toNat
  runHead ⟨true, false, false, true⟩ head [b] [] 0 (copyM b true (queueField qdv qd) none none head) s

/-- PUTS (R368). -/
def execPuts (b : BitVec 6) (bell : BitVec 2) (s : State) : Host.Outcome State Fault Refusal :=
  let head := headOf 0x5C 2 b.toNat
  runHead acceptMain head [b] [] 0 (copyM b false none none (some bell) head) s

/-- A transfer of the executing hart that COPYW waits for: its writes are not all performed (R367). -/
def State.xferWaits (s : State) (p : Xfer → Bool) : Bool :=
  let mine (x : Xfer) : Bool := x.hart == s.cur && !x.done && p x
  s.me.copy.queue.any mine || (s.hart (engineOf s.cur)).copy.active.any mine ||
    (kindOf s.cur == 0 && (s.cluster (clusterOf s.cur)).copyl.any mine)

/-- COPYW waits for the hart's transfers of one id (R367). -/
def execCopyw (b : BitVec 6) (s : State) : Host.Outcome State Fault Refusal :=
  runHead acceptAll (headOf 0x5B 1 0) [b] [] 0 (do
    let s ← get
    if s.xferWaits (fun x => x.xid == (s.x b).setWidth 16) then parkM .copyw else set s.retire) s

/-- COPYW.ALL waits for every transfer of the hart (R367). -/
def execCopywAll (s : State) : Host.Outcome State Fault Refusal :=
  runHead acceptAll (headOf 0x5B 1 0) [] [] 0 (do
    let s ← get
    if s.xferWaits (fun _ => true) then parkM .copyw else set s.retire) s

/-! ## Layouts (R84, R364 to R366) -/

/-- The dimensions' lowest and highest bit offsets of an element's start. -/
def Layout.span (l : Layout) : Int × Int :=
  ((l.extents.zip l.pitches).foldl (fun (acc : Int × Int) d =>
    let far : Int := ((d.1 : Int) - 1) * d.2
    (acc.1 + min 0 far, acc.2 + max 0 far)) ((l.boff : Int), (l.boff : Int)))

/-- The bit offset of element k from BASE (R364). -/
def bitOffset : List Nat → List Int → Nat → Int
  | e :: es, p :: ps, k => ((k % e : Nat) : Int) * p + bitOffset es ps (k / e)
  | _, _, _ => 0

/-- The first bit of element k, as an offset from BASE. -/
def Layout.bitOf (l : Layout) (k : Nat) : Int := (l.boff : Int) + bitOffset l.extents l.pitches k

/-- The number of elements. -/
def Layout.count (l : Layout) : Nat := l.extents.foldl (· * ·) 1

/-- The address or offset of the byte that holds a bit offset. -/
def Layout.byteOf (l : Layout) (b : Int) : Int := (l.base.toNat : Int) + b / 8

/-- The bytes of element k: the first and how many. -/
def Layout.bytes (l : Layout) (k : Nat) : Int × Nat :=
  let b := l.bitOf k
  let lo := l.byteOf b
  (lo, (l.byteOf (b + fmtBits l.fmt - 1) + 1 - lo).toNat)

/-- A layout record from its ten words; none where a field is reserved or a pitch breaks R84 (R364). -/
def readLayout (w : List Word) : Option (Layout × Nat) :=
  let g (i : Nat) : Word := nth w i 0
  let w1 := g 1
  let fmt := BitVec.ofNat 4 (bits w1 43 40)
  let nd := bits w1 37 35
  let ext := [bits (g 2) 31 0, bits (g 2) 63 32, bits (g 3) 31 0, bits (g 3) 63 32, bits (g 4) 31 0]
  let pit := [(g 5).toInt, (g 6).toInt, (g 7).toInt, (g 8).toInt, (g 9).toInt]
  let l : Layout := { base := g 0, loc := bits w1 63 52, fmt := fmt, tgt := bits w1 34 32, boff := bits w1 10 8
                      extents := ext.take nd, pitches := pit.take nd, spans := [] }
  if bits w1 39 38 = 0 ∧ bits w1 31 11 = 0 ∧ bits (g 4) 63 32 = 0 ∧ 1 ≤ nd ∧ nd ≤ 5 ∧
      (tableFmt fmt ∨ bits w1 51 44 = 0) ∧
      (ext.take nd).all (fun e => decide (1 ≤ e ∧ e ≤ 2 ^ 24)) ∧ (ext.drop nd).all (· == 0) ∧
      (pit.take nd).all (fun p => p % (fmtBits fmt : Int) == 0) ∧ (pit.drop nd).all (· == 0)
  then some (l, bits w1 51 44) else none

/-- The lowest byte and the number of bytes from it to the highest byte. -/
def Layout.hull (l : Layout) : Int × Nat :=
  let (lo, hi) := l.span
  let a := l.byteOf lo
  (a, (l.byteOf (hi + fmtBits l.fmt - 1) + 1 - a).toNat)

/-- A local target's range ends within its limit, and LOC is as its target asks (R74, R364). -/
def Layout.ok (l : Layout) : Bool :=
  let (a, n) := l.hull
  if l.tgt = 0 then l.loc == 0 else decide (0 ≤ a) && targetEndOk l.tgt l.loc a.toNat n

/-- The ranges that a record's elements touch, each within one smallest page (R85, R366). -/
def Layout.ranges (l : Layout) (acc : Acc) : List XRange :=
  if l.tgt ≠ 0 then let (a, n) := l.hull; [⟨acc, l.tgt, l.loc, a.toNat, n⟩]
  else
    let pieces := (List.range l.count).flatMap fun k => let (a, n) := l.bytes k; piecesOf a.toNat n
    let pages := (pieces.map (fun p => p.1 / 2 ^ 16)).dedup
    pages.map fun g =>
      let here := pieces.filter (fun p => p.1 / 2 ^ 16 == g)
      let lo := (here.map (·.1)).foldl min ((g + 1) * 2 ^ 16)
      let hi := (here.map (fun p => p.1 + p.2)).foldl max lo
      ⟨acc, 0, 0, lo, hi - lo⟩

/-- The home of a byte of a record, by address or offset. -/
def Layout.homeOfByte (l : Layout) (a : Int) : Nat := (homeIn l.spans a.toNat).getD 0

/-- The lowest byte of a destination's elements in the thatcher's stack (R72): the bytes between elements do not count. -/
def Layout.stackByte (l : Layout) : Option Nat :=
  let inStack (a : Nat) : Bool := homeOf a == .pad && decide (0xF_C000 ≤ (a - 0x1_0000_4000_0000) % 0x10_0000)
  let hits : List Nat := (List.range l.count).flatMap fun k =>
    let (a, n) := l.bytes k
    ((List.range n).map (fun (i : Nat) => (a + (i : Int)).toNat)).filter (fun (b : Nat) => inStack (l.homeOfByte (b : Int)))
  match hits with
  | [] => none
  | b :: r => some (r.foldl min b)

/-- A record over global memory lies in one window as a whole (R66). -/
def layoutWindow (s : State) (l : Layout) : Except Stop Unit :=
  if l.tgt ≠ 0 then .ok () else
  let (a, n) := l.hull
  if a < 0 then .error (.trap (faultCause 0x09 0) (wordOfInt a))
  else (windowCheck s s.cur a.toNat n).map (fun _ => ())

/-- A table identity is the one its slot holds (R122). -/
def identityM (fmt : BitVec 4) (id : Nat) (tval : Word) : M Unit :=
  if tableFmt fmt then do
    let _ ← slotM (slotOf fmt) tval
    let s ← get
    if tableId s.me.mat.tbl (slotOf fmt) = id then pure () else operandM tval
  else pure ()

/-- The window checks of a record (R66). -/
def layoutWindowM (l : Layout) : M Unit := do placeOf.liftExcept (layoutWindow (← get) l)

/-- COPYL requests of a cluster's cores that have not completed (R366). -/
def State.copylCount (s : State) (k : Nat) : Nat :=
  (s.cluster k).copyl.length + ((coresOf k).map fun c =>
    ((s.hart c).copy.active.filter fun x => match x.op with | .copyl _ _ => true | _ => false).length).sum

/-- COPYL: the request is read once, checked and translated, and waits at the block-transfer engine (R365, R366). A nonplain
ORD and SCOPE 7 are ILLEGAL (R91). -/
def execCopyl (b : BitVec 6) (s : State) : Host.Outcome State Fault Refusal :=
  let head := headOf 0x5A 2 b.toNat
  runHead acceptMain head [b] [] 0 (do
    let s ← get
    let a := s.x b
    if a.toNat % 16 ≠ 0 then operandM a else
    let ws ← loadWords a 22
    let w0 := nth ws 0 0
    let int := bit w0 32
    let handler := nth ws 1 0
    let quals := [bits (nth ws 3 0) 7 0, bits (nth ws 13 0) 7 0]
    if quals.any (fun q => scopeBad q || !plainQual q) then illegalM head else
    match readLayout ((ws.drop 2).take 10), readLayout ((ws.drop 12).take 10) with
    | some (src, sid), some (dst, did) =>
      if bits w0 47 33 ≠ 0 ∨ bits w0 31 0 ≠ 0 ∨ handlerOk int handler = false ∨ src.fmt ≠ dst.fmt ∨
          src.count ≠ dst.count ∨ src.ok = false ∨ dst.ok = false then operandM a else
      identityM src.fmt sid a
      identityM dst.fmt did a
      layoutWindowM src
      layoutWindowM dst
      let sr := src.ranges .load
      let spans ← rangesM true false (sr ++ dst.ranges .store)
      let src := { src with spans := (spans.take sr.length).flatten }
      let dst := { dst with spans := (spans.drop sr.length).flatten }
      match dst.stackByte with
      | some v => accessFaultM (BitVec.ofNat 64 v)
      | none =>
      let s ← get
      let k := clusterOf s.cur
      if 32 ≤ s.copylCount k then parkM .engine else
      let x : Xfer :=
        { hart := s.cur, op := .copyl src dst
          xid := BitVec.ofNat 16 (bits w0 63 48), int := int, handler := handler, bell := none, after := s.me.mem.serial
          moved := 0, ahead := [], buf := [], ordered := false, ended := false, done := false, squal := BitVec.ofNat 8 (bits (nth ws 3 0) 7 0)
          dqual := BitVec.ofNat 8 (bits (nth ws 13 0) 7 0) }
      set ((s.modCluster k fun c => { c with copyl := c.copyl ++ [x] }).retire)
    | _, _ => operandM a) s

/-! ## The engines' steps -/

/-- The harts of an engine, and each one's place among them (R338, R359). -/
def engineHarts (o : Nat) : List Nat :=
  if kindOf o = 3 then [ioEngine, ioEngine + 1, ioEngine + 2, ioEngine + 3] else [o, 4096 + o, 8192 + o]

/-- A queued command of hart h starts, when it is h's turn in round-robin order and fewer than 8 transfers are in progress
(R359). The block engine's transfers do not count among the eight. -/
def State.startCopy (s : State) (h : Nat) : State :=
  let o := engineOf h
  let t := s.hart o
  let l := engineHarts o
  let busy := (t.copy.active.filter fun x => match x.op with | .copyl _ _ => false | _ => true).length
  match (l.drop (t.copy.turn % l.length) ++ l.take (t.copy.turn % l.length)).find? (fun k => (s.hart k).copy.queue != []) with
  | none => s
  | some k =>
    if k ≠ h ∨ 8 ≤ busy then s else
    match (s.hart h).copy.queue with
    | [] => s
    | x :: r =>
      (s.modHart h fun t => { t with copy := { t.copy with queue := r } }).modHart o fun t =>
        { t with copy := { t.copy with active := t.copy.active ++ [x], turn := (l.idxOf h + 1) % l.length } }

/-- The transfer at place k of core o is replaced by its next state. -/
def State.setXfer (s : State) (o k : Nat) (x : Xfer) : State :=
  s.modHart o fun h => { h with copy := { h.copy with active := h.copy.active.set k x } }

/-- The transfer at place k of core o leaves the engine. -/
def State.dropXfer (s : State) (o k : Nat) : State :=
  s.modHart o fun h => { h with copy := { h.copy with active := dropAt h.copy.active k } }

/-- A transfer meets a poisoned word: it ends, with MACHINE_CHECK on its core and no completion event (R184). -/
def State.failXfer (s : State) (o k : Nat) (a : Word) : State :=
  match (s.hart o).copy.active[k]? with
  | some x => (s.dropXfer o k).machineCheck (eventHart x.hart) 2 a
  | none => s

/-- A transfer has performed every write (R107, R186). -/
def State.endXfer (s : State) (o k : Nat) (x : Xfer) : State := (s.dropXfer o k).completeXfer o x

/-- Pieces of a transfer are written: of `all`, by their offsets, those not yet written are `left`; what is written beyond
the first of them is remembered, and with nothing left the transfer completes. -/
def State.markXfer (s : State) (o k : Nat) (x : Xfer) (all left : List Nat) : State :=
  match left with
  | [] => s.endXfer o k x
  | n :: _ => s.setXfer o k { x with moved := n, ahead := all.filter (fun i => decide (n < i) && !left.contains i) }

/-- Which of the pieces still to be written the engine writes next (R105, R106): in ascending order the first ones, as many as
the device moves at once; otherwise any run of them. -/
def State.nextPieces (s : State) (ordered : Bool) (left : List Nat) : List Nat × State :=
  let (i, s) := if ordered then (0, s) else s.choose left.length
  let (n, s) := s.choose (left.length - i)
  ((left.drop i).take (n + 1), s)

/-- The bytes of the buffer that may be written: whole destination words, and all of them at the end of the transfer. -/
def readyBytes (dst : Spans) (moved n : Nat) (last : Bool) : Nat :=
  if last then n
  else ((wordCuts dst 0).filter (fun w => decide (moved ≤ w.1 ∧ w.1 + w.2 ≤ moved + n))).foldl (fun a w => a + w.2) 0

/-- The buffer of a queue transfer goes to memory, in whole words (R105, R106). -/
def State.flushXfer (s : State) (o k : Nat) (x : Xfer) (dst : Spans) (len : Nat) (last : Bool) : State :=
  let n := readyBytes dst x.moved x.buf.length (last || decide (len ≤ x.moved + x.buf.length))
  let s := s.writeSpansAs ⟨x.hart, x.dqual, none⟩ (partSpans dst x.moved n) (x.buf.take n)
  let x := { x with moved := x.moved + n, buf := x.buf.drop n }
  if last ∨ len ≤ x.moved then s.endXfer o k x else s.setXfer o k x

/-- One element of a queue that a transfer reads, to memory (R50, R361). -/
def State.moveFromQueue (s : State) (o k : Nat) (x : Xfer) (q : BitVec 3) (dst : Spans) (len : Nat) : State :=
  let size := queueSize (s.qctl o q)
  if queueCount (s.qctl o q) = 0 then s else
  match s.spansWait x.hart [s.queuePiece o q 0] with
  | (true, s) => s
  | (false, s) =>
  match s.spansWait x.hart (partSpans dst x.moved (x.buf.length + size)) with
  | (true, s) => s
  | (false, s) =>
  match s.poisonSpans [s.queuePiece o q 0] with
  | some a => s.failXfer o k a
  | none =>
    let (d, s) := s.queueTake o q
    s.flushXfer o k { x with buf := x.buf ++ d } dst len false

/-- Room in a queue for one more element beside those that stand in store buffers (R50, R51). -/
def State.queueRoom (s : State) (o : Nat) (q : BitVec 3) : Bool :=
  decide (queueCount (s.qctl o q) + s.queuePending o q < queueDepth (s.qctl o q))

/-- A transfer on a queue's writing side has moved one element of n bytes. -/
def State.advanceXfer (s : State) (o k : Nat) (x : Xfer) (n len : Nat) : State :=
  if len ≤ x.moved + n then s.endXfer o k x else s.setXfer o k { x with moved := x.moved + n }

/-- One element from memory, to a queue that a transfer writes (R50, R361). -/
def State.moveToQueue (s : State) (o k : Nat) (x : Xfer) (src : Spans) (q : BitVec 3) (len : Nat) : State :=
  let size := queueSize (s.qctl o q)
  let from_ := partSpans src x.moved size
  if s.queueRoom o q = false then s else
  match s.spansWait x.hart (from_ ++ [s.queuePiece o q (queueCount (s.qctl o q))]) with
  | (true, s) => s
  | (false, s) =>
  match s.poisonSpans from_ with
  | some a => s.failXfer o k a
  | none =>
    let (d, s) := s.readSpansAs ⟨x.hart, x.squal, if contiguous src then some (.copy o) else none⟩ from_
    (s.queuePut o q d).advanceXfer o k x size len

/-- One element between two queues. -/
def State.moveQueues (s : State) (o k : Nat) (x : Xfer) (q r : BitVec 3) (len : Nat) : State :=
  let size := queueSize (s.qctl o q)
  if queueCount (s.qctl o q) = 0 ∨ s.queueRoom o r = false then s else
  match s.spansWait x.hart [s.queuePiece o q 0, s.queuePiece o r (queueCount (s.qctl o r))] with
  | (true, s) => s
  | (false, s) =>
  match s.poisonSpans [s.queuePiece o q 0] with
  | some a => s.failXfer o k a
  | none =>
    let (d, s) := s.queueTake o q
    (s.queuePut o r d).advanceXfer o k x size len

/-- One destination word of a memory transfer, by its offset and length. -/
def State.moveWord (s : State) (x : Xfer) (src dst : Spans) (off n : Nat) : State :=
  let (d, s) := s.readSpansAs ⟨x.hart, x.squal, if contiguous src then some (.copy (engineOf x.hart)) else none⟩ (partSpans src off n)
  s.writeSpansAs ⟨x.hart, x.dqual, none⟩ (partSpans dst off n) d

/-- The next destination words of a memory transfer (R105, R106, R363): whole aligned words, in ascending order into TCM and
scratchpad, and of a GATHER everywhere, and in any order elsewhere. A held unit keeps the engine waiting (R101). No word moves past a source word that is
poisoned, and one that is the first of those left ends the transfer (R184). -/
def State.moveWords (s : State) (o k : Nat) (x : Xfer) (src dst : Spans) : State :=
  let cuts := wordCuts dst 0
  let left := cuts.filter (fun c => decide (x.moved ≤ c.1) && !x.ahead.contains c.1)
  let poisoned (c : Nat × Nat) : Option Word := s.poisonSpans (partSpans src c.1 c.2)
  match left.head?.bind poisoned with
  | some a => s.failXfer o k a
  | none =>
    let (now, s) := s.nextPieces (x.ordered || ascends dst) ((left.takeWhile (fun c => (poisoned c).isNone)).map (·.1))
    let picked := left.filter (fun c => now.contains c.1)
    match s.spansWait x.hart (picked.flatMap fun c => partSpans src c.1 c.2 ++ partSpans dst c.1 c.2) with
    | (true, s) => s
    | (false, s) =>
      (picked.foldl (fun s c => s.moveWord x src dst c.1 c.2) s).markXfer o k x (cuts.map (·.1))
        ((left.map (·.1)).filter (fun i => !now.contains i))

/-- A byte as an engine reads it: spill areas read zero (R387). -/
def State.engineByte (s : State) (a : Nat) : Byte := if s.inSpill a then 0 else memGet s.mem a

/-- The value of source element k (R84). -/
def State.elementValue (s : State) (l : Layout) (k : Nat) : Nat :=
  let (a, n) := l.bytes k
  natOf ((List.range n).map (fun (i : Nat) => s.engineByte (l.homeOfByte (a + (i : Int))))) / 2 ^ (l.bitOf k % 8).toNat % 2 ^ fmtBits l.fmt

/-- The masked bytes that destination element k takes with a value (R84). -/
def Layout.cells (l : Layout) (k v : Nat) : List MaskedByte :=
  let (a, n) := l.bytes k
  let sh := (l.bitOf k % 8).toNat
  let val := v * 2 ^ sh
  let mask := (2 ^ fmtBits l.fmt - 1) * 2 ^ sh
  (List.range n).map fun (i : Nat) => ⟨l.homeOfByte (a + (i : Int)), BitVec.ofNat 8 (val / 256 ^ i), BitVec.ofNat 8 (mask / 256 ^ i)⟩

/-- The masked bytes of destination word w, a later element over an earlier one (R366). -/
def State.layoutWord (s : State) (src dst : Layout) (w : Nat) : List MaskedByte :=
  (List.range src.count).flatMap fun j => (dst.cells j (s.elementValue src j)).filter (fun c => wordAt c.addr == w)

/-- The source elements that destination word w takes a bit from. -/
def Layout.feeding (dst : Layout) (w : Nat) : List Nat :=
  (List.range dst.count).filter fun j => (dst.cells j 0).any (fun c => wordAt c.addr == w)

/-- The byte of element j as a piece of its record's places. -/
def Layout.piecesOfElement (l : Layout) (j : Nat) : Spans :=
  let (a, n) := l.bytes j
  (List.range n).map fun (i : Nat) => ⟨(a + (i : Int)).toNat, 1, l.homeOfByte (a + (i : Int)), false⟩

/-- The poisoned word that stops destination word w (R184): a source word it needs, or its own when its elements cover only
part of it. -/
def State.layoutPoison (s : State) (src dst : Layout) (w : Nat) : Option Word :=
  if s.poison = [] then none else
  let js := dst.feeding w
  match s.poisonSpans (js.flatMap src.piecesOfElement) with
  | some a => some a
  | none =>
    let cells := s.layoutWord src dst w
    let mask (a : Nat) : Byte := (cells.filter (fun c => c.addr == a)).foldl (fun m c => m ||| c.mask) 0
    let hit := (js.flatMap dst.piecesOfElement).filter (fun p => wordAt p.home == w)
    hit.findSome? fun p =>
      if (upFrom (secdedWord p.home) (secdedSize p.home)).all (fun a => mask a == 0xFF) then none else s.poisonSpans [p]

/-- A COPYL writes its next destination words, each assembled from its elements over what it holds (R366), in ascending order
into TCM and scratchpad and in any order elsewhere (R105, R106), none past one that a poisoned word stops (R184). The pieces
are the destination words' addresses. -/
def State.moveLayout (s : State) (o k : Nat) (x : Xfer) (src dst : Layout) : State :=
  let all := sortBy (fun (a b : Nat) => decide (a ≤ b))
    (((List.range dst.count).flatMap fun j => (dst.cells j 0).map (fun c => wordAt c.addr)).dedup)
  let left := all.filter (fun i => decide (x.moved ≤ i) && !x.ahead.contains i)
  match left.head?.bind (s.layoutPoison src dst) with
  | some a => s.failXfer o k a
  | none =>
    let (now, s) := s.nextPieces (ascends dst.spans) (left.takeWhile (fun w => (s.layoutPoison src dst w).isNone))
    match s.unitWaits x.hart (now.flatMap fun w => ⟨0, 8, w, false⟩ :: ((dst.feeding w).flatMap src.piecesOfElement)) with
    | (true, s) => s
    | (false, s) =>
      let s := (now.flatMap fun w => (dst.feeding w).flatMap src.piecesOfElement).foldl
        (fun s p => (s.applyLine p.home).touch p.home x.squal false (if contiguous src.spans then some (.block o) else none)) s
      (now.foldl (fun t w => t.engineMasked ⟨x.hart, x.dqual, none⟩ w (s.layoutWord src dst w)) s).markXfer o k x all
        (left.filter (fun i => !now.contains i))

/-- A transfer at place k of core o goes on (R104, R107, R361): it reads after its hart's earlier stores, and a
transfer on a disabled queue ends as it stands (R48). -/
def State.runXfer (s : State) (o k : Nat) : State :=
  match (s.hart o).copy.active[k]? with
  | none => s
  | some x =>
    if x.done then (if (s.hart (eventHart x.hart)).copy.events.length < 8 then s.endXfer o k { x with done := false } else s)
    else if x.ended then match x.op with
      | .copy _ (.memory b) len => s.flushXfer o k x b len true
      | _ => s.endXfer o k x
    else if s.storesBefore x.hart x.after = false then s
    else match x.op with
      | .copy (.memory a) (.memory b) _ => s.moveWords o k x a b
      | .copy (.queue q) (.memory b) len => s.moveFromQueue o k x q b len
      | .copy (.memory a) (.queue q) len => s.moveToQueue o k x a q len
      | .copy (.queue q) (.queue r) len => s.moveQueues o k x q r len
      | .copyl a b => s.moveLayout o k x a b

/-- TRANSFER_COMPLETE (R107, R361): the transfer moves its next words or its next element, and completes with the last. -/
def execTransferComplete (core : Nat) (k : Nat) (s : State) : Host.Outcome State Fault Refusal :=
  .next (s.runXfer core k)

/-- The cores of a cluster from a place on, in turn. -/
def coreTurn (k turn : Nat) : List Nat := (coresOf k).drop (turn % 16) ++ (coresOf k).take (turn % 16)

/-- COPYL_REQUEST: the block-transfer engine takes the oldest request of the next core in turn (R366). -/
def execCopylRequest (cluster : Nat) (s : State) : Host.Outcome State Fault Refusal :=
  let c := s.cluster cluster
  match (coreTurn cluster c.copylTurn).find? (fun h => c.copyl.any (fun x => x.hart == h)) with
  | none => .next s
  | some h =>
    match c.copyl.find? (fun x => x.hart == h) with
    | none => .next s
    | some x =>
      .next ((s.modCluster cluster fun c => { c with copyl := c.copyl.erase x, copylTurn := (h % 16 + 1) % 16 }).modHart h
        fun t => { t with copy := { t.copy with active := t.copy.active ++ [x] } })

end Sys2Proof.Machine
end

