-- ==== Sys2Proof/Machine/Sync.lean ====
section
/-! DEFINITION. Sync.lean: bell contexts and barriers (R370 to R381), registrar atomics (R382, R383), update regions and
update emission (R384 to R396), and the steps of the store buffers, registrars and gutters (R62, R108, R112, R387). -/

namespace Sys2Proof.Machine

/-! ## Bell contexts (R370 to R376) -/

/-- cr.rolln of core c. -/
def State.roll (s : State) (c : Nat) (b : BitVec 2) : Word := ((s.hart c).bells.roll[b.toNat]?).getD 0

/-- The state with cr.rolln of core c written. -/
def State.setRoll (s : State) (c : Nat) (b : BitVec 2) (v : Word) : State :=
  s.modHart c fun t => { t with bells := { t.bells with roll := t.bells.roll.setIfInBounds b.toNat v } }

/-- ARR and DONE of a roll value (R370). -/
def rollArr (v : Word) : Nat := bits v 15 8
def rollDone (v : Word) : Nat := bits v 7 0

/-- EN and the class fields of a roll value (R371). -/
def rollClass (v : Word) : Word := v &&& 0xC0FF_FFFF_FFFF_0000

/-- The value describes core c (R371). -/
def describes (v : Word) (c : Nat) : Bool :=
  let d := c / 1024
  let k := c / 16 % 64
  let row := 8 * (d / 2) + k / 8
  let col := 8 * (d % 2) + k % 8
  bit v 63 && decide (bits v 47 44 ≤ row ∧ row ≤ bits v 47 44 + bits v 39 36) &&
    decide (bits v 43 40 ≤ col ∧ col ≤ bits v 43 40 + bits v 35 32) && bit v (16 + c % 16)

/-- The cores that a roll value describes. -/
def described (v : Word) : List Nat := (List.range 4096).filter (describes v)

/-- The scope of a class as a scope code (R372, R90). -/
def rollScope (v : Word) : BitVec 3 :=
  let r0 := bits v 47 44
  let c0 := bits v 43 40
  let dies := r0 / 8 != (r0 + bits v 39 36) / 8 || c0 / 8 != (c0 + bits v 35 32) / 8
  if bit v 62 then 5 else if dies then 4 else if bits v 39 32 ≠ 0 then 3 else 2

/-- Core c is a member of the class of a roll value on a context (R371, R191). -/
def State.isMember (s : State) (b : BitVec 2) (v : Word) (c : Nat) : Bool :=
  describes v c && rollClass (s.roll c b) == rollClass v && !s.fencedCore c

/-- An arrival of core c on a context is still on its way. -/
def State.arriving (s : State) (c : Nat) (b : BitVec 2) : Bool :=
  s.net.any (fun p => match p with | .arrival k n _ _ => k == c && n == b.toNat | _ => false)

/-- Core c has arrived for phase p, or counts as arrived (R374). -/
def State.arrived (s : State) (b : BitVec 2) (v : Word) (p c : Nat) : Bool :=
  if s.fencedCore c then true
  else if rollClass (s.roll c b) = rollClass v then rollArr (s.roll c b) == p && !s.arriving c b
  else (((s.hart c).bells.left[b.toNat]?).getD []).any fun l => l.1 == rollClass v

/-- The hart ids of a triple: its core, its loader and its storer (R42). -/
def tripleOf (c : Nat) : List Nat := [c, 4096 + c, 8192 + c]

/-- Hart h has an update in its store buffer that p selects by its serial. -/
def State.updateOut (s : State) (h : Nat) (p : Nat → Bool) : Bool :=
  (s.hart h).mem.sb.any (fun e => match e.op with | .update _ _ _ => p e.serial | _ => false)

/-- Updates of a triple that wait in its store buffers and count toward a class of a context (R57): every one while the core
is a member; those emitted before it left, once it has left by ROLLW and was not fenced. -/
def State.updatesOut (s : State) (c : Nat) (b : BitVec 2) (v : Word) : Bool :=
  if s.isMember b v c then (tripleOf c).any fun h => s.updateOut h fun _ => true
  else !s.fencedCore c && (((s.hart c).bells.left[b.toNat]?).getD []).any fun l =>
    l.1 == rollClass v && ((tripleOf c).zip l.2).any fun x => s.updateOut x.1 fun n => decide (n < x.2)

/-- A PUTS of core c that committed under a class of a context and is not delivered (R57, R368). -/
def State.putsOut (s : State) (c : Nat) (b : BitVec 2) (v : Word) : Bool :=
  let mine (x : Xfer) : Bool := !x.done && match x.bell with
    | some (k, r) => k == b && rollClass r == rollClass v
    | none => false
  (s.hart c).copy.queue.any mine || (s.hart c).copy.active.any mine

/-- The fence of a pod-level completion is acknowledged (R459). -/
def State.podQuiet (s : State) : Bool := s.dev.podDirty.isEmpty && s.dev.podWait.isEmpty

/-- The phase that a class of core c is about to complete has met R374 and R57 in this module. That the updates of a member
that has left the class by ROLLW since are waited for as its PUTS are, up to its leaving, is the model's choice (assumption
109). -/
def State.partReady (s : State) (c : Nat) (b : BitVec 2) : Bool :=
  let v := s.roll c b
  bit v 63 && !s.fencedCore c && rollArr v != rollDone v &&
    (described v).all fun k => s.arrived b v (rollArr v) k && !s.updatesOut k b v && !s.putsOut k b v

/-- The other modules of the job. -/
def State.otherModules (s : State) : List Nat := (List.range s.dev.podM).filter fun m => m != s.dev.podN

/-- Every other module has reported its part of a pod-level class of a context, and this module has sent its own (R372). -/
def State.allParts (s : State) (b : BitVec 2) (v : Word) : Bool :=
  s.dev.podSent.contains (b.toNat, rollClass v) &&
    s.otherModules.all fun m => s.dev.podParts.contains (m, b.toNat, rollClass v)

/-- This module's part of a pod-level class is complete: a fence goes to every other module of the job and to every receiver of
data since the last one, once the fences before it are acknowledged (R372, R459). -/
def State.sendPart (s : State) (b : BitVec 2) (v : Word) : State :=
  if s.dev.podSent.contains (b.toNat, rollClass v) then s.podFence 5
  else if s.dev.podWait ≠ [] then s
  else s.modDev fun d =>
    { d with podWait := (d.podDirty ++ s.otherModules).dedup, podDirty := [], podSent := d.podSent ++ [(b.toNat, rollClass v)] }

/-- The parts of a phase of a pod-level class that has completed are used up: one of each module. -/
def State.endParts (s : State) (b : BitVec 2) (v : Word) : State :=
  s.modDev fun d =>
    { d with podSent := d.podSent.erase (b.toNat, rollClass v)
             podParts := s.otherModules.foldl (fun l m => l.erase (m, b.toNat, rollClass v)) d.podParts }

/-- The phase that a class of core c is about to complete may complete now: beyond R374 and R57, at pod level the fences sent
are acknowledged and every module has completed its part (R372, R459). -/
def State.canComplete (s : State) (c : Nat) (b : BitVec 2) : Bool :=
  s.partReady c b && (decide (rollScope (s.roll c b) ≠ 5) || (s.podQuiet && s.allParts b (s.roll c b)))

/-- A completion reaches every member: DONE, C and FM (R374, R375). -/
def State.release (s : State) (c : Nat) (b : BitVec 2) : State :=
  let v := s.roll c b
  let p := rollArr v
  let fenced := (described v).filter s.fencedCore
  ((described v).filter (s.isMember b v)).foldl (fun s k =>
    let acked := ((s.hart k).bells.acked[b.toNat]?).getD []
    let fm := fenced.any (fun f => !acked.contains f)
    s.setRoll k b (setBits (setBit (setBit (s.roll k b) 61 false) 60 fm) 7 0 p)) s

/-- BARRIER_RELEASE (R374, R375). A module whose part of a pod-level class is complete first says so by its fences, and the
class completes when every module has (R372, R459). -/
def execBarrierRelease (core : Nat) (bell : BitVec 2) (s : State) : Host.Outcome State Fault Refusal :=
  let v := s.roll core bell
  if s.partReady core bell = false then .next s
  else if rollScope v ≠ 5 then .next (s.release core bell)
  else
    let t := s.sendPart bell v
    .next (if t.canComplete core bell then (t.release core bell).endParts bell v else t)

/-- BARRIER_ARRIVAL_SIGNAL: the release before an arrival is made, and the arrival reaches the bell network (R380). -/
def execBarrierArrivalSignal (k : Nat) (s : State) : Host.Outcome State Fault Refusal :=
  match s.net[k]? with
  | some (.arrival c b _ serial) =>
    let sc := rollScope (s.roll c (BitVec.ofNat 2 b))
    let s := s.podFence sc
    if s.performedBelow c serial && (decide (sc.toNat < 5) || s.podQuiet) then .next { s with net := dropAt s.net k }
    else .next s
  | _ => .next s

/-! ## Barrier instructions (R377 to R381) -/

/-- The classes left by ROLLW when a new class value replaces an old one: the old class is left, with the serials that its
triple's next store-buffer entries take, and the new one is not (R57, R374). -/
def leaveClass (left : List (Word × List Nat)) (old new : Word) (serials : List Nat) : List (Word × List Nat) :=
  let l := if bit old 63 && rollClass old != rollClass new
    then left.filter (fun x => x.1 != rollClass old) ++ [(rollClass old, serials)] else left
  l.filter fun x => x.1 != rollClass new

/-- ROLLW (R378). -/
def execRollw (d : BitVec 6) (bell : BitVec 2) (b : BitVec 6) (s : State) : Host.Outcome State Fault Refusal :=
  runHead acceptMain (headOf 0x61 1 d.toNat) [d, b] [] 0 (do
    let s ← get
    let r := s.roll s.cur bell
    let v := s.x b
    if rollArr r ≠ rollDone r then parkM .bellPhase
    else if bit v 63 ∧ (15 < bits v 47 44 + bits v 39 36 ∨ 15 < bits v 43 40 + bits v 35 32 ∨ describes v s.cur = false)
    then operandM 0
    else
      let new := if bit v 63 then rollClass v else 0
      let fenced := (List.range 4096).filter s.fencedCore
      set (((s.setRoll s.cur bell new).modMe fun h =>
        { h with bells := { h.bells with
            acked := h.bells.acked.setIfInBounds bell.toNat fenced
            left := h.bells.left.setIfInBounds bell.toNat (leaveClass ((h.bells.left[bell.toNat]?).getD []) r new
              ((tripleOf s.cur).map fun k => (s.hart k).mem.serial)) } }).setX d r).retire) s

/-- BARR: the arrival waits for its release on its own way (R380). -/
def execBarr (bell : BitVec 2) (s : State) : Host.Outcome State Fault Refusal :=
  runHead acceptMain (headOf 0x60 1 0) [] [] 0 (do
    let s ← get
    let r := s.roll s.cur bell
    if bit r 63 = false then operandM 0
    else if rollArr r ≠ rollDone r then parkM .bellPhase
    else
      let p := (rollArr r + 1) % 256
      set ((s.setRoll s.cur bell (setBit (setBits r 15 8 p) 61 true)).send
        (.arrival s.cur bell.toNat (BitVec.ofNat 8 p) s.me.mem.serial)).retire) s

/-- BWAIT (R380). -/
def execBwait (d c : BitVec 6) (bell : BitVec 2) (s : State) : Host.Outcome State Fault Refusal :=
  runHead acceptMain (headOf 0x60 2 d.toNat) [d, c] [] 0 (do
    let s ← get
    let r := s.roll s.cur bell
    let timeUp := match s.parkedAs .bell with
      | some p => s.parkOver p
      | none => false
    let answer (code : Nat) : Word := BitVec.ofNat 64 (rollArr r * 256 + code)
    if bit r 63 = false then operandM 0
    else if rollDone r = rollArr r then set (s.setX d (answer (if bit r 60 then 1 else 0))).retire
    else if timeUp then set (s.setX d (answer 2)).retire
    else parkUntilM .bell (limitOf (s.x c))) s

/-- PHASE (R381). -/
def execPhase (bell : BitVec 2) (s : State) : Host.Outcome State Fault Refusal :=
  runHead acceptMain (headOf 0x67 1 0) [] [] 0 (do
    let s ← get
    let r := s.roll s.cur bell
    if bit r 63 = false then operandM 0
    else set (s.setRoll s.cur bell (setBit r 61 true)).retire) s

/-! ## Atomics (R382, R383) -/

/-- The address checks of an AMO and an update: no local window, and translation as an update (R383, R392). -/
def globalPlace (a : Word) (n : Nat) : M Place := do
  let s ← get
  let (w, _) ← placeOf.liftExcept (windowCheck s s.cur a.toNat n)
  match w with
  | .global _ => translate s.cur (s.rootOf s.cur) s.prv .update a.toNat a
  | _ => accessFaultM a

/-- The place of an AMO: a sync-class page (R382, R383). -/
def amoPlace (a : Word) (size : Nat) : M Place := do
  let p ← globalPlace a size
  if p.sync then pure p else accessFaultM a

/-- An AMO of size bytes: after its checks and the drain of R112, one indivisible step at the registrar. The reply of a request
that was sent ends it without another check. -/
def amoM (d b : BitVec 6) (w : BitVec 1) (qual : BitVec 8) (op : State → Nat → Nat → RegOp) : M Unit := do
  let size := if w = 1 then 8 else 4
  let s ← get
  let a := s.x b
  if a.toNat % size ≠ 0 then trapM 0x08 0 a else
  let p ← sentPlaceM (amoPlace a size)
  let s ← get
  if s.registrarMine then pure () else do
    emptyBufferM
    if 2 ≤ qualOrd qual then drainM (qualScope qual) else pure ()
    meetTag p.home true (qualOrd qual % 2 == 1)
  let s ← get
  let v ← registrarM (op s p.home size) qual p.home a
  modify fun s => (s.setX d (BitVec.ofNat 64 (v.toNat % 2 ^ (8 * size)))).retire

/-- The low bytes of a register as an operand of an AMO. -/
def lowBytes (v : Word) (size : Nat) : Word := BitVec.ofNat 64 (v.toNat % 2 ^ (8 * size))

/-- AMO.SWAP (R383). -/
def execAmoSwap (d : BitVec 6) (w : BitVec 1) (c b : BitVec 6) (qual : BitVec 8) (s : State) :
    Host.Outcome State Fault Refusal :=
  runHead acceptAll (headOf 0x62 2 d.toNat) [d, c, b] [] 0
    (amoM d b w qual fun s a n => .swap a n (lowBytes (s.x c) n)) s

/-- AMO.CAS (R383). -/
def execAmoCas (d : BitVec 6) (w : BitVec 1) (n c b : BitVec 6) (qual : BitVec 8) (s : State) :
    Host.Outcome State Fault Refusal :=
  runHead acceptAll (headOf 0x62 2 d.toNat) [d, n, c, b] [] 0
    (amoM d b w qual fun s a k => .cas a k (lowBytes (s.x c) k) (lowBytes (s.x n) k)) s

/-- AMO.FADD (R383). -/
def execAmoFadd (d : BitVec 6) (w : BitVec 1) (c b : BitVec 6) (qual : BitVec 8) (s : State) :
    Host.Outcome State Fault Refusal :=
  runHead acceptAll (headOf 0x62 2 d.toNat) [d, c, b] [] 0
    (amoM d b w qual fun s a n => .fadd a n (lowBytes (s.x c) n)) s

/-- REGISTRAR_SERVE: the k-th request waiting at a die's registrar is served, when no earlier one is to its word (R62,
R112). A repeat of an answered request gets the recorded reply (R113). -/
def execRegistrarServe (die : Nat) (k : Nat) (s : State) : Host.Outcome State Fault Refusal :=
  let q := (s.die die).registrar
  match q[k]? with
  | none => .next s
  | some r =>
    if (q.take k).any (fun e => wordAt e.op.place.1 == wordAt r.op.place.1) then .next s
    else .next ((s.modDie die fun d => { d with registrar := dropAt d.registrar k }).registrarServe r)

/-! ## Update regions (R384 to R390) -/

/-- A region keeps its entries one by one: ORDERED with an FP operator (R387). -/
def Region.keeps (rg : Region) : Bool := opIsFloat rg.op && rg.ordered

/-- The entries of 16 bytes that accepted updates of one region make: one for each element of a bin or of a spilled run, unless
the region keeps them one by one (R387). -/
def Region.entries (rg : Region) (es : List GutterEntry) : Nat :=
  if rg.keeps then es.length else (es.map fun e => (e.run, e.addr)).dedup.length

/-- Entries of a region that are accepted and not applied, after combination (R386, R387). -/
def Die.pend (d : Die) (idx : Nat) (rg : Region) : Nat := rg.entries (d.gutter.filter fun e => e.region == idx)

/-- Entries in the bins of a slice, after combination (R387). -/
def Die.binsUsed (d : Die) (slice : Nat) : Nat :=
  (d.regions.map fun r => r.2.entries (d.gutter.filter fun e => e.region == r.1 && e.run == 0 && sliceOf e.addr == slice)).sum

/-- A region's spill area has room for n more entries of 16 bytes (R387). -/
def Die.spillRoom (d : Die) (idx : Nat) (rg : Region) (n : Nat) : Bool :=
  decide ((rg.entries (d.gutter.filter fun e => e.region == idx && e.run != 0) + n) * 16 ≤ rg.splen * 4096)

/-- The oldest bin page of a region in a slice: its first 256 entries there, each with every update combined in it (R387). -/
def Die.oldestPage (d : Die) (slice idx : Nat) (rg : Region) : List GutterEntry :=
  let es := d.gutter.filter fun e => e.region == idx && e.run == 0 && sliceOf e.addr == slice
  if rg.keeps then es.take 256
  else
    let first := ((es.map (·.addr)).reverse.dedup.reverse).take 256
    es.filter fun e => first.contains e.addr

/-- A slice takes no further update for a region: it is above 49,152 entries, and the region's spill area has no room for a
page (R387). -/
def Die.backpressed (d : Die) (slice idx : Nat) (rg : Region) : Bool :=
  decide (49152 < d.gutter.length) && decide (49152 < d.binsUsed slice) && !d.spillRoom idx rg 256

/-- The status word of a region (R386). -/
def Die.regionStatus (d : Die) (idx : Nat) : Word :=
  match tget d.regions idx with
  | none => 0
  | some rg =>
    BitVec.ofNat 64 ((if rg.en then 2 ^ 63 else 0) +
      (if d.gutter.any (fun e => e.region == idx && e.run != 0) then 2 ^ 62 else 0) + (if rg.en && (List.range 64).any (fun k => d.backpressed k idx rg) then 2 ^ 61 else 0) +
      min (d.pend idx rg) 0xFFFF_FFFF * 256 + rg.flags.toNat)

/-- The lowest address of n bytes from va on that lies in hart h's local block, if one does (R64). -/
def State.localIn (s : State) (h va n : Nat) : Option Nat :=
  let base := (s.winmapOf h).toNat / 0x200_0000 * 0x200_0000
  if kindOf h ≠ 3 ∧ va < base + 0x200_0000 ∧ base < va + n then some (max va base) else none

/-- The place of a range's first byte for REGION.SET (R384, R390). -/
def regionRange (va : Word) : M Place := do
  let s ← get
  match s.localIn s.cur va.toNat 1 with
  | some v => accessFaultM (BitVec.ofNat 64 v)
  | none => translate s.cur (s.rootOf s.cur) s.prv .update va.toNat va

/-- The page or, for a service core without a table, the 64 KiB unit of a range's first byte, as a power of two, whatever its
access gives (R384, R390). -/
def State.rangeShift (s : State) (va : Word) : Option Nat :=
  if (s.localIn s.cur va.toNat 1).isSome then none
  else if kindOf s.cur = 3 ∧ s.rootOf s.cur = 0 then some 16
  else if 2 ^ 48 ≤ va.toNat then none
  else match (s.lookup s.cur (s.rootOf s.cur) va.toNat).1 with
    | .leaf sh _ => some sh
    | _ => none

/-- The fault of a range that does not leave its page: a sync-class page, a place outside DRAM, or a local-window address
(R384, R390). -/
def rangeFault (s : State) (va : Word) (len : Nat) (r : Except Stop Place) : Option Stop :=
  match r with
  | .error e => some e
  | .ok p =>
    if p.sync ∨ homeOf p.home ≠ .dram then some (.trap (faultCause 0x0C 0) va)
    else (s.localIn s.cur va.toNat len).map fun v => .trap (faultCause 0x0C 0) (BitVec.ofNat 64 v)

/-- A range leaves its page or unit: an OPERAND, also where the access to its first byte raises a fault (R183, R390). -/
def State.rangeLeaves (s : State) (va : Word) (len : Nat) : Bool :=
  match s.rangeShift va with
  | some shift => decide (2 ^ shift < va.toNat % 2 ^ shift + len)
  | none => false

/-- The physical address of a range that is translated. -/
def rangeHome (r : Except Stop Place) : Option Nat :=
  match r with
  | .ok p => some p.home
  | .error _ => none

/-- Two ranges meet. -/
def rangesMeet (a n b m : Nat) : Bool := decide (a < b + m ∧ b < a + n)

/-- A REGION change goes to its die and waits for the old region's status word (R390). -/
def regionChange (d : BitVec 6) (die idx : Nat) (new : Option Region) : M Unit := do
  let s ← get
  match s.me.answer with
  | some (.value v) => set (((s.modMe fun h => { h with answer := none }).setX d v).retire)
  | _ =>
    if s.net.any (fun p => match p with | .region h _ _ _ => h == s.cur | _ => false) then parkM .reply
    else do
      set (s.send (.region s.cur die idx new))
      parkM .reply

/-- A REGION change of this hart is under way or answered. -/
def State.regionBusy (s : State) : Bool :=
  s.me.answer.isSome || s.net.any (fun p => match p with | .region h _ _ _ => h == s.cur | _ => false)

/-- REGION.SET (R384, R390). -/
def execRegionSet (d idx b : BitVec 6) (s : State) : Host.Outcome State Fault Refusal :=
  runHead ⟨true, false, false, true⟩ (headOf 0x66 2 d.toNat) [d, b] [] 0 (do
    let s ← get
    if s.regionBusy then regionChange d 0 0 none else
    drainM 4
    let a := s.x b
    if a.toNat % 32 ≠ 0 then operandM a else
    let ws ← loadWords a 4
    let base := nth ws 0 0
    let len := nth ws 1 0
    let spill := nth ws 2 0
    let w3 := nth ws 3 0
    let splen := bits w3 63 32
    let op := BitVec.ofNat 4 (bits w3 3 0)
    if bits w3 31 8 ≠ 0 ∨ bits w3 6 4 ≠ 0 ∨ op = 15 ∨ base.toNat % 64 ≠ 0 ∨ len.toNat % 64 ≠ 0 ∨ len = 0 ∨
        (splen ≠ 0 ∧ spill.toNat % 4096 ≠ 0) then operandM a else
    let r ← attempt (regionRange base)
    let q ← if splen = 0 then pure (.error (.park .reply none)) else attempt (regionRange spill)
    let s ← get
    if s.rangeLeaves base len.toNat || (decide (splen ≠ 0) && s.rangeLeaves spill (splen * 4096)) then operandM a else
    let meets (x n y m : Nat) : Bool := rangesMeet x n y m
    let clash := match rangeHome r with
      | none => false
      | some pa => (s.die (homeDie pa)).regions.any (fun e => e.2.en && e.1 != idx.toNat &&
          (meets pa len.toNat e.2.base e.2.len || meets pa len.toNat e.2.spill (e.2.splen * 4096))) ||
        (match rangeHome q with
         | some sp => meets pa len.toNat sp (splen * 4096)
         | none => false)
    if clash then operandM a else
    let fr := rangeFault s base len.toNat r
    let fq := if splen = 0 then none else rangeFault s spill (splen * 4096) q
    match (if spill.toNat < base.toNat then fq.orElse (fun _ => fr) else fr.orElse (fun _ => fq)), rangeHome r with
    | none, some pa =>
      regionChange d (homeDie pa) idx.toNat
        (some { en := true, base := pa, len := len.toNat, spill := (rangeHome q).getD 0, splen := splen
                ordered := bit w3 7, op := op, flags := 0 })
    | some e, _ => throw e
    | none, none => operandM a) s

/-- The die index that off, rd and rdc take (R390). -/
def dieOperand (v : Word) : M Nat := if 4 ≤ v.toNat then operandM 0 else pure v.toNat

/-- REGION.OFF (R390). -/
def execRegionOff (d idx b : BitVec 6) (s : State) : Host.Outcome State Fault Refusal :=
  runHead ⟨true, false, false, true⟩ (headOf 0x66 2 d.toNat) [d, b] [] 0 (do
    let s ← get
    let die ← dieOperand (s.x b)
    if s.regionBusy then regionChange d 0 0 none else
    drainM 4
    regionChange d die idx.toNat none) s

/-- REGION.RD (R390). -/
def execRegionRd (d idx b : BitVec 6) (s : State) : Host.Outcome State Fault Refusal :=
  runHead ⟨true, false, false, true⟩ (headOf 0x66 2 d.toNat) [d, b] [] 0 (do
    let s ← get
    let die ← dieOperand (s.x b)
    set (s.setX d ((s.die die).regionStatus idx.toNat)).retire) s

/-- REGION.RDC also clears FLAGS (R390). -/
def execRegionRdc (d idx b : BitVec 6) (s : State) : Host.Outcome State Fault Refusal :=
  runHead ⟨true, false, false, true⟩ (headOf 0x66 2 d.toNat) [d, b] [] 0 (do
    let s ← get
    let die ← dieOperand (s.x b)
    let v := (s.die die).regionStatus idx.toNat
    set ((s.modDie die fun t => match tget t.regions idx.toNat with
      | some rg => { t with regions := tput t.regions idx.toNat { rg with flags := 0 } }
      | none => t).setX d v).retire) s

/-- An update in some store buffer is inside a region. -/
def State.updateToward (s : State) (rg : Region) : Bool :=
  s.harts.any fun e => e.2.mem.sb.any fun en => match en.op with
    | .update pa _ _ => decide (rg.base ≤ pa ∧ pa < rg.base + rg.len)
    | _ => false

/-- REGION_TABLE_UPDATE: the operation takes its turn at the die's table, once every update that passed under the old
region is accepted, and the old region's entries are applied (R388, R390). -/
def execRegionTableUpdate (k : Nat) (s : State) : Host.Outcome State Fault Refusal :=
  match s.net[k]? with
  | some (.region h die idx new) =>
    let before := (s.net.take k).any (fun p => match p with | .region _ d i _ => d == die && i == idx | _ => false)
    let old := tget (s.die die).regions idx
    let waiting := match old with
      | some rg => rg.en && s.updateToward rg
      | none => false
    if before || waiting then .next s else
    let v := (s.die die).regionStatus idx
    let s := s.applyEntries die (fun e => e.region == idx)
    let s := s.modDie die fun d =>
      { d with regions := match new, tget d.regions idx with
          | some rg, _ => tput d.regions idx rg
          | none, some rg => tput d.regions idx { rg with en := false }
          | none, none => d.regions }
    .next (({ s with net := dropAt s.net k }).modHart h fun t => { t with answer := some (.value v) })
  | _ => .next s

/-! ## Update emission (R391 to R396) -/

/-- The checks of one update: its place and its region's element size (R388, R392). -/
def updatePlace (a : Word) : M (Nat × Nat) := do
  if a.toNat % 4 ≠ 0 then trapM 0x08 0 a else
  let p ← globalPlace a 4
  if p.sync then accessFaultM a else
  let s ← get
  match regionAt (s.die (homeDie p.home)) p.home with
  | some (_, rg) => pure (p.home, opSize rg.op)
  | none => accessFaultM a

/-- UPD (R392). -/
def updM (src b : BitVec 6) (off : Word) (qual : BitVec 8) : M Unit := do
  let s ← get
  let a := s.x b + off
  let (pa, size) ← updatePlace a
  if a.toNat % size ≠ 0 then trapM 0x08 0 a else
  modify fun s => (s.pushStore (.update pa size (lowBytes (s.x src) size)) qual false).retire

/-- UPD (R392). -/
def execUpd (src : BitVec 6) (off : BitVec 18) (b : BitVec 6) (qual : BitVec 8) (s : State) :
    Host.Outcome State Fault Refusal :=
  runHead acceptAll (headOf 0x63 2 src.toNat) [src, b] [] 0 (updM src b (off.signExtend 64) qual) s

/-- UPD with the 8-byte tail (R392). -/
def execUpdLong (src : BitVec 6) (off : BitVec 50) (b : BitVec 6) (qual : BitVec 8) (s : State) :
    Host.Outcome State Fault Refusal :=
  runHead acceptAll (headOf 0x63 4 src.toNat) [src, b] [] 0 (updM src b (off.signExtend 64) qual) s

/-- UPDV (R394). -/
def execUpdv (src : BitVec 5) (t : BitVec 4) (pred : BitVec 3) (vi : BitVec 5) (b : BitVec 6) (qual : BitVec 8) (s : State) :
    Host.Outcome State Fault Refusal :=
  runHead ⟨true, false, false, true⟩ (headOf 0x64 2 src.toNat) [b] [src, vi] pred (do
    let data ← readSource src
    let index ← readSource vi
    let s ← get
    let w := fmtBits t
    let act := (List.range (elemCount t)).filter (s.active pred)
    let addr (i : Nat) : Word := s.x b + BitVec.ofNat 64 (velem index w i * (w / 8))
    let up := sortBy (fun (x y : Nat) => decide ((addr x).toNat ≤ (addr y).toNat)) act
    let placed ← up.mapM fun i => do
      let (pa, size) ← updatePlace (addr i)
      if size ≠ w / 8 then operandM (addr i)
      else if (addr i).toNat % size ≠ 0 then trapM 0x08 0 (addr i)
      else pure (i, pa)
    modify fun s =>
      let s := ([src, vi].dedup).foldl State.popSource s
      (act.foldl (fun s i => match placed.find? (fun p => p.1 == i) with
        | some p => s.pushStore (.update p.2 (w / 8) (BitVec.ofNat 64 (velem data w i))) qual false
        | none => s) s).retire) s

/-- UFLUSH (R396): the lines of every page that is not sync-class, page by page. A range that meets a local window raises
ACCESS_FAULT, and the hole WINDOW_HOLE. -/
def execUflush (c b : BitVec 6) (s : State) : Host.Outcome State Fault Refusal :=
  runHead acceptAll (headOf 0x65 2 0) [c, b] [] 0 (do
    let s ← get
    let a := s.x b
    let n := (s.x c).toNat
    if n = 0 then set s.retire else
    let base := (s.winmapOf s.cur).toNat / 0x200_0000 * 0x200_0000
    if kindOf s.cur ≠ 3 ∧ a.toNat < base + 0x200_0000 ∧ base + 0x190_8000 < a.toNat + n then trapM 0x0A 0 a else
    let lines ← (piecesOf a.toNat n).mapM fun p => do
      match s.localIn s.cur p.1 p.2 with
      | some v => accessFaultM (BitVec.ofNat 64 v)
      | none =>
        let q ← translate s.cur (s.rootOf s.cur) s.prv .update p.1 (BitVec.ofNat 64 p.1)
        pure (if q.sync then [] else (unitsOver 64 q.home p.2).map (64 * ·))
    modify fun s => (s.pushStore (.uflush lines.flatten) 0 false).retire) s

/-! ## The store buffer's and the gutters' steps (R62, R92 to R95, R108, R387) -/

/-- An earlier entry holds back a later one of the same buffer (R92 to R97, R396). -/
def entryBlocks (h : Nat) (j e : StoreEntry) : Bool :=
  let isUpdate := match j.op with | .update _ _ _ => true | _ => false
  let isUflush := match e.op with | .uflush _ => true | _ => false
  decide (2 ≤ qualOrd e.qual) || (match j.op with | .fence _ _ => true | _ => false) ||
    (j.dieHomed h && e.dieHomed h) || overlaps j e || (isUpdate && isUflush)

/-- The bytes, one for each unit, at which an entry of hart h meets tags and holds, and whether it fills a line or block
(R101). A queue write meets those of the next element (R51). -/
def State.entryUnits (s : State) (h : Nat) (e : StoreEntry) : List Nat × Bool :=
  let units (l : List Nat) : List Nat := (l.map (fun a => unitOf a e.sync)).dedup
  match e.op with
  | .uflush _ => ([], false)
  | .queue q _ _ _ => let p := s.queuePiece (coreOf h) q (queueCount (s.qctl (coreOf h) q)); (units (upFrom p.home p.len), false)
  | .clean _ _ => (units e.op.addrs, false)
  | .update _ _ _ => (units e.op.addrs, false)
  | _ => (units e.op.addrs, true)

/-- Whether an entry of hart h must wait at a unit or for room (R101); it stands in line there, and messages are on their way. -/
def State.entryWaits (s : State) (h : Nat) (e : StoreEntry) : Bool × State :=
  let w := some (Waiter.entry h e.serial)
  let (l, fills) := s.entryUnits h e
  l.foldl (fun acc u =>
    if fills then let r := acc.2.waitAt h w u e.sync; (acc.1 || r.1.isSome, r.2)
    else if acc.2.mustWait h u w then (true, acc.2.joinLine u w) else acc) (false, s)

/-- A request that waits at a registrar for a word that the entry writes (R112). -/
def State.entryQueued (s : State) (e : StoreEntry) : Bool := e.sync && e.op.addrs.any (fun a => s.registrarHas a 1)

/-- A queue write finds its queue full (R50). -/
def State.entryFull (s : State) (h : Nat) (e : StoreEntry) : Bool :=
  match e.op with
  | .queue q _ _ _ => bit (s.qctl (coreOf h) q) 63 && decide (queueDepth (s.qctl (coreOf h) q) ≤ queueCount (s.qctl (coreOf h) q))
  | _ => false

/-- The k-th entry of hart h's store buffer may be performed now, but for the waits of R101. -/
def State.entryReady (s : State) (h k : Nat) (e : StoreEntry) : Bool :=
  let rel := 2 ≤ qualOrd e.qual
  !((s.hart h).mem.sb.take k).any (fun j => entryBlocks h j e) && !s.entryQueued e && !s.entryFull h e &&
    (!rel || (s.msgsOut h == 0 && (decide ((qualScope e.qual).toNat < 5) || s.podQuiet)))

/-- The priority of a DRAM line that is in L2 becomes the access's EVICT (R81, R90). -/
def State.setEvict (s : State) (a : Nat) (qual : BitVec 8) : State :=
  if homeOf a = .dram then s.modDie (homeDie a) fun d =>
    { d with l2 := d.l2.map (fun l => if l.line == a / 64 && !l.ahead then { l with evict := qual.setWidth 3, stamp := s.clock } else l) }
  else s

/-- The effect of an entry of hart h at its home. CLEAN and FLUSH apply the line's updates, write it back and set its EVICT
(R90); a unit under a tag or a hold stays (R110, R349). -/
def State.performEntry (s : State) (h : Nat) (e : StoreEntry) : State :=
  match e.op with
  | .write c => s.performWrite h c e.qual e.sync
  | .unitWrite c => match c with
    | [] => s
    | m :: _ => s.engineMasked ⟨h, e.qual, none⟩ (wordAt m.addr) c
  | .limits c => s.performLimits h c e.qual
  | .clre w => (s.setFull w false).tagWrite h w e.qual false
  | .queue q d _ _ => if bit (s.qctl (coreOf h) q) 63 then s.queuePut (coreOf h) q d else s
  | .update _ _ _ => s
  | .clean u drop =>
    let s := s.applyLine u
    let drop := drop && (tget s.tags u).isNone && (tget s.holds u).isNone
    if homeOf u = .dram then s.modDie (homeDie u) fun d =>
      let kept := (d.l2.filter (fun l => !(drop && l.line == u / 64 && !l.ahead))).map
        (fun l => if l.line == u / 64 && !l.ahead then { l with dirty := false, evict := e.qual.setWidth 3 } else l)
      { d with l2 := kept }
    else
      let (k, b) := loftPlace u
      let s := if (s.cluster k).loft.eaves.any (fun e => e.1 == b && e.2.1) then s.writeBack k b else s
      let s := s.modLoft k fun l =>
        { l with eaves := l.eaves.map (fun v => if v.1 = b then (v.1, v.2.1, e.qual.setWidth 3, v.2.2.2) else v) }
      if drop then (s.modLoft k fun l => { l with eaves := l.eaves.filter (fun e => e.1 != b) }).modDie (k / 64) fun d =>
        { d with l2 := d.l2.filter (fun l => !(l.ahead && l.line / 4 == u / 256)) }
      else s
  | .uflush l => l.foldl (fun s a => s.applyLine a) s
  | .fence sc run => if run then s.noteFence h sc else s

/-- The k-th entry leaves hart h's store buffer. -/
def State.dropEntry (s : State) (h k : Nat) : State :=
  s.modHart h fun t => { t with mem := { t.mem with sb := dropAt t.mem.sb k } }

/-- STORE_BUFFER_RETIRE: an entry that may go is performed at its home (R62, R92, R95). Updates leave by acceptance. -/
def execStoreBufferRetire (h : Nat) (k : Nat) (s : State) : Host.Outcome State Fault Refusal :=
  match (s.hart h).mem.sb[k]? with
  | none => .next s
  | some e =>
    match e.op with
    | .update _ _ _ => .next s
    | _ =>
      let s := if 2 ≤ qualOrd e.qual then s.podFence (qualScope e.qual) else s
      if s.entryReady h k e = false then .next s
      else match s.entryWaits h e with
        | (true, s) => .next s
        | (false, s) => .next ((s.dropEntry h k).performEntry h e)

/-- An update joins an element that already has an entry in the bins, and takes no place of its own (R387). -/
def Die.combines (d : Die) (idx : Nat) (rg : Region) (pa : Nat) : Bool :=
  !rg.keeps && d.gutter.any (fun e => e.region == idx && e.addr == pa && e.run == 0)

/-- The slice of an address takes an update of a region now: it is not backpressed, and a place in its 65,536 is free or not
needed (R26, R387). -/
def Die.accepts (d : Die) (idx : Nat) (rg : Region) (pa : Nat) : Bool :=
  !d.backpressed (sliceOf pa) idx rg &&
    (decide (d.gutter.length < 65536) || decide (d.binsUsed (sliceOf pa) < 65536) || d.combines idx rg pa)

/-- UPDATE_ACCEPTED: the home slice takes an update, unless it backpressures its region (R108, R387). -/
def execUpdateAccepted (h : Nat) (k : Nat) (s : State) : Host.Outcome State Fault Refusal :=
  match (s.hart h).mem.sb[k]? with
  | some e =>
    match e.op with
    | .update pa size v =>
      let s := if 2 ≤ qualOrd e.qual then s.podFence (qualScope e.qual) else s
      let d := homeDie pa
      match regionAt (s.die d) pa with
      | none => .next s
      | some (idx, rg) =>
        if s.entryReady h k e = false then .next s
        else if (s.die d).accepts idx rg pa = false then .next s
        else match s.entryWaits h e with
        | (true, s) => .next s
        | (false, s) =>
          let s := (s.dropEntry h k).setEvict pa e.qual
          let s := s.modDie d fun t =>
            { t with gutter := t.gutter ++ [⟨idx, pa, size, v, h, e.serial, 0⟩] }
          .next (s.tagWrite h (unitOf pa false) e.qual false)
    | _ => .next s
  | none => .next s

/-- A page of entries leaves the bins for a spilled run of its own (R387). -/
def Die.spill (d : Die) (page : List GutterEntry) : Die :=
  let run := (d.gutter.map (·.run)).foldl max 0 + 1
  { d with gutter := d.gutter.map fun g => if page.contains g then { g with run := run } else g }

/-- GUTTER_SPILL: above 49,152 entries a slice's oldest page is spilled. Where its region's area has no room it is applied in
place as reads of its lines would apply it, with what was spilled of them (R110, R387). -/
def execGutterSpill (die : Nat) (slice : Nat) (s : State) : Host.Outcome State Fault Refusal :=
  let d := s.die die
  if d.binsUsed slice ≤ 49152 then .next s else
  match d.gutter.find? (fun e => e.run == 0 && sliceOf e.addr == slice) with
  | none => .next s
  | some e =>
    match tget d.regions e.region with
    | none => .next s
    | some rg =>
      let page := d.oldestPage slice e.region rg
      .next (if d.spillRoom e.region rg (rg.entries page) then s.modDie die fun t => t.spill page
        else s.applyEntries die fun g => page.any fun p => p.addr / 64 == g.addr / 64)

end Sys2Proof.Machine
end

