-- ==== Sys2Proof/Machine/Matrix.lean ====
section
/-! DEFINITION. Matrix.lean: tile registers, matrix-engine commands and their steps, gangs, drains and handler runs, decode
tables and quiz products (R58, R59, R102, R120 to R123, R129, R188, R397 to R418). -/

namespace Sys2Proof.Machine

/-! ## Values and group sums (R118, R124, R129, R400) -/

/-- A format that the matrix engine takes (R115). -/
def matFmt (t : BitVec 4) : Bool := decide (t.toNat ≤ 2) || tableFmt t

/-- The value of an operand's code under the sampled tables: table entries give no signalling NaN (R124). -/
def matValue (tabs : List (Option DecodeTable)) (t : BitVec 4) (code : Nat) : FVal :=
  if tableFmt t then
    match (tabs[slotOf t]?).getD none with
    | none => .fin false 0 0
    | some tb => match fdecode e8m10 (tableEntry tb (isT4 t) code) with
      | .nan _ => .nan false
      | v => v
  else fdecode (fmtOf t) code

/-- The group size of R129. -/
def groupSize (fa fb : BitVec 4) : Nat := if tableFmt fa && tableFmt fb then 32 else 16

/-- What one product contributes to the special cases: NaN, an invalid operation, an infinity and its sign. -/
inductive Product where
  | nan (invalid : Bool)
  | inf (neg : Bool)
  | fin (neg : Bool) (m : Nat) (e : Int)
  deriving DecidableEq, Repr

/-- An exact product, scaled (R129, R400). -/
def product (sc : Int) (a b : FVal) : Product :=
  match a, b with
  | .nan x, .nan y => .nan (x || y)
  | .nan x, _ => .nan x
  | _, .nan y => .nan y
  | .inf x, .inf y => .inf (x != y)
  | .inf x, .fin y m _ => if m = 0 then .nan true else .inf (x != y)
  | .fin x m _, .inf y => if m = 0 then .nan true else .inf (x != y)
  | .fin x m e, .fin y n f => .fin (x != y) (m * n) (e + f + sc)

/-- A group sum: formed exactly and rounded once to FP32, with the special cases of R129. -/
def groupSum (l : List Product) : FRes :=
  let pos := l.contains (.inf false)
  let neg := l.contains (.inf true)
  let nan := l.any (fun p => match p with | .nan _ => true | _ => false)
  let invalid := l.contains (.nan true) || (pos && neg)
  if nan || invalid then (qnan fp32, if invalid then flagNV else 0)
  else if pos then (finf fp32 false, 0)
  else if neg then (finf fp32 true, 0)
  else
    let sum := l.foldl (fun (d : Dyadic) p => match p with
      | .fin n m e => d.add (dyadicOf n m e)
      | _ => d) ⟨0, 0⟩
    roundDyadic fp32 sum (l.all (fun p => match p with | .fin n _ _ => n | _ => false))

/-- What a bank's adder does in one read-modify-write of a 4-byte word (R71). -/
inductive BankOp where
  | fp32
  | int32
  deriving DecidableEq, Repr

/-- The word that a bank's adder makes of a word and what is added, with the flags that it raises (R71): no command of the
spec requests the INT32 add. -/
def bankAdd (o : BankOp) (old v : Nat) : FRes :=
  match o with
  | .fp32 => fadd fp32 old v
  | .int32 => ((old + v) % 2 ^ 32, 0)

/-- Pairs cut into groups of g consecutive ones, the last holding the rest. The fuel is their number. -/
def groupsOf {α : Type} (g : Nat) : Nat → List α → List (List α)
  | 0, _ => []
  | n + 1, l => if l = [] then [] else l.take g :: groupsOf g n (l.drop g)

/-- An accumulator word with the group sums of one chunk added in order, and the flags (R129, R406). -/
def accumulate (g : Nat) (c : Nat) (l : List Product) : FRes :=
  (groupsOf g l.length l).foldl (fun (acc : FRes) grp =>
    let s := groupSum grp
    let r := bankAdd .fp32 acc.1 s.1
    (r.1, acc.2 ||| s.2 ||| r.2)) (c, 0)

/-! ## Tiles (R404) -/

/-- Element (i, j) of a tile. -/
def Tile.elem (t : Tile) (i j : Nat) : Nat := velem ((t.rows[i]?).getD 0) (fmtBits t.tag) j

/-- The format that .a and .b name. -/
def tileFmt (s : State) (r : BitVec 1) : BitVec 4 := BitVec.ofNat 4 (bits (if r = 1 then s.me.mat.bfmt else s.me.mat.afmt) 3 0)

/-- The rows of a tile in memory, checked and translated before any is touched, lowest address first; each place with
the address of its 8-byte word (R66, R88, R404). -/
def tilePlaces (acc : Acc) (a p : Word) (w : Nat) : M (List (Word × Place)) := do
  let s ← get
  if a.toNat % 8 ≠ 0 ∨ p.toNat % 8 ≠ 0 then trapM 0x08 0 a else
  let rows := (List.range 16).map (fun i => a + BitVec.ofNat 64 i * p)
  let up := sortBy (fun (x y : Word) => decide (x.toNat ≤ y.toNat)) rows
  up.forM fun r => do
    let _ ← placeOf.liftExcept (windowCheck s s.cur r.toNat (2 * w))
  let got ← up.mapM fun r => (List.range (2 * w / 8)).mapM fun k => do
    let va := r + BitVec.ofNat 64 (8 * k)
    let q ← myPlace acc va 8
    if acc = .store then storeCheck q 8 va else pure ()
    pure (va, q)
  let flat := got.flatten
  pure ((rows.flatMap (fun r => (List.range (2 * w / 8)).map (fun k => r + BitVec.ofNat 64 (8 * k)))).filterMap
    (fun va => flat.find? (fun q => q.1 == va)))

/-- The state with a tile register written. -/
def State.setTile (s : State) (n : BitVec 3) (t : Tile) : State := s.modMe fun h => { h with tiles := h.tiles.setIfInBounds n.toNat t }

/-- A tile register. -/
def State.tile (s : State) (n : BitVec 3) : Tile := (s.me.tiles[n.toNat]?).getD .reset

/-- TLOAD (R404). -/
def tloadM (off : Word) (r : BitVec 1) (tn : BitVec 3) (sp b : BitVec 6) (qual : BitVec 8) : M Unit := do
  let s ← get
  let f := tileFmt s r
  if matFmt f = false then operandM 0 else
  let w := fmtBits f
  let places ← tilePlaces .load (s.x b + off) (s.x sp) w
  let vals ← places.mapM fun q => loadPart q.2 8 qual q.1
  modify fun s =>
    (s.setTile tn ⟨Vector.ofFn (fun i => BitVec.ofNat 512
      ((List.range (2 * w / 8)).foldr (fun k acc => acc * 2 ^ 64 + nth vals (i.val * (2 * w / 8) + k) 0) 0)), f⟩).retire

/-- TSTORE (R404). -/
def tstoreM (off : Word) (tn : BitVec 3) (sp b : BitVec 6) (qual : BitVec 8) : M Unit := do
  let s ← get
  let t := s.tile tn
  let n := 2 * fmtBits t.tag / 8
  let places ← tilePlaces .store (s.x b + off) (s.x sp) (fmtBits t.tag)
  storeOrder qual
  let word (k : Nat) : Nat := velem ((t.rows[k / n]?).getD 0) 64 (k % n)
  let items := (places.zipIdx).map (fun q => (q.1.2, cellsAt q.1.2.home (bytesOf (word q.2) 8)))
  if qualOrd qual = 3 then items.forM (fun q => meetCells q.2 q.1.sync) else pure ()
  items.forM fun q => storeCells q.2 qual q.1.sync
  modify State.retire

/-- TLOAD (R404). -/
def execTload (r : BitVec 1) (tn : BitVec 3) (sp b : BitVec 6) (qual : BitVec 8) (s : State) :
    Host.Outcome State Fault Refusal :=
  runHead acceptMain (headOf 0x68 2 0) [sp, b] [] 0 (tloadM 0 r tn sp b qual) s

/-- TLOAD with the 8-byte tail (R404). -/
def execTloadLong (off : BitVec 32) (r : BitVec 1) (tn : BitVec 3) (sp b : BitVec 6) (qual : BitVec 8) (s : State) :
    Host.Outcome State Fault Refusal :=
  runHead acceptMain (headOf 0x68 4 0) [sp, b] [] 0 (tloadM (off.signExtend 64) r tn sp b qual) s

/-- TSTORE (R404). -/
def execTstore (tn : BitVec 3) (sp b : BitVec 6) (qual : BitVec 8) (s : State) : Host.Outcome State Fault Refusal :=
  runHead acceptMain (headOf 0x68 2 0) [sp, b] [] 0 (tstoreM 0 tn sp b qual) s

/-- TSTORE with the 8-byte tail (R404). -/
def execTstoreLong (off : BitVec 32) (tn : BitVec 3) (sp b : BitVec 6) (qual : BitVec 8) (s : State) :
    Host.Outcome State Fault Refusal :=
  runHead acceptMain (headOf 0x68 4 0) [sp, b] [] 0 (tstoreM (off.signExtend 64) tn sp b qual) s

/-- TZERO (R404), with either tail (R403). -/
def execTzero (form : ZeroForm) (tn : BitVec 3) (s : State) : Host.Outcome State Fault Refusal :=
  runHead acceptMain (headOf 0x68 (2 + 2 * form.long.toNat) 0) [] [] 0 (do
    let s ← get
    let f := tileFmt s form.r
    if matFmt f = false then operandM 0 else
    set (s.setTile tn ⟨Vector.replicate 16 0, f⟩).retire) s

/-! ## Commands (R401, R402, R406, R409, R416, R418) -/

/-- The signed exponent of a scale register (R399). -/
def scaleOf (v : Word) : Int := signed 8 (bits v 7 0)

/-- A command with the registers it samples at commit (R401). -/
def State.sample (s : State) (op : MatOp) (event : Option (BitVec 3)) : MatCmd :=
  { op := op, fa := BitVec.ofNat 4 (bits s.me.mat.afmt 3 0), fb := BitVec.ofNat 4 (bits s.me.mat.bfmt 3 0)
    fc := BitVec.ofNat 4 (bits s.me.mat.cfmt 3 0), ea := scaleOf s.me.mat.ascale, eb := scaleOf s.me.mat.bscale
    event := event, tables := s.me.tables.toList, after := s.me.mem.serial }

/-- The row pitch of a pitch code (R402). -/
def pitchOf (cp : BitVec 4) : Nat := 64 * 2 ^ cp.toNat

/-- The accumulator at an address: its scratchpad offset (R402). -/
def accBase (a : Word) (pitch rows : Nat) : M Nat := do
  let s ← get
  match s.windowOf s.cur a.toNat with
  | (.pad, off) => if a.toNat % 64 ≠ 0 ∨ 0x10_0000 < off + (rows - 1) * pitch + 64 then operandM a else pure off
  | _ => operandM a

/-- A row of an accumulator that reaches the thatcher's stack raises ACCESS_FAULT (R72, R402). -/
def accStack (off pitch rows : Nat) : M Unit := do
  let s ← get
  match (List.range rows).find? (fun i => decide (0xF_C000 < off + i * pitch + 64)) with
  | some i => accessFaultM (s.padVa s.cur (off + i * pitch))
  | none => pure ()

/-- ENGINE_FENCED when no sub-array is left (R189). -/
def engineM : M Unit := do
  let s ← get
  if s.subArrays s.cur = 0 then trapM 0x07 0 0 else pure ()

/-- A matrix command that passed its checks enters the queue; it stalls while two wait (R52). -/
def submitM (c : MatCmd) : M Unit := do
  let s ← get
  if 2 ≤ s.me.engine.queue.length then parkM .engine
  else set ((s.modMe fun h => { h with engine := { h.engine with queue := h.engine.queue ++ [c] } }).retire)

/-- An operand format of a matrix command: a matrix format, with a valid slot when it is a table format (R122, R406). -/
def matFmtM (f : BitVec 4) : M Unit :=
  if matFmt f = false then operandM 0
  else if tableFmt f then do
    let _ ← slotM (slotOf f) 0
  else pure ()

/-- The event field of a command. -/
def eventOf (ce : BitVec 1) (cmc : BitVec 3) : Option (BitVec 3) := if ce = 1 then some cmc else none

/-- TMMA on tiles (R406). -/
def execTmma (c : BitVec 6) (cp : BitVec 4) (z : BitVec 1) (tb ta : BitVec 3) (s : State) : Host.Outcome State Fault Refusal :=
  runHead acceptMain (headOf 0x69 2 c.toNat) [c] [] 0 (do
    let s ← get
    let fa := BitVec.ofNat 4 (bits s.me.mat.afmt 3 0)
    let fb := BitVec.ofNat 4 (bits s.me.mat.bfmt 3 0)
    matFmtM fa
    matFmtM fb
    if (s.tile ta).tag ≠ fa ∨ (s.tile tb).tag ≠ fb then operandM 0 else
    let off ← accBase (s.x c) (pitchOf cp) 16
    engineM
    accStack off (pitchOf cp) 16
    submitM (s.sample (.mma off (pitchOf cp) 16 (z == 1) (.tile (s.tile ta)) (.tile (s.tile tb)) false) none)) s

/-- The A panel of a panel or gang TMMA: its rows translated (R406). -/
def panelM (a p : Word) (depth w : Nat) : M (List Spans) := do
  if a.toNat % 8 ≠ 0 ∨ p.toNat % 8 ≠ 0 then trapM 0x08 0 a else
  rangesM false true ((List.range 16).map (fun i => ⟨.load, 0, 0, (a + BitVec.ofNat 64 i * p).toNat, depth * w / 8⟩))

/-- K of a panel or gang TMMA (R406). -/
def depthOk (k : Word) (fb : BitVec 4) : Bool :=
  k.toNat % 16 == 0 && decide (16 ≤ k.toNat ∧ k.toNat ≤ 8192 / fmtBits fb)

/-- TMMA.P (R406). -/
def execTmmaP (c : BitVec 6) (cp : BitVec 4) (ce : BitVec 1) (cmc : BitVec 3) (z : BitVec 1) (k a p : BitVec 6) (s : State) :
    Host.Outcome State Fault Refusal :=
  runHead acceptMain (headOf 0x69 2 c.toNat) [c, k, a, p] [] 0 (do
    let s ← get
    let fa := BitVec.ofNat 4 (bits s.me.mat.afmt 3 0)
    let fb := BitVec.ofNat 4 (bits s.me.mat.bfmt 3 0)
    matFmtM fa
    matFmtM fb
    if depthOk (s.x k) fb = false then operandM 0 else
    let off ← accBase (s.x c) (pitchOf cp) 16
    engineM
    let rows ← panelM (s.x a) (s.x p) (s.x k).toNat (fmtBits fa)
    accStack off (pitchOf cp) 16
    submitM (s.sample (.mma off (pitchOf cp) (s.x k).toNat (z == 1) (.panel rows) .plane false) (eventOf ce cmc))) s

/-- An answer to an instruction that waits for its gang: true when it is done. -/
def gangAnswerM : M Bool := do
  answerM
  let s ← get
  match s.me.answer with
  | some .done =>
    set (s.modMe fun h => { h with answer := none })
    pure true
  | _ => pure false

/-- GANG_UNBOUND when the core has lost its gang (R59, R413). -/
def lostM : M Unit := do
  let s ← get
  match s.me.gang.lost with
  | some g => trapM 0x06 0 (g.setWidth 64)
  | none => pure ()

/-- TMMA.G holds commit until all sixteen members have arrived (R414). -/
def execTmmaG (c : BitVec 6) (cp : BitVec 4) (ce : BitVec 1) (cmc : BitVec 3) (z : BitVec 1) (k a p : BitVec 6) (s : State) :
    Host.Outcome State Fault Refusal :=
  runHead acceptMain (headOf 0x69 2 c.toNat) [c, k, a, p] [] 0 (do
    let done ← gangAnswerM
    if done then modify State.retire else
    let s ← get
    if s.me.gang.command.isSome then parkM .gang else
    let fa := BitVec.ofNat 4 (bits s.me.mat.afmt 3 0)
    let fb := BitVec.ofNat 4 (bits s.me.mat.bfmt 3 0)
    matFmtM fa
    matFmtM fb
    if depthOk (s.x k) fb = false then operandM 0 else
    let off ← accBase (s.x c) (pitchOf cp) 16
    if s.me.gang.gang = none ∧ s.me.gang.lost = none then operandM 0 else
    lostM
    engineM
    let rows ← if s.cur % 4 = 0 then panelM (s.x a) (s.x p) (s.x k).toNat (fmtBits fa) else pure []
    accStack off (pitchOf cp) 16
    let cmd := s.sample (.mma off (pitchOf cp) (s.x k).toNat (z == 1) (.panel rows) .plane true) (eventOf ce cmc)
    modify fun s => s.modMe fun h => { h with gang := { h.gang with command := some cmd } }
    parkM .gang) s

/-- PLOAD (R409). -/
def execPload (ce : BitVec 1) (cmc : BitVec 3) (n b : BitVec 6) (s : State) : Host.Outcome State Fault Refusal :=
  runHead acceptMain (headOf 0x6A 2 0) [n, b] [] 0 (do
    let s ← get
    let a := s.x b
    let count := (s.x n).toNat
    if a.toNat % 64 ≠ 0 then operandM a
    else if count % 64 ≠ 0 ∨ count < 64 ∨ 16384 < count then operandM 0 else
    engineM
    let l ← rangesM false true [⟨.load, 0, 0, a.toNat, count⟩]
    submitM (s.sample (.pload l.flatten count) (eventOf ce cmc))) s

/-- PSWAP (R409). -/
def execPswap (s : State) : Host.Outcome State Fault Refusal :=
  runHead acceptMain (headOf 0x6A 2 0) [] [] 0 (do
    engineM
    let s ← get
    submitM (s.sample .pswap none)) s

/-- GBIND waits for the sixteen cores (R58, R411). -/
def execGbind (gn : BitVec 4) (s : State) : Host.Outcome State Fault Refusal :=
  runHead acceptMain (headOf 0x6B 1 0) [] [] 0 (do
    let done ← gangAnswerM
    if done then modify State.retire else do
      modify fun s => s.modMe fun h => { h with gang := { h.gang with bind := some gn } }
      parkM .gang) s

/-- GUNBIND waits for the sixteen members and their gang commands (R412, R413). -/
def execGunbind (gn : BitVec 4) (s : State) : Host.Outcome State Fault Refusal :=
  runHead acceptMain (headOf 0x6B 1 0) [] [] 0 (do
    let done ← gangAnswerM
    if done then modify State.retire else
    let s ← get
    if s.me.gang.lost = none ∧ s.me.gang.gang ≠ some gn then operandM 0 else
    lostM
    modify fun s => s.modMe fun h => { h with gang := { h.gang with unbind := some gn } }
    parkM .gang) s

/-- TDRAIN (R416). -/
def tdrainM (d c : BitVec 6) (dpitch : Word) (cp nr : BitVec 4) (hz : BitVec 1) (handler : Option Word) : M Unit := do
  let s ← get
  let fc := BitVec.ofNat 4 (bits s.me.mat.cfmt 3 0)
  let size := fmtBits fc / 8
  let rows := nr.toNat + 1
  let dest := s.x d
  if 3 ≤ fc.toNat then operandM 0 else
  let off ← accBase (s.x c) (pitchOf cp) 16
  if dest.toNat % size ≠ 0 ∨ dpitch.toNat % size ≠ 0 then operandM dest else
  engineM
  let spans ← rangesM false true
    ((List.range rows).map (fun i => ⟨.store, 0, 0, (dest + BitVec.ofNat 64 i * dpitch).toNat, 16 * size⟩))
  accStack off (pitchOf cp) 16
  submitM (s.sample (.drain off (pitchOf cp) rows (hz == 1) handler (BitVec.ofNat 2 s.prv) dest dpitch spans) none)

/-- TDRAIN (R416). -/
def execTdrain (d : BitVec 6) (cp nr : BitVec 4) (hz nh : BitVec 1) (h c dp : BitVec 6) (s : State) :
    Host.Outcome State Fault Refusal :=
  runHead acceptMain (headOf 0x6C 2 d.toNat) [d, h, c, dp] [] 0
    (tdrainM d c (s.x dp) cp nr hz (if nh = 1 then none else some (s.x h))) s

/-- TDRAIN with an immediate pitch (R416). -/
def execTdrainImm (d : BitVec 6) (pitch : BitVec 32) (cp nr : BitVec 4) (hz nh : BitVec 1) (h c : BitVec 6) (s : State) :
    Host.Outcome State Fault Refusal :=
  runHead acceptMain (headOf 0x6C 4 d.toNat) [d, h, c] [] 0
    (tdrainM d c (pitch.signExtend 64) cp nr hz (if nh = 1 then none else some (s.x h))) s

/-- The executing hart's engine access to translated places waits where it must (R101, R112). -/
def engineWaitM (l : Spans) : M Unit := do
  let s ← get
  match s.spansWait s.cur l with
  | (true, s) => do
    set s
    parkM .drain
  | (false, s) => set s

/-- A step of the thatcher is under way on core c's engine (R142, R188): its tables stay until the step is done (R123). -/
def State.stepOn (s : State) (c : Nat) : Bool :=
  (s.cluster (clusterOf c)).treeRun.any fun r => r.spent.any fun w => w.1 == c

/-- TBLLD: the image is read and validated before commit, after the hart's earlier stores (R104, R121, R418). -/
def execTblld (slot : BitVec 2) (id : BitVec 8) (b : BitVec 6) (s : State) : Host.Outcome State Fault Refusal :=
  runHead acceptMain (headOf 0x6D 2 0) [b] [] 0 (do
    let s ← get
    let a := s.x b
    engineM
    if a.toNat % 16 ≠ 0 then trapM 0x08 0 a else
    let l ← rangesM false true [⟨.load, 0, 0, a.toNat, 1040⟩]
    emptyBufferM
    engineWaitM l.flatten
    let s ← get
    match s.poisonSpans l.flatten with
    | some w => set (s.machineCheck s.cur 2 w).retire
    | none =>
      let (img, s) := s.engineReadSpans l.flatten
      match readTable img with
      | .ok t => do
        set s
        submitM (s.sample (.tblld slot id t) none)
      | .error off =>
        if s.me.engine.tablePending slot.toNat ∨ s.stepOn s.cur then parkM .engine else do
          set (s.setTable s.cur slot.toNat none 0)
          trapM 0x10 0 (a + BitVec.ofNat 64 off)) s

/-- QUIZ (R418). -/
def execQuiz (s : State) : Host.Outcome State Fault Refusal :=
  runHead acceptMain (headOf 0x6D 2 0) [] [] 0 (do
    engineM
    let s ← get
    submitM (s.sample .quiz none)) s

/-! ## Handler runs (R38, R39, R102, R416) -/

/-- Drain runs of the started TDRAIN join the FIFO while it has room; then waiting scope-miss messages do (R39, R416). That
the rows go first, whichever arrived earlier, is the model's choice (assumption 76). -/
def State.fillFifo (s : State) (c : Nat) : State :=
  let h := s.hart c
  let s := match h.engine.run with
    | some (cmd, n) => match cmd.op with
      | .drain acc pitch rows _ (some entry) prv dest dpitch _ =>
        let m := min (rows - n) (16 - h.runs.fifo.length)
        let new := (upFrom n m).map fun i =>
          (⟨.drain i, entry, prv, s.padVa c (acc + i * pitch), BitVec.ofNat 64 i, dest + BitVec.ofNat 64 i * dpitch⟩ : Run)
        s.modHart c fun h => { h with runs := { h.runs with fifo := h.runs.fifo ++ new }
                                      engine := { h.engine with run := some (cmd, n + m) } }
      | _ => s
    | none => s
  s.modHart c fun h =>
    let m := 16 - h.runs.fifo.length
    { h with runs := { h.runs with fifo := h.runs.fifo ++ h.runs.port.take m, port := h.runs.port.drop m } }

/-- The oldest pending run of core c, when the handler context may start it: a run needs no task (R39, R41, R62, R301). -/
def State.nextRun (s : State) (c : Nat) : Option Run :=
  let h := s.hart c
  if kindOf c = 0 ∧ bit h.sys.fence 8 = false ∧ h.halted = false ∧ h.handler.run = none ∧ h.runs.hold = false ∧ h.runs.blocked = none
  then h.runs.fifo.head? else none

/-- A run starts: its PC, which for a scope-miss run is what cr.smvec now holds, and x4 to x6 (R38, R102, R416). -/
def State.startRun (s : State) (c : Nat) (r : Run) : State :=
  let entry := match r.kind with
    | .drain _ => r.entry
    | .scopeMiss _ _ => (s.hart c).sys.smvec
  (s.modHart c fun h =>
    { h with runs := { h.runs with fifo := h.runs.fifo.drop 1 }, hpark := none
             handler := { h.handler with run := some r, pc := targetOf entry, image := none, fenced := false
                                         x := ((h.handler.x.setIfInBounds 4 r.x4).setIfInBounds 5 r.x5).setIfInBounds 6 r.x6 } }).fillFifo c

/-- DRAIN_RUN_START (R38, R39). -/
def execDrainRunStart (core : Nat) (s : State) : Host.Outcome State Fault Refusal :=
  match s.nextRun core with
  | some r => match r.kind with
    | .drain _ => .next (s.startRun core r)
    | .scopeMiss _ _ => .next s
  | none => .next (s.fillFifo core)

/-- SCOPE_MISS_RUN_START (R38, R39, R102). -/
def execScopeMissRunStart (core : Nat) (s : State) : Host.Outcome State Fault Refusal :=
  match s.nextRun core with
  | some r => match r.kind with
    | .scopeMiss _ _ => .next (s.startRun core r)
    | .drain _ => .next s
  | none => .next (s.fillFifo core)

/-- The home of word j of row i of an accumulator of core c. -/
def accHome (c off pitch i j : Nat) : Nat := padHome (clusterOf c) (off + i * pitch + 4 * j)

/-- The address at which core c sees a byte of its own scratchpad or plane memory: for a plane, which lies in no address
space, its offset with bit 14 naming the plane (assumption 86). -/
def State.ownVa (s : State) (c home : Nat) : Word :=
  match homeOf home with
  | .pad => s.padVa c (home - padHome (clusterOf c) 0)
  | _ => BitVec.ofNat 64 ((home - planeHome 0 0 0) % 0x8000)

/-- The engine's command of core c ends with MACHINE_CHECK at a poisoned word's address, and its runs go (R176, R184). That the
flags which it has raised so far land in cr.mflags with the check, though R131 speaks of completion, is the model's choice
(assumption 108). -/
def State.failCommand (s : State) (c : Nat) (a : Word) : State :=
  ((s.raiseMflags c (s.hart c).engine.flags).machineCheck c 2 a).modHart c fun h =>
    { h with engine := { h.engine with run := none, flags := 0, rowsLeft := 0, stopping := false }
             runs := { h.runs with fifo := h.runs.fifo.filter fun r => match r.kind with | .drain _ => false | _ => true } }

/-- Where row i of the started TDRAIN leaves from and to: its accumulator row and its destination. -/
def State.rowSpans (s : State) (c i : Nat) : Spans :=
  match (s.hart c).engine.run with
  | some (cmd, _) => match cmd.op with
    | .drain acc pitch _ _ _ _ _ _ rowsTo =>
      ⟨(s.padVa c (acc + i * pitch)).toNat, 64, accHome c acc pitch i 0, false⟩ :: nth rowsTo i []
    | _ => []
  | none => []

/-- Row i of a TDRAIN leaves: rounded into the result format and written in ascending order, then zeroed if asked (R416). -/
def State.leaveRow (s : State) (c i : Nat) : State :=
  match (s.hart c).engine.run with
  | some (cmd, _) => match cmd.op with
    | .drain acc pitch _ hz _ _ _ _ rowsTo =>
      let a := accHome c acc pitch i 0
      match s.poisonIn a 64 with
      | some w => s.failCommand c (s.ownVa c w)
      | none =>
        let vals := (List.range 16).map fun j =>
          let v := memNat s.mem (a + 4 * j) 4
          if cmd.fc = 0 then ((v, 0) : FRes) else fconvert fp32 (fmtOf cmd.fc) v
        let s := s.engineWriteSpans (nth rowsTo i []) (vals.flatMap (fun v => bytesOf v.1 (fmtBits cmd.fc / 8)))
        let s := if hz then s.engineWrite a (List.replicate 64 0) else s
        s.modHart c fun h => { h with engine := { h.engine with flags := vals.foldl (fun f v => f ||| v.2) h.engine.flags } }
    | _ => s
  | none => s

/-- HRET (R102, R284, R416): a scope-miss run ends with its fence, and the lift goes to the home; a drain run's row leaves
once the stores are performed. -/
def execHret (s : State) : Host.Outcome State Fault Refusal :=
  runHead ⟨false, true, false, false⟩ (headOf 0x28 1 0) [] [] 0 (do
    let s ← get
    match s.me.handler.run with
    | none => pure ()
    | some r =>
      match r.kind with
      | .scopeMiss u sc =>
        if s.me.handler.fenced then pure () else drainM sc
        modify fun s => { s with holds := match tget s.holds u with
          | some hd => if hd.writer = s.cur then tput s.holds u { hd with lifted := true } else s.holds
          | none => s.holds }
      | .drain i =>
        emptyBufferM
        engineWaitM ((← get).rowSpans s.cur i)
        modify fun s => (s.leaveRow s.cur i).modMe fun h => { h with engine := { h.engine with rowsLeft := h.engine.rowsLeft - 1 } }
      modify fun s => (s.countHead.modMe fun h =>
        { h with handler := { h.handler with run := none, image := none, fenced := false }, hpark := none }).fillFifo s.cur) s

/-! ## The engine's steps -/

/-- The cycles that a chunk of depth d occupies the engine for (R189, R406). -/
def chunkCycles (fa fb : BitVec 4) (d n : Nat) : Nat :=
  let base := if fa = 0 ∨ fb = 0 then 4 * d else if tableFmt fa && tableFmt fb then d / 2 else d
  base * (if n = 4 then 1 else if 2 ≤ n then 2 else 4)

/-- The activity at which a quiz product is due (R188). -/
def quizLimit (n : Nat) : Nat := if n = 4 then 150000 else if 2 ≤ n then 149744 else 149232

/-- A quiz product is due at the next chunk boundary. -/
def State.quizDue (s : State) (c : Nat) : Bool := decide (quizLimit (s.subArrays c) ≤ (s.hart c).engine.activity)

/-- The A elements (i, k) of a chunk from k0 on, d deep: the row values of a tile or panel. -/
def State.chunkA (s : State) (cmd : MatCmd) (a : ASource) (i k0 d : Nat) : List FVal :=
  let w := fmtBits cmd.fa
  match a with
  | .tile t => (List.range d).map (fun k => matValue cmd.tables cmd.fa (t.elem i (k0 + k)))
  | .panel rows =>
    let v := natOf (s.engineReadSpans (takeSpans (skipSpans (nth rows i []) (k0 * w / 8)) (d * w / 8))).1
    (List.range d).map (fun k => matValue cmd.tables cmd.fa (v / 2 ^ (k * w) % 2 ^ w))

/-- The active plane that core c's command reads: its own, or for a gang its column's (R406, R414). -/
def State.planeOf (s : State) (c : Nat) (gang : Bool) : Nat :=
  let m := if gang then c / 16 * 16 + c % 4 else c
  planeHome m (if (s.hart m).engine.plane then 1 else 0) 0

/-- The B elements (k, j) of a chunk. -/
def State.chunkB (s : State) (cmd : MatCmd) (c : Nat) (b : BSource) (gang : Bool) (j k0 d : Nat) : List FVal :=
  let w := fmtBits cmd.fb
  match b with
  | .tile t => (List.range d).map (fun k => matValue cmd.tables cmd.fb (t.elem (k0 + k) j))
  | .plane => (List.range d).map (fun k =>
      matValue cmd.tables cmd.fb (memNat s.mem (s.planeOf c gang + (k0 + k) * 2 * w) (2 * w) / 2 ^ (j * w) % 2 ^ w))

/-- The address of a poisoned word that a chunk reads in its panel or plane (R176, R184). -/
def State.chunkPoison (s : State) (cmd : MatCmd) (c : Nat) (a : ASource) (b : BSource) (gang : Bool) (k0 d : Nat) : Option Word :=
  let w := fmtBits cmd.fa
  let pa := match a with
    | .tile _ => none
    | .panel rows => rows.findSome? (fun r => s.poisonSpans (takeSpans (skipSpans r (k0 * w / 8)) (d * w / 8)))
  match pa with
  | some x => some x
  | none => match b with
    | .tile _ => none
    | .plane => (s.poisonIn (s.planeOf c gang + k0 * 2 * fmtBits cmd.fb) (d * 2 * fmtBits cmd.fb)).map (s.ownVa c)

/-- The panel bytes that a chunk reads. -/
def chunkPanel (cmd : MatCmd) (a : ASource) (k0 d : Nat) : Spans :=
  match a with
  | .tile _ => []
  | .panel rows => rows.flatMap fun r => partSpans r (k0 * fmtBits cmd.fa / 8) (d * fmtBits cmd.fa / 8)

/-- Accumulator words written by the bank adders (R71, R184, R402): the last write of a command sets the full bits. -/
def State.accWrite (s : State) (a : Nat) (words : List Nat) (last : Bool) : State :=
  let d := words.flatMap (fun v => bytesOf v 4)
  let s := (s.poke a d).clearTags a d.length
  let s := { s with poison := s.poison.filter (fun w => !(decide (a ≤ w ∧ w + secdedSize w ≤ a + d.length))) }
  if last then (unitsOver 8 a d.length).foldl (fun s w => s.setFull (8 * w) true) s else s

/-- Sub-arrays of core c's engine that have become faulty and are not fenced are at work: whatever they compute is open
(R188). -/
def State.faultyArrays (s : State) (c : Nat) : Bool :=
  (s.hart c).engine.bad &&& ~~~(BitVec.ofNat 4 (bits (s.hart c).sys.fence 3 0)) != 0

/-- n words and their flags that a faulty sub-array left open (R188), and the state that has used them. -/
def State.openWords (s : State) (n : Nat) : List FRes × State :=
  ((List.range n).map (fun j =>
      ((Config.freeWord (s.free + 2 * j)).toNat % 2 ^ 32, (Config.freeWord (s.free + 2 * j + 1)).setWidth 5)),
    { s with free := s.free + 2 * n })

/-- The started command ends, and its flags land (R131, R132). -/
def State.endCommand (s : State) (c : Nat) : State :=
  (s.raiseMflags c (s.hart c).engine.flags).modHart c fun h =>
    { h with engine := { h.engine with run := none, flags := 0, stopping := false } }

/-- One chunk of core c's TMMA retires through the bank adders, rows in ascending order (R129, R406, R71). The operation of
a gang that was unbound ends with it, whose writes are then the command's last (R59, R402); where a sub-array is faulty the
words and flags are open (R188). -/
def State.retireChunk (s : State) (c : Nat) : State :=
  match (s.hart c).engine.run with
  | some (cmd, n) => match cmd.op with
    | .mma acc pitch depth zero a b gang =>
      let k0 := 64 * n
      let d := min 64 (depth - k0)
      let last := decide (depth ≤ k0 + 64)
      let stopping := (s.hart c).engine.stopping
      match s.chunkPoison cmd c a b gang k0 d with
      | some w => s.failCommand c w
      | none =>
        let g := groupSize cmd.fa cmd.fb
        let cols := (List.range 16).map (fun j => s.chunkB cmd c b gang j k0 d)
        let fresh := zero && n == 0
        let row (t : State) (i : Nat) : List FRes :=
          let ra := s.chunkA cmd a i k0 d
          (List.range 16).map fun j =>
            accumulate g (if fresh then 0 else memNat t.mem (accHome c acc pitch i j) 4)
              ((ra.zip (nth cols j [])).map (fun p => product (cmd.ea + cmd.eb) p.1 p.2))
        let wrong := s.faultyArrays c
        let s := (s.engineReadSpans (chunkPanel cmd a k0 d)).2
        let step (acc_ : State × Option Nat) (i : Nat) : State × Option Nat :=
          match acc_ with
          | (t, some w) => (t, some w)
          | (t, none) =>
            let a0 := accHome c acc pitch i 0
            let (r, t) := if wrong then t.openWords 16 else (row t i, t)
            let bad := if fresh then none else t.poisonIn a0 64
            let m := match bad with | some w => (w - a0) / 4 | none => 16
            let t := t.accWrite a0 ((r.take m).map (·.1)) (last || stopping)
            (t.modHart c fun h => { h with engine := { h.engine with flags := (r.take m).foldl (fun f v => f ||| v.2) h.engine.flags } }, bad)
        match (List.range 16).foldl step (s, none) with
        | (t, some w) => t.failCommand c (t.ownVa c w)
        | (t, none) =>
          let t := t.modHart c fun h =>
            { h with engine := { h.engine with
                run := some (cmd, n + 1), chunks := h.engine.chunks + 1
                activity := h.engine.activity + chunkCycles cmd.fa cmd.fb d (s.subArrays c)
                events := if last then h.engine.events ++ cmd.event.toList else h.engine.events } }
          if stopping && !last then t.endCommand c else t
    | _ => s
  | none => s

/-- The panel bytes of the next chunk of core c's started TMMA, and the accumulator it adds to. -/
def State.chunkSpans (s : State) (c : Nat) : Spans :=
  match (s.hart c).engine.run with
  | some (cmd, n) => match cmd.op with
    | .mma acc pitch depth _ a _ _ =>
      chunkPanel cmd a (64 * n) (min 64 (depth - 64 * n)) ++
        (List.range 16).map fun i => ⟨(s.padVa c (acc + i * pitch)).toNat, 64, accHome c acc pitch i 0, false⟩
    | _ => []
  | none => []

/-- A chunk of core c's started TMMA is left, no quiz product is due, and the issuer's earlier stores are performed. -/
def State.chunkReady (s : State) (c : Nat) : Bool :=
  match (s.hart c).engine.run with
  | some (cmd, n) => match cmd.op with
    | .mma _ _ depth _ _ _ _ => decide (64 * n < depth) && !s.quizDue c && s.storesBefore c cmd.after
    | _ => false
  | none => false

/-- CHUNK_RETIREMENT (R406): a gang's members retire their chunks together (R414). A TDRAIN without a handler lets its
next row leave (R416). -/
def execChunkRetirement (core : Nat) (s : State) : Host.Outcome State Fault Refusal :=
  if kindOf core ≠ 0 then .next s else
  match (s.hart core).engine.run with
  | none => .next s
  | some (cmd, n) =>
    match cmd.op with
    | .mma _ _ _ _ _ _ gang =>
      if gang then
        let members := (coresOf (clusterOf core)).filter fun c => (s.hart c).engine.run.any (fun r => r.1.isGang)
        if s.gangAt (clusterOf core) = some n ∧ members.all s.chunkReady then
          match s.spansWait core (members.flatMap s.chunkSpans) with
          | (true, s) => .next s
          | (false, s) => .next (members.foldl State.retireChunk s)
        else .next s
      else if s.chunkReady core then
        match s.spansWait core (s.chunkSpans core) with
        | (true, s) => .next s
        | (false, s) => .next (s.retireChunk core)
      else .next s
    | .drain _ _ rows _ none _ _ _ _ =>
      if rows ≤ n ∨ s.storesBefore core cmd.after = false then .next s else
      match s.spansWait core (s.rowSpans core n) with
      | (true, s) => .next s
      | (false, s) =>
      let t := s.leaveRow core n
      .next (if (t.hart core).engine.run.isNone then t
        else t.modHart core fun h => { h with engine := { h.engine with run := some (cmd, n + 1), rowsLeft := h.engine.rowsLeft - 1 } })
    | _ => .next s

/-- The first poisoned word of translated places: the bytes that come before it, and its address (R176, R184). -/
def State.poisonAfter (s : State) : Spans → Option (Nat × Word)
  | [] => none
  | p :: r => match s.poisonIn p.home p.len with
    | some w => some (w - p.home, BitVec.ofNat 64 p.va + BitVec.ofNat 64 w - BitVec.ofNat 64 p.home)
    | none => (s.poisonAfter r).map fun q => (p.len + q.1, q.2)

/-- MATRIX_COMMAND_COMPLETE (R402, R409, R416, R418). -/
def execMatrixCommandComplete (core : Nat) (s : State) : Host.Outcome State Fault Refusal :=
  if kindOf core ≠ 0 then .next s else
  match (s.hart core).engine.run with
  | none => .next s
  | some (cmd, n) =>
    match cmd.op with
    | .mma _ _ depth _ _ _ _ => .next (if depth ≤ 64 * n then s.endCommand core else s)
    | .pload src count =>
      if s.storesBefore core cmd.after = false then .next s else
      let shadow := planeHome core (if (s.hart core).engine.plane then 0 else 1) 0
      match s.spansWait core src with
      | (true, s) => .next s
      | (false, s) =>
      match s.poisonAfter src with
      | some (m, w) =>
        let (d, s) := s.engineReadSpans (takeSpans src m)
        .next ((s.putBytes shadow d).failCommand core w)
      | none =>
        let (d, s) := s.engineReadSpans src
        .next (((s.putBytes shadow (d.take count)).modHart core fun h =>
          { h with engine := { h.engine with events := h.engine.events ++ cmd.event.toList } }).endCommand core)
    | .pswap => .next ((s.modHart core fun h => { h with engine := { h.engine with plane := !h.engine.plane } }).endCommand core)
    | .drain _ _ rows _ _ _ _ _ _ => .next (if rows ≤ n ∧ (s.hart core).engine.rowsLeft = 0 then s.endCommand core else s)
    | .tblld _ _ _ => .next s
    | .quiz => .next (if n = 1 then s.endCommand core else s)

/-- TABLE_INSTALL: a validated image is installed when its command has its place (R123, R418). -/
def execTableInstall (core : Nat) (s : State) : Host.Outcome State Fault Refusal :=
  match (s.hart core).engine.run with
  | some (cmd, _) => match cmd.op with
    | .tblld slot id t => .next ((s.setTable core slot.toNat (some t) id.toNat).endCommand core)
    | _ => .next s
  | none => .next s

/-- OPERANDS_CONSUMED_EVENT: the counter of the oldest due event rises (R407). -/
def execOperandsConsumedEvent (core : Nat) (s : State) : Host.Outcome State Fault Refusal :=
  match (s.hart core).engine.events with
  | [] => .next s
  | n :: r => .next ((s.modHart core fun h => { h with engine := { h.engine with events := r } }).bumpCounter core n)

/-- The next queued command of core c starts when none is under way; a TDRAIN with runs waits for room in the FIFO
(R39, R52, R416), and a table load for the thatcher's step on the engine (R123). -/
def State.startMatrix (s : State) (c : Nat) : State :=
  let e := (s.hart c).engine
  match e.run, e.queue with
  | none, cmd :: r =>
    let s' := s.modHart c fun h => { h with engine := { h.engine with run := some (cmd, 0), queue := r } }
    match cmd.op with
    | .drain _ _ rows _ handler _ _ _ _ =>
      if handler.isSome ∧ 16 ≤ (s.hart c).runs.fifo.length then s
      else if handler.isSome ∧ s.storesBefore c cmd.after = false then s
      else (s'.modHart c fun h => { h with engine := { h.engine with rowsLeft := rows } }).fillFifo c
    | .tblld _ _ _ => if s.stepOn c then s else s'
    | _ => s'
  | _, _ => s

/-- ENGINE_COMMAND_START (R52). -/
def execEngineCommandStart (h : Nat) (copy : Bool) (s : State) : Host.Outcome State Fault Refusal :=
  .next (if copy then s.startCopy h else if kindOf h = 0 then s.startMatrix h else s)

/-- QUIZ_PRODUCT (R188): due after T cycles of activity or by a QUIZ that has its place. `failing` names sub-arrays that have
become faulty by now: from then on what they compute is open, and each of them fails every quiz product until it is fenced
(assumption 33). -/
def execQuizProduct (core : Nat) (failing : BitVec 4) (s : State) : Host.Outcome State Fault Refusal :=
  if kindOf core ≠ 0 then .next s else
  let e := (s.hart core).engine
  let s := s.modHart core fun h => { h with engine := { h.engine with bad := h.engine.bad ||| failing } }
  let asked := match e.run with
    | some (⟨.quiz, _, _, _, _, _, _, _, _⟩, 0) => true
    | _ => false
  if asked = false ∧ s.quizDue core = false then .next s else
  let s := if asked then s.modHart core fun h => { h with engine := { h.engine with run := h.engine.run.map (fun r => (r.1, 1)) } } else s
  let bad := (s.hart core).engine.bad &&& ~~~(BitVec.ofNat 4 (bits (s.hart core).sys.fence 3 0))
  let s := s.modHart core fun h => { h with engine := { h.engine with activity := 0 } }
  if bad = 0 then .next (s.modHart core fun h => { h with engine := { h.engine with chunks := 0 } })
  else .next ((s.modHart core fun h => { h with sys := { h.sys with fence := h.sys.fence ||| bad.setWidth 64 } }).machineCheck core 1
      (BitVec.ofNat 64 e.chunks))

/-! ## Gangs (R58, R59, R411 to R414) -/

/-- An answer to the instruction in which core c waits. -/
def State.giveAnswer (s : State) (c : Nat) (a : Answer) : State := s.modHart c fun h => { h with answer := some a }

/-- GANG_BIND_COMPLETE: with all sixteen GBINDs issued, the gang is bound or every GBIND faults (R58, R411). -/
def execGangBindComplete (cluster : Nat) (s : State) : Host.Outcome State Fault Refusal :=
  let cs := coresOf cluster
  if cs.all (fun c => (s.hart c).gang.bind.isSome) = false then .next s else
  let g := (s.hart (16 * cluster)).gang.bind
  let ok := cs.all fun c => decide ((s.hart c).gang.bind = g) && (s.hart c).gang.gang.isNone && s.subArrays c == 4
  .next (cs.foldl (fun s c =>
    let mine := (((s.hart c).gang.bind).getD 0).setWidth 64
    let s := s.modHart c fun h =>
      { h with gang := if ok then { h.gang with gang := g, lost := none, bind := none } else { h.gang with bind := none } }
    s.giveAnswer c (if ok then .done else .trap (faultCause 0x05 0) mine false)) s)

/-- GANG_UNBIND_COMPLETE: with all sixteen GUNBINDs issued and every gang command complete, the gang ends (R412). -/
def execGangUnbindComplete (cluster : Nat) (s : State) : Host.Outcome State Fault Refusal :=
  let cs := coresOf cluster
  let ready := cs.all fun c =>
    let h := s.hart c
    h.gang.unbind.isSome && decide (h.gang.unbind = h.gang.gang) && !h.engine.queue.any MatCmd.isGang &&
      (match h.engine.run with | some r => !r.1.isGang | none => true)
  .next (if ready then cs.foldl (fun s c =>
      (s.modHart c fun h => { h with gang := { h.gang with gang := none, unbind := none } }).giveAnswer c .done) s
    else s)

/-- The command with the A panel of its row's first member (R414). -/
def MatCmd.withPanel (c : MatCmd) (a : ASource) : MatCmd :=
  { c with op := match c.op with | .mma x p d z _ b g => .mma x p d z a b g | op => op }

/-- The A operand of a command, and its depth. -/
def MatCmd.panel (c : MatCmd) : ASource × Nat :=
  match c.op with
  | .mma _ _ d _ a _ _ => (a, d)
  | _ => (.panel [], 0)

/-- What a gang command samples when it commits, which is when all sixteen have arrived (R104, R401, R414): the handler
context may have run since its head arrived. -/
def State.resample (s : State) (c : Nat) (m : MatCmd) : MatCmd :=
  let h := s.hart c
  { m with ea := scaleOf h.mat.ascale, eb := scaleOf h.mat.bscale, tables := h.tables.toList, after := h.mem.serial }

/-- The formats that a gang command's checks were made with still stand. -/
def State.sameFormats (s : State) (c : Nat) (m : MatCmd) : Bool :=
  m.fa == BitVec.ofNat 4 (bits (s.hart c).mat.afmt 3 0) && m.fb == BitVec.ofNat 4 (bits (s.hart c).mat.bfmt 3 0)

/-- GANG_TMMA_START: with all sixteen commands there, each enters its engine's queue, or all raise OPERAND (R414). A member
whose format registers have changed since its checks makes them again first. -/
def execGangTmmaStart (cluster : Nat) (s : State) : Host.Outcome State Fault Refusal :=
  let cs := coresOf cluster
  let cmd (c : Nat) : Option MatCmd := ((s.hart c).gang.command).map (s.resample c)
  if cs.all (fun c => (cmd c).isSome && decide ((s.hart c).engine.queue.length < 2)) = false then .next s else
  if cs.all (fun c => (cmd c).all (s.sameFormats c)) = false then
    .next (cs.foldl (fun t c => if (cmd c).all (s.sameFormats c) then t
      else t.modHart c fun h => { h with gang := { h.gang with command := none } }) s)
  else
  let key (c : Nat) := (cmd c).map (fun m => (m.panel.2, m.fa, m.fb, m.ea, m.eb))
  let ok := cs.all (fun c => decide (key c = key (16 * cluster)))
  .next (cs.foldl (fun t c =>
    let lead := 16 * cluster + c % 16 / 4 * 4
    let t := t.modHart c fun h =>
      { h with gang := { h.gang with command := none }
               engine := if ok then { h.engine with queue := h.engine.queue ++
                   (match cmd c, cmd lead with | some m, some l => [m.withPanel l.panel.1] | _, _ => []) } else h.engine }
    t.giveAnswer c (if ok then .done else .trap (faultCause 0x05 0) 0 false)) s)

end Sys2Proof.Machine
end

