-- ==== Sys2Proof/Machine/TreeOps.lean ====
section
/-! DEFINITION. TreeOps.lean: the thatcher's nodes, views, leaf data, pools and arithmetic (R134 to R147). -/

namespace Sys2Proof.Machine

/-- What a thatcher's step works on: the operation, the core that it runs on, the flags that land on each core (R132), and
the products that each core's matrix engine forms for it, as tiles of a depth (R188). -/
structure TreeCtx where
  run : TreeRun
  stepCore : Nat
  flags : List (Nat × Flags)
  work : List (Nat × Nat × Nat)
  deriving DecidableEq, Repr

/-- A computation of the thatcher. -/
abbrev TM := StateT TreeCtx M

/-- A computation over the module's state, in the thatcher. -/
def liftT {α : Type} (m : M α) : TM α := fun c => do
  let a ← m
  pure (a, c)

/-- The operation under way. -/
def theRun : TM TreeRun := do pure (← get).run

/-- Flags that land on a core. -/
def flagOn (core : Nat) (f : Flags) : TM Unit := modify fun c => { c with flags := c.flags ++ [(core, f)] }

/-- Flags that land on the core of the step. -/
def flagStep (f : Flags) : TM Unit := do flagOn (← get).stepCore f

/-- Flags of a step that the thatcher performs alone (R132). -/
def flagAlone (f : Flags) : TM Unit := do flagOn (← theRun).core f

/-- TREE_FORMAT (R176). -/
def treeFormatM {α : Type} (tval : Word) : TM α := liftT (trapM 0x11 0 tval)

/-! ## Memory (R137, R104, R184) -/

/-- The thatcher may use an address: global memory, the loft, or the scratchpad below its stack (R137). What CONTRACT names
beside its block is held to the same list, which is the model's choice (assumption 83); so is that an address in the hole
passes here and raises its own WINDOW_HOLE under R66 (assumption 110). -/
def treeAddress (s : State) (core : Nat) (a : Word) (n : Nat) : Bool :=
  match s.windowOf core a.toNat with
  | (.tcm, _) => false
  | (.pad, off) => decide (off + n ≤ 0xF_C000)
  | _ => true

/-- A range that the thatcher touches for a core, translated at the core's privilege (R137, R86). -/
def treeSpans (acc : Acc) (a : Word) (n : Nat) : TM Spans := do
  let core := (← theRun).core
  let s ← liftT get
  if treeAddress s core a n = false then treeFormatM a
  else liftT (spansOf core (s.rootOf core) (bits (s.hart core).traps.status 1 0) acc a.toNat n false)

/-- The thatcher's access for a core to translated places waits where it must: what the step has done is discarded, and the
whole step is made again (R101, R141). -/
def treeWait (l : Spans) : TM Unit := do
  let core := (← theRun).core
  let s ← liftT get
  match s.unitWaits core l with
  | (true, _) => liftT (parkM (.places l))
  | (false, s) => liftT (set s)

/-- What is left of a computation of the thatcher that must wait: the messages that it waits for are on their way. -/
def State.waitTree (s : State) (core : Nat) (e : Stop) : State :=
  match e with
  | .park (.places l) _ => (s.unitWaits core l).2
  | .park (.scopeMiss u) _ => if s.mustWait core u none then s else s.tagMiss u
  | _ => s

/-- Bytes that the thatcher reads at translated places. A poisoned word stops it with MACHINE_CHECK (R184, R421). -/
def treeReadAt (l : Spans) : TM (List Byte) := do
  treeWait l
  let s ← liftT get
  match s.poisonSpans l with
  | some w => liftT (throw (.trap (interruptCause 0x01 2) w))
  | none =>
    let (d, s) := s.engineReadSpans l
    liftT (set s)
    pure d

/-- Bytes that the thatcher reads. -/
def treeRead (a : Word) (n : Nat) : TM (List Byte) := do treeReadAt (← treeSpans .load a n)

/-- Bytes that the thatcher writes. -/
def treeWrite (a : Word) (d : List Byte) : TM Unit := do
  let l ← treeSpans .store a d.length
  treeWait l
  liftT (modify fun s => s.engineWriteSpans l d)

/-- Words of a record. -/
def treeWords (a : Word) (n : Nat) : TM (List Nat) := do
  let d ← treeRead a (8 * n)
  pure ((List.range n).map (fun i => natOf ((d.drop (8 * i)).take 8)))

/-! ## Nodes and views (R134, R135, R138) -/

/-- A node as read, or a view of a leaf: the place of a view in its leaf's data, the edge of that leaf, and whether this
operation allocated the node (R138, R144). -/
structure TNode where
  typ : Nat
  edge : Nat
  fmt : BitVec 4
  rank : Nat
  coll : Bool
  scale : Nat
  ptr : Nat
  row : Nat
  col : Nat
  big : Nat
  view : Bool
  own : Bool
  deriving DecidableEq, Repr

/-- The exclusive-or of the four 16-bit halves of a word. -/
def halves (w : Nat) : Nat := ((w % 2 ^ 16 ^^^ w / 2 ^ 16 % 2 ^ 16) ^^^ w / 2 ^ 32 % 2 ^ 16) ^^^ w / 2 ^ 48 % 2 ^ 16

/-- CHECK of R134. -/
def nodeCheck (w0 w1 w2 gen : Nat) : Nat := ((halves w0 ^^^ halves w1) ^^^ halves w2) ^^^ gen

/-- Whether a node's words fail R135: FMT and EDGE are as expected, and in the node pool GEN is the pool's. -/
def nodeBad (w0 w1 w2 w3 : Nat) (fmt : BitVec 4) (edge : Option Nat) (poolGen : Option Nat) : Bool :=
  let f (w hi lo : Nat) : Nat := w / 2 ^ lo % 2 ^ (hi + 1 - lo)
  let typ := f w0 63 60
  let ed := f w0 59 56
  let rank := f w0 51 48
  let gen := f w3 31 16
  let align := if typ = 0 then 128 else if typ ≤ 2 then 1 else 64
  decide (5 < typ ∨ ed = 0 ∨ 12 < ed ∨ f w0 47 34 ≠ 0 ∨ f w0 31 0 ≠ 0 ∨ f w1 63 32 ≠ 0 ∨ f w3 63 32 ≠ 0) ||
    decide ((typ = 4 ∧ (rank = 0 ∨ 8 < rank)) ∨ (typ ≠ 4 ∧ rank ≠ 0)) || decide (typ ≠ 2 ∧ w1 % 2 ^ 32 ≠ 0) ||
    f w3 15 0 != nodeCheck w0 w1 w2 gen || decide (typ = 0 ∧ ed = 1) ||
    (match edge with | some e => ed != e | none => false) || f w0 55 52 != fmt.toNat ||
    (typ == 2 && (match fdecode fp32 (w1 % 2 ^ 32) with | .fin _ _ _ => false | _ => true)) ||
    w2 % align != 0 || ((typ == 1 || typ == 2) && w2 != 0) || (match poolGen with | some g => gen != g | none => false)

/-- A node read and checked (R135); a scaled identity of scale zero is a zero leaf. -/
def readNode (a : Nat) (fmt : BitVec 4) (edge : Option Nat) (own : Bool) : TM TNode := do
  let va : Word := BitVec.ofNat 64 a
  if va.toNat % 32 ≠ 0 then treeFormatM va else
  let w ← treeWords va 4
  let r ← theRun
  let w0 := nth w 0 0
  let w1 := nth w 1 0
  let inPool := decide (r.npool.base ≤ va.toNat ∧ va.toNat < r.npool.next)
  if nodeBad w0 w1 (nth w 2 0) (nth w 3 0) fmt edge (if inPool then some r.npool.gen.toNat else none) then treeFormatM va else
  let typ := w0 / 2 ^ 60
  let zero := decide (typ = 2) && (match fdecode fp32 (w1 % 2 ^ 32) with | .fin _ m _ => m == 0 | _ => false)
  let ed := w0 / 2 ^ 56 % 16
  pure { typ := if zero then 1 else typ, edge := ed, fmt := fmt, rank := w0 / 2 ^ 48 % 16
         coll := w0 / 2 ^ 33 % 2 == 1, scale := if zero then 0 else w1 % 2 ^ 32, ptr := nth w 2 0, row := 0, col := 0
         big := 2 ^ ed, view := false, own := own }

/-- A node that this operation makes, in the result format. -/
def newNode (r : TreeRun) (typ edge : Nat) : TNode :=
  { typ := typ, edge := edge, fmt := r.smp.fc, rank := 0, coll := false, scale := 0, ptr := 0, row := 0, col := 0
    big := 2 ^ edge, view := false, own := true }

/-- A node written by the thatcher: RES set, the pool's GEN, and CHECK (R134). -/
def writeNode (a : Nat) (n : TNode) : TM Unit := do
  let r ← theRun
  let w0 := n.typ * 2 ^ 60 + n.edge * 2 ^ 56 + n.fmt.toNat * 2 ^ 52 + (if n.typ = 4 then n.rank else 0) * 2 ^ 48 +
    (if n.coll then 2 ^ 33 else 0) + 2 ^ 32
  let w1 := if n.typ = 2 then n.scale else 0
  let w2 := if n.typ = 1 ∨ n.typ = 2 then 0 else n.ptr
  let g := r.npool.gen.toNat
  let w3 := g * 2 ^ 16 + nodeCheck w0 w1 w2 g
  treeWrite (BitVec.ofNat 64 a) ([w0, w1, w2, w3].flatMap (fun w => bytesOf w 8))

/-- Quadrant q of a leaf or view, read in place (R138). -/
def TNode.quadrant (n : TNode) (q : Nat) : TNode :=
  let i := q / 2
  let j := q % 2
  let half := 2 ^ n.edge / 2
  let zero := n.typ == 1 || ((n.typ == 2 || n.typ == 3) && i != j)
  { n with edge := n.edge - 1, typ := if zero then 1 else n.typ, rank := if zero then 0 else n.rank, coll := false
           scale := if zero then 0 else n.scale, ptr := if zero then 0 else n.ptr, view := true, own := false
           row := n.row + i * half, col := n.col + j * half }

/-- Quadrant q of an operand: a child node, or a view (R138). -/
def childOf (n : TNode) (q : Nat) : TM TNode :=
  if n.typ = 0 then readNode (n.ptr + 32 * q) n.fmt (some (n.edge - 1)) n.own else pure (n.quadrant q)

/-! ## Leaf data (R136, R84, R124) -/

/-- The decode tables of a core, which a format's use needs validated (R122, R123). -/
def tablesOf (core : Nat) (f : BitVec 4) : TM (List (Option DecodeTable)) := do
  let tabs := ((← liftT get).hart core).tables.toList
  if tableFmt f && ((tabs[slotOf f]?).getD none).isNone then liftT (operandM 0) else pure tabs

/-- Consecutive elements of a leaf's data from element index first on, decoded for a core (R123). -/
def treeElems (n : TNode) (first count : Nat) (core : Nat) : TM (List FVal) := do
  let tabs ← tablesOf core n.fmt
  let w := fmtBits n.fmt
  let bit0 := first * w
  let nb := (bit0 % 8 + count * w + 7) / 8
  let d ← treeRead (BitVec.ofNat 64 (n.ptr + bit0 / 8)) nb
  let v := natOf d / 2 ^ (bit0 % 8)
  pure ((List.range count).map (fun k => matValue tabs n.fmt (v / 2 ^ (w * k) % 2 ^ w)))

/-- A leaf's data: one value for an identity, n for a diagonal, n rows for a dense leaf, and U and V by rows for a
low-rank one. -/
inductive LeafData where
  | scalar (v : FVal)
  | diag (l : List FVal)
  | dense (rows : List (List FVal))
  | lowRank (u v : List (List FVal))
  | zero
  deriving DecidableEq, Repr

/-- The data of a leaf or view, decoded for a core (R123, R136, R138). -/
def leafData (n : TNode) (core : Nat) : TM LeafData := do
  let e := 2 ^ n.edge
  match n.typ with
  | 2 => pure (.scalar (fdecode fp32 n.scale))
  | 3 => do pure (.diag (← treeElems n n.row e core))
  | 4 => do
    let cols ← (List.range n.rank).mapM fun c => treeElems n (c * n.big + n.row) e core
    let v ← (List.range n.rank).mapM fun c => treeElems n (n.big * n.rank + c * n.big + n.col) e core
    pure (.lowRank ((List.range e).map (fun i => cols.map (fun c => nth c i (.fin false 0 0)))) v)
  | 5 => do pure (.dense (← (List.range e).mapM fun i => treeElems n ((n.row + i) * n.big + n.col) e core))
  | _ => pure .zero

/-! ## Pools (R146, R147) -/

/-- An allocation of n bytes in the node pool (R147, R148). -/
def allocNode (n : Nat) : TM Nat := do
  let r ← theRun
  if r.npool.limit < r.npool.next + n then liftT (trapM 0x12 1 r.npool.desc)
  else do
    modify fun c => { c with run := { c.run with npool := { c.run.npool with next := c.run.npool.next + n } } }
    pure r.npool.next

/-- New leaf data in the data pool: the codes packed, rounded up to 64 bytes (R136, R147). The bytes that round it up are
written as zero, which is the model's choice (assumption 79). -/
def putLeaf (codes : List Nat) : TM Nat := do
  let r ← theRun
  let w := fmtBits r.smp.fc
  let size := ((codes.length * w + 7) / 8 + 63) / 64 * 64
  if r.dpool.limit < r.dpool.next + size then liftT (trapM 0x12 2 r.dpool.desc)
  else do
    let v := codes.foldr (fun c acc => acc * 2 ^ w + c % 2 ^ w) 0
    treeWrite (BitVec.ofNat 64 r.dpool.next) (bytesOf v size)
    modify fun c => { c with run := { c.run with dpool := { c.run.dpool with next := c.run.dpool.next + size } } }
    pure r.dpool.next

/-! ## Arithmetic (R117, R126, R129, R133, R143, R144) -/

/-- A value rounded into a float format. -/
def roundVal (f : FFmt) (v : FVal) : FRes :=
  match v with
  | .nan s => (qnan f, if s then flagNV else 0)
  | .inf n => (finf f n, 0)
  | .fin n m e => fround f n m e false

/-- A scaled product rounded once. -/
def roundProduct (f : FFmt) (p : Product) : FRes :=
  match p with
  | .nan inv => (qnan f, if inv then flagNV else 0)
  | .inf n => (finf f n, 0)
  | .fin n m e => fround f n m e false

/-- A sum of two values rounded once. -/
def roundSum (f : FFmt) (a b : FVal) : FRes :=
  match a, b with
  | .fin na ma ea, .fin nb mb eb => roundDyadic f ((dyadicOf na ma ea).add (dyadicOf nb mb eb)) (na && nb)
  | .inf na, .inf nb => if na = nb then (finf f na, 0) else (qnan f, flagNV)
  | .inf na, .fin _ _ _ => (finf f na, 0)
  | .fin _ _ _, .inf nb => (finf f nb, 0)
  | x, y => (qnan f, snanFlag x y)

/-- R129 into FP32 from a start value, then once into the result format. -/
def dotRound (fc : BitVec 4) (g : Nat) (start : FVal) (l : List Product) : FRes :=
  let c := roundVal fp32 start
  let r := accumulate g c.1 l
  if fc = 0 then (r.1, r.2 ||| c.2)
  else let q := fconvert fp32 (fmtOf fc) r.1; (q.1, r.2 ||| c.2 ||| q.2)

/-- The value +0. -/
def fzeroVal : FVal := .fin false 0 0

/-- The columns of rows. -/
def transpose (n : Nat) (rows : List (List FVal)) : List (List FVal) :=
  (List.range n).map (fun j => rows.map (fun r => nth r j fzeroVal))

/-- The results' codes, and their flags raised on a core. -/
def codesOn (core : Nat) (l : List FRes) : TM (List Nat) := do
  flagOn core (l.foldl (fun f r => f ||| r.2) 0)
  pure (l.map (·.1))

/-- The results' codes, and their flags raised on the step's core. -/
def codesOf (l : List FRes) : TM (List Nat) := do codesOn (← get).stepCore l

/-- What the matrix engine of a core makes of p × q elements that are products of depth d, in tiles of 16 × 16: the words are
open where a faulty sub-array formed a chunk of the step (R188, R406). -/
def engineOut (core p q d : Nat) (fc : BitVec 4) (rows : List (List FRes)) : TM (List (List FRes)) := do
  let r ← theRun
  modify fun c => { c with work := c.work ++ [(core, (p + 15) / 16 * ((q + 15) / 16), d)] }
  if r.spent.any (fun w => w.1 == core && w.2.2) = false then pure rows
  else rows.mapM fun l => do
    let s ← liftT get
    let (open_, s) := s.openWords l.length
    liftT (set s)
    pure (open_.map fun q => if fc = 0 then q else let t := fconvert fp32 (fmtOf fc) q.1; (t.1, q.2 ||| t.2))

/-- A value of a code in the result format is zero, of either sign. -/
def zeroCode (tabs : List (Option DecodeTable)) (fc : BitVec 4) (c : Nat) : Bool :=
  match matValue tabs fc c with
  | .fin _ m _ => m == 0
  | _ => false

/-- A new leaf from its codes, collapsed under ZC when every element of a diagonal or dense one is zero (R145). -/
def makeLeaf (typ edge rank : Nat) (codes : List Nat) : TM TNode := do
  let ptr ← putLeaf codes
  let r ← theRun
  let tabs := ((← liftT get).hart r.core).tables.toList
  if r.smp.tfl.getLsbD 0 && (typ == 3 || typ == 5) && codes.all (zeroCode tabs r.smp.fc) then
    pure { newNode r 1 edge with coll := true }
  else pure { newNode r typ edge with rank := rank, ptr := ptr }

/-- Low-rank data in the order of R136: U by columns, then V by rows. -/
def lowRankCodes (rank n : Nat) (u v : List (List Nat)) : List Nat :=
  (List.range rank).flatMap (fun c => (List.range n).map (fun i => nth (nth u i []) c 0)) ++ v.flatten

/-- Rows of results as rows of codes. -/
def codeRows (l : List (List FRes)) : TM (List (List Nat)) := l.mapM codesOf

/-- α is +1 or −1. -/
def isUnit (v : FVal) : Bool :=
  match v with
  | .fin _ m e => decide (e ≤ 0) && m == 2 ^ (-e).toNat
  | _ => false

/-- A dense product goes to the gang of the cluster (R142). -/
def gangTakes (a b : TNode) : TM Bool := do
  let r ← theRun
  let s ← liftT get
  pure (a.typ == 5 && b.typ == 5 && decide (6 ≤ a.edge) && !r.smp.tfl.getLsbD 1 &&
    (s.hart (16 * clusterOf r.core)).gang.gang.isSome)

/-- An engine takes a step: its queue has room (R142), no quiz product is due (R188), and its table loads are installed, for
the step's use of the tables waits for them (R123). -/
def State.engineTakes (s : State) (c : Nat) : Bool :=
  let e := (s.hart c).engine
  decide (e.queue.length < 2) && !s.quizDue c && (List.range 4).all (fun n => e.tablePending n = false)

/-- The product of two dense leaves on the gang: member 4r + c forms the 16 × 16 blocks of row r and column c, modulo four,
with its own tables, and its flags and words are its own (R123, R132, R142, R414). That the flags of a member outside the
enrolled cores land on the step's core, for the sum of R150 to be the same when the operation is resumed without its gang, is
the model's choice (assumption 111). -/
def gangProduct (a b : TNode) : TM TNode := do
  let r ← theRun
  let n := 2 ^ a.edge
  let cs := coresOf (clusterOf r.core)
  let s ← liftT get
  if r.spent = [] ∧ cs.all s.engineTakes = false then liftT (parkM .thatcher) else
  let at_ := (← get).stepCore
  let parts ← cs.mapM fun c => do
    let da ← leafData a c
    let db ← leafData b c
    match da, db with
    | .dense x, .dense y =>
      let cols := transpose n y
      let mine (k : Nat) (w : Nat) : List Nat := (List.range n).filter (fun i => i / 16 % 4 == (k / w) % 4)
      let rows := (mine (c % 16) 4).map fun i => (mine (c % 16) 1).map fun j =>
        dotRound r.smp.fc (groupSize r.smp.fa r.smp.fb) fzeroVal
          (((nth x i []).zip (nth cols j [])).map (fun p => product (r.smp.ea + r.smp.eb) p.1 p.2))
      let out ← engineOut c (n / 4) (n / 4) n r.smp.fc rows
      out.mapM (codesOn (if r.smp.tset.getLsbD (c % 16) then c else at_))
    | _, _ => pure []
  let code (i j : Nat) : Nat :=
    nth (nth (nth parts (i / 16 % 4 * 4 + j / 16 % 4) []) (i / 64 * 16 + i % 16) []) (j / 64 * 16 + j % 16) 0
  makeLeaf 5 a.edge 0 ((List.range n).flatMap fun i => (List.range n).map (code i))

/-- The product of two leaves or views (R143). The scales apply to each product of elements of A and B; the second product
of two low-rank leaves, with M, has none, which is the model's choice (assumption 80). -/
def leafProduct (a b : TNode) : TM TNode := do
  let r ← theRun
  let n := 2 ^ a.edge
  if a.typ = 1 ∨ b.typ = 1 then pure (newNode r 1 a.edge) else
  if ← gangTakes a b then gangProduct a b else
  let at_ := (← get).stepCore
  let da ← leafData a at_
  let db ← leafData b at_
  let sc := r.smp.ea + r.smp.eb
  let f := fmtOf r.smp.fc
  let g := groupSize r.smp.fa r.smp.fb
  let mul (x y : FVal) : FRes := roundProduct f (product sc x y)
  let conv (rows : List (List FVal)) : List (List FRes) := rows.map (fun l => l.map (roundVal f))
  let dot (x y : List FVal) : FRes := dotRound r.smp.fc g fzeroVal ((x.zip y).map (fun p => product sc p.1 p.2))
  let lowRank (rank : Nat) (u v : List (List FRes)) : TM TNode := do
    let cu ← codeRows u
    let cv ← codeRows v
    makeLeaf 4 a.edge rank (lowRankCodes rank n cu cv)
  let scaled (al : FVal) (x : LeafData) (left : Bool) (rank : Nat) : TM TNode := do
    let exact := isUnit al && sc == 0
    let one (y : FVal) : FRes := let q := mul al y; (q.1, if exact then 0 else q.2)
    let kept (rows : List (List FVal)) : List (List FRes) :=
      (conv rows).map (fun l => l.map (fun q => (q.1, if exact then 0 else q.2)))
    match x with
    | .diag l => do makeLeaf 3 a.edge 0 (← codesOf (l.map one))
    | .dense rows => do makeLeaf 5 a.edge 0 (← codeRows (rows.map (fun l => l.map one))).flatten
    | .lowRank u v =>
      if left then lowRank rank (u.map (fun l => l.map one)) (kept v)
      else lowRank rank (kept u) (v.map (fun l => l.map one))
    | _ => pure (newNode r 1 a.edge)
  match da, db with
  | .scalar x, .scalar y => do
    let q := roundProduct fp32 (product sc x y)
    flagAlone q.2
    if q.1 % 2 ^ 31 = 0 then pure (newNode r 1 a.edge) else pure { newNode r 2 a.edge with scale := q.1 }
  | .scalar x, y => scaled x y true b.rank
  | x, .scalar y => scaled y x false a.rank
  | .diag x, .diag y => do makeLeaf 3 a.edge 0 (← codesOf ((x.zip y).map (fun p => mul p.1 p.2)))
  | .diag x, .dense rows => do
    makeLeaf 5 a.edge 0 (← codeRows ((x.zip rows).map (fun p => p.2.map (mul p.1)))).flatten
  | .dense rows, .diag y => do
    makeLeaf 5 a.edge 0 (← codeRows (rows.map (fun l => (l.zip y).map (fun p => mul p.1 p.2)))).flatten
  | .diag x, .lowRank u v => lowRank b.rank ((x.zip u).map (fun p => p.2.map (mul p.1))) (conv v)
  | .lowRank u v, .diag y => lowRank a.rank (conv u) (v.map (fun l => (l.zip y).map (fun p => mul p.1 p.2)))
  | .lowRank u v, .dense rows => do
    let cols := transpose n rows
    lowRank a.rank (conv u) (← engineOut at_ a.rank n n r.smp.fc (v.map (fun l => cols.map (dot l))))
  | .dense rows, .lowRank u v => do
    let cols := transpose b.rank u
    lowRank b.rank (← engineOut at_ n b.rank n r.smp.fc (rows.map (fun l => cols.map (dot l)))) (conv v)
  | .lowRank u1 v1, .lowRank u2 v2 => do
    let cols := transpose b.rank u2
    let m ← engineOut at_ a.rank b.rank n 0
      (v1.map (fun l => cols.map (fun c => accumulate g 0 ((l.zip c).map (fun p => product sc p.1 p.2)))))
    flagStep (m.flatten.foldl (fun f q => f ||| q.2) 0)
    let mv := m.map (fun l => l.map (fun q => fdecode fp32 q.1))
    let once (x y : List FVal) : FRes := dotRound r.smp.fc 16 fzeroVal ((x.zip y).map (fun p => product 0 p.1 p.2))
    if a.rank ≤ b.rank then
      let vcols := transpose n v2
      lowRank a.rank (conv u1) (← engineOut at_ a.rank n b.rank r.smp.fc (mv.map (fun l => vcols.map (once l))))
    else
      let mcols := transpose b.rank mv
      lowRank b.rank (← engineOut at_ n b.rank a.rank r.smp.fc (u1.map (fun l => mcols.map (once l)))) (conv v2)
  | .dense x, .dense y => do
    let cols := transpose n y
    makeLeaf 5 a.edge 0 (← codeRows (← engineOut at_ n n n r.smp.fc (x.map (fun l => cols.map (dot l))))).flatten
  | _, _ => pure (newNode r 1 a.edge)

/-- An identity, diagonal or dense leaf's elements as n rows. -/
def fullRows (n : Nat) (d : LeafData) : List (List FVal) :=
  let at_ (i j : Nat) : FVal :=
    match d with
    | .scalar v => if i = j then v else fzeroVal
    | .diag l => if i = j then nth l i fzeroVal else fzeroVal
    | .dense rows => nth (nth rows i []) j fzeroVal
    | _ => fzeroVal
  (List.range n).map (fun i => (List.range n).map (at_ i))

/-- The elements of a diagonal, or of an identity as one. -/
def diagOf (n : Nat) (d : LeafData) : List FVal :=
  match d with
  | .scalar v => List.replicate n v
  | .diag l => l
  | _ => []

/-- The sum of two leaves or views neither of which is zero (R144). -/
def leafSum (x y : TNode) : TM TNode := do
  let r ← theRun
  let n := 2 ^ x.edge
  let at_ := (← get).stepCore
  let dx ← leafData x at_
  let dy ← leafData y at_
  let f := fmtOf r.smp.fc
  let withLow (start : LeafData) (u v : List (List FVal)) (g : Nat) : TM TNode := do
    let cols := transpose n v
    let rows := (fullRows n start).zip u
    makeLeaf 5 x.edge 0 (← codeRows (← engineOut at_ n n v.length r.smp.fc (rows.map (fun p => (p.1.zip cols).map (fun q =>
      dotRound r.smp.fc g q.1 ((p.2.zip q.2).map (fun t => product 0 t.1 t.2))))))).flatten
  let plain (p q : LeafData) : TM TNode := do
    let rows := (fullRows n p).zip (fullRows n q)
    makeLeaf 5 x.edge 0 (← codeRows (rows.map (fun t => (t.1.zip t.2).map (fun e => roundSum f e.1 e.2)))).flatten
  match dx, dy with
  | .scalar p, .scalar q => do
    let s := roundSum fp32 p q
    flagAlone s.2
    if s.1 % 2 ^ 31 = 0 then pure (newNode r 1 x.edge) else pure { newNode r 2 x.edge with scale := s.1 }
  | .lowRank u1 v1, .lowRank u2 v2 =>
    let u := (u1.zip u2).map (fun p => p.1 ++ p.2)
    let v := v1 ++ v2
    let rank := x.rank + y.rank
    if rank ≤ r.smp.cap then do
      let cu ← codeRows (u.map (fun l => l.map (roundVal f)))
      let cv ← codeRows (v.map (fun l => l.map (roundVal f)))
      makeLeaf 4 x.edge rank (lowRankCodes rank n cu cv)
    else withLow .zero u v (groupSize x.fmt y.fmt)
  | .lowRank u v, d => withLow d u v (groupSize x.fmt x.fmt)
  | d, .lowRank u v => withLow d u v (groupSize y.fmt y.fmt)
  | .dense p, d => plain (.dense p) d
  | d, .dense q => plain d (.dense q)
  | p, q => do makeLeaf 3 x.edge 0 (← codesOf (((diagOf n p).zip (diagOf n q)).map (fun t => roundSum f t.1 t.2)))

/-- A leaf's value in the result format of a copy: rounded, or encoded with the issuing core's table (R123, R420). -/
def copyCode (tabs : List (Option DecodeTable)) (fc : BitVec 4) (v : FVal) : FRes :=
  if tableFmt fc then
    match (tabs[slotOf fc]?).getD none with
    | none => (0, 0)
    | some tb => match v with
      | .nan s => encodeCode tb (isT4 fc) (if s then 0x7F80_0001 else 0x7FC0_0000)
      | .inf neg => encodeCode tb (isT4 fc) (finf fp32 neg)
      | .fin neg m e => encodeCode tb (isT4 fc) (fround fp32 neg m e false).1
  else roundVal (fmtOf fc) v

/-- The copy of a leaf or view made as TCONV makes one, by the thatcher alone (R144, R420). -/
def copyLeaf (x : TNode) : TM TNode := do
  let r ← theRun
  let d ← leafData x r.core
  let tabs := ((← liftT get).hart r.core).tables.toList
  let codes (l : List FVal) : TM (List Nat) := do
    let q := l.map (copyCode tabs r.smp.fc)
    flagAlone (q.foldl (fun f r => f ||| r.2) 0)
    pure (q.map (·.1))
  match d with
  | .scalar _ => pure { newNode r 2 x.edge with scale := x.scale }
  | .diag l => do makeLeaf 3 x.edge 0 (← codes l)
  | .dense rows => do makeLeaf 5 x.edge 0 (← codes rows.flatten)
  | .lowRank u v => do
    let cu ← u.mapM codes
    let cv ← v.mapM codes
    makeLeaf 4 x.edge x.rank (lowRankCodes x.rank (2 ^ x.edge) cu cv)
  | .zero => pure (newNode r 1 x.edge)

end Sys2Proof.Machine
end

