-- ==== Sys2Proof/Machine/Tree.lean ====
section
/-! DEFINITION. Tree.lean: tree instructions and contraction, and the thatcher's start, steps and completion (R139 to
R153, R419 to R423). -/

namespace Sys2Proof.Machine

/-! ## Issue (R420, R421, R423) -/

/-- The thatcher holds or awaits core c's instruction. -/
def Cluster.serves (k : Cluster) (c : Nat) : Bool :=
  k.treeWait.any (fun w => w.core == c) || (match k.treeRun with | some r => r.core == c | none => false)

/-- A core's table loads are all installed (R123). -/
def MatEngine.tablesSettled (e : MatEngine) : Bool := (List.range 4).all (fun n => e.tablePending n = false)

/-- An instruction for the thatcher: it asks once, waits, and completes with the thatcher's answer (R421). -/
def treeM (kind : TreeKind) (resume : Bool) (a b dest : Word) (con : M (Option Contract)) : M Unit := do
  answerM
  let s ← get
  if s.me.answer = some .done then set (s.modMe fun h => { h with answer := none })
  else if (s.cluster (clusterOf s.cur)).serves s.cur then parkM .thatcher
  else do
    let block ← con
    if s.me.engine.tablesSettled = false then parkM .engine
    else do
      emptyBufferM
      doM fun s => s.modCluster (clusterOf s.cur) fun k =>
        { k with treeWait := k.treeWait ++ [⟨s.cur, kind, resume, a, b, dest, block⟩] }
      parkM .thatcher

/-- TREEMUL (R420). -/
def execTreemul (d b a : BitVec 6) (s : State) : Host.Outcome State Fault Refusal :=
  runHead acceptMain (headOf 0x6E 2 d.toNat) [d, b, a] [] 0
    (do treeM .mul false (s.x a) (s.x b) (s.x d) (pure none); doM State.retire) s

/-- TREEADD (R420). -/
def execTreeadd (d b a : BitVec 6) (s : State) : Host.Outcome State Fault Refusal :=
  runHead acceptMain (headOf 0x6E 2 d.toNat) [d, b, a] [] 0
    (do treeM .add false (s.x a) (s.x b) (s.x d) (pure none); doM State.retire) s

/-- TCONV (R420). -/
def execTconv (d a : BitVec 6) (s : State) : Host.Outcome State Fault Refusal :=
  runHead acceptMain (headOf 0x6E 2 d.toNat) [d, a] [] 0
    (do treeM .conv false (s.x a) 0 (s.x d) (pure none); doM State.retire) s

/-- TRESUME (R150, R420). -/
def execTresume (s : State) : Host.Outcome State Fault Refusal :=
  runHead acceptMain (headOf 0x6E 2 0) [] [] 0
    (do treeM .mul true 0 0 0 (pure none); doM State.retire) s

/-! ## Parameter blocks (R152, R153) -/

/-- The indices that a string of four positions names, and whether its positions are legal: 0 to n − 1, then 0xF, with no
repeat. -/
def indexString (n v : Nat) : List Nat × Bool :=
  let pos := (List.range 4).map (fun i => v / 16 ^ i % 16)
  let used := pos.takeWhile (fun p => p != 15)
  (used, (pos.drop used.length).all (fun p => p == 15) && used.all (fun p => decide (p < n)) && decide used.Nodup)

/-- An operand descriptor's words. -/
def conOperand (w : List Word) (i : Nat) : ConOperand :=
  let w1 := nth w (i + 1) 0
  { base := nth w i 0, kind := bits w1 2 0, fmt := BitVec.ofNat 4 (bits w1 7 4), edge := bits w1 15 8
    ptrs := nth w (i + 2) 0, cols := nth w (i + 3) 0 }

/-- The descriptor's fields are legal for an operand of n indices. -/
def ConOperand.ok (o : ConOperand) (w1 : Word) (n : Nat) : Bool :=
  let sparse := o.kind == 2 || o.kind == 3
  bits w1 63 16 == 0 && bits w1 3 3 == 0 && decide (o.kind ≤ 5) && matFmt o.fmt &&
    (if o.kind = 3 then decide (1 ≤ o.edge ∧ o.edge ≤ 6) else o.edge == 0) &&
    (sparse || (o.kind == 5 && bits o.cols 63 32 == 0) || (o.ptrs == 0 && o.cols == 0)) &&
    (decide (o.kind ≤ 1) || n == 2)

/-- A parameter block as checked under R153, except for quadtree edges. -/
def readContract (w : List Word) (cfmt : BitVec 4) (valid : BitVec 4 → Bool) : Option Contract :=
  let w0 := nth w 0 0
  let n := bits w0 2 0
  let ia := indexString n (bits w0 31 16)
  let ib := indexString n (bits w0 47 32)
  let ic := indexString n (bits w0 63 48)
  let ext := (List.range 6).map (fun m => bits (nth w (1 + m / 2) 0) (32 * (m % 2) + 31) (32 * (m % 2)))
  let a := conOperand w 4
  let b := conOperand w 8
  let c := conOperand w 12
  let shared (m : Nat) : Bool :=
    let k := (if ia.1.contains m then 1 else 0) + (if ib.1.contains m then 1 else 0) + (if ic.1.contains m then 1 else 0)
    k != 1
  if bits w0 15 4 == 0 && decide (1 ≤ n ∧ n ≤ 6) && ia.2 && ib.2 && ic.2 &&
      (List.range n).all (fun m => decide (1 ≤ nth ext m 0 ∧ nth ext m 0 ≤ 2 ^ 24) && shared m) &&
      a.ok (nth w 5 0) ia.1.length && b.ok (nth w 9 0) ib.1.length && c.ok (nth w 13 0) ic.1.length &&
      decide (c.kind ≤ 1) && c.fmt == cfmt && valid a.fmt && valid b.fmt then
    some { idxA := ia.1, idxB := ib.1, idxC := ic.1, acc := bit w0 3, ext := ext.take n, opA := a, opB := b, opC := c }
  else none

/-- A format's slot holds a table, when it is a table format (R122). -/
def Hart.slotValid (h : Hart) (f : BitVec 4) : Bool := !tableFmt f || ((h.tables[slotOf f]?).getD none).isSome

/-- CONTRACT reads its block before it commits (R423). -/
def execContract (b : BitVec 6) (s : State) : Host.Outcome State Fault Refusal :=
  let blk := s.x b
  runHead acceptMain (headOf 0x6F 2 0) [b] [] 0 (do
    treeM .contract false blk 0 0 (do
      if blk.toNat % 64 ≠ 0 then operandM blk
      else if s.me.engine.tablesSettled = false then parkM .engine
      else do
        let w ← loadWords blk 16
        match readContract w (BitVec.ofNat 4 (bits s.me.mat.cfmt 3 0)) s.me.slotValid with
        | some c => pure (some c)
        | none => operandM blk)
    doM State.retire) s

/-! ## Starting (R140, R141, R146, R150) -/

/-- A core can take steps (R140). -/
def State.canStep (s : State) (c : Nat) : Bool := !s.fencedCore c && decide (0 < s.subArrays c)

/-- The samples of R140. -/
def Hart.treeSample (h : Hart) : TreeSample :=
  { tset := BitVec.ofNat 16 (bits h.tree.treeset 15 0), tfl := BitVec.ofNat 2 (bits h.tree.tflags 1 0)
    cap := bits h.tree.rankcap 3 0, fa := BitVec.ofNat 4 (bits h.mat.afmt 3 0), fb := BitVec.ofNat 4 (bits h.mat.bfmt 3 0)
    fc := BitVec.ofNat 4 (bits h.mat.cfmt 3 0), ea := scaleOf h.mat.ascale, eb := scaleOf h.mat.bscale }

/-- The operand faults of R140 at a start; for TCONV any matrix format may be the result's (R420). That the start also raises
OPERAND for a table format whose slot is invalid on the issuing core, as R122 has any use of such a slot do though the steps
decode with their own cores' tables, is the model's choice (assumption 112). -/
def State.sampleOk (s : State) (c : Nat) (kind : TreeKind) (m : TreeSample) : Bool :=
  let h := s.hart c
  let result := if kind = .conv then matFmt m.fc
    else m.fc == 0 || (m.fa == m.fb && (m.fa == 1 || m.fa == 2) && m.fc == m.fa)
  let slots := match kind with
    | .conv => h.slotValid m.fa && h.slotValid m.fc
    | .contract => true
    | _ => h.slotValid m.fa && h.slotValid m.fb
  (coresOf (clusterOf c)).any (fun k => m.tset.getLsbD (k % 16) && s.canStep k) && decide (m.cap ≤ 8) && matFmt m.fa &&
    matFmt m.fb && result && slots

/-- A pool descriptor read and checked (R146). A recorded NEXT counts in place of the descriptor's; only its place between BASE
and LIMIT is checked, and that fault names the record (R150). -/
def readPool (desc : Word) (unit : Nat) (recorded : Option (Nat × Word)) : TM Pool := do
  let w ← treeWords desc 4
  let base := nth w 0 0
  let limit := nth w 1 0
  let own := nth w 2 0
  let (next, name) := recorded.getD (own, desc)
  if base % unit ≠ 0 ∨ limit % unit ≠ 0 ∨ own % unit ≠ 0 ∨ own < base ∨ limit < own ∨ 2 ^ 16 ≤ nth w 3 0 then treeFormatM desc
  else if next < base ∨ limit < next then treeFormatM name
  else pure ⟨desc, base, limit, next, BitVec.ofNat 16 (nth w 3 0)⟩

/-- A pool before its descriptor is read. -/
def Pool.none_ : Pool := ⟨0, 0, 0, 0, 0⟩

/-- The descriptor that a pool register names (R139). -/
def descOf (v : Word) : Word := v &&& ~~~0x1F#64

/-- The resume record's address (R139). -/
def Hart.recordAt (h : Hart) : Word := h.tree.tresume &&& ~~~0xFF#64

/-- The expected root of an operand is read, checked and found to have the extents' edge, for a quadtree of CONTRACT. -/
def conRoot (o : ConOperand) (e0 e1 : Nat) (blk : Word) : TM Unit :=
  if o.kind = 4 then do
    let n ← readNode o.base.toNat o.fmt none false
    if 2 ^ n.edge ≠ e0 ∨ 2 ^ n.edge ≠ e1 then liftT (operandM blk) else pure ()
  else pure ()

/-- The quadtree checks of R153. -/
def conRoots (c : Contract) (blk : Word) : TM Unit := do
  let e (l : List Nat) (i : Nat) : Nat := nth c.ext (nth l i 0) 0
  conRoot c.opA (e c.idxA 0) (e c.idxA 1) blk
  conRoot c.opB (e c.idxB 0) (e c.idxB 1) blk

/-- A start: the samples, the roots' alignment and the descriptors are checked before anything is allocated. -/
def startNew (w : TreeWait) : TM Unit := do
  let s ← liftT get
  let h := s.hart w.core
  let r ← theRun
  if s.sampleOk w.core w.kind r.smp = false then liftT (operandM 0)
  else
    let roots := match w.kind with | .mul | .add => [w.a, w.b, w.dest] | .conv => [w.a, w.dest] | .contract => []
    match roots.find? (fun a => a.toNat % 32 != 0) with
    | some a => treeFormatM a
    | none =>
      let np ← readPool (descOf h.tree.npool) 128 none
      let dp ← readPool (descOf h.tree.dpool) 64 none
      modify fun c => { c with run := { c.run with npool := np, dpool := dp } }

/-- A recorded frame (R149). -/
def frameOf (v : Nat) : Frame := ⟨v / 2 ^ 32, v / 8 % 2 == 1, v / 4 % 2 == 1, BitVec.ofNat 2 (v % 4)⟩

/-- CONTRACT's block, which may lie wherever its first read took it from: in the TCM too (R423). -/
def blockWords (a : Word) : TM (List Word) := do
  let core := (← theRun).core
  let s ← liftT get
  let d ← treeReadAt (← liftT (spansOf core (s.rootOf core) (bits (s.hart core).traps.status 1 0) .load a.toNat 128 false))
  pure ((List.range 16).map (fun i => BitVec.ofNat 64 (natOf ((d.drop (8 * i)).take 8))))

/-- TRESUME takes the operation up from its record (R149, R150, R421). -/
def startResumed (w : TreeWait) : TM Unit := do
  let s ← liftT get
  let h := s.hart w.core
  let rec_ := h.recordAt
  let l ← treeWords rec_ 32
  let w0 := nth l 0 0
  let w6 := nth l 6 0
  let depth := w0 / 256 % 16
  let op := w0 / 2 ^ 12 % 16
  let stop := w0 % 256
  let frames := (List.range 12).map (fun f => nth l (8 + f) 0)
  if w0 / 2 ^ 16 % 2 ^ 16 ≠ 0 ∨ 3 < op ∨ stop = 0 ∨ 4 < stop ∨ 12 < depth ∨ 2 ^ 48 ≤ w6 ∨ w6 / 2 ^ 18 % 2 ^ 14 ≠ 0 ∨
      8 < w6 / 2 ^ 12 % 16 ∨ 2 ^ 16 ≤ nth l 20 0 ∨ ((l.drop 21).all (· == 0)) = false ∨
      ((frames.take depth).all (fun f => f / 16 % 2 ^ 28 == 0)) = false ∨ ((frames.drop depth).all (· == 0)) = false then
    treeFormatM rec_
  else
    let kind : TreeKind := match op with | 0 => .mul | 1 => .add | 2 => .conv | _ => .contract
    let smp : TreeSample :=
      { tset := BitVec.ofNat 16 (w6 / 2 ^ 32), tfl := BitVec.ofNat 2 (w6 / 2 ^ 16), cap := w6 / 2 ^ 12 % 16
        fa := BitVec.ofNat 4 w6, fb := BitVec.ofNat 4 (w6 / 16), fc := BitVec.ofNat 4 (w6 / 256)
        ea := signed 8 (nth l 20 0 % 256), eb := signed 8 (nth l 20 0 / 256) }
    let word (i : Nat) : Word := BitVec.ofNat 64 (nth l i 0)
    let done := if op = 3 then nth l 2 0 + 2 ^ 64 * nth l 3 0 else w0 / 2 ^ 32
    modify fun c => { c with run := { c.run with kind := kind, smp := smp, a := word 1, b := word 2, dest := word 3
                                                 steps := done, frames := (frames.take depth).map frameOf } }
    if s.sampleOk w.core kind smp = false then liftT (operandM 0)
    else
      let np ← readPool (descOf h.tree.npool) 128 (some (nth l 4 0, rec_))
      let dp ← readPool (descOf h.tree.dpool) 64 (some (nth l 5 0, rec_))
      if (frames.take depth).any (fun f => decide ((np.next - np.base) / 128 ≤ f / 2 ^ 32)) then treeFormatM rec_
      else
        modify fun c => { c with run := { c.run with npool := np, dpool := dp } }
        if kind = .contract then
          let b ← blockWords (word 1)
          match readContract b smp.fc h.slotValid with
          | none => liftT (operandM (word 1))
          | some con => modify fun c => { c with run := { c.run with con := some con } }
        else pure ()

/-- The roots of a product or a sum have one edge (R141), and CONTRACT's quadtrees the edges of their extents (R153). -/
def rootEdges : TM Unit := do
  let r ← theRun
  match r.con with
  | some c => conRoots c r.a
  | none =>
  match r.kind with
  | .mul | .add =>
    let a ← readNode r.a.toNat r.smp.fa none false
    let b ← readNode r.b.toNat r.smp.fb none false
    if a.edge ≠ b.edge then liftT (operandM 0) else pure ()
  | _ => pure ()

/-- What a thatcher's computation for a core comes to. -/
def State.runTree (s : State) (r : TreeRun) (stepCore : Nat) (m : TM Unit) : Except Stop TreeCtx × State :=
  let q := (m.run ⟨r, stepCore, [], []⟩).run s
  match q with
  | (.ok (_, c), t) => (.ok c, t)
  | (.error e, t) => (.error e, t)

/-! ## Stops (R148, R149, R182) -/

/-- A frame as a word (R149). -/
def Frame.word (f : Frame) : Nat :=
  f.block * 2 ^ 32 + (if f.sum then 8 else 0) + (if f.k then 4 else 0) + f.quad.toNat

/-- The frames are held in the recursion stack at the top of the cluster's scratchpad (R72, R141): the frame of level f + 1
at offset 0xF_C000 + 8 f, as a word of the resume record, which is the model's choice (assumption 87). -/
def State.holdFrames (s : State) (k : Nat) (l : List Frame) : State :=
  s.engineWrite (padHome k 0xF_C000) (l.flatMap fun f => bytesOf f.word 8)

/-- The words of the resume record (R149). For CONTRACT, whose finished tiles may be more than STEPS can say, the words of B
and DEST hold their number, which is the model's choice (assumption 88). -/
def TreeRun.record (r : TreeRun) (stop : Nat) (tval : Word) : List Nat :=
  let op := match r.kind with | .mul => 0 | .add => 1 | .conv => 2 | .contract => 3
  let scale (e : Int) : Nat := (BitVec.ofInt 8 e).toNat
  let (b, dest) := if r.kind = .contract then (r.steps % 2 ^ 64, r.steps / 2 ^ 64) else (r.b.toNat, r.dest.toNat)
  [r.steps % 2 ^ 32 * 2 ^ 32 + op * 2 ^ 12 + r.frames.length * 256 + stop, r.a.toNat, b, dest,
    r.npool.next, r.dpool.next,
    r.smp.tset.toNat * 2 ^ 32 + r.smp.tfl.toNat * 2 ^ 16 + r.smp.cap * 2 ^ 12 + r.smp.fc.toNat * 256 + r.smp.fb.toNat * 16 +
      r.smp.fa.toNat, if stop = 3 then tval.toNat else 0] ++
  (List.range 12).map (fun f => ((r.frames[f]?).map Frame.word).getD 0) ++
  [scale r.smp.eb * 256 + scale r.smp.ea] ++ List.replicate 11 0

/-- Both pools' NEXT are rewritten (R146). -/
def writeNexts : TM Unit := do
  let r ← theRun
  treeWrite (r.npool.desc + 16) (bytesOf r.npool.next 8)
  treeWrite (r.dpool.desc + 16) (bytesOf r.dpool.next 8)

/-- The stop that a failing computation comes to, its STOP code, cause and value; none where it waits and is to be made
again. A poisoned table entry that its translation met is the stop, not an interrupt still to come (R184, R421). -/
def stopOf (e : Stop) : Option (Nat × Word × Word) :=
  match e with
  | .trap c v => some (if c = faultCause 0x12 1 then 1 else if c = faultCause 0x12 2 then 2 else 3, c, v)
  | .trapAfter c v => some (3, c, v)
  | .park (.poisoned a) _ => some (3, interruptCause 0x01 2, BitVec.ofNat 64 a)
  | .park _ _ => none

/-- The operation stops: both NEXT and the record are written, and its instruction takes the trap at its successor. A fault
of these writes is the trap instead; where they must wait, the stop is made again. -/
def State.stopTree (s : State) (k : Nat) (r : TreeRun) (stop : Nat) (cause tval : Word) : State :=
  let rec_ := (s.hart r.core).recordAt
  let q := s.runTree r r.core (do
    writeNexts
    treeWrite rec_ ((r.record stop tval).flatMap (fun w => bytesOf w 8)))
  let finish (t : State) (cause tval : Word) : State :=
    (t.modCluster k fun c => { c with treeRun := none, treeWait := c.treeWait.filter (fun w => w.core != r.core) }).giveAnswer r.core
      (.trap cause tval true)
  match q.1 with
  | .ok _ => finish q.2 cause tval
  | .error e => match stopOf e with
    | some (_, c, v) => finish (match e with | .park _ _ => s | _ => q.2) c v
    | none => s.waitTree r.core e

/-- THATCHER_START: the oldest waiting instruction starts, ties to the lower core. Its start faults are precise at it; a
root that cannot be read stops it (R140, R148, R421). -/
def execThatcherStart (cluster : Nat) (s : State) : Host.Outcome State Fault Refusal :=
  let k := s.cluster cluster
  match k.treeRun, k.treeWait with
  | none, w :: rest =>
    let r : TreeRun := { core := w.core, kind := w.kind, a := w.a, b := w.b, dest := w.dest, smp := (s.hart w.core).treeSample
                         npool := .none_, dpool := .none_, frames := [], steps := 0, finished := false, con := w.con
                         at_ := none, spent := [] }
    let taken (u : State) : State := u.modCluster cluster fun k => { k with treeWait := rest }
    match s.runTree r w.core (if w.resume then startResumed w else startNew w) with
    | (.error e, _) => match stopOf e with
      | some (_, c, v) => .next ((taken s).giveAnswer w.core (.trap c v false))
      | none => .next (s.waitTree w.core e)
    | (.ok c, t) =>
      let started (u : State) : State :=
        ((taken u).modCluster cluster fun k => { k with treeRun := some c.run }).holdFrames cluster c.run.frames
      if w.resume then .next (started t)
      else match t.runTree c.run w.core rootEdges with
        | (.ok _, u) => .next (started u)
        | (.error e, _) => match stopOf e with
          | none => .next (s.waitTree w.core e)
          | some (n, c', v) =>
            if c' = faultCause 0x05 0 then .next ((taken s).giveAnswer w.core (.trap c' v false))
            else .next (s.stopTree cluster c.run n c' v)
  | _, _ => .next s

/-! ## Steps (R141 to R145, R420) -/

/-- A position of the walk: a product, a sum, a copy, or a node that stays. -/
inductive TreeOp where
  | prod (a b : TNode)
  | sum (x y : TNode)
  | copy (x : TNode)
  | keep (x : TNode)
  deriving DecidableEq, Repr

/-- The first row of R144: a zero operand leaves the other, as the node itself or as a copy. -/
def TreeOp.settled (o : TreeOp) : TreeOp :=
  let take (y : TNode) : TreeOp := if y.own && !y.view then .keep y else .copy y
  match o with
  | .sum x y => if x.typ = 1 then take y else if y.typ = 1 then take x else o
  | o => o

/-- The edge of a position. -/
def TreeOp.edge : TreeOp → Nat
  | .prod a _ => a.edge
  | .sum x _ => x.edge
  | .copy x => x.edge
  | .keep x => x.edge

/-- The position is one step: leaves and views alone, or a node that stays. -/
def TreeOp.isLeaf : TreeOp → Bool
  | .prod a b => a.typ != 0 && b.typ != 0
  | .sum x y => x.typ != 0 && y.typ != 0
  | .copy x => x.typ != 0
  | .keep _ => true

/-- A level of the walk, innermost first: its frame, its operation, and the slot of its result. -/
structure Level where
  frame : Frame
  op : TreeOp
  slot : Nat
  deriving DecidableEq, Repr

/-- The address of a frame's block. -/
def TreeRun.blockAt (r : TreeRun) (f : Frame) : Nat := r.npool.base + 128 * f.block

/-- The position that a frame of an operation stands at (R141, R144). -/
def childOp (o : TreeOp) (f : Frame) : TM TreeOp := do
  let r ← theRun
  let q := f.quad.toNat
  let k := if f.k then 1 else 0
  match o with
  | .prod a b =>
    if f.sum then do
      let x ← readNode (r.blockAt f + 32 * q) r.smp.fc (some (a.edge - 1)) true
      let y ← readNode (r.blockAt f + 128 + 32 * q) r.smp.fc (some (a.edge - 1)) true
      pure (TreeOp.settled (.sum x y))
    else do
      let x ← childOf a (q / 2 * 2 + k)
      let y ← childOf b (2 * k + q % 2)
      pure (.prod x y)
  | .sum x y => do pure (TreeOp.settled (.sum (← childOf x q) (← childOf y q)))
  | .copy x => do pure (.copy (← childOf x q))
  | .keep x => pure (.keep x)

/-- The slot of the position a frame stands at. -/
def TreeRun.slotOfFrame (r : TreeRun) (o : TreeOp) (f : Frame) : Nat :=
  let term := match o with | .prod _ _ => f.k && !f.sum | _ => false
  r.blockAt f + (if term then 128 else 0) + 32 * f.quad.toNat

/-- The walk's position: the operation and slot it stands at, below its levels, innermost first. -/
def descend : List Frame → TreeOp → Nat → List Level → TM (TreeOp × Nat × List Level)
  | [], o, slot, up => pure (o, slot, up)
  | f :: r, o, slot, up => do
    let run ← theRun
    let c ← childOp o f
    descend r c (run.slotOfFrame o f) (⟨f, o, slot⟩ :: up)

/-- The roots' position. -/
def rootOp : TM TreeOp := do
  let r ← theRun
  let a ← readNode r.a.toNat r.smp.fa none false
  match r.kind with
  | .mul => do pure (.prod a (← readNode r.b.toNat r.smp.fb none false))
  | .add => do pure (TreeOp.settled (.sum a (← readNode r.b.toNat r.smp.fb none false)))
  | _ => pure (.copy a)

/-- The next position of a level's frame, or none when its quadrants are done (R141). That bit 2, k, of a product's frame is 0
in the sum stage is the model's choice (assumption 81). -/
def nextFrame (o : TreeOp) (f : Frame) : Option Frame :=
  let onward : Option Frame := if f.quad = 3 then none else some { f with quad := f.quad + 1 }
  match o with
  | .prod _ _ =>
    if f.sum then onward.map (fun g => { g with sum := false, k := false })
    else if f.k then some { f with sum := true, k := false }
    else some { f with k := true }
  | _ => onward

/-- The interior result of a level, collapsed under ZC when its children are all zero leaves; a copy keeps its structure
(R145, R420). -/
def interiorOf (l : Level) : TM TNode := do
  let r ← theRun
  let blk := r.blockAt l.frame
  let node := { newNode r 0 l.op.edge with ptr := blk }
  let copied := match l.op with | .copy _ => true | _ => false
  if copied || r.smp.tfl.getLsbD 0 = false then pure node
  else do
    let kids ← (List.range 4).mapM fun q => readNode (blk + 32 * q) r.smp.fc (some (l.op.edge - 1)) true
    if kids.all (fun k => k.typ == 1) then pure { newNode r 1 l.op.edge with coll := true } else pure node

/-- After a position is done, the innermost level moves on; a level that is done writes its interior result. -/
def advance : List Level → TM (List Frame)
  | [] => do
    modify fun c => { c with run := { c.run with finished := true } }
    pure []
  | l :: up =>
    match nextFrame l.op l.frame with
    | some f => pure (up.reverse.map (·.frame) ++ [f])
    | none => do
      let n ← interiorOf l
      writeNode l.slot n
      advance up

/-- A leaf step counts in STEPS (R149): leaf products of a product, and every leaf of a sum or a conversion. -/
def TreeOp.counts (o : TreeOp) (kind : TreeKind) : Bool :=
  match o with
  | .prod _ _ => true
  | _ => decide (kind ≠ .mul)

/-- One step of the walk: a leaf's result and what it completes, or a block for the quadrants of an interior position. The
stage of a copy's frame, which is neither term nor sum, is 0, which is the model's choice (assumption 81). -/
def walkStep : TM Unit := do
  let r ← theRun
  let root ← rootOp
  let (o, slot, levels) ← descend r.frames root r.dest.toNat []
  if o.isLeaf then do
    let n ← match o with
      | .prod a b => leafProduct a b
      | .sum x y => leafSum x y
      | .copy x => copyLeaf x
      | .keep x => pure x
    writeNode slot n
    let frames ← advance levels
    modify fun c => { c with run := { c.run with frames := frames, steps := c.run.steps + if o.counts r.kind then 1 else 0 } }
  else do
    let copied := match o with | .copy _ => true | _ => false
    let summed := match o with | .sum _ _ => true | _ => false
    let blk ← allocNode (if copied then 128 else 256)
    modify fun c => { c with run := { c.run with frames := c.run.frames ++ [⟨(blk - r.npool.base) / 128, summed, false, 0⟩] } }

/-! ## Contraction (R152, R153, R423) -/

/-- The combined linear index of values under extents, the first varying slowest. -/
def linearIndex : List (Nat × Nat) → Nat
  | [] => 0
  | (v, _) :: r => v * (r.foldl (fun p e => p * e.2) 1) + linearIndex r

/-- The values of indices whose extents are given, at a combined linear index, the first varying slowest. -/
def indexValues : List Nat → Nat → List Nat
  | [], _ => []
  | _ :: r, n => let below := r.foldl (· * ·) 1; n / below :: indexValues r (n % below)

/-- The element at a linear place of values packed from a base on (R84). -/
def conElem (o : ConOperand) (i : Nat) : TM FVal := do
  let w := fmtBits o.fmt
  let tabs ← tablesOf (← get).stepCore o.fmt
  let d ← treeRead (o.base + BitVec.ofNat 64 (i * w / 8)) ((i * w % 8 + w + 7) / 8)
  pure (matValue tabs o.fmt (natOf d / 2 ^ (i * w % 8) % 2 ^ w))

/-- Entry i of an array of u32. -/
def conU32 (a : Word) (i : Nat) : TM Nat := do
  let d ← treeRead (a + BitVec.ofNat 64 (4 * i)) 4
  pure (natOf d)

/-- The place of column j among the entries from p on, n of them. -/
def findColumn (cols : Word) (j : Nat) : Nat → Nat → TM (Option Nat)
  | _, 0 => pure none
  | p, n + 1 => do
    let c ← conU32 cols p
    if c = j then pure (some p) else findColumn cols j (p + 1) n

/-- The place of (i, j) among the pairs from p on, n of them. -/
def findPair (ptrs : Word) (i j : Nat) : Nat → Nat → TM (Option Nat)
  | _, 0 => pure none
  | p, n + 1 => do
    let r ← conU32 ptrs (2 * p)
    let c ← conU32 ptrs (2 * p + 1)
    if r = i ∧ c = j then pure (some p) else findPair ptrs i j (p + 1) n

/-- Element (i, j) of a quadtree from a node on; a structural zero is absent. A low-rank leaf's element is U·V under R129. -/
def quadElem : Nat → TNode → Nat → Nat → TM (Option FVal)
  | 0, _, _, _ => pure none
  | fuel + 1, n, i, j => do
    let e := 2 ^ n.edge
    match n.typ with
    | 0 => do
      let half := e / 2
      let c ← childOf n (2 * (i / half) + j / half)
      quadElem fuel c (i % half) (j % half)
    | 2 => pure (if i = j then some (fdecode fp32 n.scale) else none)
    | 3 => if i = j then do let l ← treeElems n i 1 (← get).stepCore; pure l.head? else pure none
    | 4 => do
      let at_ := (← get).stepCore
      let u ← (List.range n.rank).mapM fun c => treeElems n (c * n.big + i) 1 at_
      let v ← (List.range n.rank).mapM fun c => treeElems n (n.big * n.rank + c * n.big + j) 1 at_
      let d := accumulate (groupSize n.fmt n.fmt) 0 ((u.flatten.zip v.flatten).map (fun p => product 0 p.1 p.2))
      flagStep d.2
      pure (some (fdecode fp32 d.1))
    | 5 => do let l ← treeElems n (i * n.big + j) 1 (← get).stepCore; pure l.head?
    | _ => pure none

/-- The element of an operand at index values; absent where a sparse kind holds none (R152, R153). A block of blocked
compressed rows holds its elements row by row, which is the model's choice (assumption 82). -/
def conAt (o : ConOperand) (at_ : List (Nat × Nat)) : TM (Option FVal) := do
  let i := (nth at_ 0 (0, 1)).1
  let j := (nth at_ 1 (0, 1)).1
  match o.kind with
  | 0 => do pure (some (← conElem o (linearIndex at_)))
  | 1 => do pure (some (← conElem o (linearIndex at_.reverse)))
  | 2 => do
    let p ← conU32 o.ptrs i
    let q ← conU32 o.ptrs (i + 1)
    match ← findColumn o.cols j p (q - p) with
    | some e => do pure (some (← conElem o e))
    | none => pure none
  | 3 => do
    let b := 2 ^ o.edge
    let p ← conU32 o.ptrs (i / b)
    let q ← conU32 o.ptrs (i / b + 1)
    match ← findColumn o.cols (j / b) p (q - p) with
    | some e => do pure (some (← conElem o (e * (b * b) + i % b * b + j % b)))
    | none => pure none
  | 4 => do quadElem 13 (← readNode o.base.toNat o.fmt none false) i j
  | _ => do
    match ← findPair o.ptrs i j 0 (bits o.cols 31 0) with
    | some e => do pure (some (← conElem o e))
    | none => pure none

/-- Entries in an order: each of n entries from the second on is above its predecessor, or TREE_FORMAT names it. -/
def ordered (read : Nat → TM Nat) (strict : Bool) (at_ : Nat → Word) (p : Nat) : Nat → TM Unit
  | 0 => pure ()
  | n + 1 => do
    let a ← read p
    let b ← read (p + 1)
    if b < a ∨ (strict ∧ a = b) then treeFormatM (at_ (p + 1)) else ordered read strict at_ (p + 1) n

/-- The orders that a sparse operand of a given number of rows must hold (R153). -/
def conOrdered (o : ConOperand) (rows : Nat) : TM Unit := do
  let word (a : Word) (i : Nat) : Word := a + BitVec.ofNat 64 (4 * i)
  match o.kind with
  | 2 | 3 => do
    let n := if o.kind = 3 then (rows + 2 ^ o.edge - 1) / 2 ^ o.edge else rows
    ordered (conU32 o.ptrs) false (word o.ptrs) 0 n
    (List.range n).forM fun r => do
      let p ← conU32 o.ptrs r
      let q ← conU32 o.ptrs (r + 1)
      ordered (conU32 o.cols) true (word o.cols) p (q - p - 1)
  | 5 => ordered (fun p => do
      let r ← conU32 o.ptrs (2 * p)
      let c ← conU32 o.ptrs (2 * p + 1)
      pure (r * 2 ^ 32 + c)) true (fun p => o.ptrs + BitVec.ofNat 64 (8 * p)) 0 (bits o.cols 31 0 - 1)
  | _ => pure ()

/-- The indices that are summed over, rising: named in A or B, and not in C. -/
def Contract.summed (c : Contract) : List Nat :=
  (List.range 6).filter (fun m => (c.idxA.contains m || c.idxB.contains m) && !c.idxC.contains m)

/-- One output element: the groups of R129 over the combined k order, without the products that are absent (R133, R153). That
an identity leaf of ±1 in a quadtree raises the flags of the dense computation here, NV for a signalling NaN among them, is the
model's choice (assumption 113). -/
def conValue (c : Contract) (out : List Nat) (start : Nat) : TM FRes := do
  let r ← theRun
  let ks := c.summed
  let ext (m : Nat) : Nat := nth c.ext m 0
  let depth := (ks.map ext).foldl (· * ·) 1
  let g := groupSize c.opA.fmt c.opB.fmt
  let place (l : List Nat) (k : List Nat) : List (Nat × Nat) :=
    l.map (fun m => ((if c.idxC.contains m then nth out (c.idxC.idxOf m) 0 else nth k (ks.idxOf m) 0), ext m))
  let groups ← (List.range ((depth + g - 1) / g)).mapM fun n => do
    let l ← (List.range (min g (depth - n * g))).mapM fun i => do
      let k := indexValues (ks.map ext) (n * g + i)
      let a ← conAt c.opA (place c.idxA k)
      let b ← conAt c.opB (place c.idxB k)
      match a, b with
      | some x, some y => pure [product (r.smp.ea + r.smp.eb) x y]
      | _, _ => pure []
    pure l.flatten
  pure ((groups.filter (· ≠ [])).foldl (fun (acc : FRes) grp =>
    let s := groupSum grp
    let t := bankAdd .fp32 acc.1 s.1
    (t.1, acc.2 ||| s.2 ||| t.2)) (start, 0))

/-- The combined indices of the elements of tile t of an output of given extents, ascending (R423). The last position of C's
string is the column and the others together are the row, which is the model's choice (assumption 89); the tiles are 16
rows by 16 columns, fewer at an edge, in ascending order of their first element. -/
def tileOf (ext : List Nat) (t : Nat) : List Nat :=
  let cols := ext.getLast?.getD 1
  let rows := (ext.dropLast).foldl (· * ·) 1
  let across := (cols + 15) / 16
  let r0 := 16 * (t / across)
  let c0 := 16 * (t % across)
  (upFrom r0 (min 16 (rows - r0))).flatMap fun i => (upFrom c0 (min 16 (cols - c0))).map fun j => i * cols + j

/-- The number of tiles of an output. -/
def tileCount (ext : List Nat) : Nat :=
  ((ext.dropLast).foldl (· * ·) 1 + 15) / 16 * ((ext.getLast?.getD 1 + 15) / 16)

/-- One step of CONTRACT: the next tile of C. Every element is formed, and every address translated, before any is written,
so that a tile that stops has written nothing. -/
def contractStep (c : Contract) : TM Unit := do
  let r ← theRun
  let ext (l : List Nat) : List Nat := l.map (fun m => nth c.ext m 0)
  if r.steps = 0 then do
    conOrdered c.opA (nth (ext c.idxA) 0 0)
    conOrdered c.opB (nth (ext c.idxB) 0 0)
  let w := fmtBits c.opC.fmt / 8
  let cells ← (tileOf (ext c.idxC) r.steps).mapM fun e => do
    let out := indexValues (ext c.idxC) e
    let at_ := out.zip (ext c.idxC)
    let i := if c.opC.kind = 1 then linearIndex at_.reverse else linearIndex at_
    let a := c.opC.base + BitVec.ofNat 64 (i * w)
    let start ← if c.acc then do
        let d ← treeRead a w
        pure (roundVal fp32 (fdecode (fmtOf c.opC.fmt) (natOf d)))
      else pure (0, 0)
    let v ← conValue c out start.1
    flagStep start.2
    pure (a, v)
  let depth := ((c.summed).map (fun m => nth c.ext m 0)).foldl (· * ·) 1
  let vals ← engineOut (← get).stepCore 16 16 depth 0 [cells.map (·.2)]
  let out := (cells.map (·.1)).zip (vals.flatten.map fun v =>
    let q : FRes := if c.opC.fmt = 0 then (v.1, 0) else fconvert fp32 (fmtOf c.opC.fmt) v.1
    ((q.1, v.2 ||| q.2) : FRes))
  flagStep (out.foldl (fun f e => f ||| e.2.2) 0)
  out.forM fun e => do treeWait (← treeSpans .store e.1 w)
  out.forM fun e => treeWrite e.1 (bytesOf e.2.1 w)
  modify fun t => { t with run := { t.run with steps := t.run.steps + 1
                                               finished := decide (tileCount (ext c.idxC) ≤ r.steps + 1) } }

/-- The core that a step runs on (R142): the lowest enrolled one that can take steps and whose queue has room. -/
def State.stepCore (s : State) (k : Nat) (m : TreeSample) : Option Nat :=
  (coresOf k).find? fun c => m.tset.getLsbD (c % 16) && s.canStep c && decide ((s.hart c).engine.queue.length < 2)

/-- What a completed step leaves on the cores: their flags (R132). -/
def State.landFlags (s : State) (l : List (Nat × Flags)) : State := l.foldl (fun s f => s.raiseMflags f.1 f.2) s

/-- The depth of chunk i of products that are formed one after another, as tiles of a depth (R406). -/
def chunkAt : List (Nat × Nat) → Nat → Option Nat
  | [], _ => none
  | (tiles, d) :: r, i =>
    let n := (d + 63) / 64
    if i < tiles * n then some (min 64 (d - 64 * (i % n))) else chunkAt r (i - tiles * n)

/-- The cores whose matrix engines work for a step. -/
def workCores (work : List (Nat × Nat × Nat)) : List Nat := (work.map (·.1)).dedup

/-- The operation with no chunk of its step retired on the cores that work for it, unless they are those that it began with: a
gang that was unbound meanwhile has its step begun again. -/
def TreeRun.begun (r : TreeRun) (work : List (Nat × Nat × Nat)) : TreeRun :=
  if r.spent.map (·.1) = workCores work then r else { r with spent := (workCores work).map fun c => (c, 0, false) }

/-- The depth of the next chunk of a step on core c, if one is left (R188, R406). -/
def TreeRun.nextChunk (r : TreeRun) (work : List (Nat × Nat × Nat)) (c : Nat) : Option Nat :=
  chunkAt ((work.filter (·.1 == c)).map (·.2)) (((r.spent.find? (·.1 == c)).map (·.2.1)).getD 0)

/-- Every chunk of a step has retired. -/
def TreeRun.allSpent (r : TreeRun) (work : List (Nat × Nat × Nat)) : Bool :=
  (workCores work).all fun c => (r.nextChunk work c).isNone

/-- One chunk of the step retires on each engine that has one left and is not due a quiz product: the engine's activity and
chunks grow, and a faulty sub-array has formed it (R188, R189). -/
def State.spendChunk (s : State) (k at_ : Nat) (r : TreeRun) (work : List (Nat × Nat × Nat)) : State :=
  let due (c : Nat) : Option Nat := if s.quizDue c then none else r.nextChunk work c
  let t := (workCores work).foldl (fun t c => match due c with
    | some d => t.modHart c fun h => { h with engine := { h.engine with
        activity := h.engine.activity + chunkCycles r.smp.fa r.smp.fb d (s.subArrays c), chunks := h.engine.chunks + 1 } }
    | none => t) s
  let spent := r.spent.map fun w => match due w.1 with
    | some _ => (w.1, w.2.1 + 1, w.2.2 || s.faultyArrays w.1)
    | none => w
  t.modCluster k fun c => { c with treeRun := some { r with at_ := some at_, spent := spent } }

/-- The core of the step that comes next: that of the step under way while it can take steps, else one that takes a step now
(R142). -/
def State.stepAt (s : State) (k : Nat) (r : TreeRun) : Option (Nat × TreeRun) :=
  match r.at_.filter s.canStep with
  | some c => some (c, r)
  | none => ((s.stepCore k r.smp).filter s.engineTakes).map fun c => (c, { r with at_ := none, spent := [] })

/-- THATCHER_STEP: the step that comes next in the sequential walk (R142), or the stop that comes before it
(R148, R421): what a step that stops has done is discarded. While chunks of it are left, each engine that works for it retires
one; then its results land as a whole (R188). -/
def execThatcherStep (cluster : Nat) (s : State) : Host.Outcome State Fault Refusal :=
  match (s.cluster cluster).treeRun with
  | none => .next s
  | some r =>
    let t := (s.hart r.core).traps
    if r.finished then .next s else
    match t.pend.taskLimit, interruptsEnabled t.status with
    | some v, true =>
      let t := s.stopTree cluster r 4 (interruptCause 0x02 0) v
      .next (if (t.cluster cluster).treeRun.isSome then t else
        t.modHart r.core fun h => { h with traps := { h.traps with pend := { h.traps.pend with taskLimit := none } } })
    | _, _ =>
      match s.stepAt cluster r with
      | none => .next s
      | some (c, r) =>
        let step : TM Unit := match r.con with
          | some con => contractStep con
          | none => walkStep
        match s.runTree r c step with
        | (.ok q, t) =>
          let r := r.begun q.work
          if r.allSpent q.work then
            let done := { q.run with at_ := none, spent := [] }
            .next (((t.landFlags q.flags).modCluster cluster fun k => { k with treeRun := some done }).holdFrames cluster done.frames)
          else .next (s.spendChunk cluster c r q.work)
        | (.error e, _) => match stopOf e with
          | some (n, c, v) => .next (s.stopTree cluster r n c v)
          | none => .next (s.waitTree r.core e)

/-- TREE_COMPLETE: both NEXT are rewritten, and the instruction completes (R146, R151). -/
def execTreeComplete (cluster : Nat) (s : State) : Host.Outcome State Fault Refusal :=
  match (s.cluster cluster).treeRun with
  | none => .next s
  | some r =>
    if r.finished = false then .next s else
    match s.runTree r r.core writeNexts with
    | (.ok _, t) => .next ((t.modCluster cluster fun k => { k with treeRun := none }).giveAnswer r.core .done)
    | (.error e, _) => match stopOf e with
      | some (n, c, v) => .next (s.stopTree cluster r n c v)
      | none => .next (s.waitTree r.core e)

end Sys2Proof.Machine
end

