-- ==== Sys2Proof/Machine/Search.lean ====
section
/-! DEFINITION. Search.lean: the search family (R424 to R441): choice points, backtracking, theft, and the messages of
thieves and victims. -/

namespace Sys2Proof.Machine

/-! ## Choice points (R427) -/

/-- A choice point as read. -/
structure ChoicePoint where
  count : Nat
  next : Nat
  token : BitVec 16
  xa : BitVec 6
  resume : Word
  snap : List Nat
  tmark : Nat
  thief : Nat
  deriving DecidableEq, Repr

/-- The choice point at a TCM offset of the executing core. -/
def State.choice (s : State) (off : Nat) : ChoicePoint :=
  let w0 := s.tcmNat off 8
  { count := w0 / 2 ^ 48, next := w0 / 2 ^ 32 % 2 ^ 16, token := BitVec.ofNat 16 (w0 / 2 ^ 16), xa := BitVec.ofNat 6 w0
    resume := BitVec.ofNat 64 (s.tcmNat (off + 8) 8), snap := bitPositions (s.tcmNat (off + 16) 8) 64
    tmark := s.tcmNat (off + 24) 2, thief := s.tcmNat (off + 32) 2 }

/-- A part of the state changed as the main context of another hart would change it. -/
def State.asHart (s : State) (h : Nat) (f : State → State) : State :=
  { f { s with cur := h, ctx := .main } with cur := s.cur, ctx := s.ctx }

/-- The memory entries and snap entries above a mark are undone, newest first; each restore is a store of the core (R426,
R434). The fuel is above their number. -/
def State.unwindTo (mark : Nat) : Nat → State → State
  | 0, s => s
  | n + 1, s =>
    match s.mySearch with
    | none => s
    | some q =>
      if q.ttop ≤ mark then s else
        let t := q.ttop - 16
        let w0 := s.tcmNat t 8
        let old := s.tcmNat (t + 8) 8
        let s := if w0 < 2 ^ 63 then s.pushCells (cellsAt (tcmHome s.cur (w0 % 2 ^ 15)) (bytesOf old 8)) 0 false else s
        State.unwindTo mark n (s.putTtop q t)

/-- A poisoned word that a backtracking reads: in the trail from the top down to the mark of the choice point that it
resumes and below that to its snap entries, or in a choice point that it meets (R184, R434). -/
def State.backtrackPoison (q : Search) : Nat → Nat → State → Option Word
  | 0, _, _ => none
  | n + 1, top, s =>
    if top ≤ q.cbase then none else
      let c := s.choice (top - 64)
      let low := c.tmark - 16 * c.snap.length
      match s.unitPoison (top - 64) 64, s.unitPoison low (q.ttop - low) with
      | some w, _ => some w
      | none, some w => some w
      | none, none => if c.next < c.count then none else State.backtrackPoison q n (top - 64) s

/-- TTOP and CTOP fall below a choice point's snap entries and the choice point (R434). -/
def State.popChoice (s : State) (c : ChoicePoint) (off : Nat) : State :=
  match s.mySearch with
  | none => s
  | some q =>
    let s := s.putTtop q (c.tmark - 16 * c.snap.length)
    match s.mySearch with
    | none => s
    | some q => s.putCtop q off

/-- Unwinding to the newest choice point with an untried alternative; none when the stack is empty (R434). -/
def State.backtrack : Nat → State → Option Nat × State
  | 0, s => (none, s)
  | n + 1, s =>
    match s.mySearch with
    | none => (none, s)
    | some q =>
      if q.ctop ≤ q.cbase then (none, s) else
        let off := q.ctop - 64
        let c := s.choice off
        let s := State.unwindTo c.tmark 2048 s
        if c.next < c.count then (some off, s) else State.backtrack n (s.popChoice c off)

/-- The search of the executing core ends with a code: the fields are written back, and a thief reports completion (R431). -/
def State.endSearch (s : State) (code : Nat) : State :=
  match s.mySearch with
  | none => s
  | some q =>
    let s := s.putStatus q code false
    let s := (s.putTtop q q.tbase)
    let s := s.putCtop { q with ttop := q.tbase } q.cbase
    let s := s.modMe fun h => { h with search := none }
    if q.stolen then s.send (.complete s.cur (clusterOf s.cur * 16 + q.vcore) q.vcp q.vtoken) else s

/-- `end_search` with its transfer to EXIT (R431). -/
def endSearchM (q : Search) (code : Nat) : M Unit := doM fun s => (s.endSearch code).goto (targetOf q.exit)

/-- The active search, or OPERAND (R431, R433 to R435). -/
def activeM : M Search := do
  match (← get).mySearch with
  | some q => pure q
  | none => operandM 0

/-- The registers that a choice point's snap entries restore (R434). -/
def State.restoreSnaps (s : State) (c : ChoicePoint) : State :=
  let n := c.snap.length
  ((List.range n).map (fun j => (nth c.snap j 0, s.tcmNat (c.tmark - 16 * (n - j) + 8) 8))).foldl
    (fun s p => s.setX (BitVec.ofNat 6 p.1) (BitVec.ofNat 64 p.2)) s

/-- FAIL (R434). -/
def failM : M Unit := do
  let q ← activeM
  if q.cancel then endSearchM q 3
  else do
    unitPoisonM (State.backtrackPoison q 512 q.ctop (← get))
    let (found, t) := State.backtrack 512 (← get)
    match found with
    | none => do set t; endSearchM q 1
    | some off =>
      let c := t.choice off
      let t := t.restoreSnaps c
      let t := t.unitStore (off + 4) (bytesOf (c.next + 1) 2)
      let t := if c.next + 1 = c.count then t.popChoice c off else t
      set ((t.setX c.xa (BitVec.ofNat 64 c.next)).goto (targetOf c.resume))

/-- TRY (R433). -/
def execTryPush (a m n : BitVec 6) (s : State) : Host.Outcome State Fault Refusal :=
  runHead acceptMain (headOf 0x70 2 a.toNat) [a, m, n] [] 0 (do
    let q ← activeM
    let count := (s.x n).toNat
    let mask := s.x m
    if bit mask 0 ∨ 65535 < count ∨ a = 0 then operandM 0
    else if count = 0 then failM
    else if count = 1 then doM fun s => (s.setX a 0).retire
    else do
      let regs := bitPositions mask.toNat 64
      trailRoom q regs.length
      if q.clim < q.ctop + 64 then trapM 0x13 0 (s.tcmVa s.cur q.ctop) else
      doM fun s =>
        let s := regs.foldl (fun s k => s.trailAppend (2 ^ 63 + k) (s.x (BitVec.ofNat 6 k)).toNat) s
        let t := (s.mySearch.getD q)
        let words : List Nat := [count * 2 ^ 48 + 2 ^ 32 + t.nseq.toNat * 2 ^ 16 + a.toNat, s.linkNext.toNat, mask.toNat, t.ttop, 0, 0, 0, 0]
        let s := s.unitStore t.ctop (words.flatMap (fun w => bytesOf w 8))
        let s := s.putNseq t (t.nseq + 1)
        let s := s.putCtop { t with nseq := t.nseq + 1 } (t.ctop + 64)
        (s.setX a 0).retire) s

/-- FAIL (R434). -/
def execFail (s : State) : Host.Outcome State Fault Refusal :=
  runHead acceptMain (headOf 0x70 1 0) [] [] 0 failM s

/-- Choice points above a mark are removed from the top down, with a cancellation to each thief (R435). -/
def State.cutTo (mark : Nat) : Nat → State → State
  | 0, s => s
  | n + 1, s =>
    match s.mySearch with
    | none => s
    | some q =>
      if q.ctop ≤ mark ∨ q.ctop ≤ q.cbase then s else
        let off := q.ctop - 64
        let c := s.choice off
        let s := (bitPositions c.thief 16).foldl (fun s k =>
          s.send (.cancel (clusterOf s.cur * 16 + k) s.cur off c.token)) s
        State.cutTo mark n (s.putCtop q off)

/-- CUT (R435). -/
def execCut (b : BitVec 6) (s : State) : Host.Outcome State Fault Refusal :=
  let v := (s.x b).toNat
  runHead acceptMain (headOf 0x70 1 0) [b] [] 0 (do
    let q ← activeM
    if q.cancel then endSearchM q 3
    else if v < q.cbase ∨ (v - q.cbase) % 64 ≠ 0 then operandM 0
    else do
      unitPoisonM (s.unitPoison v (q.ctop - v))
      doM fun s => (State.cutTo v 512 s).retire) s

/-- MARK (R435). -/
def execMark (d : BitVec 6) (s : State) : Host.Outcome State Fault Refusal :=
  runHead acceptMain (headOf 0x70 1 d.toNat) [d] [] 0 (do
    let q ← activeM
    doM fun s => (s.setX d (BitVec.ofNat 64 q.ctop)).retire) s

/-! ## Starting and ending (R431) -/

/-- Two areas of the TCM meet. -/
def areasMeet (a b : Nat × Nat) : Bool := decide (a.1 < b.1 + b.2 ∧ b.1 < a.1 + a.2 ∧ 0 < a.2 ∧ 0 < b.2)

/-- The areas of a search lie in the TCM from 0x1000 on and apart (R426). -/
def areasOk : List (Nat × Nat) → Bool
  | [] => true
  | a :: r => decide (0x1000 ≤ a.1 ∧ a.1 + a.2 ≤ 0x8000) && r.all (fun b => !areasMeet a b) && areasOk r

/-- A search block's words as a starting search, when its fields are legal (R425, R426, R431). -/
def readBlock (off : Nat) (w : List Word) : Option Search :=
  let f (i hi lo : Nat) : Nat := bits (nth w i 0) hi lo
  let fbase := f 0 15 0
  let flen := f 0 31 16
  let tbase := f 1 15 0
  let tlim := f 1 31 16
  let cbase := f 2 15 0
  let clim := f 2 31 16
  if f 0 63 32 = 0 ∧ f 1 63 48 = 0 ∧ f 2 63 48 = 0 ∧ f 4 47 44 = 0 ∧ f 4 39 32 = 0 ∧ f 4 15 8 = 0 ∧ f 4 2 1 = 0 ∧
      f 5 63 16 = 0 ∧ nth w 6 0 = 0 ∧ nth w 7 0 = 0 ∧ fbase % 8 = 0 ∧ flen % 8 = 0 ∧ 8 ≤ flen ∧ flen ≤ 4096 ∧
      tbase % 16 = 0 ∧ tlim % 16 = 0 ∧ cbase % 64 = 0 ∧ clim % 64 = 0 ∧ tbase ≤ tlim ∧ cbase ≤ clim ∧
      areasOk [(off, 64), (fbase, flen), (tbase, tlim - tbase), (cbase, clim - cbase)] ∧ headIndex (nth w 3 0) ≠ 0 then
    some { block := off, fbase := fbase, flen := flen, tbase := tbase, tlim := tlim, ttop := tbase, cbase := cbase
           clim := clim, ctop := cbase, exit := nth w 3 0, stolen := false, cancel := false, vcore := f 4 43 40
           vcp := f 4 31 16, vtoken := BitVec.ofNat 16 (f 4 63 48), nseq := BitVec.ofNat 16 (f 5 15 0) }
  else none

/-- SFRAME (R431). -/
def execSframe (b : BitVec 6) (s : State) : Host.Outcome State Fault Refusal :=
  let a := s.x b
  runHead acceptMain (headOf 0x73 2 0) [b] [] 0 (do
    let (w, off) := s.windowOf s.cur a.toNat
    if s.mySearch.isSome ∨ w ≠ .tcm ∨ off % 64 ≠ 0 then operandM a
    else do
      let l ← loadWords a 8
      match readBlock off l with
      | none => operandM a
      | some q => doM fun s =>
          let s := s.putTtop q q.tbase
          let s := s.putCtop q q.cbase
          (s.putStatus q 0 true).retire) s

/-- SEARCHEND (R431). -/
def execSearchend (s : State) : Host.Outcome State Fault Refusal :=
  runHead acceptMain (headOf 0x73 2 0) [] [] 0 (do
    let q ← activeM
    endSearchM q 2) s

/-! ## Theft (R438 to R441) -/

/-- What a theft gave its thief (R439): the registers, the alternative, and where the search goes on. -/
def State.takeTheft (s : State) (d : BitVec 6) (t : Theft) : State :=
  let s := (s.modMe fun h => { h with theft := none }).setX d (BitVec.ofNat 64 t.status)
  if t.status ≠ 0 then s.retire else
    let s := t.snaps.foldl (fun s p => s.setX (BitVec.ofNat 6 p.1) p.2) s
    let s := s.setX t.xa (BitVec.ofNat 64 t.alt)
    let s := match s.mySearch with
      | some q =>
        let q := { q with stolen := true, cancel := q.cancel || t.cancel, vcore := t.victim % 16, vcp := t.cp, vtoken := t.token }
        (s.setSearch q).putStatus q 0 true
      | none => s
    s.goto (targetOf t.resume)

/-- STEAL asks the victim's search unit once, after the thief's own stores, and waits for what it gives (R439). -/
def execSteal (d v : BitVec 6) (s : State) : Host.Outcome State Fault Refusal :=
  let n := (s.x v).toNat
  runHead acceptMain (headOf 0x72 1 d.toNat) [d, v] [] 0 (do
    match s.me.theft with
    | some t => doM fun s => s.takeTheft d t
    | none =>
      if s.net.any (fun p => match p with | .theft t _ => t == s.cur | _ => false) then parkM .steal
      else match s.mySearch with
        | none => operandM 0
        | some q =>
          if q.ctop ≠ q.cbase ∨ q.ttop ≠ q.tbase ∨ 15 < n ∨ n = s.cur % 16 then operandM 0
          else do
            emptyBufferM
            doM fun s => s.send (.theft s.cur (clusterOf s.cur * 16 + n))
            parkM .steal) s

/-- The lowest choice point with an alternative left, of the executing core (R439). -/
def State.lowestOpen (s : State) (q : Search) : Option Nat :=
  ((List.range ((q.ctop - q.cbase) / 64)).map (fun i => q.cbase + 64 * i)).find?
    (fun off => decide ((s.choice off).next < (s.choice off).count))

/-- A victim's frame as it stood when a choice point was pushed: its words, with the trailed changes from the top down to
the mark undone (R439). -/
def State.frameThen (v : State) (q : Search) (mark : Nat) : List Byte :=
  let frame := bytesOf (v.tcmNat q.fbase q.flen) q.flen
  let n := (q.ttop - mark) / 16
  (List.range n).foldl (fun (f : List Byte) i =>
    let t := q.ttop - 16 * (i + 1)
    let w0 := v.tcmNat t 8
    if w0 < 2 ^ 63 ∧ q.fbase ≤ w0 % 2 ^ 15 ∧ w0 % 2 ^ 15 < q.fbase + q.flen then
      let o := w0 % 2 ^ 15 - q.fbase
      f.take o ++ bytesOf (v.tcmNat (t + 8) 8) 8 ++ f.drop (o + 8)
    else f) frame

/-- THEFT_SERVE: the oldest theft of a victim is served between two of its heads (R439, R440). -/
def execTheftServe (victim : Nat) (s : State) : Host.Outcome State Fault Refusal :=
  match s.net.findIdx? (fun p => match p with | .theft _ v => v == victim | _ => false) with
  | none => .next s
  | some k =>
    match s.net[k]? with
    | some (.theft thief _) =>
      let s := { s with net := dropAt s.net k }
      let give (s : State) (t : Theft) : State := s.modHart thief fun h => { h with theft := some t }
      let no (n : Nat) : Theft := ⟨n, victim, 0, 0, 0, 0, 0, [], false⟩
      let v : State := { s with cur := victim, ctx := .main }
      match if s.fencedCore victim then none else v.mySearch, (s.hart thief).search with
      | some q, some own =>
        match v.lowestOpen q with
        | none => .next (give s (no 1))
        | some off =>
          if q.flen ≠ own.flen then .next (give s (no 2)) else
            let c := v.choice off
            let low := c.tmark - 16 * c.snap.length
            match [(q.cbase, off + 64 - q.cbase), (q.fbase, q.flen), (low, q.ttop - low)].findSome? (fun r => v.unitPoison r.1 r.2) with
            | some w => .next (s.machineCheck thief 2 w)
            | none =>
            let frame := v.frameThen q c.tmark
            let n := c.snap.length
            let snaps := (List.range n).map (fun j =>
              (nth c.snap j 0, BitVec.ofNat 64 (v.tcmNat (c.tmark - 16 * (n - j) + 8) 8)))
            let s := s.asHart victim fun t =>
              (t.unitStore (off + 6) (bytesOf (c.count - 1) 2)).unitStore (off + 32) (bytesOf (c.thief ||| 2 ^ (thief % 16)) 2)
            let s := s.engineWrite (tcmHome thief own.fbase) frame
            .next (give s ⟨0, victim, off, c.token, c.xa, c.count - 1, c.resume, snaps, false⟩)
      | _, _ => .next (give s (no 1))
    | _ => .next s

/-- SEARCH_CANCELLATION: a cancellation reaches its thief (R441): one that already holds the alternative, or one to which it
has been given and which takes it at its next head. -/
def execSearchCancellation (k : Nat) (s : State) : Host.Outcome State Fault Refusal :=
  match s.net[k]? with
  | some (.cancel thief victim cp token) =>
    let s := { s with net := dropAt s.net k }
    let s := s.modHart thief fun h => { h with theft := h.theft.map fun t =>
      if t.status = 0 ∧ t.victim = victim ∧ t.cp = cp ∧ t.token = token then { t with cancel := true } else t }
    match (s.hart thief).search with
    | some q =>
      if q.stolen ∧ q.vcore = victim % 16 ∧ q.vcp = cp ∧ q.vtoken = token then
        let q := { q with cancel := true }
        .next (s.asHart thief fun t => (t.setSearch q).putStatus q 0 true)
      else .next s
    | none => .next s
  | _ => .next s

/-- SEARCH_COMPLETION_MESSAGE: a completion reaches its victim (R441). -/
def execSearchCompletionMessage (k : Nat) (s : State) : Host.Outcome State Fault Refusal :=
  match s.net[k]? with
  | some (.complete thief victim cp token) =>
    let s := { s with net := dropAt s.net k }
    match (s.hart victim).search with
    | some q =>
      let c := State.choice { s with cur := victim, ctx := .main } cp
      if q.cbase ≤ cp ∧ cp < q.ctop ∧ c.token = token then
        match State.unitPoison { s with cur := victim, ctx := .main } cp 64 with
        | some w => .next (s.machineCheck thief 2 w)
        | none => .next (s.asHart victim fun t => t.unitStore (cp + 32) (bytesOf (c.thief &&& (2 ^ 16 - 1 - 2 ^ (thief % 16))) 2))
      else .next s
    | none => .next s
  | _ => .next s

end Sys2Proof.Machine
end

