-- ==== Sys2Proof/Machine/Screen.lean ====
section
/-! DEFINITION. Screen.lean: the block screener (R442 to R446) and the transform channels (R447 to R450). -/

namespace Sys2Proof.Machine

/-! ## Parameter blocks (R443, R445) -/

/-- A range of global or windowed memory that a request touches. -/
def reach (acc : Acc) (a : Word) (n : Nat) : XRange := ⟨acc, 0, 0, a.toNat, n⟩

/-- An element count of a key or query (R443). -/
def elementsOk (d : Nat) : Bool := d % 32 == 0 && decide (32 ≤ d ∧ d ≤ 256)

/-- An ASUMM request from its block, with the table identity it names; none where a field is reserved or out of range. -/
def readSumm (w : List Word) : Option (ScreenOp × Nat) :=
  let g (i : Nat) : Word := nth w i 0
  let fmt := BitVec.ofNat 4 (bits (g 4) 55 52)
  let pitch := bits (g 3) 63 32
  let d := bits (g 4) 40 32
  let m := bits (g 4) 6 0
  if bits (g 3) 31 0 = 0 ∧ bits (g 4) 51 41 = 0 ∧ bits (g 4) 31 7 = 0 ∧ g 5 = 0 ∧ g 6 = 0 ∧ g 7 = 0 ∧
      (g 1).toNat % 64 = 0 ∧ (g 2).toNat % 4 = 0 ∧ pitch ≠ 0 ∧ pitch % 8 = 0 ∧ matFmt fmt ∧
      (tableFmt fmt ∨ bits (g 4) 63 56 = 0) ∧ elementsOk d ∧ 1 ≤ m ∧ m ≤ 64 then
    some (.summ (g 0) (g 1) (g 2) pitch d m fmt, bits (g 4) 63 56)
  else none

/-- An ASCREEN request from its block, with the replacements of the 12-byte form (R445). -/
def readScreen (w : List Word) (q : Option Word) (k : Option Nat) : Option ScreenOp :=
  let g (i : Nat) : Word := nth w i 0
  let nkb := bits (g 6) 63 32
  let pitch := bits (g 6) 31 16
  let d := bits (g 7) 40 32
  let fmt := BitVec.ofNat 4 (bits (g 7) 31 28)
  let kept := k.getD (bits (g 7) 15 7)
  if bits (g 6) 15 0 = 0 ∧ bits (g 7) 63 41 = 0 ∧ bits (g 7) 27 24 = 0 ∧ bits (g 7) 6 2 = 0 ∧ 1 ≤ nkb ∧ nkb ≤ 2 ^ 24 ∧
      pitch % 8 = 0 ∧ elementsOk d ∧ (fmt = 0 ∨ fmt = 2) ∧ kept ≤ 256 ∧ (g 3).toNat % 8 = 0 ∧ (g 4).toNat % 8 = 0 ∧
      (g 5).toNat % 8 = 0 then
    some (.screen (q.getD (g 0)) (g 1) (g 2) (g 3) (g 4) (g 5) nkb pitch d (bits (g 7) 23 20 + 1) (bits (g 7) 19 16 + 1) kept fmt
      (bit (g 7) 1) (bit (g 7) 0))
  else none

/-- The words of a bitmap of n blocks. -/
def maskWords (n : Nat) : Nat := (n + 63) / 64

/-- The address of a query (R445). -/
def queryAt (q : Word) (pitch nq g i : Nat) : Word := q + BitVec.ofNat 64 ((g * nq + i) * pitch)

/-- Every range that a request reads or writes (R444, R446). -/
def ScreenOp.ranges : ScreenOp → List XRange
  | .summ keys mean rad pitch d m fmt =>
    (List.range m).map (fun t => reach .load (keys + BitVec.ofNat 64 (t * pitch)) (d * fmtBits fmt / 8)) ++
      [reach .store mean (2 * d), reach .store rad 4]
  | .screen q means rads mask list cnt nkb pitch d g nq k fmt _ _ =>
    (List.range g).flatMap (fun a => (List.range nq).map (fun b =>
      reach .load (queryAt q pitch nq a b) (d * fmtBits fmt / 8))) ++
      [reach .load means (2 * d * nkb), reach .load rads (4 * nkb), reach .store mask (8 * g * maskWords nkb),
        reach .store list (4 * g * (k + 2)), reach .store cnt (4 * g)]

/-- A checked request joins the screener, which holds eight; a ninth waits at commit (R442). -/
def screenM (op : ScreenOp) (dv : BitVec 1) (dmc : BitVec 3) : M Unit := do
  let l ← rangesM false true op.ranges
  emptyBufferM
  let s ← get
  if 8 ≤ (s.cluster (clusterOf s.cur)).screener.length then parkM .screener
  else
    let r : ScreenReq := { core := s.cur, op := op, done := if dv = 1 then some dmc else none, tables := s.me.tables.toList
                           spans := l.flatten }
    set ((s.modCluster (clusterOf s.cur) fun k => { k with screener := k.screener ++ [r] }).retire)

/-- ASUMM (R443, R444). -/
def execAsumm (dv : BitVec 1) (dmc : BitVec 3) (b : BitVec 6) (s : State) : Host.Outcome State Fault Refusal :=
  let a := s.x b
  runHead acceptMain (headOf 0x74 2 0) [b] [] 0 (do
    if a.toNat % 64 ≠ 0 then operandM a
    else do
      let w ← loadWords a 8
      match readSumm w with
      | none => operandM a
      | some (op, id) => do
        match op with
        | .summ _ _ _ _ _ _ fmt => identityM fmt id a
        | _ => pure ()
        screenM op dv dmc) s

/-- ASCREEN with the replacements of the long form (R445, R446). -/
def ascreenM (a : Word) (dv : BitVec 1) (dmc : BitVec 3) (q : Option Word) (k : Option Nat) : M Unit := do
  if a.toNat % 64 ≠ 0 then operandM a
  else do
    let w ← loadWords a 8
    match readScreen w q k with
    | none => operandM a
    | some op => screenM op dv dmc

/-- ASCREEN (R445). -/
def execAscreen (dv : BitVec 1) (dmc : BitVec 3) (b : BitVec 6) (s : State) : Host.Outcome State Fault Refusal :=
  runHead acceptMain (headOf 0x75 2 0) [b] [] 0 (ascreenM (s.x b) dv dmc none none) s

/-- ASCREEN with the 12-byte tail (R445). -/
def execAscreenLong (kimm : BitVec 9) (ko qo : BitVec 1) (sq : BitVec 6) (dv : BitVec 1) (dmc : BitVec 3) (b : BitVec 6)
    (s : State) : Host.Outcome State Fault Refusal :=
  runHead acceptMain (headOf 0x75 5 0) [b, sq] [] 0
    (ascreenM (s.x b) dv dmc (if qo = 1 then some (s.x sq) else none) (if ko = 1 then some kimm.toNat else none)) s

/-! ## Values (R444, R446) -/

/-- n bytes from a virtual address on within the translated ranges of a request, page by page. -/
def rangeSpans (l : Spans) (a : Word) (n : Nat) : Spans :=
  (piecesOf a.toNat n).filterMap fun p =>
    (l.find? (fun q => decide (q.va ≤ p.1 ∧ p.1 < q.va + q.len))).map fun q => ⟨p.1, p.2, q.home + (p.1 - q.va), q.sync⟩

/-- The bytes of a request's range, by virtual address: the screener of a core's cluster is a sequential reader (R79). -/
def State.rangeBytes (s : State) (core : Nat) (l : Spans) (a : Word) (n : Nat) : List Byte × State :=
  s.readSpansAs ⟨core, 0, some (.screener (clusterOf core))⟩ (rangeSpans l a n)

/-- Writes of bytes at a virtual address of a request. -/
def State.rangeWrite (s : State) (l : Spans) (a : Word) (d : List Byte) : State :=
  s.engineWriteSpans (rangeSpans l a d.length) d

/-- The elements of a vector of d codes. -/
def valuesOf (tabs : List (Option DecodeTable)) (fmt : BitVec 4) (d : Nat) (b : List Byte) : List FVal :=
  let v := natOf b
  let w := fmtBits fmt
  (List.range d).map (fun i => matValue tabs fmt (v / 2 ^ (w * i) % 2 ^ w))

/-- A finite value exactly. -/
def FVal.exact : FVal → Option Dyadic
  | .fin n m e => some (dyadicOf n m e)
  | _ => none

/-- Every value of a list exactly, when all are finite. -/
def exactAll (l : List FVal) : Option (List Dyadic) := l.mapM FVal.exact

/-- Mean element: the exact sum over the count, rounded once to BF16 (R126, R444). -/
def meanOf (l : List FVal) : Nat :=
  let bf : FFmt := fmtOf 2
  let nan := l.any (fun v => match v with | .nan _ => true | _ => false)
  let pos := l.contains (.inf false)
  let neg := l.contains (.inf true)
  if nan || (pos && neg) then qnan bf
  else if pos then finf bf false
  else if neg then finf bf true
  else
    let s := l.foldl (fun (d : Dyadic) v => match v.exact with | some x => d.add x | none => d) ⟨0, 0⟩
    if s.n = 0 then fzero bf (l.all (fun v => match v with | .fin n _ _ => n | _ => false))
    else
      let m := s.n.natAbs * 2 ^ 64
      (fround bf (decide (s.n < 0)) (m / l.length) (s.e - 64) (m % l.length != 0)).1

/-- The least FP32 value at or above the square root of an exact value that is not negative. -/
def upRoot (d : Dyadic) : Nat :=
  let e2 := if d.e % 2 = 0 then d.e else d.e - 1
  let m := d.n.natAbs * (if d.e % 2 = 0 then 1 else 2) * 2 ^ 128
  let r := isqrt m
  ceilFp32 r (e2 / 2 - 64) (r * r != m)

/-- The greatest FP32 value at or below an exact value m · 2^e that is not negative. -/
def downFp32 (m : Nat) (e : Int) : Nat :=
  if m = 0 then 0 else
  let q0 := e + (Nat.log2 m + 1 : Nat) - 24
  let q := if q0 < fp32.emin then fp32.emin else q0
  let t := if q ≤ e then m * 2 ^ (e - q).toNat else m / 2 ^ (q - e).toNat
  let ex := (q - fp32.emin).toNat + 1
  if t < 2 ^ 23 then t else if 255 ≤ ex then finf fp32 false - 1 else ex * 2 ^ 23 + (t - 2 ^ 23)

/-- The least FP32 value at or above an exact value, as a key that orders as the value does (R446). -/
def upKey (d : Dyadic) : Int := if 0 ≤ d.n then (ceilFp32 d.n.natAbs d.e false : Nat) else -((downFp32 d.n.natAbs d.e : Nat) : Int)

/-- The sum of exact squares. -/
def sumSquares (l : List Dyadic) : Dyadic := l.foldl (fun (a : Dyadic) x => a.add (x.mul x)) ⟨0, 0⟩

/-- The radius of keys about a stored mean (R444). -/
def radiusOf (keys : List (List FVal)) (mean : List FVal) : Nat :=
  match keys.mapM exactAll, exactAll mean with
  | some ks, some mu =>
    let far := ks.foldl (fun (m : Dyadic) k =>
      let s := sumSquares ((k.zip mu).map (fun p => p.1.add p.2.neg))
      if m.le s then s else m) ⟨0, 0⟩
    upRoot far
  | _, _ => finf fp32 false

/-- The key of +∞: above every finite score. -/
def infKey : Int := (finf fp32 false : Nat)

/-- One query's bound on a block, as a key (R446). -/
def boundKey (q mean : List FVal) (rad : FVal) : Int :=
  match exactAll q, exactAll mean, rad.exact with
  | some qs, some ms, some r =>
    let dot := (qs.zip ms).foldl (fun (a : Dyadic) p => a.add (p.1.mul p.2)) ⟨0, 0⟩
    match (fdecode fp32 (upRoot (sumSquares qs))).exact with
    | some n => upKey (dot.add (n.mul r))
    | none => infKey
  | _, _, _ => infKey

/-- Blocks by score, larger first, and the lower index first among equals (R329). -/
def ranked (l : List (Nat × Int)) : List Nat :=
  (sortBy (fun (a b : Nat × Int) => decide (b.2 < a.2 ∨ (a.2 = b.2 ∧ a.1 ≤ b.1))) l).map (·.1)

/-- The blocks selected for one query block (R446): those forced in and the best others, rising. -/
def selection (scores : List Int) (k : Nat) (recent sink : Bool) : List Nat :=
  let n := scores.length
  let forced (b : Nat) : Bool := (sink && b == 0) || (recent && b + 1 == n)
  let rest := (scores.zipIdx.map (fun p => (p.2, p.1))).filter (fun p => !forced p.1)
  let chosen := (ranked rest).take k
  (List.range n).filter (fun b => forced b || chosen.contains b)

/-- A request performed: its reads, and its writes by address (R442, R444, R446). -/
def State.screen (s : State) (r : ScreenReq) : List (Word × List Byte) × State :=
  match r.op with
  | .summ keys mean rad pitch d m fmt =>
    let (ks, s) := (List.range m).foldl (fun (acc : List (List FVal) × State) t =>
      let q := acc.2.rangeBytes r.core r.spans (keys + BitVec.ofNat 64 (t * pitch)) (d * fmtBits fmt / 8)
      (acc.1 ++ [valuesOf r.tables fmt d q.1], q.2)) ([], s)
    let mu := (List.range d).map (fun j => meanOf (ks.map (fun k => nth k j fzeroVal)))
    let radius := radiusOf ks (mu.map (fdecode (fmtOf 2)))
    ([(mean, mu.flatMap (fun c => bytesOf c 2)), (rad, bytesOf radius 4)], s)
  | .screen q means rads mask list cnt nkb pitch d g nq k fmt recent sink =>
    let (mb, s) := s.rangeBytes r.core r.spans means (2 * d * nkb)
    let (rb, s) := s.rangeBytes r.core r.spans rads (4 * nkb)
    let mean (b : Nat) : List FVal := valuesOf r.tables 2 d ((mb.drop (2 * d * b)).take (2 * d))
    let radius (b : Nat) : FVal := fdecode fp32 (natOf ((rb.drop (4 * b)).take 4))
    (List.range g).foldl (fun (acc : List (Word × List Byte) × State) a =>
      let (qs, s) := (List.range nq).foldl (fun (acc : List (List FVal) × State) i =>
        let p := acc.2.rangeBytes r.core r.spans (queryAt q pitch nq a i) (d * fmtBits fmt / 8)
        (acc.1 ++ [valuesOf r.tables fmt d p.1], p.2)) ([], acc.2)
      let scores := (List.range nkb).map (fun b =>
        (qs.map (fun v => boundKey v (mean b) (radius b))).foldl max (-infKey))
      let sel := selection scores k recent sink
      let bitmap := (List.range (maskWords nkb)).flatMap (fun i =>
        bytesOf ((sel.filter (fun b => b / 64 == i)).foldl (fun v b => v + 2 ^ (b % 64)) 0) 8)
      (acc.1 ++ [(mask + BitVec.ofNat 64 (8 * a * maskWords nkb), bitmap),
        (list + BitVec.ofNat 64 (4 * a * (k + 2)), sel.flatMap (fun b => bytesOf b 4)),
        (cnt + BitVec.ofNat 64 (4 * a), bytesOf sel.length 4)], s)) ([], s)

/-- The places that a request reads. -/
def ScreenReq.readSpans (r : ScreenReq) : Spans :=
  let rd := r.op.ranges.filter (fun x => x.acc = .load)
  r.spans.filter (fun p => rd.any (fun x => decide (x.va ≤ p.va ∧ p.va < x.va + x.len)))

/-- SCREENER_REQUEST: the oldest request is served: its writes in ascending address order, then its counter (R442). A
poisoned word ends it (R184); at a held unit it waits (R101). -/
def execScreenerRequest (cluster : Nat) (s : State) : Host.Outcome State Fault Refusal :=
  match (s.cluster cluster).screener with
  | [] => .next s
  | r :: rest =>
    match s.unitWaits r.core r.spans with
    | (true, s) => .next s
    | (false, s) =>
    let s := s.modCluster cluster fun k => { k with screener := rest }
    match s.poisonSpans r.readSpans with
    | some w => .next (s.machineCheck r.core 2 w)
    | none =>
      let (ws, s) := s.screen r
      let s := (sortBy (fun (a b : Word × List Byte) => decide (a.1.toNat ≤ b.1.toNat)) ws).foldl
        (fun s p => s.rangeWrite r.spans p.1 p.2) s
      .next (match r.done with
        | some mc => s.bumpCounter r.core mc
        | none => s)

/-! ## Transform channels (R447 to R450) -/

/-- The connection of an output channel. -/
def State.channelOut (s : State) (ch : BitVec 2) : Option (BitVec 14) := (s.me.chan.out[ch.toNat]?).getD none

/-- The chunks of an input channel of a core. -/
def Hart.channelIn (h : Hart) (ch : Nat) : List Chunk := (h.chan.inp[ch]?).getD []

/-- The chunks of an input channel with those that are on their way to it. -/
def State.channelLoad (s : State) (core ch : Nat) : Nat :=
  ((s.hart core).channelIn ch).length +
    (s.net.filter (fun p => match p with | .chunk t c _ => t == core && c == ch | _ => false)).length

/-- XSEND (R449). -/
def execXsend (d : BitVec 5) (ch : BitVec 2) (x : BitVec 6) (s : State) : Host.Outcome State Fault Refusal :=
  runHead acceptMain (headOf 0x76 2 d.toNat) [x] [d] 0 (do
    match s.channelOut ch with
    | none => operandM 0
    | some c => do
      let core := (c.toNat % 4096)
      let chan := c.toNat / 4096
      let v ← readSource d
      drainM (if dieOf core = dieOf s.cur then 3 else 4)
      let s ← get
      let t := s.popSource d
      if s.fencedCore core then set t.retire
      else if 8 ≤ s.channelLoad core chan then parkM .channel
      else set (t.send (.chunk core chan ⟨v, (s.x x).setWidth 16, s.cur⟩)).retire) s

/-- XRECV (R449). -/
def execXrecv (d : BitVec 5) (ch : BitVec 2) (x : BitVec 6) (s : State) : Host.Outcome State Fault Refusal :=
  runHead acceptMain (headOf 0x76 2 d.toNat) [x] [d] 0 (do
    noStreamM [d]
    match s.me.channelIn ch.toNat with
    | [] => parkM .channel
    | c :: rest => doM fun s =>
        let s := s.modMe fun h => { h with chan := { h.chan with inp := h.chan.inp.setIfInBounds ch.toNat rest } }
        ((s.setV d c.data).setX x (c.tag.setWidth 64)).retire) s

/-- XCTL.CON (R450). -/
def execXctlCon (ch : BitVec 2) (b : BitVec 6) (s : State) : Host.Outcome State Fault Refusal :=
  let w := s.x b
  runHead acceptMain (headOf 0x77 1 0) [b] [] 0 (
    if bits w 63 14 ≠ 0 then operandM 0
    else doM fun s =>
      (s.modMe fun h => { h with chan := { h.chan with out := h.chan.out.setIfInBounds ch.toNat (some (w.setWidth 14)) } }).retire) s

/-- XCTL.DIS (R450). -/
def execXctlDis (ch : BitVec 2) (s : State) : Host.Outcome State Fault Refusal :=
  runHead acceptMain (headOf 0x77 1 0) [] [] 0 (doM fun s =>
    (s.modMe fun h => { h with chan := { h.chan with out := h.chan.out.setIfInBounds ch.toNat none } }).retire) s

/-- XCTL.ST (R450). -/
def execXctlSt (d : BitVec 6) (ch : BitVec 2) (s : State) : Host.Outcome State Fault Refusal :=
  runHead acceptMain (headOf 0x77 1 d.toNat) [d] [] 0 (doM fun s =>
    let c := s.channelOut ch
    let held := (s.me.channelIn ch.toNat).length
    let v := (c.getD 0).toNat + (if c.isSome then 2 ^ 16 else 0) + held * 2 ^ 24
    (s.setX d (BitVec.ofNat 64 v)).retire) s

/-- CHANNEL_CHUNK_ARRIVAL: a chunk joins its input channel, in send order of its sender on the channel; at a fenced core it
is discarded (R447, R449). -/
def execChannelChunkArrival (k : Nat) (s : State) : Host.Outcome State Fault Refusal :=
  match s.net[k]? with
  | some (.chunk core ch c) =>
    let earlier := (s.net.take k).any (fun p => match p with | .chunk t n e => t == core && n == ch && e.src == c.src | _ => false)
    if earlier then .next s
    else
      let s := { s with net := dropAt s.net k }
      if s.fencedCore core then .next s
      else .next (s.modHart core fun h =>
        { h with chan := { h.chan with inp := h.chan.inp.setIfInBounds ch (h.channelIn ch ++ [c]) } })
  | _ => .next s

end Sys2Proof.Machine
end

