-- ==== Sys2Proof/Machine/Tasks.lean ====
section
/-! DEFINITION. Tasks.lean: task records, queues, dispatch, retirement, stealing within a die, and graph instances (R53,
R54, R154 to R174, R289 to R295). -/

namespace Sys2Proof.Machine

/-! ## Records and queues (R154 to R160) -/

/-- A record that R155 refuses: a reserved bit is set, or ENTRY's head index is 0. -/
def recordBad (r : TaskRecord) : Bool :=
  bit r.w0 0 || headIndex r.w0 == 0 || bits r.w2 63 45 != 0 || bit r.w2 32 || bits r.w2 31 29 != 0 || bit r.w2 16 ||
    bits r.w2 15 8 != 0 || bits r.w2 3 2 != 0 || bits r.w3 63 16 != 0

/-- PRIO of a record (R154). -/
def recordPrio (r : TaskRecord) : Nat := bits r.w2 1 0

/-- The queue of an index is live. -/
def Dispatcher.live (d : Dispatcher) (q : Nat) : Bool := match d.queue q with | some t => t.live | none => false

/-- The state with n overflowed records of live queues brought into SRAM, oldest first, while there is room (R157). -/
def Dispatcher.refill (d : Dispatcher) : Nat → Dispatcher
  | 0 => d
  | n + 1 =>
    if 1024 ≤ d.sram then d else
    match d.tasks.find? (fun u => u.overflow.isSome && d.live u.queue) with
    | some o => Dispatcher.refill { d with tasks := d.tasks.map (fun u => if u.order = o.order then { u with overflow := none } else u) } n
    | none => d

/-- A task leaves the dispatcher; the oldest overflowed record of a live queue takes its place in SRAM (R157). -/
def Dispatcher.remove (d : Dispatcher) (t : Task) : Dispatcher :=
  Dispatcher.refill { d with tasks := d.tasks.filter (fun u => u.order != t.order) } 1

/-- A record offered to a queue of cluster k: its status, and the state that holds it when it is accepted (R160, R161). -/
def State.offerTask (s : State) (k q : Nat) (r : TaskRecord) : Nat × State :=
  let d := (s.cluster k).disp
  match d.queue q with
  | none => (1, s)
  | some tq =>
    if recordBad r then (3, s)
    else match d.room q with
      | none => (2, s)
      | some place => (0, s.holdTask k q ⟨r, q, if tq.live then some s.clock else none, 0, none, none⟩ place)

/-- Where a queue of a cluster is after containment: the die's redirect table is followed to its end (R160, R192). -/
def State.redirected (s : State) (die : Nat) : Nat → Nat × Nat → Nat × Nat
  | 0, p => p
  | n + 1, p =>
    match (s.die die).redirect.find? (fun r => r.1 == p.1 && r.2.1 == p.2) with
    | some r => s.redirected die n (r.2.2.1, r.2.2.2)
    | none => p

/-- The place of a queue of a cluster. -/
def State.queuePlace (s : State) (k q : Nat) : Nat × Nat := s.redirected (k / 64) 64 (k, q)

/-- The state with a cluster's dispatcher changed. -/
def State.modDisp (s : State) (k : Nat) (f : Dispatcher → Dispatcher) : State :=
  s.modCluster k fun c => { c with disp := f c.disp }

/-- An enqueue to a handle: its status of R160 and its effect. -/
def State.enqueue (s : State) (handle : Word) (r : TaskRecord) : Nat × State :=
  if bits handle 63 32 ≠ 0 then (4, s) else
    let (k, q) := s.queuePlace (bits handle 31 30 * 64 + bits handle 29 24) (bits handle 23 16)
    let d := (s.cluster k).disp
    match d.queue q with
    | none => (1, s)
    | some tq =>
      if tq.gen ≠ BitVec.ofNat 16 (bits handle 15 0) then (1, s) else s.offerTask k q r

/-- The default queue of a task's PRIO in a cluster has room for it. -/
def State.hasRoom (s : State) (k : Nat) (r : TaskRecord) : Bool :=
  let p := s.queuePlace k (recordPrio r)
  ((s.cluster p.1).disp.room p.2).isSome

/-- A task put into the default queue of its PRIO in a cluster, keeping its ready time; a stolen task joins that queue
whatever queue it came from, which is the model's choice (assumption 84). When SRAM and area are full the area takes one
record more, for the spec loses no such task (assumption 90). -/
def State.putTask (s : State) (k : Nat) (t : Task) : State :=
  let p := s.queuePlace k (recordPrio t.record)
  let d := (s.cluster p.1).disp
  s.holdTask p.1 p.2 t ((d.room p.2).getD (some (d.freePlace p.2)))

/-! ## SPAWN, ENQ and LAUNCHG (R289 to R295) -/

/-- A task record read once, from an address of 32-byte alignment (R155). -/
def recordM (a : Word) : M TaskRecord := do
  let w ← loadWords a 4
  pure ⟨nth w 0 0, nth w 1 0, nth w 2 0, nth w 3 0⟩

/-- SPAWN (R290): a release at package scope, then the decision of the hart's own dispatcher. -/
def execSpawn (d b : BitVec 6) (s : State) : Host.Outcome State Fault Refusal :=
  let a := s.x b
  runHead ⟨true, true, false, false⟩ (headOf 0x2C 1 d.toNat) [d, b] [] 0 (do
    if a.toNat % 32 ≠ 0 then operandM a
    else do
      let r ← recordM a
      drainM 4
      doM fun s =>
        let (k, q) := s.queuePlace (clusterOf s.cur) (recordPrio r)
        let o := s.offerTask k q r
        (o.2.setX d (BitVec.ofNat 64 o.1)).retire) s

/-- The home of a status word: in the hart's own TCM window, or for a service core in service SRAM; every other address is
OPERAND, one that does not translate too (R292). -/
def statusM (a : Word) : M Nat := do
  let s ← get
  if a.toNat % 8 ≠ 0 then operandM a
  else if kindOf s.cur = 3 then
    match (myPlace .store a 8).run s with
    | (.ok p, t) => do
      set t
      if p.home < 0xFFC0_0100_0000 ∨ 0xFFC0_01FF_FFFF < p.home then operandM a else pure p.home
    | (.error (.park w n), t) => do
      set t
      throw (.park w n)
    | (.error _, t) => do
      set t
      operandM a
  else
    let (w, off) := s.windowOf s.cur a.toNat
    if w ≠ .tcm then operandM a else pure (tcmHome (coreOf s.cur) off)

/-- A hart's ENQ and LAUNCHG replies that are outstanding (R292). -/
def State.repliesDue (s : State) (h : Nat) : Nat :=
  (s.net.filter (fun p => match p with
    | .enq src _ _ _ _ => src == h
    | .launchg src _ _ _ _ => src == h
    | .reply dst _ _ _ => dst == h
    | _ => false)).length

/-- ENQ (R292). -/
def execEnq (h : BitVec 6) (mc : BitVec 3) (st b : BitVec 6) (s : State) : Host.Outcome State Fault Refusal :=
  let a := s.x b
  runHead ⟨true, true, false, true⟩ (headOf 0x2C 2 h.toNat) [h, st, b] [] 0 (do
    let home ← statusM (s.x st)
    if a.toNat % 32 ≠ 0 then operandM a
    else do
      let r ← recordM a
      drainM 4
      let s ← get
      if 64 ≤ s.repliesDue s.cur then parkM .reply
      else set (s.send (.enq s.cur (s.x h) r home mc)).retire) s

/-- A patch read once: its header, and its entries when the header counts 1 to 64 of them (R294). -/
def patchM (a : Word) : M (List Word) :=
  if a = 0 then pure []
  else if a.toNat % 8 ≠ 0 then operandM a
  else do
    let h ← loadWords a 1
    let n := (nth h 0 0).toNat
    if n = 0 ∨ 64 < n then pure h
    else do
      let e ← loadWords (a + 8) (2 * n)
      pure (h ++ e)

/-- LAUNCHG (R295). -/
def execLaunchg (st : BitVec 6) (mc : BitVec 3) (p g : BitVec 6) (s : State) : Host.Outcome State Fault Refusal :=
  runHead ⟨true, true, false, true⟩ (headOf 0x2D 2 st.toNat) [st, p, g] [] 0 (do
    let home ← statusM (s.x st)
    let l ← patchM (s.x p)
    drainM 4
    let s ← get
    if 64 ≤ s.repliesDue s.cur then parkM .reply
    else set (s.send (.launchg s.cur (s.x g) l home mc)).retire) s

/-- ENQ_ARRIVAL: the status is decided as the enqueue arrives, and the reply leaves (R159, R160). -/
def execEnqArrival (k : Nat) (s : State) : Host.Outcome State Fault Refusal :=
  match s.net[k]? with
  | some (.enq src handle r st mc) =>
    let (code, s) := { s with net := dropAt s.net k }.enqueue handle r
    .next (s.send (.reply src st code mc))
  | _ => .next s

/-- ENQ_REPLY: the status word is written and full, and then the counter rises; a reply to a fenced core is discarded
(R191, R292). At a held word it waits, as what comes from outside (R101). -/
def execEnqReply (k : Nat) (s : State) : Host.Outcome State Fault Refusal :=
  match s.net[k]? with
  | some (.reply dst st code mc) =>
    let gone (s : State) : State := { s with net := dropAt s.net k }
    if bit (s.hart (counterOwner dst)).sys.fence 8 then .next (gone s)
    else match s.partyWaits outsideParty [⟨st, 8, st, false⟩] with
      | (true, s) => .next s
      | (false, s) => .next (((gone s).engineWrite st (bytesOf code 8)).bumpCounter (counterOwner dst) mc)
  | _ => .next s

/-! ## Graph instances (R172, R173, R295) -/

/-- A patch is legal for a parameter block of n bytes (R295). -/
def patchOk (l : List Word) (n : Nat) : Bool :=
  match l with
  | [] => true
  | h :: e =>
    let c := h.toNat
    decide (1 ≤ c ∧ c ≤ 64) && e.length == 2 * c &&
      (List.range c).all (fun i => let w := (nth e (2 * i) 0).toNat; w % 8 == 0 && decide (w < 4096 ∧ w + 8 ≤ n))

/-- A parameter block with a patch's entries applied in order (R295). -/
def applyPatch (l : List Word) (params : List Byte) : List Byte :=
  let e := l.drop 1
  (List.range (e.length / 2)).foldl (fun (p : List Byte) i =>
    let off := (nth e (2 * i) 0).toNat
    p.take off ++ bytesOf (nth e (2 * i + 1) 0).toNat 8 ++ p.drop (off + 8)) params

/-- The tasks of a body that have no predecessor among the given ones. -/
def freeTasks (body : GraphBody) (among left : List Nat) : List Nat :=
  among.filter (fun i => body.deps.all (fun d => !(d.2 == i && left.contains d.1)))

/-- A cluster whose dispatcher still serves and has room for a record, chosen by the service; one without room when none
has. -/
def State.someCluster (s : State) (r : TaskRecord) : Nat × State :=
  let live := (List.range 256).filter (fun k => !(s.cluster k).fenced)
  let room := live.filter (fun k => s.hasRoom k r)
  let l := if room = [] then live else room
  let (i, s) := s.choose l.length
  (nth l i 0, s)

/-- Graph tasks become ready: the service gives each a cluster, and its ARG points into the instance's copy (R161, R172). -/
def State.readyGraphTasks (s : State) (g : GraphInstance) (l : List Nat) : State :=
  l.foldl (fun s i =>
    let r := nth g.body.tasks i ⟨0, 0, 0, 0⟩
    let (k, s) := s.someCluster r
    let (off, s) := s.choose g.params.length
    s.putTask k ⟨{ r with w1 := g.arg + BitVec.ofNat 64 off }, 0, some s.clock, 0, some (g.id, i), none⟩) s

/-- The table root of the job, which the service has set on the compute cores (R462). -/
def State.jobRoot (s : State) : Word := s.rootOf 0

/-- The first number of n from a start on, modulo a number, that p accepts: the start is counted up. -/
def firstFrom (p : Nat → Bool) (modulo : Nat) : Nat → Nat → Option Nat
  | 0, _ => none
  | n + 1, a => if p (a % modulo) then some (a % modulo) else firstFrom p modulo n (a + 1)

/-- Nothing of n bytes of DRAM from a on is the service's yet: no area that it has taken, and no loft's overflow area. -/
def State.areaFree (s : State) (n a : Nat) : Bool :=
  let apart (b m : Nat) : Bool := decide (a + n ≤ b ∨ b + m ≤ a)
  decide (a + n ≤ 2 ^ 38) && s.dev.areas.all (fun r => apart r.1 r.2) && (List.range 256).all fun k => apart (loftArea k) 0x180_0000

/-- The service takes n bytes of DRAM for itself, at a 64 KiB boundary that is its choice among the free ones. -/
def State.takeArea (s : State) (n : Nat) : Option (Nat × State) :=
  (firstFrom (fun i => s.areaFree n (65536 * i)) (2 ^ 22) (2 ^ 22) (Config.freeNat s.free)).map fun i =>
    (65536 * i, { s with free := s.free + 1 }.modDev fun d => { d with areas := d.areas ++ [(65536 * i, n)] })

/-- The entry of a page written into the tables under a node, with new nodes in pages that the service takes where there are
none; a larger page in the way, or a node outside DRAM, refuses it. -/
def mapFrom (va : Nat) (entry : Word) : Nat → Nat → State → Option State
  | level, node, s =>
    let (lo, w) := levelShift level
    let ea := node + 8 * (va / 2 ^ lo % 2 ^ w)
    if homeOf node ≠ .dram then none else
    match level with
    | 0 => some (s.engineWrite ea (bytesOf entry.toNat 8))
    | n + 1 =>
      let (d, s) := s.engineRead ea 8
      let pte : Word := BitVec.ofNat 64 (natOf d)
      if bit pte 0 = false then
        match s.takeArea 4096 with
        | none => none
        | some (page, s) =>
          let s := s.engineWrite page (List.replicate 4096 0)
          mapFrom va entry n page (s.engineWrite ea (bytesOf (page + 1) 8))
      else if bit pte 1 || bit pte 2 || bit pte 3 then none
      else mapFrom va entry n (bits pte 47 8 * 256) s

/-- A virtual page that the job does not use is mapped to a page of the service's, for user code to read and write (R86). -/
def State.mapNew (s : State) (area page : Nat) : Option State :=
  match s.lookup 0 s.jobRoot (65536 * page) with
  | (.fault, s) => mapFrom (65536 * page) (BitVec.ofNat 64 (area + 0xD7)) 3 (bits s.jobRoot 47 12 * 4096) s
  | _ => none

/-- An instance's copy of the parameter block is placed in a page of DRAM of its own, and the service maps it at a virtual page
of its choice among those that the job does not use; that address comes back (R172; assumption 91). -/
def State.placeCopy (s : State) (params : List Byte) : Word × State :=
  match s.takeArea 65536 with
  | none => (0, s)
  | some (area, s) =>
    let s := s.engineWrite area params
    match firstFrom (fun n => (s.mapNew area n).isSome) (2 ^ 32) (2 ^ 32) (Config.freeNat s.free) with
    | none => (0, s)
    | some n => (BitVec.ofNat 64 (65536 * n), ({ s with free := s.free + 1 }.mapNew area n).getD s)

/-- An instance starts with its copy of the parameter block (R172). -/
def State.startInstance (s : State) (graph : Nat) (g : Graph) (params : List Byte) : State :=
  let all := List.range g.body.tasks.length
  let first := freeTasks g.body all all
  let id := s.dev.nextId
  let (arg, s) := s.placeCopy params
  let inst : GraphInstance := { id := id, graph := graph, params := params, arg := arg, left := all
                                waiting := all.filter (fun i => !first.contains i), body := g.body }
  let s := s.modDev fun d => { d with nextId := d.nextId + 1, instances := if all = [] then d.instances else d.instances ++ [inst] }
  s.readyGraphTasks inst first

/-- Live instances of a graph (R173). -/
def State.liveOf (s : State) (graph : Nat) : Nat := (s.dev.instances.filter (fun i => i.graph == graph)).length

/-- A launch of a graph handle with a patch: its status of R295 and its effect. -/
def State.launchGraph (s : State) (handle : Word) (patch : List Word) : Nat × State :=
  let n := bits handle 31 16
  match tget s.dev.graphs n with
  | none => (6, s)
  | some g =>
    if bits handle 63 32 ≠ 0 ∨ g.gen ≠ BitVec.ofNat 16 (bits handle 15 0) then (6, s)
    else if patchOk patch g.body.params.length = false then (7, s)
    else
      let params := applyPatch patch g.body.params
      if 8 ≤ s.liveOf n then (5, s.modDev fun d => { d with launchQueue := d.launchQueue ++ [(n, params)] })
      else (0, s.startInstance n g params)

/-- Launches that waited start while fewer than eight instances of their graph live, in order of arrival (R173). The fuel is
their number. -/
def State.startWaiting : Nat → State → State
  | 0, s => s
  | n + 1, s =>
    match s.dev.launchQueue.findIdx? (fun l => decide (s.liveOf l.1 < 8)) with
    | none => s
    | some i =>
      match s.dev.launchQueue[i]? with
      | none => s
      | some l =>
        let s := s.modDev fun d => { d with launchQueue := dropAt d.launchQueue i }
        State.startWaiting n (match tget s.dev.graphs l.1 with
          | some g => s.startInstance l.1 g l.2
          | none => s)

/-- A graph task has retired: its successors whose predecessors all have retired become ready; the last one ends the
instance (R161, R173). -/
def State.graphTaskDone (s : State) (id task : Nat) : State :=
  match s.dev.instances.find? (fun i => i.id == id) with
  | none => s
  | some g =>
    let left := g.left.filter (fun i => i != task)
    let now := freeTasks g.body g.waiting left
    let g := { g with left := left, waiting := g.waiting.filter (fun i => !now.contains i) }
    let s := s.modDev fun d =>
      { d with instances := (d.instances.map (fun i => if i.id = id then g else i)).filter (fun i => !i.left.isEmpty) }
    (s.readyGraphTasks g now).startWaiting s.dev.launchQueue.length

/-- LAUNCHG_ARRIVAL: the service decides a launch as it arrives (R295); during a checkpoint or restore it refuses it with
the code of BUSY (R455, R457; assumption 92). -/
def execLaunchgArrival (k : Nat) (s : State) : Host.Outcome State Fault Refusal :=
  match s.net[k]? with
  | some (.launchg src handle patch st mc) =>
    let s := { s with net := dropAt s.net k }
    let (code, s) := if s.dev.tierOp.isSome then (3, s) else s.launchGraph handle patch
    .next (s.send (.reply src st code mc))
  | _ => .next s

/-! ## Dispatch (R53, R161 to R164, R171) -/

/-- A task's effective level (R162). -/
def State.levelOf (s : State) (d : Dispatcher) (t : Task) : Nat :=
  match t.ready with
  | some r => if r + d.agelimit.toNat ≤ s.clock then 3 else recordPrio t.record
  | none => recordPrio t.record

/-- A task may be dispatched or stolen: it is ready, in a live queue (R161). -/
def Dispatcher.isReady (d : Dispatcher) (t : Task) : Bool := t.ready.isSome && d.live t.queue

/-- Whether one ready task goes before another: the higher level, the earlier ready time, the lower queue, the earlier
acceptance (R162). -/
def taskBefore (s : State) (d : Dispatcher) (a b : Task) : Bool :=
  let la := s.levelOf d a
  let lb := s.levelOf d b
  let ra := a.ready.getD 0
  let rb := b.ready.getD 0
  decide (lb < la ∨ (la = lb ∧ (ra < rb ∨ (ra = rb ∧ (a.queue < b.queue ∨ (a.queue = b.queue ∧ a.order < b.order))))))

/-- The first of a list by an order. -/
def firstBy {α : Type} (before : α → α → Bool) : List α → Option α
  | [] => none
  | a :: r => match firstBy before r with
    | some b => if before b a then some b else some a
    | none => some a

/-- A compute core is idle, unfenced, not halted and not parked by cr.preempt (R162, R171). -/
def State.idleCore (s : State) (c : Nat) : Bool :=
  let h := s.hart c
  kindOf c == 0 && h.act == .idle && h.task.isNone && !h.halted && !s.fencedCore c && !bit h.sys.preempt 2

/-- Core c starts a task (R53, R447). -/
def State.startTask (s : State) (c : Nat) (t : Task) : State :=
  let s := s.modHart c fun h =>
    { h with act := .running, park := none, task := some ⟨t, s.clock, false⟩
             traps := { h.traps with status := setBits h.traps.status 1 0 0, pend := { h.traps.pend with taskLimit := none } }
             main := { h.main with pc := t.record.w0, image := none
                                   x := (h.main.x.setIfInBounds 2 (s.tcmVa c 0x8000)).setIfInBounds 3 t.record.w1 }
             queues := ⟨Vector.replicate 8 0, Vector.replicate 8 0⟩
             chan := { h.chan with out := Vector.replicate 4 none } }
  let arg (s : State) (k : Nat) : State :=
    s.modHart k fun h => { h with main := { h.main with x := h.main.x.setIfInBounds 3 t.record.w1 } }
  let s := if bit t.record.w2 6 then (arg s (4096 + c)).startCompanion (4096 + c) (BitVec.ofNat 64 (bits t.record.w2 28 16)) else s
  if bit t.record.w2 7 then (arg s (8192 + c)).startCompanion (8192 + c) (BitVec.ofNat 64 (bits t.record.w2 44 32)) else s

/-- TASK_DISPATCH: an idle core takes the ready task that R162 puts first among those its FLOOR admits (R162, R170). -/
def execTaskDispatch (core : Nat) (s : State) : Host.Outcome State Fault Refusal :=
  let k := clusterOf core
  let d := (s.cluster k).disp
  if s.idleCore core = false then .next s else
  let floor := bits (s.hart core).sys.preempt 1 0
  match firstBy (taskBefore s d) (d.tasks.filter (fun t => d.isReady t && decide (floor ≤ s.levelOf d t))) with
  | none => .next s
  | some t => .next ((s.modDisp k fun d => d.remove t).startTask core t)

/-- AGE_LIMIT_EXPIRY: a task that has been ready for the aging limit counts as top level (R162). Its level is what the clock,
its ready time and the limit now in force make it (`State.levelOf`), so that the expiry writes nothing. -/
def execAgeLimitExpiry (_ : Nat) (_ : Nat) (s : State) : Host.Outcome State Fault Refusal :=
  .next s

/-- TASK_LIMIT_EXPIRY: the cycles counted since the task's start reach LIMIT (R169). -/
def execTaskLimitExpiry (core : Nat) (s : State) : Host.Outcome State Fault Refusal :=
  let h := s.hart core
  match h.task with
  | some r =>
    let n := s.clock - r.since
    if r.limited ∨ n < bits h.sys.tasklim 47 0 then .next s
    else .next (s.modHart core fun h =>
      { h with task := some { r with limited := true }
               traps := { h.traps with pend := { h.traps.pend with taskLimit := some (BitVec.ofNat 64 n) } } })
  | none => .next s

/-! ## Retirement (R54, R171, R290) -/

/-- What a supervisor's TASKEND does first: pending runs go, each scope-miss run with the fence and lift of R103, the drain
under way places no more rows, and the companions stop (R54). -/
def State.endRuns (s : State) (c : Nat) : State :=
  let h := s.hart c
  let s := (h.runs.fifo ++ h.runs.port).foldl (fun s r => match r.kind with
    | .scopeMiss u _ => s.fenceBySelf c u (s.hart c).mem.serial
    | .drain _ => s) s
  let s := s.modHart c fun t =>
    let active := match t.handler.run with
      | some r => (match r.kind with | .drain _ => true | _ => false)
      | none => false
    let ended : Option (MatCmd × Nat) := t.engine.run.map fun r => match r.1.op with
      | .drain _ _ rows _ (some _) _ _ _ _ => (r.1, rows)
      | _ => r
    let left := match t.engine.run with
      | some r => (match r.1.op with
        | .drain _ _ _ _ (some _) _ _ _ _ => if active then 1 else 0
        | _ => t.engine.rowsLeft)
      | none => t.engine.rowsLeft
    { t with runs := { t.runs with fifo := [], port := [], blocked := none }
             engine := { t.engine with run := ended, rowsLeft := left } }
  (s.stopCompanion (4096 + c)).stopCompanion (8192 + c)

/-- TASKEND (R54, R290): a companion stops; a compute core waits for its retirement. -/
def execTaskend (s : State) : Host.Outcome State Fault Refusal :=
  let head := headOf 0x2C 1 0
  runHead ⟨true, false, true, false⟩ head [] [] 0 (do
    let s ← get
    if s.prv = 2 then illegalM head
    else if kindOf s.cur ≠ 0 then
      set (s.countHead.modMe fun h => { h with act := .stopped false, park := none })
    else do
      if s.prv = 1 then set (s.endRuns s.cur)
      parkM .taskend) s

/-- Core c stands in a TASKEND whose conditions hold (R54, R442), and the earlier accesses of the core and its companions are
performed (R156). A companion that a write of RUN 0 stopped counts as one that has ended, which is the model's choice
(assumption 77). -/
def State.retirable (s : State) (c : Nat) : Bool :=
  let h := s.hart c
  let idle (k : Nat) : Bool :=
    let t := s.hart k
    t.copy.queue.isEmpty && (t.copy.active.filter (fun x => !x.done)).isEmpty
  kindOf c == 0 && h.act == .running && (match h.park with | some p => p.why == .taskend | none => false) &&
    (s.hart (4096 + c)).act != .running && (s.hart (8192 + c)).act != .running &&
    idle c && idle (4096 + c) && idle (8192 + c) && h.engine.queue.isEmpty && h.engine.run.isNone &&
    (s.cluster (clusterOf c)).copyl.all (fun x => coreOf x.hart != c) &&
    (s.cluster (clusterOf c)).screener.all (fun r => r.core != c) &&
    h.runs.fifo.isEmpty && h.runs.port.isEmpty && h.handler.run.isNone &&
    s.drained c 4 && s.drained (4096 + c) 4 && s.drained (8192 + c) 4

/-- A companion that a trap stopped is reset to stopped without a trap (R54). -/
def State.clearTrapped (s : State) (h : Nat) : State :=
  s.modHart h fun t => if t.act = .stopped true then { t with act := .stopped false } else t

/-- The queues of core c are disabled as if EN had been cleared (R48, R54). -/
def State.disableQueues (s : State) (c : Nat) : State :=
  ([0, 1, 2, 3, 4, 5, 6, 7] : List (BitVec 3)).foldl (fun s q =>
    if bit (s.qctl c q) 63 then (s.setQctl c q (setBits (setBit (s.qctl c q) 63 false) 48 36 0) 0).dropQueue c q else s) s

/-- A task that retired on core c: graph successors, and the notice of DV (R154, R156, R161). -/
def State.finishTask (s : State) (t : Task) : State :=
  let s := match t.graph with
    | some g => s.graphTaskDone g.1 g.2
    | none => s
  s.notifyDone t.record

/-- TASK_RETIREMENT: the task of a core that waits in TASKEND retires (R54, R171, R353). -/
def execTaskRetirement (core : Nat) (s : State) : Host.Outcome State Fault Refusal :=
  if s.retirable core = false then .next s else
  let task := (s.hart core).task
  let s := s.asHart core fun t => t.countHead.endSearch 4
  let s := (s.clearTrapped (4096 + core)).clearTrapped (8192 + core)
  let s := s.disableQueues core
  let s := ([0, 1, 2, 3] : List (BitVec 2)).foldl (fun s k => s.modStream core k Stream.off) s
  let s := s.modHart core fun h =>
    { h with act := .idle, park := none, task := none
             traps := { h.traps with status := if bits h.traps.status 1 0 = 1 then setBit h.traps.status 10 false else h.traps.status
                                     pend := { h.traps.pend with taskLimit := none } }
             sys := if bit h.sys.preempt 63 then { h.sys with preempt := h.sys.preemptNext, preemptNext := 0 } else h.sys }
  .next (match task with
    | some r => s.finishTask r.task
    | none => s)

/-! ## Stealing within a die (R165) -/

/-- The dispatcher of a cluster has an idle core and no ready task. -/
def State.wantsTask (s : State) (k : Nat) : Bool :=
  let d := (s.cluster k).disp
  (coresOf k).any s.idleCore && !d.tasks.any d.isReady && !(s.cluster k).fenced

/-- A probe of cluster k, or the task it was given, is under way. -/
def State.probing (s : State) (k : Nat) : Bool :=
  s.net.any (fun p => match p with | .probe src _ => src == k | .stolen dst _ => dst == k | _ => false)

/-- The other clusters of a die by grid distance from k, the lower index first among equals (R165). -/
def probeOrder (k : Nat) : List Nat :=
  sortBy (fun (a b : Nat) => decide (gridDistance k a < gridDistance k b ∨ (gridDistance k a = gridDistance k b ∧ a ≤ b)))
    ((upFrom (k / 64 * 64) 64).filter (fun j => j != k))

/-- STEAL_PROBE: the next probe of a round, or the first of a new round, at most one per 1,024 cycles (R165). -/
def execStealProbe (cluster : Nat) (s : State) : Host.Outcome State Fault Refusal :=
  let d := (s.cluster cluster).disp
  if s.probing cluster then .next s
  else if s.wantsTask cluster = false then .next (s.modDisp cluster fun d => { d with probing := [] })
  else
    let due := match d.probeAt with | some t => decide (t + 1024 ≤ s.clock) | none => true
    match d.probing with
    | j :: r => .next ((s.modDisp cluster fun d => { d with probing := r }).send (.probe cluster j))
    | [] =>
      if due = false then .next s
      else match probeOrder cluster with
        | [] => .next s
        | j :: r => .next ((s.modDisp cluster fun d => { d with probeAt := some s.clock, probing := r }).send (.probe cluster j))

/-- Whether one task is given before another: the earlier ready time, the lower queue, the earlier acceptance (R165). -/
def givenBefore (a b : Task) : Bool :=
  let ra := a.ready.getD 0
  let rb := b.ready.getD 0
  decide (ra < rb ∨ (ra = rb ∧ (a.queue < b.queue ∨ (a.queue = b.queue ∧ a.order < b.order))))

/-- STEAL_PROBE_ANSWER: a dispatcher with two or more ready tasks gives the one R165 names. -/
def execStealProbeAnswer (k : Nat) (s : State) : Host.Outcome State Fault Refusal :=
  match s.net[k]? with
  | some (.probe src dst) =>
    let s := { s with net := dropAt s.net k }
    let d := (s.cluster dst).disp
    let ready := d.tasks.filter d.isReady
    let may (t : Task) : Bool := match d.queue t.queue with | some q => q.stealable | none => false
    if ready.length < 2 then .next s
    else match firstBy givenBefore (ready.filter may) with
      | none => .next s
      | some t => .next ((s.modDisp dst fun d => d.remove t).send (.stolen src t))
  | _ => .next s

/-- STOLEN_TASK_ARRIVAL: the given task joins the probing dispatcher with its ready time and PRIO, once it has room (R157,
R165). -/
def execStolenTaskArrival (k : Nat) (s : State) : Host.Outcome State Fault Refusal :=
  match s.net[k]? with
  | some (.stolen dst t) => .next (if s.hasRoom dst t.record then { s with net := dropAt s.net k }.putTask dst t else s)
  | _ => .next s

end Sys2Proof.Machine
end

