-- ==== Sys2Proof/Machine/Events.lean ====
section
/-! DEFINITION. Events.lean: the device's own steps that belong to no instruction family: writes through the hart control
window and of control registers (R46, R48, R64, R168, R171, R282, R351, R464), walks, the loft, scrub and scope misses
(R76, R79, R87, R101 to R103, R187, R472), messages and wakes (R62, R183, R186, R286, R297, R299, R380), and containment
(R191 to R194, R457, R468). An event whose condition does not hold leaves the state as it is. -/

namespace Sys2Proof.Machine

/-! ## The hart control window and control-register writes (R464, R282) -/

/-- HART_HALT: HALT 1 is written to a hart's control word (R464). -/
def execHartHalt (h : Nat) (s : State) : Host.Outcome State Fault Refusal :=
  .next (if hartExists h then s.haltHart h else s)

/-- HART_RELEASE: HALT 0 is written to a hart's control word (R464). -/
def execHartRelease (h : Nat) (s : State) : Host.Outcome State Fault Refusal :=
  .next (if hartExists h then s.releaseHart h else s)

/-- HART_WINDOW_REGISTER_ACCESS: an aligned 8-byte access at an offset of a hart's page (R464). A load changes nothing. -/
def execHartWindowRegisterAccess (h offset : Nat) (store : Option Word) (s : State) : Host.Outcome State Fault Refusal :=
  match store with
  | some v => .next (if offset < 4096 ∧ offset % 8 = 0 then s.windowWrite h offset v else s)
  | none => .next s

/-- A control-register write of core c's own thread: one that the register refuses raises OPERAND there (R282). -/
def State.coreWrite (s : State) (c num : Nat) (v : Word) : State :=
  if kindOf c ≠ 0 then s else
  match s.crWrite c 2 num v with
  | some t => t
  | none => if s.canRun c then s.trapMain c (faultCause 0x05 0) (s.hart c).main.pc 0 else s

/-- QUEUE_ENABLE: a write of cr.qctln with EN 1 (R48). -/
def execQueueEnable (core : Nat) (q : BitVec 3) (val : Word) (s : State) : Host.Outcome State Fault Refusal :=
  .next (s.coreWrite core (0x48 + q.toNat) (setBit val 63 true))

/-- QUEUE_DISABLE: a write of cr.qctln with EN 0 to an enabled queue (R48). -/
def execQueueDisable (core : Nat) (q : BitVec 3) (s : State) : Host.Outcome State Fault Refusal :=
  .next (if bit (s.qctl core q) 63 then s.coreWrite core (0x48 + q.toNat) 0 else s)

/-- The number of cr.ldctl or cr.stctl (R278). -/
def companionNum (storer : Bool) : Nat := if storer then 0x29 else 0x26

/-- COMPANION_START: a write of cr.ldctl or cr.stctl with RUN 1 and a PC (R46). -/
def execCompanionStart (core : Nat) (storer : Bool) (pc : BitVec 12) (s : State) : Host.Outcome State Fault Refusal :=
  .next (s.coreWrite core (companionNum storer) (BitVec.ofNat 64 (2 ^ 63 + 2 * pc.toNat)))

/-- COMPANION_STOP: a write of cr.ldctl or cr.stctl with RUN 0 (R46). -/
def execCompanionStop (core : Nat) (storer : Bool) (s : State) : Host.Outcome State Fault Refusal :=
  .next (s.coreWrite core (companionNum storer) 0)

/-- A value of cr.preempt (R170). -/
def preemptValue (req park : Bool) (floor : BitVec 2) : Word :=
  BitVec.ofNat 64 ((if req then 2 ^ 63 else 0) + (if park then 4 else 0) + floor.toNat)

/-- PREEMPT_REQUEST: a write of cr.preempt with REQ 1 (R171). -/
def execPreemptRequest (core : Nat) (park : Bool) (floor : BitVec 2) (s : State) : Host.Outcome State Fault Refusal :=
  .next (s.coreWrite core 0x62 (preemptValue true park floor))

/-- PREEMPT_CANCEL: a write of cr.preempt with REQ 0 (R171). -/
def execPreemptCancel (core : Nat) (park : Bool) (floor : BitVec 2) (s : State) : Host.Outcome State Fault Refusal :=
  .next (s.coreWrite core 0x62 (preemptValue false park floor))

/-- STREAM_SLOT_DISABLE: a write of cr.strmn with EN 0 (R351). -/
def execStreamSlotDisable (core : Nat) (slot : BitVec 2) (s : State) : Host.Outcome State Fault Refusal :=
  .next (s.coreWrite core (0x50 + slot.toNat) 0)

/-- MAILBOX_COUNTER_WRITE (R282). -/
def execMailboxCounterWrite (core : Nat) (mc : BitVec 3) (val : Word) (s : State) : Host.Outcome State Fault Refusal :=
  .next (s.coreWrite core (0x58 + mc.toNat) val)

/-- WINMAP_WRITE (R64). -/
def execWinmapWrite (core : Nat) (val : Word) (s : State) : Host.Outcome State Fault Refusal :=
  .next (s.coreWrite core 0x17 val)

/-- TASKLIM_WRITE (R168). -/
def execTasklimWrite (core : Nat) (val : Word) (s : State) : Host.Outcome State Fault Refusal :=
  .next (s.coreWrite core 0x60 val)

/-- CONTROL_REGISTER_WRITE: a write at machine privilege, as the hart control window makes it (R282, R464). -/
def execControlRegisterWrite (h : Nat) (num : BitVec 12) (val : Word) (s : State) : Host.Outcome State Fault Refusal :=
  .next (if num.toNat ≤ 0xFF then s.windowWrite h (8 * num.toNat) val else s)

/-- SERVICE_CORE_START: a start message starts a stopped service core 1 to 3; the spec does not lay the message out, so the
PC it names is free (R462). -/
def execServiceCoreStart (i : Nat) (s : State) : Host.Outcome State Fault Refusal :=
  let h := 12288 + i
  let t := s.hart h
  if 1 ≤ i ∧ i ≤ 3 ∧ t.act = .idle ∧ t.halted = false ∧ bit t.sys.fence 8 = false then
    .next ({ s with free := s.free + 1 }.modHart h fun t =>
      { t with act := .running, main := { t.main with pc := targetOf (Config.freeWord s.free), image := none } })
  else .next s

/-! ## Translation, caches and scrub (R76, R79, R87, R187) -/

/-- PAGE_WALK: a walk for hart h fills the TLBs; a poisoned entry is a machine check (R87, R184). -/
def execPageWalk (h : Nat) (va : Word) (s : State) : Host.Outcome State Fault Refusal :=
  let root := s.rootOf h
  if hartExists h = false ∨ (kindOf h = 3 ∧ root = 0) ∨ 2 ^ 48 ≤ va.toNat then .next s
  else match s.lookup h root va.toNat with
    | (.poisoned a, s) => .next (s.machineCheck (if kindOf h = 3 then h else coreOf h) 2 (BitVec.ofNat 64 a))
    | (_, s) => .next s

/-- LOFT_WRITE_BACK: a dirty block leaves the eaves buffer and is written back (R76). -/
def execLoftWriteBack (cluster : Nat) (block : Nat) (s : State) : Host.Outcome State Fault Refusal :=
  if (s.cluster cluster).loft.eaves.any (fun e => e.1 == block && e.2.1) && s.evictable (loftHome cluster (256 * block)) then
    .next ((s.writeBack cluster block).modLoft cluster fun l => { l with eaves := l.eaves.filter (fun e => e.1 != block) })
  else .next s

/-- The transfer is a COPYL's (R366). -/
def Xfer.isLayout (x : Xfer) : Bool :=
  match x.op with
  | .copyl _ _ => true
  | _ => false

/-- A sequential reader of a loft is at work: an enabled stream slot, a copy engine with transfers, the block-transfer engine
with a core's, or the screener with requests (R79). -/
def State.readerLives (s : State) : Reader → Bool
  | .stream core slot => (((s.hart core).streams.toList[slot]?).map (·.en)).getD false
  | .copy core => !(s.hart core).copy.queue.isEmpty || (s.hart core).copy.active.any (fun x => !x.isLayout)
  | .block core => (s.cluster (clusterOf core)).copyl.any (fun x => x.hart == core) || (s.hart core).copy.active.any Xfer.isLayout
  | .screener k => !(s.cluster k).screener.isEmpty

/-- The reader that a number names in cluster k: slot n % 4 of core n / 4 below 16,384, the copy engine of core n − 16,384
below 20,480, the block-transfer engine at core n − 20,480 below 24,576, and else the screener. -/
def readerOf (k n : Nat) : Reader :=
  if n < 16384 then .stream (n / 4) (n % 4) else if n < 20480 then .copy (n - 16384)
  else if n < 24576 then .block (n - 20480) else .screener k

/-- DECODE_AHEAD: the expander places a block's lines into the cluster's L2 slice for a reader that its first sequential read
gave one of the four places, up to 64 blocks ahead of its latest read (R79, R81). -/
def execDecodeAhead (cluster : Nat) (reader : Nat) (block : Nat) (s : State) : Host.Outcome State Fault Refusal :=
  let r := readerOf cluster reader
  let within := (s.cluster cluster).loft.places.any fun p => p.1 == r && decide (p.2.1 ≤ block ∧ block ≤ p.2.1 + 64)
  if 256 ≤ cluster ∨ 98304 ≤ block ∨ within = false ∨ s.readerLives r = false then .next s
  else
    let first := loftHome cluster (256 * block) / 64
    .next ((upFrom first 4).foldl (fun s line => s.fillL2 (cluster / 64) ⟨line, 6, false, true, false, s.clock⟩) s)

/-- DECODE_AHEAD_PLACE_EXPIRY: a place is freed when its reader ends, or after 4,096 cycles without a read, and the first of the
readers that wait and are still at work takes it (R79). -/
def execDecodeAheadPlaceExpiry (cluster : Nat) (place : Nat) (s : State) : Host.Outcome State Fault Refusal :=
  match (s.cluster cluster).loft.places[place]? with
  | some (r, _, t) =>
    if s.readerLives r = false ∨ t + 4096 ≤ s.clock then
      .next (s.modLoft cluster fun l => Loft.promote
        { l with places := dropAt l.places place, waiting := l.waiting.filter (fun p => s.readerLives p.1) })
    else .next s
  | none => .next s

/-- SECDED protects the word of a home (R184). -/
def protectedHome (a : Nat) : Bool :=
  match homeOf a with
  | .service => false
  | .store => false
  | _ => true

/-- PATROL_SCRUB: a single-bit error is corrected, and an uncorrectable one marks the word poisoned (R184, R187). -/
def execPatrolScrub (addr : Nat) (uncorrectable : Bool) (s : State) : Host.Outcome State Fault Refusal :=
  .next (if uncorrectable && protectedHome addr then { s with poison := sortedAdd s.poison (secdedWord addr) } else s)

/-- LINK_REPLAY: a flit is replayed. A registrar request that the fabric repeats so reaches its registrar again (R113,
R187); `link` is the hart whose link replays. -/
def execLinkReplay (link : Nat) (s : State) : Host.Outcome State Fault Refusal :=
  let s := { s with board := { s.board with replays := s.board.replays + 1 } }
  match (s.hart link).mem.regLast with
  | some r => .next (s.modDie (homeDie r.op.place.1) fun d => { d with registrar := d.registrar ++ [r] })
  | none => .next s

/-! ## Scope misses (R101 to R103, R472) -/

/-- A context of hart h waits at a unit that is or was held. -/
def Hart.waitsHeld (h : Hart) (unit : Nat) : Bool :=
  (match h.park with | some p => p.why == .scopeMiss unit | none => false) ||
    (match h.hpark with | some p => p.why == .scopeMiss unit | none => false)

/-- SCOPE_MISS_HOLD: the home holds an acquire from outside a tag's scope and sends its message (R101). -/
def execScopeMissHold (h : Nat) (unit : Nat) (s : State) : Host.Outcome State Fault Refusal :=
  match tget s.tags unit with
  | some t => .next (if (s.hart h).waitsHeld unit && !inScope t.writer t.scope h then s.holdAcquire h unit else s)
  | none => .next s

/-- The fence that a hold's writer makes by itself is made: its accesses below the hold's serial are performed, and at pod or
system scope every module and host has acknowledged (R103, R459, R472). -/
def State.fenceMade (s : State) (hd : Hold) : Bool :=
  match hd.auto with
  | some n => s.performedBelow hd.writer n && (decide (hd.scope.toNat < 5) || s.podQuiet)
  | none => false

/-- COMPANION_SCOPE_MISS: the memory interface of a hart without a handler context makes the release fence itself, once
every access of the hart before the message is performed at the scope (R472). -/
def execCompanionScopeMiss (h : Nat) (s : State) : Host.Outcome State Fault Refusal :=
  if kindOf h = 0 then .next s else
  match (s.hart h).runs.port with
  | ⟨.scopeMiss u sc, _, _, _, _, _⟩ :: r =>
    let s := s.podFence sc
    let gone := s.modHart h fun t => { t with runs := { t.runs with port := r } }
    .next (match tget s.holds u with
      | some hd => if hd.writer ≠ h then gone
          else if s.fenceMade hd then { gone with holds := tput s.holds u { hd with lifted := true } } else s
      | none => gone)
  | _ => .next s

/-- SCOPE_MISS_LIFT: the lift reaches the home, whose tag takes the wider scope, and the held accesses go on (R102). A compute
core whose run trapped or was discarded sends it once its fence is made (R54, R103). -/
def execScopeMissLift (unit : Nat) (s : State) : Host.Outcome State Fault Refusal :=
  match tget s.holds unit with
  | some hd =>
    let alone := kindOf hd.writer == 0 && hd.auto.isSome
    let s := if alone then s.podFence hd.scope else s
    .next (if hd.lifted ∨ (alone ∧ s.fenceMade hd) then s.liftHold unit hd.scope else s)
  | none => .next s

/-! ## Messages, wakes and limits (R60 to R62, R183, R186, R286, R297, R299, R380) -/

/-- MESSAGE_DELIVERY: the payload is written and full, and then the counter rises; messages of one sender to one target
arrive in order and wait at held words, and a fenced target's port discards them (R60, R68, R101, R191). -/
def execMessageDelivery (k : Nat) (s : State) : Host.Outcome State Fault Refusal :=
  match s.net[k]? with
  | some (.msg src target slot data mc _) =>
    let earlier := (s.net.take k).any (fun p => match p with
      | .msg a b _ _ _ _ => a == src && b == target
      | _ => false)
    let a := tcmHome target (256 * slot)
    if earlier then .next s
    else if s.fencedCore target then .next { s with net := dropAt s.net k }
    else match s.partyWaits src [⟨a, data.length, a, false⟩] with
      | (true, s) => .next s
      | (false, s) => .next (({ s with net := dropAt s.net k }.engineWrite a data).bumpCounter target mc)
  | _ => .next s

/-- The park of a context of hart h. -/
def State.parkOf (s : State) (h : Nat) (handler : Bool) : Option Park :=
  if handler then (s.hart h).hpark else (s.hart h).park

/-- A context of hart h comes to its head again: it executes next. -/
def State.wake (s : State) (h : Nat) (handler : Bool) : State := { s with cur := h, ctx := if handler then .handler else .main }

/-- PARK_WAKE: a parked context comes to its head, which executes again and waits on if its condition does not hold (R50,
R62). -/
def execParkWake (h : Nat) (handler : Bool) (s : State) : Host.Outcome State Fault Refusal :=
  .next (if (s.parkOf h handler).isSome then s.wake h handler else s)

/-- A wait of a kind has reached its limit: its context comes to its head, which then completes. -/
def State.expire (s : State) (h : Nat) (handler : Bool) (why : Why) : State :=
  match s.parkOf h handler with
  | some p => if p.why = why ∧ s.parkOver p = true then s.wake h handler else s
  | none => s

/-- SLEEP_LIMIT_EXPIRY (R286). -/
def execSleepLimitExpiry (h : Nat) (handler : Bool) (s : State) : Host.Outcome State Fault Refusal :=
  .next (s.expire h handler .sleep)

/-- PAUSE_EXPIRY (R286). -/
def execPauseExpiry (h : Nat) (handler : Bool) (s : State) : Host.Outcome State Fault Refusal :=
  .next (s.expire h handler .pause)

/-- WAITC_TIMEOUT (R299). -/
def execWaitcTimeout (h : Nat) (handler : Bool) (s : State) : Host.Outcome State Fault Refusal :=
  .next (s.expire h handler .counter)

/-- BWAIT_TIMEOUT (R380). -/
def execBwaitTimeout (core : Nat) (s : State) : Host.Outcome State Fault Refusal :=
  .next (s.expire core false .bell)

/-- INTERRUPT_TAKEN: a head boundary of hart h takes its highest pending enabled interrupt (R178, R183). -/
def execInterruptTaken (h : Nat) (s : State) : Host.Outcome State Fault Refusal :=
  .next (if s.canRun h then s.takeInterrupt h else s)

/-- USER_COMPLETION_INTERRUPT: a head boundary of a core takes its oldest completion event (R186). -/
def execUserCompletionInterrupt (core : Nat) (s : State) : Host.Outcome State Fault Refusal :=
  .next (if s.canRun core then s.takeUserEvent core else s)

/-- SERVICE_INTERRUPT: SERVICE pends with its request code (R176). -/
def execServiceInterrupt (core : Nat) (code : Word) (s : State) : Host.Outcome State Fault Refusal :=
  .next (if hartExists core then
    s.modHart core fun t => { t with traps := { t.traps with pend := { t.traps.pend with service := some code } } }
    else s)

/-! ## Containment and recovery (R191 to R194, R457, R468) -/

/-- CORE_FENCE: a control fault or the service fences a core (R191). -/
def execCoreFence (core : Nat) (s : State) : Host.Outcome State Fault Refusal :=
  .next (if hartExists core then s.fenceHart core else s)

/-- The unfenced cluster of the die nearest to cluster k, the lower index first among equals (R192). -/
def State.receiver (s : State) (k : Nat) : Option Nat := (probeOrder k).find? (fun j => !(s.cluster j).fenced)

/-- Tasks join a queue of cluster j in their order: one that its own overflow area holds stays there, and another goes to
SRAM or to the area, one record past its end when both are full (R157, R192; assumption 90). -/
def State.joinQueue (s : State) (j q : Nat) (l : List Task) : State :=
  l.foldl (fun s t =>
    let d := (s.cluster j).disp
    s.holdTask j q t (if t.overflow.isSome then t.overflow else (d.room q).getD (some (d.freePlace q)))) s

/-- A queue of cluster k moves into cluster j with its tasks, its generation and its state, at an index the service
chooses among the free ones; the die's redirect table sends its handles there (R192). That the index counts its next generation
on from the moved queue's is the model's choice (assumption 47). -/
def State.moveQueue (s : State) (k j q : Nat) : State :=
  match tget (s.cluster k).disp.queues q with
  | none => s
  | some tq =>
    let free := (upFrom 4 252).filter (fun n => (tget (s.cluster j).disp.queues n).isNone)
    match free with
    | [] => s
    | _ =>
      let (i, s) := s.choose free.length
      let n := nth free i 4
      let moving := (s.cluster k).disp.tasks.filter (fun t => t.queue == q)
      let s := s.modDisp k fun d => { d with queues := tdel d.queues q, tasks := d.tasks.filter (fun t => t.queue != q) }
      let s := s.modDisp j fun d => { d with queues := tput d.queues n tq, gens := tput d.gens n tq.gen }
      let s := s.joinQueue j n moving
      s.modDie (k / 64) fun d => { d with redirect := d.redirect ++ [(k, q, j, n)] }

/-- The held tasks of a default queue of cluster k join cluster j's and keep their ready times; its handles follow (R192). -/
def State.moveDefault (s : State) (k j q : Nat) : State :=
  let moving := (s.cluster k).disp.tasks.filter (fun t => t.queue == q)
  let s := s.modDisp k fun d => { d with tasks := d.tasks.filter (fun t => t.queue != q) }
  let s := s.joinQueue j q (moving.map fun t => { t with overflow := none })
  s.modDie (k / 64) fun d => { d with redirect := d.redirect ++ [(k, q, j, q)] }

/-- Fence a cluster (R192): each of its cores is fenced, its shared units stop, and its queues move. -/
def State.fenceCluster (s : State) (k : Nat) : State :=
  if (s.cluster k).fenced then s else
  let s := s.modCluster k fun c => { c with fenced := true, treeWait := [], treeRun := none, screener := [], copyl := [] }
  let s := (coresOf k).foldl (fun s c => s.modSys c fun r => { r with fence := setBit r.fence 9 true }) s
  let s := (coresOf k).foldl State.fenceHart s
  let s := s.logEvent 3 (BitVec.ofNat 64 (16 * k)) 0
  match s.receiver k with
  | none => s
  | some j =>
    let s := ([0, 1, 2, 3] : List Nat).foldl (fun s q => s.moveDefault k j q) s
    (((s.cluster k).disp.queues.map (·.1)).filter (4 ≤ ·)).foldl (fun s q => s.moveQueue k j q) s

/-- CLUSTER_FENCE (R192). -/
def execClusterFence (cluster : Nat) (s : State) : Host.Outcome State Fault Refusal :=
  .next (if cluster < 256 then s.fenceCluster cluster else s)

/-- WEAR_UPDATE: a cluster's wear snapshot is replaced; a margin below 2 % fences the cluster (R468). -/
def execWearUpdate (cluster : Nat) (val : Word) (s : State) : Host.Outcome State Fault Refusal :=
  if 256 ≤ cluster then .next s else
  let v : Word := 0x8000_0000_0000_0000 ||| (val &&& 0x0000_FFFF_FFFF_FFFF)
  let s := s.modCluster cluster fun c => { c with wear := v }
  .next (if bits v 15 8 < 4 then s.fenceCluster cluster else s)

/-- Recovery from a die failure: every hart but the service cores is halted, running tasks are abandoned, and the restore
of the module's latest checkpoint begins (R457). -/
def State.recover (s : State) : State :=
  let s := (upFrom 0 12288).foldl State.haltHart s
  s.modDev fun d => { d with tierOp := (d.tier.getLast?).map (fun i => .recover i.1 i.2.1) }

/-- A stop message leaves for every other module of the pod (R457). -/
def State.stopOthers (s : State) : State :=
  s.modDev fun d => { d with stops := d.stops ++ (List.range d.podM).filter (fun n => n != d.podN) }

/-- DIE_FAILURE: the job stops on every module, the failure is logged, and the job resumes from its last checkpoint (R194,
R457, R458). -/
def execDieFailure (die : Nat) (s : State) : Host.Outcome State Fault Refusal :=
  .next (if die < 4 then (s.logEvent 4 (BitVec.ofNat 64 (1024 * die)) 0).stopOthers.recover else s)

/-- RECOVERY_STOP_MESSAGE: another module's die failure stops this one too (R457). -/
def execRecoveryStopMessage (s : State) : Host.Outcome State Fault Refusal := .next s.recover

end Sys2Proof.Machine
end

