-- ==== Sys2Proof/Machine/Service.lean ====
section
/-! DEFINITION. Service.lean: service requests and the pod (R451 to R467, R172 to R174, R157 to R159). A request is an
event that carries its header and payload; the reply is recorded at its endpoint (R456). -/

namespace Sys2Proof.Machine

/-! ## Replies and the order of requests (R453 to R456) -/

/-- An endpoint of the transport. -/
def State.endpoint (s : State) (ep : Nat) : Endpoint := (tget s.dev.endpoints ep).getD ⟨none, [], none⟩

/-- The state with an endpoint changed. -/
def State.modEndpoint (s : State) (ep : Nat) (f : Endpoint → Endpoint) : State :=
  s.modDev fun d => { d with endpoints := tput d.endpoints ep (f (s.endpoint ep)) }

/-- A reply as it leaves: the 32-byte header with REPLY 1, STATUS and LEN, the request's CODE, SEQ and JOB, and the payload
(R453). That the JOB is the request's is the model's choice (assumption 94). -/
def replyBytes (code : BitVec 8) (seq : Word) (job : BitVec 32) (status : Nat) (payload : List Byte) : List Byte :=
  bytesOf (2 ^ 56 + code.toNat * 2 ^ 48 + status * 2 ^ 40 + 2 ^ 32 + payload.length) 8 ++ bytesOf seq.toNat 8 ++
    bytesOf (job.toNat * 2 ^ 32) 8 ++ bytesOf 0 8 ++ payload

/-- A reply leaves an endpoint. -/
def State.say (s : State) (ep : Nat) (d : List Byte) : State := s.modDev fun v => { v with lastReply := some (ep, d) }

/-- The reply of SEQ at an endpoint is recorded among the last 64, and leaves (R456). -/
def State.record (s : State) (ep : Nat) (code : BitVec 8) (seq : Word) (job : BitVec 32) (status : Nat) (payload : List Byte) :
    State :=
  let d := replyBytes code seq job status payload
  (s.modEndpoint ep fun e =>
    let l := e.replies ++ [(seq, d)]
    { last := some seq, replies := l.drop (l.length - 64), work := none }).say ep d

/-- A request is answered. -/
def State.answerTo (s : State) (r : Request) (status : Nat) (payload : List Byte) : State :=
  s.record r.ep r.code r.seq r.job status payload

/-- A request has begun and is not answered; of a transfer, words have been moved at the places that its range was translated to
as it began (R456). -/
def State.keepAt (s : State) (r : Request) (body : List Byte) (l : Spans) (moved : List (Nat × List Byte)) : State :=
  s.modEndpoint r.ep fun e => { e with work := some ⟨r, body, l, moved⟩ }

/-- What a request that has begun has moved. -/
def State.movedAt (s : State) (r : Request) : List (Nat × List Byte) := (((s.endpoint r.ep).work).map (·.moved)).getD []

/-- The endpoint whose checkpoint or restore is under way. -/
def State.tierEndpoint (s : State) : Option Nat :=
  match s.dev.tierOp with
  | some (.checkpoint ep _ _ _ _) => ep
  | some (.restore ep _ _ _) => ep
  | _ => none

/-- A checkpoint or restore that an endpoint began has no requester any more: the endpoint is established anew (R456). -/
def TierOp.forget (o : TierOp) (ep : Nat) : TierOp :=
  match o with
  | .checkpoint e seq tier addr was => .checkpoint (if e = some ep then none else e) seq tier addr was
  | .restore e seq tier addr => .restore (if e = some ep then none else e) seq tier addr
  | o => o

/-- A packet that the transport does not support is dropped, and its port's error count rises (R451). -/
def State.portError (s : State) (port : Nat) : State :=
  s.modDev fun d => { d with portErrors := tput d.portErrors port ((tget d.portErrors port).getD 0 + 1) }

/-- The header is that of a request of a code, and where the payload begins with a u32 of that one, with a payload of n bytes
or, where its length is not fixed, at least n (R453, R454). -/
def requestFits (r : Request) (code : Nat) (op : Option Nat) (n : Nat) (exact : Bool) : Bool :=
  r.ver == 1 && r.code.toNat == code && op.all (fun o => r.op.toNat == o) && r.status == 0 && !r.reply && !r.reserved &&
    (if exact then r.len.toNat == n else decide (n ≤ r.len.toNat)) && decide (r.len.toNat ≤ 65504)

/-- A request from outside (R451 to R456), with a payload of n bytes at least: one on an endpoint that there is not, or longer
than an ordered message, is dropped; a repeated SEQ gets its recorded reply; a request behind an unfinished one of its
endpoint waits, one that has begun goes on, and another with its SEQ is BAD_REQUEST; so is a wrong SEQ, or a malformed header,
code or payload; the ROM stage executes what `rom` allows; another JOB is BAD_JOB; during a checkpoint or restore everything is
BUSY; and then comes the request's own effect. A request that may take several steps gives its payload, `body`, by which it is
known again. -/
def State.request (s : State) (body : Option (List Byte)) (r : Request) (rom : Bool) (n : Nat) (wrong : Bool)
    (effect : State → State) : State :=
  let e := s.endpoint r.ep
  if 4096 ≤ r.ep ∨ 65504 < n then s.portError r.port.toNat else
  match e.replies.find? (fun p => p.1 == r.seq), e.work with
  | some p, _ => s.say r.ep p.2
  | none, some w =>
    if w.req.seq ≠ r.seq then s
    else if w.req = r ∧ body = some w.payload then effect s
    else s.say r.ep (replyBytes r.code r.seq r.job 1 [])
  | none, none =>
    if s.tierEndpoint = some r.ep then s
    else if (match e.last with | some l => r.seq != l + 1 | none => false) then s.say r.ep (replyBytes r.code r.seq r.job 1 [])
    else if wrong then s.answerTo r 1 []
    else if s.dev.service = false then (if rom then effect s else s.answerTo r 7 [])
    else if r.job ≠ s.dev.job then s.answerTo r 2 []
    else if s.dev.tierOp.isSome then s.answerTo r 3 []
    else effect s

/-- Exactly n bytes: the list cut, or filled with zeros. -/
def fit (n : Nat) (l : List Byte) : List Byte := (l.take n) ++ List.replicate (n - l.length) 0

/-- ENDPOINT_ESTABLISHED: the next request on the endpoint may carry any SEQ (R456). -/
def execEndpointEstablished (ep : Nat) (s : State) : Host.Outcome State Fault Refusal :=
  .next (if ep < 4096 then s.modDev fun d =>
    { d with endpoints := tput d.endpoints ep ⟨none, [], none⟩, checking := if d.checking = some ep then none else d.checking
             tierOp := d.tierOp.map fun o => o.forget ep } else s)

/-- UNSUPPORTED_PACKET: it is dropped, and its port's error count rises (R451). -/
def execUnsupportedPacket (port : Nat) (s : State) : Host.Outcome State Fault Refusal :=
  .next (if port < 8 then s.portError port else s)

/-! ## Boot (R465, R466) -/

/-- The image staging area and the service SRAM (R463). -/
def stagingBase : Nat := 0xFFC0_0200_0000
def sramBase : Nat := 0xFFC0_0100_0000

/-- Bytes of the staged image. -/
def State.staged (s : State) (off n : Nat) : List Byte := s.getBytes (stagingBase + off) n

/-- The check of the staged image: 0, or the first step of R466 that fails. -/
def State.imageCheck (s : State) : Nat :=
  let num (off n : Nat) : Nat := natOf (s.staged off n)
  let key := s.staged 0x58 132
  let body := s.staged 0x200 (num 8 4)
  if num 0 8 ≠ 0x4C52_4156_5A54_4B42 ∨ 12582912 < num 8 4 ∨ (s.staged 0x160 160).any (· != 0) then 1
  else if sha512 key ≠ Config.fusedKeyHash then 2
  else if ecdsaVerifies key (s.staged 0 0xDC) (s.staged 0xDC 132) = false then 3
  else if sha512 body ≠ s.staged 0x18 64 then 4
  else if num 0xC 4 < s.dev.rollback.toNat then 5
  else 0

/-- The service places an overflow area in DRAM for each default queue of a cluster, of the size that its image sets: a free
value below 16 MiB, which is the model's bound (R157; assumption 41). -/
def State.placeDefaults (s : State) (k : Nat) : State :=
  ([0, 1, 2, 3] : List Nat).foldl (fun s q =>
    let n := Config.freeNat s.free % 0x100_0000
    let s := { s with free := s.free + 1 }
    match s.takeArea n with
    | some (a, s) => s.modDisp k fun d => { d with queues := tput d.queues q ⟨true, 0, true, BitVec.ofNat 64 a, n⟩ }
    | none => s) s

/-- The image of a LOAD_IMAGE with LAST runs: the body stands at service SRAM offset 0, service core 0 goes to the entry,
and the domain's JOB is the request's (R456, R466). -/
def State.startImage (s : State) (r : Request) : State :=
  let num (off n : Nat) : Nat := natOf (s.staged off n)
  let header := s.staged 0 0x200
  let body := s.staged 0x200 (num 8 4)
  let entry := num 0x10 8
  let version := num 0xC 4
  let s := s.poke sramBase body
  let s := (List.range 256).foldl State.placeDefaults s
  let s := s.modDev fun d =>
    { d with service := true, job := r.job, bootStatus := 0x80, imageHash := sha512 header
             rollback := BitVec.ofNat 32 (max version d.rollback.toNat) }
  s.modHart 12288 fun t =>
    { t with act := .running, park := none, main := { t.main with pc := BitVec.ofNat 64 (sramBase + entry), image := none } }

/-- The ROM stage's check ends (R466): the image starts, or the failing step is written down and the staged image is gone, so
that a new first chunk must come. -/
def State.endCheck (s : State) (r : Request) : State :=
  let n := s.imageCheck
  let s := s.modDev fun d => { d with checking := none }
  (if n = 0 then s.startImage r
   else (s.modDev fun d => { d with bootStatus := BitVec.ofNat 8 n }).wipe
     (fun a => decide (stagingBase ≤ a ∧ a < stagingBase + 0x200_0000))).answerTo r 0 []

/-- LOAD_IMAGE: a chunk enters the staging area; at the one with LAST the ROM stage's check begins, which the same request
ends when it comes to its turn again, and while it runs every other LOAD_IMAGE is BUSY (R455, R465, R466). The running
service has no further use for an image, and only stages the bytes. -/
def execLoadImage (r : Request) (offset : Word) (data : List Byte) (s : State) : Host.Outcome State Fault Refusal :=
  let n := 8 + data.length
  let body := bytesOf offset.toNat 8 ++ data
  .next (s.request (some body) r true n (!requestFits r 1 none n true || decide (0x200_0000 < offset.toNat + data.length)) fun s =>
    if (s.endpoint r.ep).work.isSome then s.endCheck r
    else if s.dev.checking.isSome then s.answerTo r 3 []
    else
      let s := s.poke (stagingBase + offset.toNat) data
      if r.last = false ∨ s.dev.service then s.answerTo r 0 []
      else (s.modDev fun d => { d with checking := some r.ep }).keepAt r body [] [])

/-! ## Memory through requests (R454 to R456) -/

/-- MAP: 64 KiB pages of a range get their entries (R85, R86, R454). -/
def execMap (r : Request) (va pa len pte : Word) (s : State) : Host.Outcome State Fault Refusal :=
  let a := va.toNat
  let n := len.toNat
  let wrong := decide (a % 65536 ≠ 0 ∨ pa.toNat % 65536 ≠ 0 ∨ n % 65536 ≠ 0 ∨ 2 ^ 48 < a + n ∨ 2 ^ 48 < pa.toNat + n ∨ 256 ≤ pte.toNat)
  .next (s.request none r false 32 (!requestFits r 2 none 32 true || wrong) fun s =>
    let root := bits s.jobRoot 47 12 * 4096
    let done := (List.range (n / 65536)).foldl (fun (o : Option State) i => o.bind fun s =>
      mapFrom (a + 65536 * i) (BitVec.ofNat 64 (pa.toNat + 65536 * i + pte.toNat)) 3 root s) (some s)
    match done with
    | some s => s.answerTo r 0 []
    | none => s.answerTo r 6 [])

/-- How far the translation of a request's range came. -/
inductive Reached where
  | whole
  /-- A page stops it, with this STATUS. -/
  | stopped (status : Nat)
  /-- A walk waits at a held line. -/
  | waits
  deriving DecidableEq, Repr

/-- A range of a request, translated page by page under the job's tables up to the first page that stops it: its places in
DRAM, and how far it came. A first page with no entry is NOT_FOUND; whatever else stops it is an address fault or a poisoned
word, and FAULT (R455). -/
def State.requestSpans (s : State) (acc : Acc) (va n : Nat) : Spans × Reached × State :=
  (piecesOf va n).foldl (fun (o : Spans × Reached × State) p =>
    if o.2.1 ≠ .whole then o else
    let none_ : Reached := .stopped (if o.1 = [] then 5 else 6)
    if 2 ^ 48 ≤ p.1 then (o.1, none_, o.2.2) else
    match o.2.2.lookup 12288 o.2.2.jobRoot p.1 with
    | (.fault, s) => (o.1, none_, s)
    | (.outside, s) => (o.1, .stopped 6, s)
    | (.poisoned _, s) => (o.1, .stopped 6, s)
    | (.waits _, s) => (o.1, .waits, s)
    | (.leaf sh pte, s) =>
      let pa := bits pte 47 8 * 256 + p.1 % 2 ^ sh
      if leafAllows pte acc 2 && homeOf pa == .dram then (o.1 ++ [⟨p.1, p.2, pa, bit pte 5⟩], .whole, s)
      else (o.1, .stopped 6, s)) ([], .whole, s)

/-- Bytes of places. -/
def spansLength (l : Spans) : Nat := (l.map (·.len)).foldl (· + ·) 0

/-- The words of a request's transfer that move now, and those that are left after them: any of those not yet moved, for they
move one by one in no order (R105, R456). -/
def State.wordsNow (s : State) (r : Request) (l : Spans) : List (Nat × Nat) × List (Nat × Nat) × State :=
  let open_ := (wordCuts l 0).filter (fun c => !(s.movedAt r).any (fun m => m.1 == c.1))
  let (m, s) := s.choose (2 ^ open_.length)
  let now (i : Nat) : Bool := m / 2 ^ i % 2 == 1
  ((open_.zipIdx.filter (fun c => now c.2)).map (·.1), (open_.zipIdx.filter (fun c => !now c.2)).map (·.1), s)

/-- The places of a request's transfer: those that it was translated to when it began, or its translation now (R455). -/
def State.transferSpans (s : State) (r : Request) (acc : Acc) (va n : Nat) : Spans × Reached × State :=
  match (s.endpoint r.ep).work with
  | some w => (w.spans, .whole, s)
  | none => s.requestSpans acc va n

/-- COPY_IN: the data are written at their homes word by word, and the request is answered once all are; a word of a sync-class
page waits behind the requests at its registrar; a FAULT may leave a prefix of the data (R454 to R456). -/
def execCopyIn (r : Request) (va : Word) (data : List Byte) (s : State) : Host.Outcome State Fault Refusal :=
  let n := 8 + data.length
  let body := bytesOf va.toNat 8 ++ data
  .next (s.request (some body) r false n (!requestFits r 3 none n true) fun s =>
    let (l, reached, s) := s.transferSpans r .store va.toNat data.length
    match reached, s.spansWait 12288 l with
    | .waits, _ => s
    | _, (true, s) => s
    | .stopped c, (false, s) =>
      let (m, s) := s.choose (spansLength l + 1)
      (s.engineWriteSpans (takeSpans l m) (data.take m)).answerTo r c []
    | .whole, (false, s) =>
      let (now, left, s) := s.wordsNow r l
      let t := now.foldl (fun s c => s.engineWriteSpans (partSpans l c.1 c.2) ((data.drop c.1).take c.2)) s
      if left = [] then t.answerTo r 0 []
      else t.keepAt r body l (s.movedAt r ++ now.map (fun c => (c.1, []))))

/-- The module has delivered data to a module (below 256) or to a host's endpoint (256 and its number) (R459). -/
def State.delivered (s : State) (whom : Nat) : State :=
  s.modDev fun d => { d with podDirty := if d.podDirty.contains whom then d.podDirty else d.podDirty ++ [whom] }

/-- COPY_OUT: the data of a range, read word by word as COPY_IN writes; a poisoned word is a FAULT (R454 to R456). -/
def execCopyOut (r : Request) (va len : Word) (s : State) : Host.Outcome State Fault Refusal :=
  let body := bytesOf va.toNat 8 ++ bytesOf len.toNat 8
  .next (s.request (some body) r false 16 (!requestFits r 4 none 16 true || decide (65496 < len.toNat)) fun s =>
    match s.transferSpans r .load va.toNat len.toNat with
    | (_, .waits, s) => s
    | (_, .stopped c, s) => s.answerTo r c []
    | (l, .whole, s) => match s.spansWait 12288 l with
      | (true, s) => s
      | (false, s) =>
        if (s.poisonSpans l).isSome then s.answerTo r 6 []
        else
          let (now, left, s) := s.wordsNow r l
          let (got, t) := now.foldl (fun (o : List (Nat × List Byte) × State) c =>
            let q := o.2.engineReadSpans (partSpans l c.1 c.2)
            (o.1 ++ [(c.1, q.1)], q.2)) (s.movedAt r, s)
          if left = [] then
            (t.delivered (256 + r.ep)).answerTo r 0
              ((sortBy (fun (a b : Nat × List Byte) => decide (a.1 ≤ b.1)) got).flatMap (·.2))
          else t.keepAt r body l got)

/-! ## Launches, graphs and queues (R157 to R159, R172 to R174, R454) -/

/-- LAUNCH: the status of R295 in four bytes; a graph that is gone is NOT_FOUND, and a bad patch a BAD_REQUEST (R454, R455). -/
def execLaunch (r : Request) (handle : Word) (patch : List Word) (s : State) : Host.Outcome State Fault Refusal :=
  let n := 8 + 8 * patch.length
  .next (s.request none r false n (!requestFits r 5 none n true) fun s =>
    let (code, s) := s.launchGraph handle patch
    s.answerTo r (if code = 6 then 5 else if code = 7 then 1 else 0) (bytesOf code 4))

/-- A graph that a handle names (R294). -/
def State.graphOf (s : State) (handle : Word) : Option (Nat × Graph) :=
  match tget s.dev.graphs (bits handle 31 16) with
  | some g => if bits handle 63 32 = 0 ∧ g.gen = BitVec.ofNat 16 (bits handle 15 0) then some (bits handle 31 16, g) else none
  | none => none

/-- Graph records that cannot be captured: too many tasks, a bad record, or a dependence on no task (R155, R172). -/
def graphBad (g : GraphBody) : Bool :=
  decide (65536 < g.tasks.length) || g.tasks.any recordBad ||
    g.deps.any (fun d => decide (g.tasks.length ≤ d.1 ∨ g.tasks.length ≤ d.2))

/-- The bytes that a graph's tasks and parameter block take at least in a request; the spec lays out no graph records beside
task records (R154, R454). -/
def graphBytes (g : GraphBody) : Nat := 4 + 32 * g.tasks.length + g.params.length

/-- GRAPH_CAPTURE: the service assigns a free number and a generation (R172, R294). -/
def execGraphCapture (r : Request) (g : GraphBody) (s : State) : Host.Outcome State Fault Refusal :=
  .next (s.request none r false (graphBytes g) (!requestFits r 10 (some 0) (graphBytes g) false || graphBad g) fun s =>
    let used := s.dev.graphs.map (·.1)
    let free := (List.range 65536).filter (fun n => !used.contains n)
    let (i, s) := s.choose free.length
    let n := nth free i 0
    let gen := BitVec.ofNat 16 (Config.freeNat s.free)
    let s := { s with free := s.free + 1 }
    if free = [] then s.answerTo r 3 []
    else (s.modDev fun d => { d with graphs := tput d.graphs n ⟨gen, g⟩ }).answerTo r 0
      (bytesOf (n * 65536 + gen.toNat) 8))

/-- An edit of a graph's body: NOT_FOUND without the graph. -/
def State.editGraph (s : State) (r : Request) (handle : Word) (busy : Bool) (f : GraphBody → GraphBody) : State :=
  match s.graphOf handle with
  | none => s.answerTo r 5 []
  | some (n, g) =>
    if busy && decide (0 < s.liveOf n) then s.answerTo r 4 []
    else (s.modDev fun d => { d with graphs := tput d.graphs n { g with body := f g.body } }).answerTo r 0 (bytesOf handle.toNat 8)

/-- GRAPH_STRUCTURAL_EDIT: GRAPH_BUSY while an instance is live (R174). -/
def execGraphStructuralEdit (r : Request) (handle : Word) (g : GraphBody) (s : State) : Host.Outcome State Fault Refusal :=
  let n := 8 + graphBytes g
  .next (s.request none r false n (!requestFits r 10 (some 1) n false || graphBad g) fun s => s.editGraph r handle true fun b => { g with params := b.params })

/-- GRAPH_PARAMETER_EDIT: for launches accepted after it (R174). -/
def execGraphParameterEdit (r : Request) (handle : Word) (params : List Byte) (s : State) : Host.Outcome State Fault Refusal :=
  let n := 12 + params.length
  .next (s.request none r false n (!requestFits r 10 (some 2) n false) fun s => s.editGraph r handle false fun b => { b with params := params })

/-- A handle that no QUEUE operation may name: a reserved bit, or a default queue (R158, R455). -/
def queueHandleBad (handle : Word) : Bool := decide (bits handle 63 32 ≠ 0 ∨ bits handle 23 16 < 4)

/-- The cluster and queue that a handle names, before redirection (R158). -/
def handleParts (handle : Word) : Nat × Nat := (bits handle 31 30 * 64 + bits handle 29 24, bits handle 23 16)

/-- QUEUE create: the generation rises and is never 0 (R157, R159, R455). -/
def execQueueCreate (r : Request) (handle ovAddr ovSize : Word) (stealable : Bool) (s : State) :
    Host.Outcome State Fault Refusal :=
  .next (s.request none r false 28 (!requestFits r 9 (some 0) 28 true || queueHandleBad handle || decide (ovSize.toNat % 32 ≠ 0)) fun s =>
    let (k, q) := handleParts handle
    let d := (s.cluster k).disp
    if (s.cluster k).fenced then s.answerTo r 6 []
    else if (tget d.queues q).isSome then s.answerTo r 3 []
    else
      let old := (tget d.gens q).getD 0
      let gen := if old + 1 = 0 then 1 else old + 1
      let s := s.modDisp k fun d =>
        { d with queues := tput d.queues q ⟨true, gen, stealable, ovAddr, ovSize.toNat⟩, gens := tput d.gens q gen }
      s.answerTo r 0 (bytesOf ((handle.toNat / 65536 * 65536) + gen.toNat) 8))

/-- An operation on a queue that a handle names: NOT_FOUND without it (R159, R455). -/
def State.onQueue (s : State) (r : Request) (handle : Word) (f : State → Nat → Nat → TaskQueue → State) : State :=
  let p := handleParts handle
  let (k, q) := s.queuePlace p.1 p.2
  match tget (s.cluster k).disp.queues q with
  | some tq => if tq.gen = BitVec.ofNat 16 (bits handle 15 0) then f s k q tq else s.answerTo r 5 []
  | none => s.answerTo r 5 []

/-- QUEUE destroy: the tasks it still holds are discarded and counted (R159). -/
def execQueueDestroy (r : Request) (handle : Word) (s : State) : Host.Outcome State Fault Refusal :=
  .next (s.request none r false 12 (!requestFits r 9 (some 1) 12 true || queueHandleBad handle) fun s => s.onQueue r handle fun s k q _ =>
    let n := ((s.cluster k).disp.tasks.filter (fun t => t.queue == q)).length
    (s.modDisp k fun d =>
      Dispatcher.refill { d with queues := tdel d.queues q, tasks := d.tasks.filter (fun t => t.queue != q) } n).answerTo r 0
      (bytesOf n 8))

/-- QUEUE swap out: the queue is swapped, and its tasks are neither dispatched nor stolen (R159, R161). -/
def execQueueSwapOut (r : Request) (handle : Word) (s : State) : Host.Outcome State Fault Refusal :=
  .next (s.request none r false 12 (!requestFits r 9 (some 2) 12 true || queueHandleBad handle) fun s => s.onQueue r handle fun s k q tq =>
    (s.modDisp k fun d => { d with queues := tput d.queues q { tq with live := false } }).answerTo r 0 (bytesOf handle.toNat 8))

/-- QUEUE swap in: tasks accepted while it was swapped become ready (R161). -/
def execQueueSwapIn (r : Request) (handle : Word) (s : State) : Host.Outcome State Fault Refusal :=
  .next (s.request none r false 12 (!requestFits r 9 (some 3) 12 true || queueHandleBad handle) fun s => s.onQueue r handle fun s k q tq =>
    let wake (t : Task) : Task := if t.queue = q ∧ t.ready = none then { t with ready := some s.clock } else t
    (s.modDisp k fun d =>
      Dispatcher.refill { d with queues := tput d.queues q { tq with live := true }, tasks := d.tasks.map wake } 1024).answerTo r 0
      (bytesOf handle.toNat 8))

/-! ## Queries (R454, R458, R467) -/

/-- QUERY item 0: the signed report; its image hash is zero while only the ROM stage runs (R456, R467). -/
def execQueryIdentity (r : Request) (nonce : Option (List Byte)) (s : State) : Host.Outcome State Fault Refusal :=
  let wrong := match nonce with
    | some n => decide (n.length ≠ 64)
    | none => false
  let n := 4 + (nonce.getD []).length
  .next (s.request none r true n (!requestFits r 6 (some 0) n true || wrong) fun s =>
    let hash := if s.dev.service then s.dev.imageHash else []
    let report := fit 16 Config.serialNumber ++ fit 64 hash ++ bytesOf s.dev.rollback.toNat 4 ++ fit 64 (nonce.getD []) ++
      fit 132 identityKey ++ fit 4 []
    s.answerTo r 0 (report ++ fit 132 (identitySign report)))

/-- QUERY item 1: cr.fence of every compute core, in order of number (R454). -/
def execQueryFences (r : Request) (s : State) : Host.Outcome State Fault Refusal :=
  .next (s.request none r false 4 (!requestFits r 6 (some 1) 4 true) fun s =>
    s.answerTo r 0 ((List.range 4096).flatMap fun c => bytesOf (s.hart c).sys.fence.toNat 8))

/-- QUERY item 2: the event-log count (R454). -/
def execQueryEventCount (r : Request) (s : State) : Host.Outcome State Fault Refusal :=
  .next (s.request none r false 4 (!requestFits r 6 (some 2) 4 true) fun s => s.answerTo r 0 (bytesOf s.dev.log.length 8))

/-- QUERY item 3: the error counts of the eight ports (R451, R454). -/
def execQueryPortErrors (r : Request) (s : State) : Host.Outcome State Fault Refusal :=
  .next (s.request none r false 4 (!requestFits r 6 (some 3) 4 true) fun s =>
    s.answerTo r 0 ((List.range 8).flatMap fun p => bytesOf ((tget s.dev.portErrors p).getD 0) 8))

/-- A record of the event log as 32 bytes (R458). -/
def LogRecord.bytes (l : LogRecord) : List Byte := bytesOf l.kind 8 ++ bytesOf l.time 8 ++ bytesOf l.who.toNat 8 ++ bytesOf l.arg.toNat 8

/-- EVENTS: up to 2,047 records from an index on, the oldest record being index 0 (R454, R458). -/
def execEvents (r : Request) (first : Nat) (s : State) : Host.Outcome State Fault Refusal :=
  .next (s.request none r false 4 (!requestFits r 11 none 4 true || decide (2 ^ 32 ≤ first)) fun s =>
    s.answerTo r 0 (((s.dev.log.drop first).take 2047).flatMap LogRecord.bytes))

/-! ## Checkpoint and restore (R457) -/

/-- PARK of cr.preempt of every compute core is written, with REQ 0 and the FLOOR that is applied (R170, R457). -/
def State.parkAll (s : State) (park : Bool) : State :=
  (upFrom 0 4096).foldl (fun s c =>
    s.writePreempt c (BitVec.ofNat 64 ((if park then 4 else 0) + bits (s.hart c).sys.preempt 1 0))) s

/-- CHECKPOINT begins: every core is parked, and new launches are refused (R457). -/
def execCheckpoint (r : Request) (tier addr : Word) (s : State) : Host.Outcome State Fault Refusal :=
  .next (s.request none r false 16 (!requestFits r 7 none 16 true) fun s =>
    let was := (s.harts.filter (fun e => kindOf e.1 == 0)).map (fun e => (e.1, (e.2.sys.preempt, e.2.sys.preemptNext)))
    (s.parkAll true).modDev fun d => { d with tierOp := some (.checkpoint (some r.ep) r.seq tier addr was) })

/-- A checkpoint that fails has no effect: cr.preempt of every core is what it was (R455). -/
def State.unparkTo (s : State) (was : Table (Word × Word)) : State :=
  (upFrom 0 4096).foldl (fun s c =>
    let p := (tget was c).getD (0, 0)
    s.modSys c fun r => { r with preempt := p.1, preemptNext := p.2 }) s

/-- The image at an address of the tier. -/
def State.tierImage (s : State) (tier addr : Word) : Option TierImage :=
  (s.dev.tier.find? (fun i => i.1 == tier && i.2.1 == addr)).map (·.2.2)

/-- RESTORE begins with every core parked (R457); without an image there is nothing to find. -/
def execRestore (r : Request) (tier addr : Word) (s : State) : Host.Outcome State Fault Refusal :=
  .next (s.request none r false 16 (!requestFits r 8 none 16 true) fun s =>
    if (s.tierImage tier addr).isNone then s.answerTo r 5 []
    else (s.parkAll true).modDev fun d => { d with tierOp := some (.restore (some r.ep) r.seq tier addr) })

/-- The bytes of an image: 256 GiB of DRAM and 2,512 MiB of on-package contents (R457). -/
def imageBytes : Nat := 2 ^ 38 + 2512 * 2 ^ 20

/-- A home whose contents an image holds (R457). -/
def inImage (a : Nat) : Bool :=
  match homeOf a with
  | .service => false
  | .plane => false
  | _ => true

/-- No compute core runs a task. -/
def State.quiet (s : State) : Bool := s.harts.all (fun e => e.2.task.isNone)

/-- Every dirty block of every loft is written back (R76); the bytes of a block that is held raw are those of the overflow area
(R75). -/
def State.flushLofts (s : State) : State :=
  (s.clusters.map (·.1)).foldl (fun s k =>
    let s := (((s.cluster k).loft.eaves.filter (·.2.1)).map (·.1)).foldl (fun s b => s.writeBack k b) s
    (((s.cluster k).loft.map.map (·.1)).filter (s.heldRaw k)).foldl (fun s b => s.readRaw k b) s) s

/-- Every accepted update is applied, and every dirty line and block is written back (R457). -/
def State.flushAll (s : State) : State :=
  let s := ([0, 1, 2, 3] : List Nat).foldl (fun s d => s.applyEntries d (fun _ => true)) s
  (([0, 1, 2, 3] : List Nat).foldl (fun s d =>
    s.modDie d fun t => { t with l2 := t.l2.map (fun l => { l with dirty := false }) }) s).flushLofts

/-- A checkpoint or restore is answered, at the endpoint that began it unless that was established anew (R456). -/
def State.recordTier (s : State) (ep : Option Nat) (code : BitVec 8) (seq : Word) (status : Nat) (payload : List Byte) : State :=
  match ep with
  | some e => s.record e code seq s.dev.job status payload
  | none => s

/-- CHECKPOINT_COMPLETE: once every running task has retired, the image is held by the tier (R457). -/
def execCheckpointComplete (s : State) : Host.Outcome State Fault Refusal :=
  match s.dev.tierOp with
  | some (.checkpoint ep seq tier addr was) =>
    if s.quiet = false then .next s else
    let s := s.flushAll
    let s := s.modDev fun d => { d with tierOp := none }
    if s.poison.any inImage then .next ((s.unparkTo was).recordTier ep 7 seq 6 [])
    else
      let image : TierImage := ⟨s.mem.filter (fun c => inImage c.1), s.full, []⟩
      let s := s.modDev fun d =>
        { d with tier := d.tier.filter (fun i => !(i.1 == tier && i.2.1 == addr)) ++ [(tier, addr, image)] }
      .next (s.recordTier ep 7 seq 0 (bytesOf imageBytes 8))
  | _ => .next s

/-- The block map of every loft is that of what the loft holds, each block written back afresh in ascending order (R75, R76). -/
def State.remapLofts (s : State) : State :=
  let s := (s.clusters.map (·.1)).foldl (fun s k => s.modLoft k fun l => { l with map := [], blocks := [], eaves := [], detached := [] }) s
  (((s.mem.filter (fun c => homeOf c.1 == .loft)).map (fun c => loftPlace c.1)).eraseDups).foldl (fun s p => s.writeBack p.1 p.2) s

/-- The image is written back (R457): it replaces every byte, full–empty bit and poison of the homes it holds. -/
def State.putImage (s : State) (i : TierImage) : State :=
  let s := i.mem.foldl (fun s c => s.poke c.1 [c.2]) (s.flushAll.wipe inImage)
  { s with full := i.full
           poison := s.poison.filter (fun w => !inImage w)
           tags := s.tags.filter (fun t => !inImage t.1) }.remapLofts

/-- PARK is cleared and every halted hart is released (R457). -/
def State.unparkAll (s : State) : State := (upFrom 0 12292).foldl State.releaseHart (s.parkAll false)

/-- Graph instances that were live start again from their own copies (R457). -/
def State.relaunch (s : State) : State :=
  let old := s.dev.instances
  let s := (s.clusters.map (·.1)).foldl (fun s k =>
    s.modDisp k fun d => { d with tasks := d.tasks.filter (fun t => t.graph.isNone) }) s
  let s := s.modDev fun d => { d with instances := [] }
  old.foldl (fun s i => match tget s.dev.graphs i.graph with
    | some g => s.startInstance i.graph { g with body := i.body } i.params
    | none => s) s

/-- RESTORE_COMPLETE (R457). -/
def execRestoreComplete (s : State) : Host.Outcome State Fault Refusal :=
  let back (tier addr : Word) : State :=
    match s.tierImage tier addr with
    | some i => (s.putImage i).unparkAll.modDev fun d => { d with tierOp := none }
    | none => s
  match s.dev.tierOp with
  | some (.restore ep seq tier addr) => if s.quiet then .next ((back tier addr).recordTier ep 8 seq 0 (bytesOf imageBytes 8)) else .next s
  | some (.recover tier addr) => .next (back tier addr).relaunch
  | _ => .next s

/-! ## The pod (R459 to R461, R166, R167) -/

/-- POD_JOIN (R461). -/
def execPodJoin (r : Request) (n m : Word) (endpoints : List Nat) (s : State) : Host.Outcome State Fault Refusal :=
  let wrong := decide (m.toNat = 0 ∨ 256 < m.toNat ∨ m.toNat ≤ n.toNat ∨ endpoints.length ≠ m.toNat) ||
    endpoints.any (fun e => decide (2 ^ 128 ≤ e))
  let k := 16 + 16 * endpoints.length
  .next (s.request none r false k (!requestFits r 12 none k true || wrong) fun s =>
    if s.dev.instances ≠ [] then s.answerTo r 3 []
    else (s.modDev fun d => { d with podN := n.toNat, podM := m.toNat, podEndpoints := endpoints }).answerTo r 0 [])

/-- A COPY_IN that a sender, a module or a host's endpoint, may have sent is half performed (R459). -/
def State.copyHalf (s : State) (sender : Nat) : Bool :=
  s.dev.endpoints.any fun e => (decide (sender < 256) || sender == 256 + e.1) && e.2.work.any fun w => w.req.code == 3

/-- The part of a pod-level class that a fence message reports, by context and class, if it reports one: the spec does not lay
the message out, so what it says is free (R372, assumption 53). -/
def State.reportedPart (s : State) : Option (Nat × Word) × State :=
  let (n, s) := s.choose 5
  let v := rollClass (Config.freeWord s.free ||| 0xC000_0000_0000_0000)
  (if n = 0 then none else some (n - 1, v), { s with free := s.free + 1 })

/-- FENCE_MESSAGE: once what the sender's earlier packets carried is performed, the fence is acknowledged (R459). Another
module's may say that its part of a pod-level bell class is complete (R372). -/
def execFenceMessage (sender : Nat) (s : State) : Host.Outcome State Fault Refusal :=
  if s.copyHalf sender then .next s else
  let (part, s) := s.reportedPart
  .next (s.modDev fun d =>
    { d with acked := d.acked ++ [sender]
             podParts := match part with
               | some (b, v) => if s.otherModules.contains sender then d.podParts ++ [(sender, b, v)] else d.podParts
               | none => d.podParts })

/-- FENCE_ACKNOWLEDGEMENT: a fence that this module sent is acknowledged (R459). -/
def execFenceAcknowledgement (sender : Nat) (s : State) : Host.Outcome State Fault Refusal :=
  .next (s.modDev fun d => { d with podWait := d.podWait.filter (fun w => w != sender) })

/-- The ready tasks of a cluster. -/
def State.readyTasks (s : State) (k : Nat) : List Task := (s.cluster k).disp.tasks.filter (s.cluster k).disp.isReady

/-- A cluster is idle: it is not fenced, and every core of it that counts is idle, at least one (R166, R171, R191). -/
def State.idleCluster (s : State) (k : Nat) : Bool :=
  let counts := (coresOf k).filter (fun c => !s.fencedCore c && !bit (s.hart c).sys.preempt 2 && !(s.hart c).halted)
  !(s.cluster k).fenced && !counts.isEmpty && counts.all s.idleCore

/-- The clusters of the package. -/
def allClusters : List Nat := upFrom 0 256

/-- This module's entry of the hall pass, with no request (R166, R460). The tasks of a level are those of that effective level,
which is the model's choice (assumption 85). -/
def State.passEntry (s : State) : PassEntry :=
  let levels := allClusters.flatMap fun k => (s.readyTasks k).map (s.levelOf (s.cluster k).disp)
  let count (l : Nat) : Nat := min 0xFFFF (levels.filter (· == l)).length
  ⟨BitVec.ofNat 64 (count 3 * 2 ^ 48 + count 2 * 2 ^ 32 + count 1 * 2 ^ 16 + count 0),
    BitVec.ofNat 8 (min 255 (allClusters.filter s.idleCluster).length), false⟩

/-- The ready tasks that may go to another module, with their clusters, oldest first (R154, R167). That of equally old ones the
lower cluster's, and there the one accepted earlier, comes first is the model's choice (assumption 53). -/
def State.podTasks (s : State) : List (Nat × Task) :=
  let l := allClusters.flatMap fun k => ((s.readyTasks k).filter (fun t => bit t.record.w2 4)).map (fun t => (k, t))
  sortBy (fun (a b : Nat × Task) => decide (a.2.ready.getD 0 < b.2.ready.getD 0 ∨
    (a.2.ready.getD 0 = b.2.ready.getD 0 ∧ (a.1 < b.1 ∨ (a.1 = b.1 ∧ a.2.order ≤ b.2.order))))) l

/-- Up to 16 of the oldest tasks go to module j (R167, R460). -/
def State.answerSteal (s : State) (j : Nat) : State :=
  let gone := s.podTasks.take 16
  let s := gone.foldl (fun s p => s.modDisp p.1 fun d => d.remove p.2) s
  (s.modDev fun d => { d with sent := d.sent ++ [(j, gone.map (·.2.record))] }).delivered j

/-- The requests on a pass, in ring order after this module, answered while it holds 64 such tasks and no idle cluster. -/
def answerRequests : List Nat → HallPass → State → HallPass × State
  | [], p, s => (p, s)
  | j :: r, p, s =>
    match p.entries[j]? with
    | some e =>
      if e.req && decide (64 ≤ s.podTasks.length) && !allClusters.any s.idleCluster then
        answerRequests r { p with entries := p.entries.set j { e with req := false } } (s.answerSteal j)
      else answerRequests r p s
    | none => answerRequests r p s

/-- This module rewrites its own entry and forwards the token (R166, R167, R460). -/
def State.forwardPass (s : State) (p : HallPass) : State :=
  let n := s.dev.podN
  let m := s.dev.podM
  let others := (upFrom (n + 1) (m - 1)).map (· % m)
  let (p, s) := answerRequests others p s
  let e := s.passEntry
  let want := allClusters.any s.idleCluster && e.ready == 0
  let p := { p with entries := p.entries.set n { e with req := want }, lap := if n = 0 then p.lap + 1 else p.lap }
  s.modDev fun d => { d with passOut := some p, passGen := p.gen, passAt := if n = 0 then s.nanos else d.passAt }

/-- HALL_PASS: a token that is not of an older generation passes (R460). -/
def execHallPass (pass : HallPass) (s : State) : Host.Outcome State Fault Refusal :=
  .next (if pass.gen.toNat < s.dev.passGen.toNat ∨ pass.entries.length ≠ s.dev.podM then s else s.forwardPass pass)

/-- HALL_PASS_REGENERATE: module 0 issues a new token when none has passed it for 48 µs (R460). -/
def execHallPassRegenerate (s : State) : Host.Outcome State Fault Refusal :=
  if s.dev.podN ≠ 0 ∨ s.nanos < s.dev.passAt + 48000 then .next s
  else
    let p : HallPass := ⟨s.dev.passGen + 1, 0, List.replicate s.dev.podM ⟨0, 0, false⟩⟩
    let p := { p with entries := p.entries.set 0 s.passEntry }
    .next (s.modDev fun d => { d with passOut := some p, passGen := p.gen, passAt := s.nanos })

/-- The cluster with the most idle cores, the lowest index first among equals (R460). -/
def State.mostIdle (s : State) : Nat :=
  let idle (k : Nat) : Nat := ((coresOf k).filter s.idleCore).length
  (firstBy (fun a b => decide (idle b < idle a ∨ (idle a = idle b ∧ a < b))) (allClusters.filter (fun k => !(s.cluster k).fenced))).getD 0

/-- POD_TASK_TRANSFER: each record joins the default queue of its PRIO in the cluster with the most idle cores, ready at its
acceptance, once there is room for all (R157, R167, R460). -/
def execPodTaskTransfer (records : List TaskRecord) (s : State) : Host.Outcome State Fault Refusal :=
  .next (((records.take 16).foldlM (fun (s : State) r =>
    if s.hasRoom s.mostIdle r then some (s.putTask s.mostIdle ⟨r, 0, some s.clock, 0, none, none⟩) else none) s).getD s)

end Sys2Proof.Machine
end

