-- ==== Sys2Proof/Machine/Board.lean ====
section
/-! DEFINITION. Board.lean: device reset, sensors, throttling and the SMBus side-band (R462, R469 to R471). -/

namespace Sys2Proof.Machine

/-! ## Reset (R462, R469, R470) -/

/-- A home that device reset clears: TCM, scratchpad, instruction stores and planes (R44, R68, R73). -/
def clearedByReset (a : Nat) : Bool :=
  match homeOf a with
  | .tcm => true
  | .pad => true
  | .store => true
  | .plane => true
  | _ => false

/-- A cluster after device reset: of what it held, the map of its loft and what its blocks hold (R75). -/
def Cluster.afterReset (c : Cluster) : Cluster :=
  { Cluster.reset with loft := { Cluster.reset.loft with map := c.loft.map, blocks := c.loft.blocks } }

/-- DEVICE RESET: everything is as `State.reset` has it, but for what no rule clears: the contents of DRAM, of the lofts with
their maps, and of the service memory, the fused counter, the tier's images, the sensors' samples and the clock they have led
to; the free choices go on from where they are. A loft's dirty blocks are written back first, so that its map is that of its
bytes. The turns still to come are the environment's (assumption 52). -/
def State.deviceReset (s : State) : State :=
  let r := State.reset
  let s := s.flushLofts
  { r with mem := s.mem.filter (fun c => !clearedByReset c.1)
           clusters := s.clusters.map (fun e => (e.1, e.2.afterReset))
           poison := s.poison.filter (fun w => !clearedByReset w)
           dev := { r.dev with rollback := s.dev.rollback, tier := s.dev.tier }
           board := { r.board with watts := s.board.watts, temps := s.board.temps, centivolts := s.board.centivolts
                                   clockMHz := s.board.clockMHz }
           free := s.free, turns := s.turns }

/-- DEVICE_RESET (R462). -/
def execDeviceReset (s : State) : Host.Outcome State Fault Refusal := .next s.deviceReset

/-- UNDERVOLTAGE_RESET: below 38 V the module resets (R469). -/
def execUndervoltageReset (s : State) : Host.Outcome State Fault Refusal :=
  .next (if s.board.centivolts < 3800 then s.deviceReset else s)

/-! ## Power and temperature (R470, R471) -/

/-- One step of the package clock: down by 250 MHz, to no lower than 1,500, when a die is at 100 °C or the power is above the
cap; up again when every die is below 95 °C and the power below 95 % of the cap (R470). -/
def Board.throttle (b : Board) : Board :=
  if b.temps.any (fun t => decide (1000 ≤ t)) ∨ b.cap < b.watts then { b with clockMHz := max 1500 (b.clockMHz - 250) }
  else if b.temps.all (fun t => decide (t < 950)) ∧ b.watts * 100 < 95 * b.cap then { b with clockMHz := min 3000 (b.clockMHz + 250) }
  else b

/-- SENSOR_UPDATE: the samples and a new cap take effect together, and then the clock steps (R470, R471). -/
def execSensorUpdate (watts : Nat) (temps : List Nat) (centivolts : Nat) (s : State) : Host.Outcome State Fault Refusal :=
  .next (if temps.length ≠ 5 then s else
    { s with board := Board.throttle { s.board with watts := watts, temps := temps, centivolts := centivolts, cap := s.board.capNext } })

/-- THERMAL_TRIP: a die at 110 °C stops the package, and reset follows; the temperatures stay readable (R470). -/
def execThermalTrip (s : State) : Host.Outcome State Fault Refusal :=
  .next (if s.board.temps.any (fun t => decide (1100 ≤ t)) then
    { s with board := s.board.throttle }.deviceReset else s)

/-! ## The side-band (R471) -/

/-- The module's address on the side-band (R471). -/
def slaveAddress : BitVec 7 := 0x4A

/-- The byte that addresses the module: its address, and 1 for a read. -/
def addressByte (read : Bool) : Byte := BitVec.ofNat 8 (2 * slaveAddress.toNat + read.toNat)

/-- The packet error code of a transaction's bytes: the remainder by x⁸ + x² + x + 1, the side-band standard's (assumption 95). -/
def packetError (l : List Byte) : Byte :=
  l.foldl (fun c b => (List.range 8).foldl (fun (c : Byte) _ => if c.msb then c <<< 1 ^^^ 0x07 else c <<< 1) (c ^^^ b)) 0

/-- A read of the side-band by a command: the bytes that the module sends are the data, lowest byte first, behind their count
where the read is of a block, and then the PEC of the whole transaction. -/
def State.smbusRead (s : State) (command : Byte) (block : Bool) (d : List Byte) : State :=
  let sends := (if block then [BitVec.ofNat 8 d.length] else []) ++ d
  { s with board := { s.board with smbus := sends ++ [packetError ([addressByte false, command, addressByte true] ++ sends)] } }

/-- SMBUS_READ_POWER (R471). -/
def execSmbusReadPower (s : State) : Host.Outcome State Fault Refusal := .next (s.smbusRead 0x01 false (bytesOf s.board.watts 2))

/-- SMBUS_READ_TEMPERATURES (R471). -/
def execSmbusReadTemperatures (s : State) : Host.Outcome State Fault Refusal :=
  .next (s.smbusRead 0x02 true (s.board.temps.flatMap fun t => bytesOf t 2))

/-- SMBUS_READ_VOLTAGE (R471). -/
def execSmbusReadVoltage (s : State) : Host.Outcome State Fault Refusal := .next (s.smbusRead 0x03 false (bytesOf s.board.centivolts 2))

/-- SMBUS_READ_WEAR (R468, R471). -/
def execSmbusReadWear (s : State) : Host.Outcome State Fault Refusal := .next (s.smbusRead 0x04 true (bytesOf s.worstWear.toNat 8))

/-- SMBUS_READ_BOOT_STATUS (R471). -/
def execSmbusReadBootStatus (s : State) : Host.Outcome State Fault Refusal := .next (s.smbusRead 0x05 false [s.dev.bootStatus])

/-- SMBUS_READ_CLOCK (R471). -/
def execSmbusReadClock (s : State) : Host.Outcome State Fault Refusal := .next (s.smbusRead 0x06 false (bytesOf s.board.clockMHz 2))

/-- SMBUS_WRITE_POWER_CAP: 600 to 2,900 W with a good PEC; it takes effect at the next update (R471). -/
def execSmbusWritePowerCap (watts : BitVec 16) (pec : BitVec 8) (s : State) : Host.Outcome State Fault Refusal :=
  .next (if pec = packetError ([addressByte false, 0x10] ++ bytesOf watts.toNat 2) ∧ 600 ≤ watts.toNat ∧ watts.toNat ≤ 2900 then
    { s with board := { s.board with capNext := watts.toNat } } else s)

end Sys2Proof.Machine
end

