-- ==== Sys2Proof/Machine/Control.lean ====
section
/-! DEFINITION. Control.lean: the control instructions (R225, R266 to R277) and NOP (R209). -/

namespace Sys2Proof.Machine

/-- The conditions of BC (R267). -/
def branchTaken (cond : BitVec 4) (a b : Word) : Bool :=
  match cond.toNat with
  | 0 => a == b
  | 1 => a != b
  | 2 => BitVec.slt a b
  | 3 => !BitVec.slt a b
  | 4 => BitVec.ult a b
  | 5 => !BitVec.ult a b
  | 6 => (a &&& b) != 0
  | _ => (a &&& b) == 0

/-- A branch on a condition with a target field of w bits (R267). -/
def branchM (cond : BitVec 4) (a b : BitVec 6) (t w : Nat) : M Unit := modify fun s =>
  if branchTaken cond (s.x a) (s.x b) then s.goto (relTarget s.pc t w) else s.retire

/-- A jump, with the link written when link is set (R269, R271). -/
def jumpM (link : Bool) (t w : Nat) : M Unit := modify fun s =>
  let u := if link then s.setX 1 s.linkNext else s
  u.goto (relTarget s.pc t w)

/-- A jump to a register's value (R273, R275). -/
def jumpRegM (link : Bool) (b : BitVec 6) : M Unit := modify fun s =>
  let u := if link then s.setX 1 s.linkNext else s
  u.goto (targetOf (s.x b))

/-- BC with a 16-bit target (R267). -/
def execBc (a : BitVec 6) (t : BitVec 16) (cond : BitVec 4) (b : BitVec 6) (s : State) :
    Host.Outcome State Fault Refusal :=
  runHead acceptAll (headOf 0x20 2 a.toNat) [a, b] [] 0 (branchM cond a b t.toNat 16) s

/-- BC with a 32-bit target (R267). -/
def execBcLong (a : BitVec 6) (t : BitVec 32) (cond : BitVec 4) (b : BitVec 6) (s : State) :
    Host.Outcome State Fault Refusal :=
  runHead acceptAll (headOf 0x20 3 a.toNat) [a, b] [] 0 (branchM cond a b t.toNat 32) s

/-- J with a 16-bit target (R269). -/
def execJ (t : BitVec 16) (s : State) : Host.Outcome State Fault Refusal :=
  runHead acceptAll (headOf 0x21 1 0) [] [] 0 (jumpM false t.toNat 16) s

/-- J with a 32-bit target (R269). -/
def execJLong (t : BitVec 32) (s : State) : Host.Outcome State Fault Refusal :=
  runHead acceptAll (headOf 0x21 2 0) [] [] 0 (jumpM false t.toNat 32) s

/-- CALL with a 16-bit target (R271). -/
def execCall (t : BitVec 16) (s : State) : Host.Outcome State Fault Refusal :=
  runHead acceptAll (headOf 0x22 1 0) [] [] 0 (jumpM true t.toNat 16) s

/-- CALL with a 32-bit target (R271). -/
def execCallLong (t : BitVec 32) (s : State) : Host.Outcome State Fault Refusal :=
  runHead acceptAll (headOf 0x22 2 0) [] [] 0 (jumpM true t.toNat 32) s

/-- JR (R273). -/
def execJr (b : BitVec 6) (s : State) : Host.Outcome State Fault Refusal :=
  runHead acceptAll (headOf 0x23 1 0) [b] [] 0 (jumpRegM false b) s

/-- CALLR: the target is read before the link is written (R273). -/
def execCallr (b : BitVec 6) (s : State) : Host.Outcome State Fault Refusal :=
  runHead acceptAll (headOf 0x23 1 0) [b] [] 0 (jumpRegM true b) s

/-- RET (R275). -/
def execRet (s : State) : Host.Outcome State Fault Refusal :=
  runHead acceptAll (headOf 0x24 0 0) [] [] 0 (jumpRegM false 1) s

/-- LOOP (R277). -/
def execLoop (c : BitVec 6) (t : BitVec 16) (s : State) : Host.Outcome State Fault Refusal :=
  runHead acceptAll (headOf 0x25 2 c.toNat) [c] [] 0 (modify fun s =>
    let n := s.x c - 1
    let u := s.setX c n
    if n ≠ 0 then u.goto (relTarget s.pc t.toNat 16) else u.retire) s

/-- NOP (R209): R43 names it for no loader or storer core. -/
def execNop (s : State) : Host.Outcome State Fault Refusal :=
  runHead acceptCompute (headOf 0x7F 0 0) [] [] 0 (modify State.retire) s

end Sys2Proof.Machine
end

