-- ==== Sys2Proof/Machine/FloatInstr.lean ====
section
/-! DEFINITION. FloatInstr.lean: the scalar float instructions (R223, R256 to R265). -/

namespace Sys2Proof.Machine

/-- A binary float instruction of opcode 0x18 (R257). -/
def scalarFloat (fn : Nat) (d : BitVec 6) (dp : BitVec 1) (c b : BitVec 6) : M Unit :=
  writeF d fun s => floatOp fn (dpFmt dp) (floatArg dp (s.x b)) (floatArg dp (s.x c))

/-- A fused float instruction of opcode 0x19 (R259). -/
def scalarFused (fn : Nat) (d : BitVec 6) (dp : BitVec 1) (a c b : BitVec 6) : M Unit :=
  writeF d fun s => fusedOp fn (dpFmt dp) (floatArg dp (s.x b)) (floatArg dp (s.x c)) (floatArg dp (s.x a))

/-- A float comparison of opcode 0x1B (R263). -/
def scalarCompare (op : Nat) (d : BitVec 6) (dp : BitVec 1) (c b : BitVec 6) : M Unit :=
  writeF d fun s =>
    let r := fcompare (dpFmt dp) op (floatArg dp (s.x b)) (floatArg dp (s.x c))
    (if r.1 then 1 else 0, r.2)

/-- FADD (R257). -/
def execFadd (d : BitVec 6) (dp : BitVec 1) (c b : BitVec 6) (s : State) : Host.Outcome State Fault Refusal :=
  runHead acceptCompute (headOf 0x18 2 d.toNat) [d, c, b] [] 0 (scalarFloat 0 d dp c b) s

/-- FSUB (R257). -/
def execFsub (d : BitVec 6) (dp : BitVec 1) (c b : BitVec 6) (s : State) : Host.Outcome State Fault Refusal :=
  runHead acceptCompute (headOf 0x18 2 d.toNat) [d, c, b] [] 0 (scalarFloat 1 d dp c b) s

/-- FMUL (R257). -/
def execFmul (d : BitVec 6) (dp : BitVec 1) (c b : BitVec 6) (s : State) : Host.Outcome State Fault Refusal :=
  runHead acceptCompute (headOf 0x18 2 d.toNat) [d, c, b] [] 0 (scalarFloat 2 d dp c b) s

/-- FDIV (R257). -/
def execFdiv (d : BitVec 6) (dp : BitVec 1) (c b : BitVec 6) (s : State) : Host.Outcome State Fault Refusal :=
  runHead acceptCompute (headOf 0x18 2 d.toNat) [d, c, b] [] 0 (scalarFloat 3 d dp c b) s

/-- FMIN (R257). -/
def execFmin (d : BitVec 6) (dp : BitVec 1) (c b : BitVec 6) (s : State) : Host.Outcome State Fault Refusal :=
  runHead acceptCompute (headOf 0x18 2 d.toNat) [d, c, b] [] 0 (scalarFloat 4 d dp c b) s

/-- FMAX (R257). -/
def execFmax (d : BitVec 6) (dp : BitVec 1) (c b : BitVec 6) (s : State) : Host.Outcome State Fault Refusal :=
  runHead acceptCompute (headOf 0x18 2 d.toNat) [d, c, b] [] 0 (scalarFloat 5 d dp c b) s

/-- FMADD (R259). -/
def execFmadd (d : BitVec 6) (dp : BitVec 1) (a c b : BitVec 6) (s : State) : Host.Outcome State Fault Refusal :=
  runHead acceptCompute (headOf 0x19 2 d.toNat) [d, a, c, b] [] 0 (scalarFused 0 d dp a c b) s

/-- FMSUB (R259). -/
def execFmsub (d : BitVec 6) (dp : BitVec 1) (a c b : BitVec 6) (s : State) : Host.Outcome State Fault Refusal :=
  runHead acceptCompute (headOf 0x19 2 d.toNat) [d, a, c, b] [] 0 (scalarFused 1 d dp a c b) s

/-- FNMADD (R259). -/
def execFnmadd (d : BitVec 6) (dp : BitVec 1) (a c b : BitVec 6) (s : State) : Host.Outcome State Fault Refusal :=
  runHead acceptCompute (headOf 0x19 2 d.toNat) [d, a, c, b] [] 0 (scalarFused 2 d dp a c b) s

/-- FNMSUB (R259). -/
def execFnmsub (d : BitVec 6) (dp : BitVec 1) (a c b : BitVec 6) (s : State) : Host.Outcome State Fault Refusal :=
  runHead acceptCompute (headOf 0x19 2 d.toNat) [d, a, c, b] [] 0 (scalarFused 3 d dp a c b) s

/-- FSQRT (R261). -/
def execFsqrt (d : BitVec 6) (dp : BitVec 1) (b : BitVec 6) (s : State) : Host.Outcome State Fault Refusal :=
  runHead acceptCompute (headOf 0x1A 1 d.toNat) [d, b] [] 0
    (writeF d fun s => fsqrt (dpFmt dp) (floatArg dp (s.x b))) s

/-- FCLASS raises no flag (R261). -/
def execFclass (d : BitVec 6) (dp : BitVec 1) (b : BitVec 6) (s : State) : Host.Outcome State Fault Refusal :=
  runHead acceptCompute (headOf 0x1A 1 d.toNat) [d, b] [] 0
    (writeX d fun s => BitVec.ofNat 64 (fclass (dpFmt dp) (floatArg dp (s.x b)))) s

/-- FEQ (R263). -/
def execFeq (d : BitVec 6) (dp : BitVec 1) (c b : BitVec 6) (s : State) : Host.Outcome State Fault Refusal :=
  runHead acceptCompute (headOf 0x1B 2 d.toNat) [d, c, b] [] 0 (scalarCompare 0 d dp c b) s

/-- FLT (R263). -/
def execFlt (d : BitVec 6) (dp : BitVec 1) (c b : BitVec 6) (s : State) : Host.Outcome State Fault Refusal :=
  runHead acceptCompute (headOf 0x1B 2 d.toNat) [d, c, b] [] 0 (scalarCompare 1 d dp c b) s

/-- FLE (R263). -/
def execFle (d : BitVec 6) (dp : BitVec 1) (c b : BitVec 6) (s : State) : Host.Outcome State Fault Refusal :=
  runHead acceptCompute (headOf 0x1B 2 d.toNat) [d, c, b] [] 0 (scalarCompare 2 d dp c b) s

/-- FCVT: an INT32 result is sign-extended, an FP32 result is placed as R223 gives (R265). -/
def convertScalar (fromF toF : BitVec 4) (rz : Bool) (v : Word) : FRes :=
  let r := convertFmt fromF toF rz (v.toNat % 2 ^ fmtBits fromF)
  if toF = 5 then ((wordOfInt (signed 32 r.1)).toNat, r.2) else r

/-- FCVT (R265). -/
def execFcvt (d : BitVec 6) (tz : BitVec 1) (toF fromF : BitVec 4) (b : BitVec 6) (s : State) :
    Host.Outcome State Fault Refusal :=
  runHead acceptCompute (headOf 0x1C 2 d.toNat) [d, b] [] 0
    (writeF d fun s => convertScalar fromF toF (tz == 1) (s.x b)) s

end Sys2Proof.Machine
end

