-- ==== Sys2Proof/Machine/Scalar.lean ====
section
/-! DEFINITION. Scalar.lean: the integer and address instructions (R222 to R255). -/

namespace Sys2Proof.Machine

/-- Sum (R227). -/
def execAdd (d c b : BitVec 6) (s : State) : Host.Outcome State Fault Refusal :=
  runHead acceptAll (headOf 0x01 2 d.toNat) [d, c, b] [] 0 (writeX d fun s => s.x b + s.x c) s

/-- Difference (R227). -/
def execSub (d c b : BitVec 6) (s : State) : Host.Outcome State Fault Refusal :=
  runHead acceptAll (headOf 0x01 2 d.toNat) [d, c, b] [] 0 (writeX d fun s => s.x b - s.x c) s

/-- Bitwise and (R227). -/
def execAnd (d c b : BitVec 6) (s : State) : Host.Outcome State Fault Refusal :=
  runHead acceptAll (headOf 0x01 2 d.toNat) [d, c, b] [] 0 (writeX d fun s => s.x b &&& s.x c) s

/-- Bitwise or (R227). -/
def execOr (d c b : BitVec 6) (s : State) : Host.Outcome State Fault Refusal :=
  runHead acceptAll (headOf 0x01 2 d.toNat) [d, c, b] [] 0 (writeX d fun s => s.x b ||| s.x c) s

/-- Bitwise exclusive or (R227). -/
def execXor (d c b : BitVec 6) (s : State) : Host.Outcome State Fault Refusal :=
  runHead acceptAll (headOf 0x01 2 d.toNat) [d, c, b] [] 0 (writeX d fun s => s.x b ^^^ s.x c) s

/-- And with the complement (R227). -/
def execAndn (d c b : BitVec 6) (s : State) : Host.Outcome State Fault Refusal :=
  runHead acceptAll (headOf 0x01 2 d.toNat) [d, c, b] [] 0 (writeX d fun s => s.x b &&& ~~~s.x c) s

/-- Or with the complement (R227). -/
def execOrn (d c b : BitVec 6) (s : State) : Host.Outcome State Fault Refusal :=
  runHead acceptAll (headOf 0x01 2 d.toNat) [d, c, b] [] 0 (writeX d fun s => s.x b ||| ~~~s.x c) s

/-- Complement of the exclusive or (R227). -/
def execXnor (d c b : BitVec 6) (s : State) : Host.Outcome State Fault Refusal :=
  runHead acceptAll (headOf 0x01 2 d.toNat) [d, c, b] [] 0 (writeX d fun s => ~~~(s.x b ^^^ s.x c)) s

/-- Shift left by a register (R229). -/
def execSll (d c b : BitVec 6) (s : State) : Host.Outcome State Fault Refusal :=
  runHead acceptAll (headOf 0x02 2 d.toNat) [d, c, b] [] 0 (writeX d fun s => shiftLeft (s.x b) (bits (s.x c) 5 0)) s

/-- Shift left by an immediate (R229). -/
def execSlli (d sh b : BitVec 6) (s : State) : Host.Outcome State Fault Refusal :=
  runHead acceptAll (headOf 0x02 2 d.toNat) [d, b] [] 0 (writeX d fun s => shiftLeft (s.x b) sh.toNat) s

/-- Shift right, zero filled by a register (R229). -/
def execSrl (d c b : BitVec 6) (s : State) : Host.Outcome State Fault Refusal :=
  runHead acceptAll (headOf 0x02 2 d.toNat) [d, c, b] [] 0 (writeX d fun s => shiftRight (s.x b) (bits (s.x c) 5 0)) s

/-- Shift right, zero filled by an immediate (R229). -/
def execSrli (d sh b : BitVec 6) (s : State) : Host.Outcome State Fault Refusal :=
  runHead acceptAll (headOf 0x02 2 d.toNat) [d, b] [] 0 (writeX d fun s => shiftRight (s.x b) sh.toNat) s

/-- Shift right, sign filled by a register (R229). -/
def execSra (d c b : BitVec 6) (s : State) : Host.Outcome State Fault Refusal :=
  runHead acceptAll (headOf 0x02 2 d.toNat) [d, c, b] [] 0 (writeX d fun s => shiftArith (s.x b) (bits (s.x c) 5 0)) s

/-- Shift right, sign filled by an immediate (R229). -/
def execSrai (d sh b : BitVec 6) (s : State) : Host.Outcome State Fault Refusal :=
  runHead acceptAll (headOf 0x02 2 d.toNat) [d, b] [] 0 (writeX d fun s => shiftArith (s.x b) sh.toNat) s

/-- Rotate left by a register (R229). -/
def execRol (d c b : BitVec 6) (s : State) : Host.Outcome State Fault Refusal :=
  runHead acceptAll (headOf 0x02 2 d.toNat) [d, c, b] [] 0 (writeX d fun s => rotateLeft (s.x b) (bits (s.x c) 5 0)) s

/-- Rotate left by an immediate (R229). -/
def execRoli (d sh b : BitVec 6) (s : State) : Host.Outcome State Fault Refusal :=
  runHead acceptAll (headOf 0x02 2 d.toNat) [d, b] [] 0 (writeX d fun s => rotateLeft (s.x b) sh.toNat) s

/-- Rotate right by a register (R229). -/
def execRor (d c b : BitVec 6) (s : State) : Host.Outcome State Fault Refusal :=
  runHead acceptAll (headOf 0x02 2 d.toNat) [d, c, b] [] 0 (writeX d fun s => rotateRight (s.x b) (bits (s.x c) 5 0)) s

/-- Rotate right by an immediate (R229). -/
def execRori (d sh b : BitVec 6) (s : State) : Host.Outcome State Fault Refusal :=
  runHead acceptAll (headOf 0x02 2 d.toNat) [d, b] [] 0 (writeX d fun s => rotateRight (s.x b) sh.toNat) s

/-- Low half of the product (R231). -/
def execMul (d c b : BitVec 6) (s : State) : Host.Outcome State Fault Refusal :=
  runHead acceptAll (headOf 0x03 2 d.toNat) [d, c, b] [] 0 (writeX d fun s => s.x b * s.x c) s

/-- High half of the signed product (R231). -/
def execMulh (d c b : BitVec 6) (s : State) : Host.Outcome State Fault Refusal :=
  runHead acceptAll (headOf 0x03 2 d.toNat) [d, c, b] [] 0 (writeX d fun s => mulHigh (s.x b).toInt (s.x c).toInt) s

/-- High half of the unsigned product (R231). -/
def execMulhu (d c b : BitVec 6) (s : State) : Host.Outcome State Fault Refusal :=
  runHead acceptAll (headOf 0x03 2 d.toNat) [d, c, b] [] 0 (writeX d fun s => mulHigh (s.x b).toNat (s.x c).toNat) s

/-- High half of signed times unsigned (R231). -/
def execMulhsu (d c b : BitVec 6) (s : State) : Host.Outcome State Fault Refusal :=
  runHead acceptAll (headOf 0x03 2 d.toNat) [d, c, b] [] 0 (writeX d fun s => mulHigh (s.x b).toInt (s.x c).toNat) s

/-- Signed quotient (R231). -/
def execDiv (d c b : BitVec 6) (s : State) : Host.Outcome State Fault Refusal :=
  runHead acceptAll (headOf 0x03 2 d.toNat) [d, c, b] [] 0 (writeX d fun s => divSigned (s.x b) (s.x c)) s

/-- Unsigned quotient (R231). -/
def execDivu (d c b : BitVec 6) (s : State) : Host.Outcome State Fault Refusal :=
  runHead acceptAll (headOf 0x03 2 d.toNat) [d, c, b] [] 0 (writeX d fun s => divUnsigned (s.x b) (s.x c)) s

/-- Signed remainder (R231). -/
def execRem (d c b : BitVec 6) (s : State) : Host.Outcome State Fault Refusal :=
  runHead acceptAll (headOf 0x03 2 d.toNat) [d, c, b] [] 0 (writeX d fun s => remSigned (s.x b) (s.x c)) s

/-- Unsigned remainder (R231). -/
def execRemu (d c b : BitVec 6) (s : State) : Host.Outcome State Fault Refusal :=
  runHead acceptAll (headOf 0x03 2 d.toNat) [d, c, b] [] 0 (writeX d fun s => remUnsigned (s.x b) (s.x c)) s

/-- Add immediate (R233). -/
def execAddi (d : BitVec 6) (imm : BitVec 26) (b : BitVec 6) (s : State) : Host.Outcome State Fault Refusal :=
  runHead acceptAll (headOf 0x04 2 d.toNat) [d, b] [] 0 (writeX d fun s => s.x b + imm.signExtend 64) s

/-- Add immediate, 8-byte tail (R233). -/
def execAddiLong (d : BitVec 6) (imm : BitVec 58) (b : BitVec 6) (s : State) : Host.Outcome State Fault Refusal :=
  runHead acceptAll (headOf 0x04 4 d.toNat) [d, b] [] 0 (writeX d fun s => s.x b + imm.signExtend 64) s

/-- Logic with immediate (R235). -/
def execAndi (d : BitVec 6) (imm : BitVec 24) (b : BitVec 6) (s : State) : Host.Outcome State Fault Refusal :=
  runHead acceptAll (headOf 0x05 2 d.toNat) [d, b] [] 0 (writeX d fun s => s.x b &&& imm.signExtend 64) s

/-- Logic with immediate, 8-byte tail (R235). -/
def execAndiLong (d : BitVec 6) (imm : BitVec 56) (b : BitVec 6) (s : State) : Host.Outcome State Fault Refusal :=
  runHead acceptAll (headOf 0x05 4 d.toNat) [d, b] [] 0 (writeX d fun s => s.x b &&& imm.signExtend 64) s

/-- Logic with immediate (R235). -/
def execOri (d : BitVec 6) (imm : BitVec 24) (b : BitVec 6) (s : State) : Host.Outcome State Fault Refusal :=
  runHead acceptAll (headOf 0x05 2 d.toNat) [d, b] [] 0 (writeX d fun s => s.x b ||| imm.signExtend 64) s

/-- Logic with immediate, 8-byte tail (R235). -/
def execOriLong (d : BitVec 6) (imm : BitVec 56) (b : BitVec 6) (s : State) : Host.Outcome State Fault Refusal :=
  runHead acceptAll (headOf 0x05 4 d.toNat) [d, b] [] 0 (writeX d fun s => s.x b ||| imm.signExtend 64) s

/-- Logic with immediate (R235). -/
def execXori (d : BitVec 6) (imm : BitVec 24) (b : BitVec 6) (s : State) : Host.Outcome State Fault Refusal :=
  runHead acceptAll (headOf 0x05 2 d.toNat) [d, b] [] 0 (writeX d fun s => s.x b ^^^ imm.signExtend 64) s

/-- Logic with immediate, 8-byte tail (R235). -/
def execXoriLong (d : BitVec 6) (imm : BitVec 56) (b : BitVec 6) (s : State) : Host.Outcome State Fault Refusal :=
  runHead acceptAll (headOf 0x05 4 d.toNat) [d, b] [] 0 (writeX d fun s => s.x b ^^^ imm.signExtend 64) s

/-- Load immediate of 16 bits (R237). -/
def execLi (d : BitVec 6) (imm : BitVec 16) (s : State) : Host.Outcome State Fault Refusal :=
  runHead acceptAll (headOf 0x06 1 d.toNat) [d] [] 0 (writeX d fun _ => imm.signExtend 64) s

/-- Load immediate of 32 bits (R237). -/
def execLi32 (d : BitVec 6) (imm : BitVec 32) (s : State) : Host.Outcome State Fault Refusal :=
  runHead acceptAll (headOf 0x06 2 d.toNat) [d] [] 0 (writeX d fun _ => imm.signExtend 64) s

/-- Load immediate of 64 bits (R237). -/
def execLi64 (d : BitVec 6) (imm : BitVec 64) (s : State) : Host.Outcome State Fault Refusal :=
  runHead acceptAll (headOf 0x06 4 d.toNat) [d] [] 0 (writeX d fun _ => imm.signExtend 64) s

/-- Compare to register (R239). -/
def execSlt (d c b : BitVec 6) (s : State) : Host.Outcome State Fault Refusal :=
  runHead acceptAll (headOf 0x07 2 d.toNat) [d, c, b] [] 0 (writeX d fun s => wordOfBool (BitVec.slt (s.x b) (s.x c))) s

/-- Compare to register (R239). -/
def execSltu (d c b : BitVec 6) (s : State) : Host.Outcome State Fault Refusal :=
  runHead acceptAll (headOf 0x07 2 d.toNat) [d, c, b] [] 0 (writeX d fun s => wordOfBool (BitVec.ult (s.x b) (s.x c))) s

/-- Compare to register (R239). -/
def execSeq (d c b : BitVec 6) (s : State) : Host.Outcome State Fault Refusal :=
  runHead acceptAll (headOf 0x07 2 d.toNat) [d, c, b] [] 0 (writeX d fun s => wordOfBool ((s.x b) == (s.x c))) s

/-- Compare to register (R239). -/
def execSne (d c b : BitVec 6) (s : State) : Host.Outcome State Fault Refusal :=
  runHead acceptAll (headOf 0x07 2 d.toNat) [d, c, b] [] 0 (writeX d fun s => wordOfBool ((s.x b) != (s.x c))) s

/-- Compare to immediate (R241). -/
def execSlti (d : BitVec 6) (imm : BitVec 24) (b : BitVec 6) (s : State) : Host.Outcome State Fault Refusal :=
  runHead acceptAll (headOf 0x08 2 d.toNat) [d, b] [] 0 (writeX d fun s => wordOfBool (BitVec.slt (s.x b) (imm.signExtend 64))) s

/-- Compare to immediate, 8-byte tail (R241). -/
def execSltiLong (d : BitVec 6) (imm : BitVec 56) (b : BitVec 6) (s : State) : Host.Outcome State Fault Refusal :=
  runHead acceptAll (headOf 0x08 4 d.toNat) [d, b] [] 0 (writeX d fun s => wordOfBool (BitVec.slt (s.x b) (imm.signExtend 64))) s

/-- Compare to immediate (R241). -/
def execSltiu (d : BitVec 6) (imm : BitVec 24) (b : BitVec 6) (s : State) : Host.Outcome State Fault Refusal :=
  runHead acceptAll (headOf 0x08 2 d.toNat) [d, b] [] 0 (writeX d fun s => wordOfBool (BitVec.ult (s.x b) (imm.signExtend 64))) s

/-- Compare to immediate, 8-byte tail (R241). -/
def execSltiuLong (d : BitVec 6) (imm : BitVec 56) (b : BitVec 6) (s : State) : Host.Outcome State Fault Refusal :=
  runHead acceptAll (headOf 0x08 4 d.toNat) [d, b] [] 0 (writeX d fun s => wordOfBool (BitVec.ult (s.x b) (imm.signExtend 64))) s

/-- Compare to immediate (R241). -/
def execSeqi (d : BitVec 6) (imm : BitVec 24) (b : BitVec 6) (s : State) : Host.Outcome State Fault Refusal :=
  runHead acceptAll (headOf 0x08 2 d.toNat) [d, b] [] 0 (writeX d fun s => wordOfBool ((s.x b) == (imm.signExtend 64))) s

/-- Compare to immediate, 8-byte tail (R241). -/
def execSeqiLong (d : BitVec 6) (imm : BitVec 56) (b : BitVec 6) (s : State) : Host.Outcome State Fault Refusal :=
  runHead acceptAll (headOf 0x08 4 d.toNat) [d, b] [] 0 (writeX d fun s => wordOfBool ((s.x b) == (imm.signExtend 64))) s

/-- Compare to immediate (R241). -/
def execSnei (d : BitVec 6) (imm : BitVec 24) (b : BitVec 6) (s : State) : Host.Outcome State Fault Refusal :=
  runHead acceptAll (headOf 0x08 2 d.toNat) [d, b] [] 0 (writeX d fun s => wordOfBool ((s.x b) != (imm.signExtend 64))) s

/-- Compare to immediate, 8-byte tail (R241). -/
def execSneiLong (d : BitVec 6) (imm : BitVec 56) (b : BitVec 6) (s : State) : Host.Outcome State Fault Refusal :=
  runHead acceptAll (headOf 0x08 4 d.toNat) [d, b] [] 0 (writeX d fun s => wordOfBool ((s.x b) != (imm.signExtend 64))) s

/-- Select (R243). -/
def execSel (d f t k : BitVec 6) (s : State) : Host.Outcome State Fault Refusal :=
  runHead acceptAll (headOf 0x09 2 d.toNat) [d, f, t, k] [] 0 (writeX d fun s => if s.x k ≠ 0 then s.x t else s.x f) s

/-- Minimum or maximum (R245). -/
def execMin (d c b : BitVec 6) (s : State) : Host.Outcome State Fault Refusal :=
  runHead acceptAll (headOf 0x0A 2 d.toNat) [d, c, b] [] 0 (writeX d fun s => if BitVec.slt (s.x b) (s.x c) then s.x b else s.x c) s

/-- Minimum or maximum (R245). -/
def execMax (d c b : BitVec 6) (s : State) : Host.Outcome State Fault Refusal :=
  runHead acceptAll (headOf 0x0A 2 d.toNat) [d, c, b] [] 0 (writeX d fun s => if BitVec.slt (s.x c) (s.x b) then s.x b else s.x c) s

/-- Minimum or maximum (R245). -/
def execMinu (d c b : BitVec 6) (s : State) : Host.Outcome State Fault Refusal :=
  runHead acceptAll (headOf 0x0A 2 d.toNat) [d, c, b] [] 0 (writeX d fun s => if BitVec.ult (s.x b) (s.x c) then s.x b else s.x c) s

/-- Minimum or maximum (R245). -/
def execMaxu (d c b : BitVec 6) (s : State) : Host.Outcome State Fault Refusal :=
  runHead acceptAll (headOf 0x0A 2 d.toNat) [d, c, b] [] 0 (writeX d fun s => if BitVec.ult (s.x c) (s.x b) then s.x b else s.x c) s

/-- Bit count (R247). -/
def execClz (d b : BitVec 6) (s : State) : Host.Outcome State Fault Refusal :=
  runHead acceptAll (headOf 0x0B 1 d.toNat) [d, b] [] 0 (writeX d fun s => countLeading (s.x b)) s

/-- Bit count (R247). -/
def execCtz (d b : BitVec 6) (s : State) : Host.Outcome State Fault Refusal :=
  runHead acceptAll (headOf 0x0B 1 d.toNat) [d, b] [] 0 (writeX d fun s => countTrailing (s.x b)) s

/-- Bit count (R247). -/
def execPopc (d b : BitVec 6) (s : State) : Host.Outcome State Fault Refusal :=
  runHead acceptAll (headOf 0x0B 1 d.toNat) [d, b] [] 0 (writeX d fun s => countOnes (s.x b)) s

/-- Bit-field extract (R249). -/
def execBfxs (d wm pos b : BitVec 6) (s : State) : Host.Outcome State Fault Refusal :=
  runHead acceptAll (headOf 0x0C 2 d.toNat) [d, b] [] 0 (writeX d fun s => fieldSigned (s.x b) pos.toNat (wm.toNat + 1)) s

/-- Bit-field extract (R249). -/
def execBfxu (d wm pos b : BitVec 6) (s : State) : Host.Outcome State Fault Refusal :=
  runHead acceptAll (headOf 0x0C 2 d.toNat) [d, b] [] 0 (writeX d fun s => fieldUnsigned (s.x b) pos.toNat (wm.toNat + 1)) s

/-- Bit-field insert (R251). -/
def execBfi (d wm pos b : BitVec 6) (s : State) : Host.Outcome State Fault Refusal :=
  runHead acceptAll (headOf 0x0D 2 d.toNat) [d, b] [] 0
    (writeX d fun s => fieldInsert (s.x d) (s.x b) pos.toNat (wm.toNat + 1)) s

/-- Byte swap of 2 bytes (R253). -/
def execBswapH (d b : BitVec 6) (s : State) : Host.Outcome State Fault Refusal :=
  runHead acceptAll (headOf 0x0E 1 d.toNat) [d, b] [] 0 (writeX d fun s => swapBytes (s.x b) 2) s

/-- Byte swap of 4 bytes (R253). -/
def execBswapW (d b : BitVec 6) (s : State) : Host.Outcome State Fault Refusal :=
  runHead acceptAll (headOf 0x0E 1 d.toNat) [d, b] [] 0 (writeX d fun s => swapBytes (s.x b) 4) s

/-- Byte swap of 8 bytes (R253). -/
def execBswapD (d b : BitVec 6) (s : State) : Host.Outcome State Fault Refusal :=
  runHead acceptAll (headOf 0x0E 1 d.toNat) [d, b] [] 0 (writeX d fun s => swapBytes (s.x b) 8) s

/-- PC-relative address (R255). -/
def execAdr (d : BitVec 6) (off : BitVec 32) (s : State) : Host.Outcome State Fault Refusal :=
  runHead acceptAll (headOf 0x0F 2 d.toNat) [d] [] 0 (writeX d fun s => lineOfPc s.pc + off.signExtend 64) s

/-- PC-relative address (R255). -/
def execAdrLong (d : BitVec 6) (off : BitVec 64) (s : State) : Host.Outcome State Fault Refusal :=
  runHead acceptAll (headOf 0x0F 4 d.toNat) [d] [] 0 (writeX d fun s => lineOfPc s.pc + off.signExtend 64) s

end Sys2Proof.Machine
end

