-- ==== Sys2Proof/Machine/Dispatch.lean ====
section
/-! DEFINITION. Dispatch.lean: the meaning of every instruction and event, one arm each. -/

namespace Sys2Proof.Machine

-- Instructions run on the hart and context that the state names; events carry what they act on.
def exec (i : Instr) (s : State) : Host.Outcome State Fault Refusal :=
  match i with
  | .add d c b => Sys2Proof.Machine.execAdd d c b s
  | .sub d c b => Sys2Proof.Machine.execSub d c b s
  | .and d c b => Sys2Proof.Machine.execAnd d c b s
  | .or d c b => Sys2Proof.Machine.execOr d c b s
  | .xor d c b => Sys2Proof.Machine.execXor d c b s
  | .andn d c b => Sys2Proof.Machine.execAndn d c b s
  | .orn d c b => Sys2Proof.Machine.execOrn d c b s
  | .xnor d c b => Sys2Proof.Machine.execXnor d c b s
  | .sll d c b => Sys2Proof.Machine.execSll d c b s
  | .srl d c b => Sys2Proof.Machine.execSrl d c b s
  | .sra d c b => Sys2Proof.Machine.execSra d c b s
  | .rol d c b => Sys2Proof.Machine.execRol d c b s
  | .ror d c b => Sys2Proof.Machine.execRor d c b s
  | .slli d sh b => Sys2Proof.Machine.execSlli d sh b s
  | .srli d sh b => Sys2Proof.Machine.execSrli d sh b s
  | .srai d sh b => Sys2Proof.Machine.execSrai d sh b s
  | .roli d sh b => Sys2Proof.Machine.execRoli d sh b s
  | .rori d sh b => Sys2Proof.Machine.execRori d sh b s
  | .mul d c b => Sys2Proof.Machine.execMul d c b s
  | .mulh d c b => Sys2Proof.Machine.execMulh d c b s
  | .mulhu d c b => Sys2Proof.Machine.execMulhu d c b s
  | .mulhsu d c b => Sys2Proof.Machine.execMulhsu d c b s
  | .div d c b => Sys2Proof.Machine.execDiv d c b s
  | .divu d c b => Sys2Proof.Machine.execDivu d c b s
  | .rem d c b => Sys2Proof.Machine.execRem d c b s
  | .remu d c b => Sys2Proof.Machine.execRemu d c b s
  | .addi d imm b => Sys2Proof.Machine.execAddi d imm b s
  | .addiLong d imm b => Sys2Proof.Machine.execAddiLong d imm b s
  | .andi d imm b => Sys2Proof.Machine.execAndi d imm b s
  | .andiLong d imm b => Sys2Proof.Machine.execAndiLong d imm b s
  | .ori d imm b => Sys2Proof.Machine.execOri d imm b s
  | .oriLong d imm b => Sys2Proof.Machine.execOriLong d imm b s
  | .xori d imm b => Sys2Proof.Machine.execXori d imm b s
  | .xoriLong d imm b => Sys2Proof.Machine.execXoriLong d imm b s
  | .li d imm => Sys2Proof.Machine.execLi d imm s
  | .li32 d imm => Sys2Proof.Machine.execLi32 d imm s
  | .li64 d imm => Sys2Proof.Machine.execLi64 d imm s
  | .slt d c b => Sys2Proof.Machine.execSlt d c b s
  | .sltu d c b => Sys2Proof.Machine.execSltu d c b s
  | .seq d c b => Sys2Proof.Machine.execSeq d c b s
  | .sne d c b => Sys2Proof.Machine.execSne d c b s
  | .slti d imm b => Sys2Proof.Machine.execSlti d imm b s
  | .sltiLong d imm b => Sys2Proof.Machine.execSltiLong d imm b s
  | .sltiu d imm b => Sys2Proof.Machine.execSltiu d imm b s
  | .sltiuLong d imm b => Sys2Proof.Machine.execSltiuLong d imm b s
  | .seqi d imm b => Sys2Proof.Machine.execSeqi d imm b s
  | .seqiLong d imm b => Sys2Proof.Machine.execSeqiLong d imm b s
  | .snei d imm b => Sys2Proof.Machine.execSnei d imm b s
  | .sneiLong d imm b => Sys2Proof.Machine.execSneiLong d imm b s
  | .sel d f t k => Sys2Proof.Machine.execSel d f t k s
  | .min d c b => Sys2Proof.Machine.execMin d c b s
  | .max d c b => Sys2Proof.Machine.execMax d c b s
  | .minu d c b => Sys2Proof.Machine.execMinu d c b s
  | .maxu d c b => Sys2Proof.Machine.execMaxu d c b s
  | .clz d b => Sys2Proof.Machine.execClz d b s
  | .ctz d b => Sys2Proof.Machine.execCtz d b s
  | .popc d b => Sys2Proof.Machine.execPopc d b s
  | .bfxs d wm pos b => Sys2Proof.Machine.execBfxs d wm pos b s
  | .bfxu d wm pos b => Sys2Proof.Machine.execBfxu d wm pos b s
  | .bfi d wm pos b => Sys2Proof.Machine.execBfi d wm pos b s
  | .bswapH d b => Sys2Proof.Machine.execBswapH d b s
  | .bswapW d b => Sys2Proof.Machine.execBswapW d b s
  | .bswapD d b => Sys2Proof.Machine.execBswapD d b s
  | .adr d off => Sys2Proof.Machine.execAdr d off s
  | .adrLong d off => Sys2Proof.Machine.execAdrLong d off s
  | .fadd d dp c b => Sys2Proof.Machine.execFadd d dp c b s
  | .fsub d dp c b => Sys2Proof.Machine.execFsub d dp c b s
  | .fmul d dp c b => Sys2Proof.Machine.execFmul d dp c b s
  | .fdiv d dp c b => Sys2Proof.Machine.execFdiv d dp c b s
  | .fmin d dp c b => Sys2Proof.Machine.execFmin d dp c b s
  | .fmax d dp c b => Sys2Proof.Machine.execFmax d dp c b s
  | .fmadd d dp a c b => Sys2Proof.Machine.execFmadd d dp a c b s
  | .fmsub d dp a c b => Sys2Proof.Machine.execFmsub d dp a c b s
  | .fnmadd d dp a c b => Sys2Proof.Machine.execFnmadd d dp a c b s
  | .fnmsub d dp a c b => Sys2Proof.Machine.execFnmsub d dp a c b s
  | .fsqrt d dp b => Sys2Proof.Machine.execFsqrt d dp b s
  | .fclass d dp b => Sys2Proof.Machine.execFclass d dp b s
  | .feq d dp c b => Sys2Proof.Machine.execFeq d dp c b s
  | .flt d dp c b => Sys2Proof.Machine.execFlt d dp c b s
  | .fle d dp c b => Sys2Proof.Machine.execFle d dp c b s
  | .fcvt d tz toF fromF b => Sys2Proof.Machine.execFcvt d tz toF fromF b s
  | .bc a t cond b => Sys2Proof.Machine.execBc a t cond b s
  | .bcLong a t cond b => Sys2Proof.Machine.execBcLong a t cond b s
  | .j t => Sys2Proof.Machine.execJ t s
  | .jLong t => Sys2Proof.Machine.execJLong t s
  | .call t => Sys2Proof.Machine.execCall t s
  | .callLong t => Sys2Proof.Machine.execCallLong t s
  | .jr b => Sys2Proof.Machine.execJr b s
  | .callr b => Sys2Proof.Machine.execCallr b s
  | .ret => Sys2Proof.Machine.execRet s
  | .loop c t => Sys2Proof.Machine.execLoop c t s
  | .trap imm => Sys2Proof.Machine.execTrap imm s
  | .eret => Sys2Proof.Machine.execEret s
  | .ulret => Sys2Proof.Machine.execUlret s
  | .hret => Sys2Proof.Machine.execHret s
  | .crr d num => Sys2Proof.Machine.execCrr d num s
  | .crw d num b => Sys2Proof.Machine.execCrw d num b s
  | .crs d num b => Sys2Proof.Machine.execCrs d num b s
  | .crc d num b => Sys2Proof.Machine.execCrc d num b s
  | .fence qual => Sys2Proof.Machine.execFence qual s
  | .fenceI => Sys2Proof.Machine.execFenceI s
  | .pause => Sys2Proof.Machine.execPause s
  | .sleep b => Sys2Proof.Machine.execSleep b s
  | .tlbiVa scope b => Sys2Proof.Machine.execTlbiVa scope b s
  | .tlbiAll scope => Sys2Proof.Machine.execTlbiAll scope s
  | .tlbiRng scope c b => Sys2Proof.Machine.execTlbiRng scope c b s
  | .spawn d b => Sys2Proof.Machine.execSpawn d b s
  | .taskend => Sys2Proof.Machine.execTaskend s
  | .enq h mc sl b => Sys2Proof.Machine.execEnq h mc sl b s
  | .launchg sl mc p g => Sys2Proof.Machine.execLaunchg sl mc p g s
  | .msg lenm slot mc sl t => Sys2Proof.Machine.execMsg lenm slot mc sl t s
  | .waitc d mc c b => Sys2Proof.Machine.execWaitc d mc c b s
  | .hctlHold => Sys2Proof.Machine.execHctlHold s
  | .hctlGo => Sys2Proof.Machine.execHctlGo s
  | .hctlSt d => Sys2Proof.Machine.execHctlSt d s
  | .vadd d sl t pred c b => Sys2Proof.Machine.execVadd d sl t pred c b s
  | .vsub d sl t pred c b => Sys2Proof.Machine.execVsub d sl t pred c b s
  | .vmul d sl t pred c b => Sys2Proof.Machine.execVmul d sl t pred c b s
  | .vmin d sl t pred c b => Sys2Proof.Machine.execVmin d sl t pred c b s
  | .vmax d sl t pred c b => Sys2Proof.Machine.execVmax d sl t pred c b s
  | .vand d sl t pred c b => Sys2Proof.Machine.execVand d sl t pred c b s
  | .vor d sl t pred c b => Sys2Proof.Machine.execVor d sl t pred c b s
  | .vxor d sl t pred c b => Sys2Proof.Machine.execVxor d sl t pred c b s
  | .vsll d sl t pred c b => Sys2Proof.Machine.execVsll d sl t pred c b s
  | .vsrl d sl t pred c b => Sys2Proof.Machine.execVsrl d sl t pred c b s
  | .vsra d sl t pred c b => Sys2Proof.Machine.execVsra d sl t pred c b s
  | .vabs d t pred b => Sys2Proof.Machine.execVabs d t pred b s
  | .vfadd d sl t pred c b => Sys2Proof.Machine.execVfadd d sl t pred c b s
  | .vfsub d sl t pred c b => Sys2Proof.Machine.execVfsub d sl t pred c b s
  | .vfmul d sl t pred c b => Sys2Proof.Machine.execVfmul d sl t pred c b s
  | .vfdiv d sl t pred c b => Sys2Proof.Machine.execVfdiv d sl t pred c b s
  | .vfmin d sl t pred c b => Sys2Proof.Machine.execVfmin d sl t pred c b s
  | .vfmax d sl t pred c b => Sys2Proof.Machine.execVfmax d sl t pred c b s
  | .vfabs d t pred b => Sys2Proof.Machine.execVfabs d t pred b s
  | .vfneg d t pred b => Sys2Proof.Machine.execVfneg d t pred b s
  | .vfma d sl a t pred c b => Sys2Proof.Machine.execVfma d sl a t pred c b s
  | .vfms d sl a t pred c b => Sys2Proof.Machine.execVfms d sl a t pred c b s
  | .vfnma d sl a t pred c b => Sys2Proof.Machine.execVfnma d sl a t pred c b s
  | .vfnms d sl a t pred c b => Sys2Proof.Machine.execVfnms d sl a t pred c b s
  | .vcmp d sl cond t pred c b => Sys2Proof.Machine.execVcmp d sl cond t pred c b s
  | .vsel d sl t pred c b => Sys2Proof.Machine.execVsel d sl t pred c b s
  | .vperm d sl t pred c b => Sys2Proof.Machine.execVperm d sl t pred c b s
  | .vperm2 d sl a t pred c b => Sys2Proof.Machine.execVperm2 d sl a t pred c b s
  | .vrev d t pred b => Sys2Proof.Machine.execVrev d t pred b s
  | .vrot d sl t pred c b => Sys2Proof.Machine.execVrot d sl t pred c b s
  | .vslide d sl a t pred c b => Sys2Proof.Machine.execVslide d sl a t pred c b s
  | .vbcast d pred t x => Sys2Proof.Machine.execVbcast d pred t x s
  | .vbcastElement d t pred idx b => Sys2Proof.Machine.execVbcastElement d t pred idx b s
  | .vindex d pred t x => Sys2Proof.Machine.execVindex d pred t x s
  | .vliW d imm => Sys2Proof.Machine.execVliW d imm s
  | .vliD d imm => Sys2Proof.Machine.execVliD d imm s
  | .vliQ d imm => Sys2Proof.Machine.execVliQ d imm s
  | .vmovx d t idx b => Sys2Proof.Machine.execVmovx d t idx b s
  | .vmovv d t idx x => Sys2Proof.Machine.execVmovv d t idx x s
  | .vred d op t pred b => Sys2Proof.Machine.execVred d op t pred b s
  | .vscan d op t pred b => Sys2Proof.Machine.execVscan d op t pred b s
  | .vscanx d op t pred b => Sys2Proof.Machine.execVscanx d op t pred b s
  | .vcompress d t pred b => Sys2Proof.Machine.execVcompress d t pred b s
  | .vexpand d t pred b => Sys2Proof.Machine.execVexpand d t pred b s
  | .vtopk d nz m t pred pd xb xk vi b => Sys2Proof.Machine.execVtopk d nz m t pred pd xb xk vi b s
  | .vcvt d er ef rz part pred toF fromF b => Sys2Proof.Machine.execVcvt d er ef rz part pred toF fromF b s
  | .venc d er ef part pred toF fromF b => Sys2Proof.Machine.execVenc d er ef part pred toF fromF b s
  | .vdec d part pred toF fromF b => Sys2Proof.Machine.execVdec d part pred toF fromF b s
  | .vrcpe d t pred b => Sys2Proof.Machine.execVrcpe d t pred b s
  | .vrsqe d t pred b => Sys2Proof.Machine.execVrsqe d t pred b s
  | .vexpe d t pred b => Sys2Proof.Machine.execVexpe d t pred b s
  | .pand d pb pa => Sys2Proof.Machine.execPand d pb pa s
  | .por d pb pa => Sys2Proof.Machine.execPor d pb pa s
  | .pxor d pb pa => Sys2Proof.Machine.execPxor d pb pa s
  | .pnot d pa => Sys2Proof.Machine.execPnot d pa s
  | .pmovToPredicate d x => Sys2Proof.Machine.execPmovToPredicate d x s
  | .pmovToScalar d pa => Sys2Proof.Machine.execPmovToScalar d pa s
  | .pcnt d pm pa => Sys2Proof.Machine.execPcnt d pm pa s
  | .pfirst d pm pa => Sys2Proof.Machine.execPfirst d pm pa s
  | .ldB d off b qual => Sys2Proof.Machine.execLdB d off b qual s
  | .ldBLong d p off b qual => Sys2Proof.Machine.execLdBLong d p off b qual s
  | .ldBu d off b qual => Sys2Proof.Machine.execLdBu d off b qual s
  | .ldBuLong d p off b qual => Sys2Proof.Machine.execLdBuLong d p off b qual s
  | .ldH d off b qual => Sys2Proof.Machine.execLdH d off b qual s
  | .ldHLong d p off b qual => Sys2Proof.Machine.execLdHLong d p off b qual s
  | .ldHu d off b qual => Sys2Proof.Machine.execLdHu d off b qual s
  | .ldHuLong d p off b qual => Sys2Proof.Machine.execLdHuLong d p off b qual s
  | .ldW d off b qual => Sys2Proof.Machine.execLdW d off b qual s
  | .ldWLong d p off b qual => Sys2Proof.Machine.execLdWLong d p off b qual s
  | .ldWu d off b qual => Sys2Proof.Machine.execLdWu d off b qual s
  | .ldWuLong d p off b qual => Sys2Proof.Machine.execLdWuLong d p off b qual s
  | .ldD d off b qual => Sys2Proof.Machine.execLdD d off b qual s
  | .ldDLong d p off b qual => Sys2Proof.Machine.execLdDLong d p off b qual s
  | .stB src off b qual => Sys2Proof.Machine.execStB src off b qual s
  | .stBLong src p off b qual => Sys2Proof.Machine.execStBLong src p off b qual s
  | .stH src off b qual => Sys2Proof.Machine.execStH src off b qual s
  | .stHLong src p off b qual => Sys2Proof.Machine.execStHLong src p off b qual s
  | .stW src off b qual => Sys2Proof.Machine.execStW src off b qual s
  | .stWLong src p off b qual => Sys2Proof.Machine.execStWLong src p off b qual s
  | .stD src off b qual => Sys2Proof.Machine.execStD src off b qual s
  | .stDLong src p off b qual => Sys2Proof.Machine.execStDLong src p off b qual s
  | .vld d c sl pred t b qual => Sys2Proof.Machine.execVld d c sl pred t b qual s
  | .vldLong d off c sl pred t b qual => Sys2Proof.Machine.execVldLong d off c sl pred t b qual s
  | .vst d c sl pred t b qual => Sys2Proof.Machine.execVst d c sl pred t b qual s
  | .vstLong d off c sl pred t b qual => Sys2Proof.Machine.execVstLong d off c sl pred t b qual s
  | .ldf d off b qual => Sys2Proof.Machine.execLdf d off b qual s
  | .ldfC d off b qual => Sys2Proof.Machine.execLdfC d off b qual s
  | .ste src off b qual => Sys2Proof.Machine.execSte src off b qual s
  | .clre off b qual => Sys2Proof.Machine.execClre off b qual s
  | .pref off b qual => Sys2Proof.Machine.execPref off b qual s
  | .clean off b qual => Sys2Proof.Machine.execClean off b qual s
  | .flush off b qual => Sys2Proof.Machine.execFlush off b qual s
  | .strm d slot b => Sys2Proof.Machine.execStrm d slot b s
  | .strmoff slot => Sys2Proof.Machine.execStrmoff slot s
  | .qrd d w v q => Sys2Proof.Machine.execQrd d w v q s
  | .qwr d w v q => Sys2Proof.Machine.execQwr d w v q s
  | .qcfg q b => Sys2Proof.Machine.execQcfg q b s
  | .copy b qdv qd qsv qs => Sys2Proof.Machine.execCopy b qdv qd qsv qs s
  | .gather b qdv qd => Sys2Proof.Machine.execGather b qdv qd s
  | .copyl b => Sys2Proof.Machine.execCopyl b s
  | .copyw b => Sys2Proof.Machine.execCopyw b s
  | .copywAll => Sys2Proof.Machine.execCopywAll s
  | .puts b bell => Sys2Proof.Machine.execPuts b bell s
  | .barr bell => Sys2Proof.Machine.execBarr bell s
  | .bwait d c bell => Sys2Proof.Machine.execBwait d c bell s
  | .rollw d bell b => Sys2Proof.Machine.execRollw d bell b s
  | .phase bell => Sys2Proof.Machine.execPhase bell s
  | .amoSwap d w c b qual => Sys2Proof.Machine.execAmoSwap d w c b qual s
  | .amoCas d w n c b qual => Sys2Proof.Machine.execAmoCas d w n c b qual s
  | .amoFadd d w c b qual => Sys2Proof.Machine.execAmoFadd d w c b qual s
  | .regionSet d idx b => Sys2Proof.Machine.execRegionSet d idx b s
  | .regionOff d idx b => Sys2Proof.Machine.execRegionOff d idx b s
  | .regionRd d idx b => Sys2Proof.Machine.execRegionRd d idx b s
  | .regionRdc d idx b => Sys2Proof.Machine.execRegionRdc d idx b s
  | .upd src off b qual => Sys2Proof.Machine.execUpd src off b qual s
  | .updLong src off b qual => Sys2Proof.Machine.execUpdLong src off b qual s
  | .updv src t pred vi b qual => Sys2Proof.Machine.execUpdv src t pred vi b qual s
  | .uflush c b => Sys2Proof.Machine.execUflush c b s
  | .tload r tn sp b qual => Sys2Proof.Machine.execTload r tn sp b qual s
  | .tloadLong off r tn sp b qual => Sys2Proof.Machine.execTloadLong off r tn sp b qual s
  | .tstore tn sp b qual => Sys2Proof.Machine.execTstore tn sp b qual s
  | .tstoreLong off tn sp b qual => Sys2Proof.Machine.execTstoreLong off tn sp b qual s
  | .tzero form tn => Sys2Proof.Machine.execTzero form tn s
  | .tmma c cp z tb ta => Sys2Proof.Machine.execTmma c cp z tb ta s
  | .tmmaP c cp ce cmc z k a p => Sys2Proof.Machine.execTmmaP c cp ce cmc z k a p s
  | .tmmaG c cp ce cmc z k a p => Sys2Proof.Machine.execTmmaG c cp ce cmc z k a p s
  | .pload ce cmc n b => Sys2Proof.Machine.execPload ce cmc n b s
  | .pswap => Sys2Proof.Machine.execPswap s
  | .gbind gn => Sys2Proof.Machine.execGbind gn s
  | .gunbind gn => Sys2Proof.Machine.execGunbind gn s
  | .tdrain d cp nr hz nh h c dp => Sys2Proof.Machine.execTdrain d cp nr hz nh h c dp s
  | .tdrainImm d pitch cp nr hz nh h c => Sys2Proof.Machine.execTdrainImm d pitch cp nr hz nh h c s
  | .tblld slot id b => Sys2Proof.Machine.execTblld slot id b s
  | .quiz => Sys2Proof.Machine.execQuiz s
  | .treemul d b a => Sys2Proof.Machine.execTreemul d b a s
  | .treeadd d b a => Sys2Proof.Machine.execTreeadd d b a s
  | .tconv d a => Sys2Proof.Machine.execTconv d a s
  | .tresume => Sys2Proof.Machine.execTresume s
  | .contract b => Sys2Proof.Machine.execContract b s
  | .tryPush a m n => Sys2Proof.Machine.execTryPush a m n s
  | .fail => Sys2Proof.Machine.execFail s
  | .cut b => Sys2Proof.Machine.execCut b s
  | .mark d => Sys2Proof.Machine.execMark d s
  | .sttB src off b qual => Sys2Proof.Machine.execSttB src off b qual s
  | .sttBLong src off b qual => Sys2Proof.Machine.execSttBLong src off b qual s
  | .sttH src off b qual => Sys2Proof.Machine.execSttH src off b qual s
  | .sttHLong src off b qual => Sys2Proof.Machine.execSttHLong src off b qual s
  | .sttW src off b qual => Sys2Proof.Machine.execSttW src off b qual s
  | .sttWLong src off b qual => Sys2Proof.Machine.execSttWLong src off b qual s
  | .sttD src off b qual => Sys2Proof.Machine.execSttD src off b qual s
  | .sttDLong src off b qual => Sys2Proof.Machine.execSttDLong src off b qual s
  | .steal d v => Sys2Proof.Machine.execSteal d v s
  | .sframe b => Sys2Proof.Machine.execSframe b s
  | .searchend => Sys2Proof.Machine.execSearchend s
  | .asumm dv dmc b => Sys2Proof.Machine.execAsumm dv dmc b s
  | .ascreen dv dmc b => Sys2Proof.Machine.execAscreen dv dmc b s
  | .ascreenLong kimm ko qo sq dv dmc b => Sys2Proof.Machine.execAscreenLong kimm ko qo sq dv dmc b s
  | .xsend d ch x => Sys2Proof.Machine.execXsend d ch x s
  | .xrecv d ch x => Sys2Proof.Machine.execXrecv d ch x s
  | .xctlCon ch b => Sys2Proof.Machine.execXctlCon ch b s
  | .xctlDis ch => Sys2Proof.Machine.execXctlDis ch s
  | .xctlSt d ch => Sys2Proof.Machine.execXctlSt d ch s
  | .nop => Sys2Proof.Machine.execNop s
  | .deviceReset => Sys2Proof.Machine.execDeviceReset s
  | .undervoltageReset => Sys2Proof.Machine.execUndervoltageReset s
  | .sensorUpdate watts temps centivolts => Sys2Proof.Machine.execSensorUpdate watts temps centivolts s
  | .thermalTrip => Sys2Proof.Machine.execThermalTrip s
  | .smbusReadPower => Sys2Proof.Machine.execSmbusReadPower s
  | .smbusReadTemperatures => Sys2Proof.Machine.execSmbusReadTemperatures s
  | .smbusReadVoltage => Sys2Proof.Machine.execSmbusReadVoltage s
  | .smbusReadWear => Sys2Proof.Machine.execSmbusReadWear s
  | .smbusReadBootStatus => Sys2Proof.Machine.execSmbusReadBootStatus s
  | .smbusReadClock => Sys2Proof.Machine.execSmbusReadClock s
  | .smbusWritePowerCap watts pec => Sys2Proof.Machine.execSmbusWritePowerCap watts pec s
  | .unsupportedPacket port => Sys2Proof.Machine.execUnsupportedPacket port s
  | .linkReplay link => Sys2Proof.Machine.execLinkReplay link s
  | .loadImage r offset data => Sys2Proof.Machine.execLoadImage r offset data s
  | .map r va pa len pte => Sys2Proof.Machine.execMap r va pa len pte s
  | .copyIn r va data => Sys2Proof.Machine.execCopyIn r va data s
  | .copyOut r va len => Sys2Proof.Machine.execCopyOut r va len s
  | .launch r handle patch => Sys2Proof.Machine.execLaunch r handle patch s
  | .queryIdentity r nonce => Sys2Proof.Machine.execQueryIdentity r nonce s
  | .queryFences r => Sys2Proof.Machine.execQueryFences r s
  | .queryEventCount r => Sys2Proof.Machine.execQueryEventCount r s
  | .queryPortErrors r => Sys2Proof.Machine.execQueryPortErrors r s
  | .checkpoint r tier addr => Sys2Proof.Machine.execCheckpoint r tier addr s
  | .restore r tier addr => Sys2Proof.Machine.execRestore r tier addr s
  | .queueCreate r handle ovAddr ovSize stealable => Sys2Proof.Machine.execQueueCreate r handle ovAddr ovSize stealable s
  | .queueDestroy r handle => Sys2Proof.Machine.execQueueDestroy r handle s
  | .queueSwapOut r handle => Sys2Proof.Machine.execQueueSwapOut r handle s
  | .queueSwapIn r handle => Sys2Proof.Machine.execQueueSwapIn r handle s
  | .graphCapture r g => Sys2Proof.Machine.execGraphCapture r g s
  | .graphStructuralEdit r handle g => Sys2Proof.Machine.execGraphStructuralEdit r handle g s
  | .graphParameterEdit r handle params => Sys2Proof.Machine.execGraphParameterEdit r handle params s
  | .events r first => Sys2Proof.Machine.execEvents r first s
  | .podJoin r n m endpoints => Sys2Proof.Machine.execPodJoin r n m endpoints s
  | .hallPass pass => Sys2Proof.Machine.execHallPass pass s
  | .hallPassRegenerate => Sys2Proof.Machine.execHallPassRegenerate s
  | .podTaskTransfer records => Sys2Proof.Machine.execPodTaskTransfer records s
  | .fenceMessage sender => Sys2Proof.Machine.execFenceMessage sender s
  | .fenceAcknowledgement sender => Sys2Proof.Machine.execFenceAcknowledgement sender s
  | .recoveryStopMessage => Sys2Proof.Machine.execRecoveryStopMessage s
  | .serviceCoreStart k => Sys2Proof.Machine.execServiceCoreStart k s
  | .hartHalt h => Sys2Proof.Machine.execHartHalt h s
  | .hartRelease h => Sys2Proof.Machine.execHartRelease h s
  | .hartWindowRegisterAccess h offset store => Sys2Proof.Machine.execHartWindowRegisterAccess h offset store s
  | .queueEnable core q val => Sys2Proof.Machine.execQueueEnable core q val s
  | .queueDisable core q => Sys2Proof.Machine.execQueueDisable core q s
  | .companionStart core storer pc => Sys2Proof.Machine.execCompanionStart core storer pc s
  | .companionStop core storer => Sys2Proof.Machine.execCompanionStop core storer s
  | .preemptRequest core park floor => Sys2Proof.Machine.execPreemptRequest core park floor s
  | .preemptCancel core park floor => Sys2Proof.Machine.execPreemptCancel core park floor s
  | .streamSlotDisable core slot => Sys2Proof.Machine.execStreamSlotDisable core slot s
  | .mailboxCounterWrite core mc val => Sys2Proof.Machine.execMailboxCounterWrite core mc val s
  | .winmapWrite core val => Sys2Proof.Machine.execWinmapWrite core val s
  | .tasklimWrite core val => Sys2Proof.Machine.execTasklimWrite core val s
  | .controlRegisterWrite h num val => Sys2Proof.Machine.execControlRegisterWrite h num val s
  | .storeBufferRetire h k => Sys2Proof.Machine.execStoreBufferRetire h k s
  | .updateAccepted h k => Sys2Proof.Machine.execUpdateAccepted h k s
  | .gutterSpill die slice => Sys2Proof.Machine.execGutterSpill die slice s
  | .registrarServe die k => Sys2Proof.Machine.execRegistrarServe die k s
  | .pageWalk h va => Sys2Proof.Machine.execPageWalk h va s
  | .loftWriteBack cluster block => Sys2Proof.Machine.execLoftWriteBack cluster block s
  | .decodeAhead cluster reader block => Sys2Proof.Machine.execDecodeAhead cluster reader block s
  | .decodeAheadPlaceExpiry cluster place => Sys2Proof.Machine.execDecodeAheadPlaceExpiry cluster place s
  | .patrolScrub addr uncorrectable => Sys2Proof.Machine.execPatrolScrub addr uncorrectable s
  | .scopeMissHold h unit => Sys2Proof.Machine.execScopeMissHold h unit s
  | .scopeMissRunStart core => Sys2Proof.Machine.execScopeMissRunStart core s
  | .companionScopeMiss h => Sys2Proof.Machine.execCompanionScopeMiss h s
  | .scopeMissLift unit => Sys2Proof.Machine.execScopeMissLift unit s
  | .drainRunStart core => Sys2Proof.Machine.execDrainRunStart core s
  | .messageDelivery k => Sys2Proof.Machine.execMessageDelivery k s
  | .parkWake h handler => Sys2Proof.Machine.execParkWake h handler s
  | .interruptTaken h => Sys2Proof.Machine.execInterruptTaken h s
  | .userCompletionInterrupt core => Sys2Proof.Machine.execUserCompletionInterrupt core s
  | .sleepLimitExpiry h handler => Sys2Proof.Machine.execSleepLimitExpiry h handler s
  | .pauseExpiry h handler => Sys2Proof.Machine.execPauseExpiry h handler s
  | .waitcTimeout h handler => Sys2Proof.Machine.execWaitcTimeout h handler s
  | .bwaitTimeout core => Sys2Proof.Machine.execBwaitTimeout core s
  | .engineCommandStart h copy => Sys2Proof.Machine.execEngineCommandStart h copy s
  | .chunkRetirement core => Sys2Proof.Machine.execChunkRetirement core s
  | .matrixCommandComplete core => Sys2Proof.Machine.execMatrixCommandComplete core s
  | .operandsConsumedEvent core => Sys2Proof.Machine.execOperandsConsumedEvent core s
  | .transferComplete core k => Sys2Proof.Machine.execTransferComplete core k s
  | .copylRequest cluster => Sys2Proof.Machine.execCopylRequest cluster s
  | .streamRefill core slot => Sys2Proof.Machine.execStreamRefill core slot s
  | .quizProduct core failing => Sys2Proof.Machine.execQuizProduct core failing s
  | .tableInstall core => Sys2Proof.Machine.execTableInstall core s
  | .gangBindComplete cluster => Sys2Proof.Machine.execGangBindComplete cluster s
  | .gangUnbindComplete cluster => Sys2Proof.Machine.execGangUnbindComplete cluster s
  | .gangTmmaStart cluster => Sys2Proof.Machine.execGangTmmaStart cluster s
  | .thatcherStart cluster => Sys2Proof.Machine.execThatcherStart cluster s
  | .thatcherStep cluster => Sys2Proof.Machine.execThatcherStep cluster s
  | .treeComplete cluster => Sys2Proof.Machine.execTreeComplete cluster s
  | .screenerRequest cluster => Sys2Proof.Machine.execScreenerRequest cluster s
  | .theftServe victim => Sys2Proof.Machine.execTheftServe victim s
  | .searchCancellation k => Sys2Proof.Machine.execSearchCancellation k s
  | .searchCompletionMessage k => Sys2Proof.Machine.execSearchCompletionMessage k s
  | .channelChunkArrival k => Sys2Proof.Machine.execChannelChunkArrival k s
  | .taskDispatch core => Sys2Proof.Machine.execTaskDispatch core s
  | .taskRetirement core => Sys2Proof.Machine.execTaskRetirement core s
  | .ageLimitExpiry cluster k => Sys2Proof.Machine.execAgeLimitExpiry cluster k s
  | .taskLimitExpiry core => Sys2Proof.Machine.execTaskLimitExpiry core s
  | .enqArrival k => Sys2Proof.Machine.execEnqArrival k s
  | .enqReply k => Sys2Proof.Machine.execEnqReply k s
  | .launchgArrival k => Sys2Proof.Machine.execLaunchgArrival k s
  | .stealProbe cluster => Sys2Proof.Machine.execStealProbe cluster s
  | .stealProbeAnswer k => Sys2Proof.Machine.execStealProbeAnswer k s
  | .stolenTaskArrival k => Sys2Proof.Machine.execStolenTaskArrival k s
  | .barrierArrivalSignal k => Sys2Proof.Machine.execBarrierArrivalSignal k s
  | .barrierRelease core bell => Sys2Proof.Machine.execBarrierRelease core bell s
  | .regionTableUpdate k => Sys2Proof.Machine.execRegionTableUpdate k s
  | .coreFence core => Sys2Proof.Machine.execCoreFence core s
  | .clusterFence cluster => Sys2Proof.Machine.execClusterFence cluster s
  | .dieFailure die => Sys2Proof.Machine.execDieFailure die s
  | .wearUpdate cluster val => Sys2Proof.Machine.execWearUpdate cluster val s
  | .serviceInterrupt core code => Sys2Proof.Machine.execServiceInterrupt core code s
  | .endpointEstablished ep => Sys2Proof.Machine.execEndpointEstablished ep s
  | .checkpointComplete => Sys2Proof.Machine.execCheckpointComplete s
  | .restoreComplete => Sys2Proof.Machine.execRestoreComplete s

end Sys2Proof.Machine
end

