-- ==== Sys2Proof/Machine/Step.lean ====
section
/-! DEFINITION. Step.lean: one step of the module. The environment's script says who moves; without one the hart that
`cur` names does. A hart's move is a head boundary: a pending enabled interrupt, or one head (R183). -/

namespace Sys2Proof.Machine

/-- Run the instruction at the PC of the executing context, or take the fault of its fetch. -/
noncomputable def runFetched (s : State) : Host.Outcome State Fault Refusal :=
  match fetchInstr.run s with
  | (.ok i, t) => exec i t
  | (.error e, t) => finish (.error e, t)

/-- One head boundary of the executing context (R39, R46, R178, R183, R186). -/
noncomputable def hartStep (s : State) : Host.Outcome State Fault Refusal :=
  if hartExists s.cur = false then .fault (.noSuchHart s.cur)
  else if s.canRun s.cur = false then .next s
  else match s.ctx with
    | .handler => if s.me.handler.run.isNone then .next s else runFetched s
    | .main =>
      if s.me.stopReq && !s.committed s.cur then .next (s.stopCompanion s.cur)
      else if (s.interruptFor s.cur).isSome then .next (s.takeInterrupt s.cur)
      else if (s.userEventFor s.cur).isSome then .next (s.takeUserEvent s.cur)
      else runFetched s

/-- One step of the module. -/
noncomputable def step (s : State) : Host.Outcome State Fault Refusal :=
  match s.turns with
  | [] => hartStep (s.elapse 1 0)
  | t :: r =>
    let s := ({ s with turns := r }).elapse t.cycles t.nanos
    match t.move with
    | .hart h ctx => hartStep { s with cur := h, ctx := ctx }
    | .event i => if (encode i).isSome then .next s else exec i s

/-- The head bits of an encoding are accepted on a service core (R209). -/
def serviceAccepts (e : Enc) : Bool :=
  let opc := e.head / 512
  let tsz := e.head / 64 % 8
  decide (1 ≤ opc ∧ opc ≤ 0x25) || (opc == 0x28 && decide (e.tail < 0x8000)) || decide (0x29 ≤ opc ∧ opc ≤ 0x2B) ||
    (opc == 0x2C && tsz == 2) || opc == 0x2D || opc == 0x2E || decide (0x30 ≤ opc ∧ opc ≤ 0x43) ||
    decide (0x50 ≤ opc ∧ opc ≤ 0x53) || opc == 0x55 || opc == 0x58 || opc == 0x59 || opc == 0x5B ||
    decide (0x62 ≤ opc ∧ opc ≤ 0x66) || opc == 0x7F

/-- The state with an instruction, its bits numbered as the opcode table numbers them, where the next step fetches: at
the PC of service core 0 when a service core accepts it, and otherwise in the TCM of compute core 0, which then is the
hart that runs. The line holds the one head, at index 1, and flows on. -/
def State.withFetchWord (s : State) (nbits w : Nat) : State :=
  let e := encOfWord nbits w
  if kindOf s.cur = 3 ∧ s.turns = [] ∧ s.canRun s.cur = true ∧ serviceAccepts e = true then
    (s.setPc (lineOfPc s.pc ||| 2)).storeLine (lineOfPc s.pc).toNat (lineOf e)
  else s.placeCore.storeLine (tcmHome 0 0x1000) (lineOf e)

end Sys2Proof.Machine
end

