-- ==== Sys2Proof/Safety.lean ====
section
/-! DEFINITION. Safety.lean: what the states of a safe run have in common, and what a head may leave changed, in the
terms that claims use. -/

namespace Sys2Proof.Machine

/-- Memory, and every checkpoint image that the safe tier holds, is in its canonical form. -/
structure State.MemOk (s : State) : Prop where
  mem : Memory.wf s.mem = true
  tier : ∀ e ∈ s.dev.tier, Memory.wf e.2.2.mem = true

/-- The hart that a state names is a hart of the package (R16). -/
def State.curOk (s : State) : Prop := hartExists s.cur = true

/-- A step goes on: it ends neither in a fault nor in a refusal. -/
def State.goesOn (s : State) : Prop := ∃ t, step s = .next t

/-- The head at the PC has a sequential successor (R201): another head of its line, or a line that flows on. -/
def State.flows (s : State) : Prop := headIndex s.pc < s.lineCount ∨ s.lineFalls = true

/-- The executing context is the main context of a compute core. -/
def State.onCore (s : State) : Prop := kindOf s.cur = 0 ∧ s.ctx = .main

/-- WHAT A HEAD LEAVES AS IT WAS. From s to t everything is as before but the x registers xs, the v registers vs, the p
registers ps, the PC with its line image and wait, and the count of heads; cr.fflags gains the flags fl. -/
structure SameBut (s t : State) (xs : List (BitVec 6)) (vs : List (BitVec 5)) (ps : List (BitVec 3)) (fl : BitVec 5) :
    Prop where
  x : ∀ r, r ∉ xs → t.x r = s.x r
  v : ∀ r, r ∉ vs → t.v r = s.v r
  p : ∀ r, r ∉ ps → t.p r = s.p r
  fflags : t.me.sys.fflags = s.me.sys.fflags ||| fl.setWidth 64
  sys : { t.me.sys with fflags := 0, instret := 0 } = { s.me.sys with fflags := 0, instret := 0 }
  traps : t.me.traps = s.me.traps
  mainCtx : s.ctx = .handler → t.me.main = s.me.main
  handlerCtx : s.ctx = .main → t.me.handler = s.me.handler
  mat : t.me.mat = s.me.mat
  tree : t.me.tree = s.me.tree
  e : t.me.e = s.me.e
  tiles : t.me.tiles = s.me.tiles
  tables : t.me.tables = s.me.tables
  mc : t.me.mc = s.me.mc
  queues : t.me.queues = s.me.queues
  bells : t.me.bells = s.me.bells
  streams : t.me.streams = s.me.streams
  memIf : t.me.mem = s.me.mem
  runs : t.me.runs = s.me.runs
  engine : t.me.engine = s.me.engine
  copy : t.me.copy = s.me.copy
  gang : t.me.gang = s.me.gang
  search : t.me.search = s.me.search
  theft : t.me.theft = s.me.theft
  chan : t.me.chan = s.me.chan
  task : t.me.task = s.me.task
  act : t.me.act = s.me.act ∧ t.me.halted = s.me.halted
  others : ∀ h, h ≠ s.cur → t.hart h = s.hart h
  clusters : ∀ k, t.cluster k = s.cluster k
  dies : ∀ d, t.die d = s.die d
  device : t.dev = s.dev ∧ t.board = s.board
  bytes : ∀ a, memGet t.mem a = memGet s.mem a
  full : t.full = s.full
  poison : t.poison = s.poison
  tags : t.tags = s.tags ∧ t.holds = s.holds ∧ t.waiters = s.waiters
  past : t.past = s.past
  net : t.net = s.net
  time : t.clock = s.clock ∧ t.nanos = s.nanos
  who : t.cur = s.cur ∧ t.ctx = s.ctx ∧ t.turns = s.turns

/-! ## When a head executes normally, and what it then does -/

/-- A head is accepted: its instruction is well formed (R210), the executing hart and context accept it (R38, R43, R209)
and its registers are visible there (R38, R308). -/
structure Accepted (a : Accept) (i : Instr) (xs : List (BitVec 6)) (vs : List (BitVec 5)) (pred : BitVec 3) (s : State) :
    Prop where
  wf : wellFormed i = true
  accepts : a.ok s = true
  sees : s.visible xs vs pred = true

/-- A head executes normally: it is accepted, and it has a sequential successor (R201). -/
structure Ready (a : Accept) (i : Instr) (xs : List (BitVec 6)) (vs : List (BitVec 5)) (pred : BitVec 3) (s : State) : Prop
    extends Accepted a i xs vs pred s where
  flows : s.flows

/-- The head completes at its sequential successor: PC and count of heads (R201, R279). -/
def Completes (s t : State) : Prop := t.pc = s.linkNext ∧ t.me.sys.instret = s.me.sys.instret + 1

/-- HOW A HEAD THAT RUNS TO ITS END ENDS. Instruction i, run in state s, counts as executed and has left t, u being the state
that its checks and reads left: with a sequential successor the next state is t, which stands there, and without one the head
has had the same effect, and the hart takes LINE_FORMAT with cr.epc at `link_next` and cr.tval at the line (R201, R210). -/
def HeadEnds (i : Instr) (s u t : State) : Prop :=
  t.me.sys.instret = u.me.sys.instret + 1 ∧
  (u.flows → exec i s = .next t ∧ t.pc = u.linkNext) ∧
  (¬ u.flows → exec i s = .next (t.takeTrap (BitVec.ofNat 64 0x02) u.linkNext (lineOfPc u.pc)))

/-- Instruction i, which names the x registers xs, writes x register d with a value of the state and changes nothing
else (R222); a write to x0 is discarded. -/
def WritesX (a : Accept) (i : Instr) (xs : List (BitVec 6)) (d : BitVec 6) (f : State → Word) : Prop :=
  ∀ s, Accepted a i xs [] 0 s → ∃ t, HeadEnds i s s t ∧ t.x d = (if d = 0 then 0 else f s) ∧ SameBut s t [d] [] [] 0

/-- As `WritesX`, for a value that is described and not computed. -/
def WritesXSuch (a : Accept) (i : Instr) (xs : List (BitVec 6)) (d : BitVec 6) (P : State → Word → Prop) : Prop :=
  ∀ s, Accepted a i xs [] 0 s → ∃ t w, HeadEnds i s s t ∧ P s w ∧ t.x d = (if d = 0 then 0 else w) ∧ SameBut s t [d] [] [] 0

/-- As `WritesX`, with flags that are ORed into cr.fflags (R223, R131). -/
def WritesXFlags (a : Accept) (i : Instr) (xs : List (BitVec 6)) (d : BitVec 6) (f : State → Word)
    (fl : State → BitVec 5) : Prop :=
  ∀ s, Accepted a i xs [] 0 s → ∃ t, HeadEnds i s s t ∧ t.x d = (if d = 0 then 0 else f s) ∧ SameBut s t [d] [] [] (fl s)

/-- Instruction i transfers control to pc and changes nothing else. -/
def GoesTo (i : Instr) (s : State) (pc : Word) : Prop :=
  ∃ t, exec i s = .next t ∧ t.pc = pc ∧ t.me.sys.instret = s.me.sys.instret + 1 ∧ SameBut s t [] [] [] 0

/-- Instruction i transfers control to pc with `link_next` in x1, and changes nothing else (R271). -/
def CallsTo (i : Instr) (s : State) (pc : Word) : Prop :=
  ∃ t, exec i s = .next t ∧ t.pc = pc ∧ t.x 1 = s.linkNext ∧ t.me.sys.instret = s.me.sys.instret + 1 ∧
    SameBut s t [1] [] [] 0

/-- A part of a meaning (a check, a translation, a read) succeeds in state s with a result, and leaves state t. -/
def Gives {α : Type} (m : M α) (s : State) (a : α) (t : State) : Prop := m.run s = (.ok a, t)

/-- A part of a meaning traps in state s. -/
def Refuses {α : Type} (m : M α) (s : State) (cause tval : Word) : Prop := (m.run s).1 = .error (.trap cause tval)

/-- Instruction i, run in state s, runs to its end: it does to u, the state that its checks and reads have left, what base
holds, and then its head ends (`HeadEnds`). Everything but the registers named is as base has it. -/
def EndsAs (i : Instr) (s u base : State) (xs : List (BitVec 6)) (vs : List (BitVec 5)) (ps : List (BitVec 3))
    (fl : BitVec 5) (P : State → Prop) : Prop :=
  ∃ t, HeadEnds i s u t ∧ P t ∧ SameBut base t xs vs ps fl

/-- Instruction i takes a synchronous trap at its own head in state s: cause, saved PC and value (R178, R180). -/
def Traps (i : Instr) (s : State) (cause tval : Word) : Prop := exec i s = .next (s.dropReply.takeTrap cause s.pc tval)

/-- Instruction i waits in state s for a reason: its PC stays at the head, which executes again (R62). -/
def Waits (i : Instr) (s : State) (why : Why) : Prop :=
  ∃ t, exec i s = .next t ∧ t.pc = s.pc ∧ (t.parkedAs why).isSome = true

/-! ## Vector instructions -/

/-- None of the vector registers named is in stream mode (R306). -/
def State.plainV (s : State) (vs : List (BitVec 5)) : Prop := ∀ n ∈ vs, s.streamSlot n = none

/-- Instruction i, which names the x registers xs and the v sources vs, writes v register d, element k of width w with
f s k, raises the flags that fl gives, and changes nothing else (R303, R307). -/
def WritesV (i : Instr) (xs : List (BitVec 6)) (vs : List (BitVec 5)) (d : BitVec 5) (pred : BitVec 3) (w : Nat)
    (f : State → Nat → Nat) (fl : State → Nat → Prop) : Prop :=
  ∀ s, Accepted acceptCompute i xs (d :: vs) pred s → s.plainV (d :: vs) → ∃ u g, HeadEnds i s s u ∧
    SameBut s u [] [d] [] g ∧ (∀ k, k * w < 512 → velem (u.v d) w k = f s k) ∧
    ∀ j, j < 5 → (g.getLsbD j = true ↔ fl s j)

/-- An element-wise instruction in format t: every active element of d becomes what op gives from the registers before
the write, modulo 2^w, and raises its flags; every other element keeps its value (R303). -/
def Elementwise (i : Instr) (xs : List (BitVec 6)) (vs : List (BitVec 5)) (d : BitVec 5) (t : BitVec 4) (pred : BitVec 3)
    (op : State → Nat → FRes) : Prop :=
  WritesV i xs vs d pred (fmtBits t)
    (fun s k => if s.active pred k then (op s k).1 % 2 ^ fmtBits t else velem (s.v d) (fmtBits t) k)
    fun s j => ∃ k, k < elemCount t ∧ s.active pred k = true ∧ (op s k).2.getLsbD j = true

/-- An element-wise instruction with operands b and c, c a vector or a scalar (R304, R305). -/
def ElementsOf (i : Instr) (d : BitVec 5) (sc : BitVec 1) (t : BitVec 4) (pred : BitVec 3) (c : BitVec 6) (b : BitVec 5)
    (op : Nat → Nat → FRes) : Prop :=
  Elementwise i (xsOfC sc c) (b :: vsOfC sc c) d t pred fun s k =>
    op (velem (s.v b) (fmtBits t) k) (operandC s s.v sc c (fmtBits t) k)

/-- Instruction i, on a hart that holds predicate registers, writes predicate register d with f s; a write to p0 is
discarded (R336). -/
def WritesP (i : Instr) (d : BitVec 3) (f : State → Word) : Prop :=
  ∀ s, Accepted ⟨true, false, false, true⟩ i [] [] 0 s → ∃ u, HeadEnds i s s u ∧
    u.p d = (if d = 0 then ~~~0#64 else f s) ∧ SameBut s u [] [] [d] 0

/-! ## Local memory -/

/-- The n bytes at va lie in the executing hart's TCM or scratchpad window, at their home (R64, R66), and nothing stands
in the way of an access: the store buffer is empty, no word of them is held for a wider scope or has others waiting in line
(R101, R102), no word of them is poisoned (R184), no engine may be writing there, the context has read no byte early (R105), and it has no
request at a registrar (R112). -/
structure LocalAt (s : State) (va : Word) (n home : Nat) : Prop where
  window : ∃ o, (windowCheck s s.cur va.toNat n = .ok (.tcm, o) ∧ home = tcmHome (coreOf s.cur) o) ∨
    (windowCheck s s.cur va.toNat n = .ok (.pad, o) ∧ home = padHome (clusterOf s.cur) o)
  buffer : s.me.mem.sb = []
  hold : ∀ x, home ≤ x → x < home + n → s.mustWait s.cur (wordAt x) none = false
  sound : s.poisonIn home n = none
  still : s.engineAt home n = false
  fresh : s.seenBytes = []
  unsent : s.registrarMine = false

/-- The n bytes at a home are not the thatcher's stack (R72). -/
def outsideStack (home n : Nat) : Prop := homeOf home = .pad → (home - 0x1_0000_4000_0000) % 0x10_0000 + n ≤ 0xF_C000

end Sys2Proof.Machine
end

