-- ==== Sys2Proof/Certificates/Slice0/Obligations.lean ====
section
/-! DEFINITION. Obligations.lean: the statements for the provers. Each docstring says what the rules named after it say. -/

open Sys2Proof Sys2Proof.Machine

/-- A sanity statement over words that the spec prints: the four heads of the line of its worked example (and
LINE_FORMAT for head 0, for head 5, and for a line of zeros), and one or more heads with their tails of the scalar,
float, control, system, vector, memory, sync, matrix, tree and search families; and a head of all zeros, a 0x7F head
with a nonzero operand, an unlisted tail size, a nonzero reserved bit and a T16 field with H = 0 decode to no
instruction. [R195, R196, R197, R198, R202, R206, R208, R210, R274, R283, R289, R382] -/
def Obligations.DecodeSampleWords : Prop :=
  let line : Line := BitVec.ofNat 512 (0x1234_5678_FFFE_0001 <<< 448 + 0x4240_FE00_0C46_0C85_2000)
  let code (head tail : Nat) (i : Instr) : Prop := decode ⟨head, tail⟩ = .ok i
  decodeLine line 0 = .error .lineFormat ∧ decodeLine line 1 = .ok (.li32 5 0x1234_5678) ∧
  decodeLine line 2 = .ok (.li 6 0xFFFE) ∧ decodeLine line 3 = .ok .nop ∧ decodeLine line 4 = .ok (.j 1) ∧
  decodeLine line 5 = .error .lineFormat ∧ decodeLine 0 1 = .error .lineFormat ∧
  code 0x0D09 0x8001_0033_FFFF_0000 (.li64 9 0x8001_0033_FFFF_0000) ∧ code 0x089E 0x0000_401E (.addi 30 0x100 30) ∧
  code 0x189C 0x0005_F01C (.bfxu 28 31 0 28) ∧ code 0x329C 0x001D_C7DE (.fnmsub 28 1 28 31 30) ∧
  code 0x309C 0x0001_379C (.fdiv 28 1 30 28) ∧ code 0x4800 0 .ret ∧ code 0x5040 0x4000 .eret ∧
  code 0x5280 0x0004_0E4C (.crw 0 0x039 12) ∧ code 0x544B 0x0300 (.sleep 11) ∧ code 0x5840 0x0040 .taskend ∧
  code 0x5884 0x0000_0185 (.enq 4 0 6 5) ∧ code 0x6682 0x0811_4340 (.vcmp 2 1 4 5 0 26 0) ∧
  code 0x7681 0x0001_4801 (.vcompress 1 5 1 1) ∧ code 0xA0A3 0x0001_A258 (.ldD 35 0 34 0x58) ∧
  code 0xA89F 0x0000_0950 (.ldf 31 0 9 0x50) ∧ code 0xC085 0x0000_0585 (.bwait 5 22 1) ∧
  code 0xC488 0x61F7_8700 (.amoCas 8 1 31 30 7 0) ∧ code 0xCC85 0x0000_0149 (.regionSet 5 5 9) ∧
  code 0xD080 0x0890_0800 (.tload 0 2 9 8 0) ∧ code 0xD080 0xA000_0000 (.tzero ⟨0, 1⟩ 0) ∧ code 0xD100 0xA000_0000 (.tzero ⟨1, 1⟩ 0) ∧
  code 0xD294 0x4000_A209 (.tmmaP 20 0 0 0 0 10 8 9) ∧ code 0xDC86 0x0000_0144 (.treemul 6 5 4) ∧
  code 0xE084 0x0000_0185 (.tryPush 4 6 5) ∧ code 0xE28D 0x0000_D400 (.sttD 13 0 20 0) ∧
  code 0xEC84 0x0000_1240 (.xsend 4 1 9) ∧ code 0xEE40 0x2007 (.xctlCon 2 7) ∧
  decode ⟨0, 0⟩ = .error .reservedEncoding ∧ decode ⟨0xFE01, 0⟩ = .error .reservedBits ∧
  decode ⟨0x0C05, 0⟩ = .error .reservedEncoding ∧ decode ⟨0x5840, 0x0140⟩ = .error .reservedBits ∧
  decode ⟨0x4240, 0x0020⟩ = .error .reservedCombination

/-- For every instruction that has an encoding, with every operand at every value that it admits: its head and tail
decode to that instruction again, its tail fits the size that its head gives, and the 64-byte line that holds it as
its one head decodes to it at head index 1. Conversely, a head and tail that decode to an instruction are exactly the
encoding of that instruction, which is well formed: so that no two encodings stand for one instruction, and two
instructions never share an encoding. [R195, R196, R197, R198, R206, R207, R208, R210] -/
def Obligations.EncodeDecodeRoundTrip : Prop :=
  (∀ i e, wellFormed i = true → encode i = some e →
    decode e = .ok i ∧ e.head < 2 ^ 16 ∧ e.tail < 2 ^ (8 * tailBytes (e.head / 64 % 8)) ∧ decodeLine (lineOf e) 1 = .ok i) ∧
  (∀ e i, decode e = .ok i → encode i = some e ∧ wellFormed i = true) ∧
  (∀ i j e, wellFormed i = true → wellFormed j = true → encode i = some e → encode j = some e → i = j)

/-- Time passes; then a step of a hart that can run, with no stop request, interrupt or completion event due in the
main context, or with a run in the handler context, is exec of the instruction that the PC's head decodes to, from the
image that the context holds of its line or from the image that it fetches. A fetch that faults takes its trap. A line
that is not well formed, or a head index outside it, takes LINE_FORMAT with the line address; a head that is no
instruction takes ILLEGAL with the head. A stop request, a due interrupt and a due completion event are taken instead,
a hart that cannot run does nothing, and a turn that names a device step runs it and runs no encoded instruction.
Turns, and a step of no effect, are the model's form (assumption log 2). [R4, R38, R39, R46, R62, R183, R186, R198,
R200, R204, R210] -/
def Obligations.StepRunsDecodedInstruction : Prop :=
  let acts (s b : State) : Prop := (s.turns = [] ∧ b = s.elapse 1 0) ∨ ∃ t r h ctx, s.turns = t :: r ∧ t.move = .hart h ctx ∧
    b = { ({ s with turns := r }).elapse t.cycles t.nanos with cur := h, ctx := ctx }
  let free (b : State) : Prop := hartExists b.cur = true ∧ b.canRun b.cur = true ∧ match b.ctx with
    | .main => (b.me.stopReq = true → b.committed b.cur = true) ∧ b.interruptFor b.cur = none ∧ b.userEventFor b.cur = none
    | .handler => b.me.handler.run.isSome = true
  let line (s : State) : Word := s.pc &&& ~~~0x3F#64
  let outcome (s u : State) (im : LineImage) : Prop :=
    (∀ i, decodeLine im.bytes (headIndex u.pc) = .ok i → step s = exec i u) ∧
    (decodeLine im.bytes (headIndex u.pc) = .error .lineFormat →
      step s = .next (u.dropReply.takeTrap (BitVec.ofNat 64 0x02) u.pc (line u))) ∧
    (∀ e, decodeLine im.bytes (headIndex u.pc) = .error e → e ≠ .lineFormat →
      step s = .next (u.dropReply.takeTrap (BitVec.ofNat 64 0x03) u.pc (BitVec.ofNat 64 (lineHead im.bytes (headIndex u.pc)))))
  (∀ s b im, acts s b → free b → b.image = some im → im.addr = line b → outcome s b im) ∧
  (∀ s b im u, acts s b → free b → (∀ k, b.image = some k → k.addr ≠ line b) → Gives (fetchImage (line b)) b im u →
    outcome s (u.setImage im) im) ∧
  (∀ s b u cause v, acts s b → free b → (∀ k, b.image = some k → k.addr ≠ line b) →
    (fetchImage (line b)).run b = (.error (.trap cause v), u) → step s = .next (u.dropReply.takeTrap cause u.pc v)) ∧
  (∀ s b, acts s b → hartExists b.cur = true →
    (b.canRun b.cur = false → step s = .next b) ∧
    (b.canRun b.cur = true → b.ctx = .handler → b.me.handler.run = none → step s = .next b) ∧
    (b.canRun b.cur = true → b.ctx = .main →
      (b.me.stopReq = true → b.committed b.cur = false → step s = .next (b.stopCompanion b.cur)) ∧
      (b.me.stopReq = false → (b.interruptFor b.cur).isSome = true → step s = .next (b.takeInterrupt b.cur)) ∧
      (b.me.stopReq = false → b.interruptFor b.cur = none → (b.userEventFor b.cur).isSome = true →
        step s = .next (b.takeUserEvent b.cur)))) ∧
  (∀ s t r i, s.turns = t :: r → t.move = .event i →
    let b := ({ s with turns := r }).elapse t.cycles t.nanos
    (encode i = none → step s = exec i b) ∧ ((encode i).isSome = true → step s = .next b))

/-- From every state whose memory and checkpoint images list addresses strictly rising with no byte equal to what an
unlisted address reads as, every step that goes on, of a hart or of any other agent, with any instruction and any
operands, leads to such a state. So equal memories are equal data. The form itself is the model's (assumption log 1).
[R7, R80] -/
def Obligations.MemoryFormKeptByEveryStep : Prop :=
  ∀ s t : State, s.MemOk → step s = .next t → t.MemOk

/-- At the state after reset: cr.status of every hart is machine mode with everything else clear; every x, v and e
register, every p register but p0, every tile and every mailbox counter reads zero; cr.tvec is 0 at both levels; LBASE
is all ones, cr.tasklim 2^32 and cr.agelimit 2^20; no stream is open; service core 0 runs with its PC at
0x0000_FFC0_0000_0002, every other service core and every compute core is idle, and every loader and storer core is
stopped. Memory is in its canonical form, the hart that moves exists, and nothing is in flight. [R15, R38, R65, R163,
R168, R177, R351, R399, R462] -/
def Obligations.ResetState : Prop :=
  let s := State.reset
  s.MemOk ∧ s.curOk ∧ s.net = [] ∧ s.turns = [] ∧
  (∀ h, (s.hart h).traps.status = 2 ∧ (s.hart h).traps.sup.tvec = 0 ∧ (s.hart h).traps.mach.tvec = 0 ∧
    (s.hart h).sys.winmap = 0xFFFF_FFFF_FE00_0000 ∧ (s.hart h).sys.tasklim = 0x1_0000_0000 ∧
    (∀ k, (s.stream h k).en = false) ∧ (∀ n : Fin 8, (s.hart h).e[n] = 0 ∧ (s.hart h).mc[n] = 0) ∧
    (∀ n : Fin 8, (s.hart h).tiles[n] = ⟨Vector.replicate 16 0, 0⟩)) ∧
  (∀ h ctx, let b := { s with cur := h, ctx := ctx }
    (∀ r, b.x r = 0) ∧ (∀ r, b.v r = 0) ∧ (∀ r, r ≠ 0 → b.p r = 0) ∧ (ctx = .main → b.prv = 2)) ∧
  (∀ k, (s.cluster k).disp.agelimit = 0x10_0000) ∧
  (s.hart 12288).act = .running ∧ (s.hart 12288).main.pc = 0x0000_FFC0_0000_0002 ∧
  (∀ h, hartExists h = true → (kindOf h = 0 ∨ kindOf h = 3) → h ≠ 12288 → (s.hart h).act = .idle) ∧
  (∀ h, (kindOf h = 1 ∨ kindOf h = 2) → (s.hart h).act = .stopped false)

/-- In FP64, FP32, FP16, BF16 and the table-entry format: addition, multiplication, division, square root, the fused
operations, conversion and a group sum of finite values give, when the exact result x is not an exactly zero sum, the
encoding whose value is nearest to x, the even one of two equally near, with the sign of x; NX is raised exactly when
its value is not x, UF exactly when it also is tiny after rounding, and nothing else. At or beyond the overflow
threshold (largest finite value plus half a last place) the result is infinity with OF and NX. An exactly zero sum is
-0 when both summands are negative and +0 otherwise. [R116, R126, R127, R129, R131, R132, R257, R259, R261] -/
def Obligations.RoundingIsNearestEven : Prop :=
  let value (neg : Bool) (k : Nat) (g : Int) : ℝ := (if neg then -1 else 1) * (k : ℝ) * (2 : ℝ) ^ g
  let rounded (f : FFmt) (neg : Bool) (x : ℝ) (r : FRes) : Prop :=
    (x < ((2 : ℝ) ^ (f.frac + 2) - 1) * (2 : ℝ) ^ (f.emin + (2 : Int) ^ f.exp - 4) →
      ∃ k g, fdecode f r.1 = .fin neg k g ∧
        (∀ c neg' k' g', fdecode f c = .fin neg' k' g' →
          |value false k g - x| ≤ |value neg' k' g' - x| ∧
          (|value false k g - x| = |value neg' k' g' - x| → value neg' k' g' ≠ value false k g → r.1 % 2 = 0)) ∧
        (r.2.getLsbD 0 = true ↔ value false k g ≠ x) ∧
        (r.2.getLsbD 1 = true ↔ value false k g ≠ x ∧ x < ((2 : ℝ) ^ (f.frac + 2) - 1) * (2 : ℝ) ^ (f.emin - 2)) ∧
        r.2.getLsbD 2 = false ∧ r.2.getLsbD 3 = false ∧ r.2.getLsbD 4 = false) ∧
    (((2 : ℝ) ^ (f.frac + 2) - 1) * (2 : ℝ) ^ (f.emin + (2 : Int) ^ f.exp - 4) ≤ x → r = (finf f neg, flagOF ||| flagNX))
  ∀ f ∈ [fp64, fp32, fp16, bf16, e8m10],
    (∀ a b na ma ea nb mb eb, fdecode f a = .fin na ma ea → fdecode f b = .fin nb mb eb →
      let A := value na ma ea
      let B := value nb mb eb
      (A + B ≠ 0 → rounded f (decide (A + B < 0)) |A + B| (fadd f a b)) ∧
      (A + B = 0 → fadd f a b = (fzero f (na && nb), 0)) ∧
      rounded f (na != nb) |A * B| (fmul f a b) ∧
      (mb ≠ 0 → rounded f (na != nb) |A / B| (fdiv f a b)) ∧
      ∀ c nc mc ec negP negA, fdecode f c = .fin nc mc ec →
        let S := (if negP then -1 else 1) * A * B + (if negA then -1 else 1) * value nc mc ec
        (S ≠ 0 → rounded f (decide (S < 0)) |S| (ffma f negP negA a b c)) ∧
        (S = 0 → ffma f negP negA a b c = (fzero f (((na != nb) != negP) && (nc != negA)), 0))) ∧
    (∀ a m e, fdecode f a = .fin false m e → m ≠ 0 → rounded f false (Real.sqrt (value false m e)) (fsqrt f a)) ∧
    (∀ fr ∈ [fp64, fp32, fp16, bf16, e8m10], ∀ a na m e, fdecode fr a = .fin na m e →
      rounded f na (value false m e) (fconvert fr f a)) ∧
    (∀ v : Int, v ≠ 0 → rounded f (decide (v < 0)) |(v : ℝ)| (intToFloat f v)) ∧
    (∀ l : List (Bool × Nat × Int),
      let S := (l.map fun p => value p.1 p.2.1 p.2.2).sum
      S ≠ 0 → rounded fp32 (decide (S < 0)) |S| (groupSum (l.map fun p => .fin p.1 p.2.1 p.2.2)))

/-- The executing state moves into the entry of the illegal-instruction trap, with the head itself as the trap value,
and nothing else happens, for: every matrix, tree, search, engine, bell, stream, QCFG, COPYL, PUTS and handler-control
head in the handler context and on every companion and service core; scalar float and vector heads and vector
accesses, and NOP, on companions; GATHER, REGION, UPDV, predicate instructions, VCMP and VTOPK, and VCVT and VENC with
error feedback, in the handler context and on companions; LDF, STE and CLRE on service cores; QRD, QWR and TASKEND in
the handler context and on service cores; QRD and QWR of a vector register on companions; COPY with a queue field in
the handler context and on service cores, and GATHER with one on service cores; TLBI, ENQ, LAUNCHG on companions;
SPAWN on companions and service cores; TRAP and ERET in the handler context, ULRET there and on companions and service
cores, HRET everywhere else. In the handler context so does an accepted ADD, or VADD, that names x16 or above, v8 or
above or a predicate. AMO, UPD and UFLUSH are accepted everywhere, and their statements say what they do. That NOP is
ILLEGAL on companions is the model's reading of R43 and R209 (assumption log 103). [R34, R38, R43, R209, R210, R283,
R308, R338, R356, R369, R397, R424] -/
def Obligations.HeadsNotAcceptedAreIllegal : Prop :=
  let mainOnly (i : Instr) : Bool := match i with
    | .hctlHold | .hctlGo | .hctlSt .. | .strm .. | .strmoff .. | .qcfg .. | .copyl .. | .puts .. | .barr .. |
      .bwait .. | .rollw .. | .phase .. | .tload .. | .tloadLong .. | .tstore .. | .tstoreLong .. | .tzero .. |
      .tmma .. | .tmmaP .. | .tmmaG .. | .pload .. | .pswap | .gbind .. | .gunbind .. | .tdrain .. | .tdrainImm ..
      | .tblld .. | .quiz | .treemul .. | .treeadd .. | .tconv .. | .tresume | .contract .. | .tryPush .. | .fail
      | .cut .. | .mark .. | .sttB .. | .sttBLong .. | .sttH .. | .sttHLong .. | .sttW .. | .sttWLong .. | .sttD
      .. | .sttDLong .. | .steal .. | .sframe .. | .searchend | .asumm .. | .ascreen .. | .ascreenLong .. | .xsend
      .. | .xrecv .. | .xctlCon .. | .xctlDis .. | .xctlSt .. => true
    | _ => false
  let computeOrService (i : Instr) : Bool := match i with
    | .fadd .. | .fsub .. | .fmul .. | .fdiv .. | .fmin .. | .fmax .. | .fmadd .. | .fmsub .. | .fnmadd .. |
      .fnmsub .. | .fsqrt .. | .fclass .. | .feq .. | .flt .. | .fle .. | .fcvt .. | .vmovx .. | .vmovv .. | .vred
      .. | .vscan .. | .vscanx .. | .vadd .. | .vsub .. | .vmul .. | .vmin .. | .vmax .. | .vand .. | .vor .. |
      .vxor .. | .vsll .. | .vsrl .. | .vsra .. | .vabs .. | .vfadd .. | .vfsub .. | .vfmul .. | .vfdiv .. |
      .vfmin .. | .vfmax .. | .vfabs .. | .vfneg .. | .vfma .. | .vfms .. | .vfnma .. | .vfnms .. | .vsel .. |
      .vperm .. | .vperm2 .. | .vrev .. | .vrot .. | .vslide .. | .vbcast .. | .vbcastElement .. | .vindex .. |
      .vliW .. | .vliD .. | .vliQ .. | .vcompress .. | .vexpand .. | .vdec .. | .vrcpe .. | .vrsqe .. | .vexpe ..
      | .vcvt .. | .venc .. | .vld .. | .vldLong .. | .vst .. | .vstLong .. => true
    | _ => false
  let noHandlerNoCompanion (i : Instr) : Bool := match i with
    | .gather .. | .regionSet .. | .regionOff .. | .regionRd .. | .regionRdc .. | .updv .. | .vcmp .. | .vtopk ..
      | .pand .. | .por .. | .pxor .. | .pnot .. | .pmovToPredicate .. | .pmovToScalar .. | .pcnt .. | .pfirst .. => true
    | _ => false
  let noService (i : Instr) : Bool := match i with
    | .ldf .. | .ldfC .. | .ste .. | .clre .. => true
    | _ => false
  let mainOrCompanion (i : Instr) : Bool := match i with
    | .qrd .. | .qwr .. | .taskend => true
    | _ => false
  let noCompanion (i : Instr) : Bool := match i with
    | .tlbiVa .. | .tlbiAll .. | .tlbiRng .. | .enq .. | .launchg .. => true
    | _ => false
  let illegal (i : Instr) (s : State) : Prop := ∃ e, encode i = some e ∧
    exec i s = .next (s.takeTrap (BitVec.ofNat 64 0x03) s.pc (BitVec.ofNat 64 e.head))
  let turnedAway (i : Instr) (s : State) : Prop := ∃ e, encode i = some e ∧ Traps i s (BitVec.ofNat 64 0x03) (BitVec.ofNat 64 e.head)
  let handler (s : State) : Prop := kindOf s.cur = 0 ∧ s.ctx = .handler
  let companion (s : State) : Prop := kindOf s.cur = 1 ∨ kindOf s.cur = 2
  let service (s : State) : Prop := kindOf s.cur = 3
  (∀ i s, mainOnly i = true → (handler s ∨ companion s ∨ service s) → illegal i s) ∧
  (∀ i s, computeOrService i = true → companion s → illegal i s) ∧
  (∀ i s, noHandlerNoCompanion i = true → (handler s ∨ companion s) → illegal i s) ∧
  (∀ i s, noService i = true → service s → illegal i s) ∧
  (∀ i s, mainOrCompanion i = true → (handler s ∨ service s) → illegal i s) ∧
  (∀ i s, noCompanion i = true → companion s → illegal i s) ∧
  (∀ d b s, (companion s ∨ service s) → illegal (.spawn d b) s) ∧
  (∀ i s, (i = .eret ∨ ∃ imm, i = .trap imm) → handler s → illegal i s) ∧
  (∀ s, (handler s ∨ companion s ∨ service s) → illegal .ulret s) ∧
  (∀ s, companion s → illegal .nop s) ∧
  (∀ d er rz part p toF fromF b s, handler s → illegal (.vcvt d er 1 rz part p toF fromF b) s) ∧
  (∀ d er part p toF fromF b s, handler s → illegal (.venc d er 1 part p toF fromF b) s) ∧
  (∀ i d w q s, (i = .qrd d w 1 q ∨ i = .qwr d w 1 q) → companion s → turnedAway i s) ∧
  (∀ b qdv qd qsv qs s, (qdv = 1 ∨ qsv = 1) → (handler s ∧ b.toNat < 16 ∨ service s ∧ s.ctx = .main) → turnedAway (.copy b qdv qd qsv qs) s) ∧
  (∀ b qd s, service s → s.ctx = .main → turnedAway (.gather b 1 qd) s) ∧
  (∀ s, ¬ handler s → illegal .hret s) ∧
  (∀ d c b s, handler s → (16 ≤ d.toNat ∨ 16 ≤ c.toNat ∨ 16 ≤ b.toNat) → illegal (.add d c b) s) ∧
  (∀ d sc t p c b s, handler s → (8 ≤ d.toNat ∨ 8 ≤ b.toNat ∨ p ≠ 0) → illegal (.vadd d sc t p c b) s)

/-- ADD to XNOR, ADDI, ANDI, ORI, XORI, LI, the compares to a register and to an immediate, SEL, MIN, MAX, MINU and
MAXU, in every tail size: at a head that executes normally each completes at its successor with its one destination
register holding the result its rule gives, computed from the registers before the write; a write to x0 is discarded;
no flag, no other register, no special register and no byte of memory changes. [R227, R233, R235, R237, R239, R241,
R243, R245] -/
def Obligations.IntegerArithmeticAndLogic : Prop :=
  (∀ d c b, WritesX acceptAll (.add d c b) [d, c, b] d fun s => s.x b + s.x c) ∧
  (∀ d c b, WritesX acceptAll (.sub d c b) [d, c, b] d fun s => s.x b - s.x c) ∧
  (∀ d c b, WritesX acceptAll (.and d c b) [d, c, b] d fun s => s.x b &&& s.x c) ∧
  (∀ d c b, WritesX acceptAll (.or d c b) [d, c, b] d fun s => s.x b ||| s.x c) ∧
  (∀ d c b, WritesX acceptAll (.xor d c b) [d, c, b] d fun s => s.x b ^^^ s.x c) ∧
  (∀ d c b, WritesX acceptAll (.andn d c b) [d, c, b] d fun s => s.x b &&& ~~~s.x c) ∧
  (∀ d c b, WritesX acceptAll (.orn d c b) [d, c, b] d fun s => s.x b ||| ~~~s.x c) ∧
  (∀ d c b, WritesX acceptAll (.xnor d c b) [d, c, b] d fun s => ~~~(s.x b ^^^ s.x c)) ∧
  (∀ d i b, WritesX acceptAll (.addi d i b) [d, b] d fun s => s.x b + i.signExtend 64) ∧
  (∀ d i b, WritesX acceptAll (.addiLong d i b) [d, b] d fun s => s.x b + i.signExtend 64) ∧
  (∀ d i b, WritesX acceptAll (.andi d i b) [d, b] d fun s => s.x b &&& i.signExtend 64) ∧
  (∀ d i b, WritesX acceptAll (.andiLong d i b) [d, b] d fun s => s.x b &&& i.signExtend 64) ∧
  (∀ d i b, WritesX acceptAll (.ori d i b) [d, b] d fun s => s.x b ||| i.signExtend 64) ∧
  (∀ d i b, WritesX acceptAll (.oriLong d i b) [d, b] d fun s => s.x b ||| i.signExtend 64) ∧
  (∀ d i b, WritesX acceptAll (.xori d i b) [d, b] d fun s => s.x b ^^^ i.signExtend 64) ∧
  (∀ d i b, WritesX acceptAll (.xoriLong d i b) [d, b] d fun s => s.x b ^^^ i.signExtend 64) ∧
  (∀ d i, WritesX acceptAll (.li d i) [d] d fun _ => i.signExtend 64) ∧
  (∀ d i, WritesX acceptAll (.li32 d i) [d] d fun _ => i.signExtend 64) ∧
  (∀ d i, WritesX acceptAll (.li64 d i) [d] d fun _ => i) ∧
  (∀ d c b, WritesX acceptAll (.slt d c b) [d, c, b] d fun s => if (s.x b).toInt < (s.x c).toInt then 1 else 0) ∧
  (∀ d c b, WritesX acceptAll (.sltu d c b) [d, c, b] d fun s => if (s.x b).toNat < (s.x c).toNat then 1 else 0) ∧
  (∀ d c b, WritesX acceptAll (.seq d c b) [d, c, b] d fun s => if s.x b = s.x c then 1 else 0) ∧
  (∀ d c b, WritesX acceptAll (.sne d c b) [d, c, b] d fun s => if s.x b = s.x c then 0 else 1) ∧
  (∀ d i b, WritesX acceptAll (.slti d i b) [d, b] d fun s => if (s.x b).toInt < i.toInt then 1 else 0) ∧
  (∀ d i b, WritesX acceptAll (.sltiLong d i b) [d, b] d fun s => if (s.x b).toInt < i.toInt then 1 else 0) ∧
  (∀ d i b, WritesX acceptAll (.sltiu d i b) [d, b] d fun s => if (s.x b).toNat < (i.signExtend 64).toNat then 1 else 0) ∧
  (∀ d i b, WritesX acceptAll (.sltiuLong d i b) [d, b] d fun s =>
    if (s.x b).toNat < (i.signExtend 64).toNat then 1 else 0) ∧
  (∀ d i b, WritesX acceptAll (.seqi d i b) [d, b] d fun s => if s.x b = i.signExtend 64 then 1 else 0) ∧
  (∀ d i b, WritesX acceptAll (.seqiLong d i b) [d, b] d fun s => if s.x b = i.signExtend 64 then 1 else 0) ∧
  (∀ d i b, WritesX acceptAll (.snei d i b) [d, b] d fun s => if s.x b = i.signExtend 64 then 0 else 1) ∧
  (∀ d i b, WritesX acceptAll (.sneiLong d i b) [d, b] d fun s => if s.x b = i.signExtend 64 then 0 else 1) ∧
  (∀ d f t k, WritesX acceptAll (.sel d f t k) [d, f, t, k] d fun s => if s.x k = 0 then s.x f else s.x t) ∧
  (∀ d c b, WritesX acceptAll (.min d c b) [d, c, b] d fun s => if (s.x b).toInt < (s.x c).toInt then s.x b else s.x c) ∧
  (∀ d c b, WritesX acceptAll (.max d c b) [d, c, b] d fun s => if (s.x c).toInt < (s.x b).toInt then s.x b else s.x c) ∧
  (∀ d c b, WritesX acceptAll (.minu d c b) [d, c, b] d fun s => if (s.x b).toNat < (s.x c).toNat then s.x b else s.x c) ∧
  (∀ d c b, WritesX acceptAll (.maxu d c b) [d, c, b] d fun s => if (s.x c).toNat < (s.x b).toNat then s.x b else s.x c)

/-- The five shifts and rotates by a register (its bits 5:0) and by an immediate, and MUL, MULH, MULHU, MULHSU, DIV,
DIVU, REM and REMU: each completes with its destination holding the result of exact two's complement arithmetic
(products in 128 bits; quotients truncated toward zero; 0 for a zero divisor, in all four) and changes nothing else.
[R229, R231] -/
def Obligations.ShiftsRotatesMultiplyDivide : Prop :=
  (∀ d c b, WritesX acceptAll (.sll d c b) [d, c, b] d fun s => s.x b <<< ((s.x c).toNat % 64)) ∧
  (∀ d n b, WritesX acceptAll (.slli d n b) [d, b] d fun s => s.x b <<< n.toNat) ∧
  (∀ d c b, WritesX acceptAll (.srl d c b) [d, c, b] d fun s => s.x b >>> ((s.x c).toNat % 64)) ∧
  (∀ d n b, WritesX acceptAll (.srli d n b) [d, b] d fun s => s.x b >>> n.toNat) ∧
  (∀ d c b, WritesX acceptAll (.sra d c b) [d, c, b] d fun s => (s.x b).sshiftRight ((s.x c).toNat % 64)) ∧
  (∀ d n b, WritesX acceptAll (.srai d n b) [d, b] d fun s => (s.x b).sshiftRight n.toNat) ∧
  (∀ d c b, WritesX acceptAll (.rol d c b) [d, c, b] d fun s => (s.x b).rotateLeft ((s.x c).toNat % 64)) ∧
  (∀ d n b, WritesX acceptAll (.roli d n b) [d, b] d fun s => (s.x b).rotateLeft n.toNat) ∧
  (∀ d c b, WritesX acceptAll (.ror d c b) [d, c, b] d fun s => (s.x b).rotateRight ((s.x c).toNat % 64)) ∧
  (∀ d n b, WritesX acceptAll (.rori d n b) [d, b] d fun s => (s.x b).rotateRight n.toNat) ∧
  (∀ d c b, WritesX acceptAll (.mul d c b) [d, c, b] d fun s => s.x b * s.x c) ∧
  (∀ d c b, WritesX acceptAll (.mulh d c b) [d, c, b] d fun s =>
    ((s.x b).signExtend 128 * (s.x c).signExtend 128).extractLsb' 64 64) ∧
  (∀ d c b, WritesX acceptAll (.mulhu d c b) [d, c, b] d fun s =>
    ((s.x b).setWidth 128 * (s.x c).setWidth 128).extractLsb' 64 64) ∧
  (∀ d c b, WritesX acceptAll (.mulhsu d c b) [d, c, b] d fun s =>
    ((s.x b).signExtend 128 * (s.x c).setWidth 128).extractLsb' 64 64) ∧
  (∀ d c b, WritesX acceptAll (.div d c b) [d, c, b] d fun s => if s.x c = 0 then 0 else (s.x b).sdiv (s.x c)) ∧
  (∀ d c b, WritesX acceptAll (.divu d c b) [d, c, b] d fun s => if s.x c = 0 then 0 else s.x b / s.x c) ∧
  (∀ d c b, WritesX acceptAll (.rem d c b) [d, c, b] d fun s => if s.x c = 0 then 0 else (s.x b).srem (s.x c)) ∧
  (∀ d c b, WritesX acceptAll (.remu d c b) [d, c, b] d fun s => if s.x c = 0 then 0 else s.x b % s.x c)

/-- CLZ, CTZ and POPC count bits (64 for a zero operand of CLZ and CTZ); BFXU and BFXS extract a field zero- and sign-
extended, and BFI replaces one field of the destination and keeps every other bit (the effects of R249 and R251);
BSWAP reverses the low 2, 4 or 8 bytes; ADR adds a signed offset to the address of the head's line. Each completes
with that value in its destination and changes nothing else. [R247, R253, R255] -/
def Obligations.BitCountsFieldsAndAddresses : Prop :=
  (∀ d b, WritesXSuch acceptAll (.clz d b) [d, b] d fun s r => (s.x b = 0 → r = 64) ∧
    ∀ k, k < 64 → (s.x b).getLsbD k = true → (∀ j, k < j → (s.x b).getLsbD j = false) → r.toNat = 63 - k) ∧
  (∀ d b, WritesXSuch acceptAll (.ctz d b) [d, b] d fun s r => (s.x b = 0 → r = 64) ∧
    ∀ k, (s.x b).getLsbD k = true → (∀ j, j < k → (s.x b).getLsbD j = false) → r.toNat = k) ∧
  (∀ d b, WritesXSuch acceptAll (.popc d b) [d, b] d fun s r =>
    r.toNat = ((List.range 64).filter fun k => (s.x b).getLsbD k).length) ∧
  (∀ d wm pos b, WritesX acceptAll (.bfxu d wm pos b) [d, b] d fun s =>
    ((s.x b).extractLsb' pos.toNat (wm.toNat + 1)).setWidth 64) ∧
  (∀ d wm pos b, WritesX acceptAll (.bfxs d wm pos b) [d, b] d fun s =>
    ((s.x b).extractLsb' pos.toNat (wm.toNat + 1)).signExtend 64) ∧
  (∀ d wm pos b, WritesXSuch acceptAll (.bfi d wm pos b) [d, b] d fun s r => ∀ k, k < 64 →
    r.getLsbD k = if pos.toNat ≤ k ∧ k < pos.toNat + (wm.toNat + 1) then (s.x b).getLsbD (k - pos.toNat)
      else (s.x d).getLsbD k) ∧
  (∀ d b, WritesX acceptAll (.bswapH d b) [d, b] d fun s =>
    ((s.x b).extractLsb' 0 8 ++ (s.x b).extractLsb' 8 8).setWidth 64) ∧
  (∀ d b, WritesX acceptAll (.bswapW d b) [d, b] d fun s =>
    ((s.x b).extractLsb' 0 8 ++ (s.x b).extractLsb' 8 8 ++ (s.x b).extractLsb' 16 8 ++
      (s.x b).extractLsb' 24 8).setWidth 64) ∧
  (∀ d b, WritesX acceptAll (.bswapD d b) [d, b] d fun s =>
    (s.x b).extractLsb' 0 8 ++ (s.x b).extractLsb' 8 8 ++ (s.x b).extractLsb' 16 8 ++ (s.x b).extractLsb' 24 8 ++
      (s.x b).extractLsb' 32 8 ++ (s.x b).extractLsb' 40 8 ++ (s.x b).extractLsb' 48 8 ++ (s.x b).extractLsb' 56 8) ∧
  (∀ d off, WritesX acceptAll (.adr d off) [d] d fun s => (s.pc &&& ~~~0x3F#64) + off.signExtend 64) ∧
  (∀ d off, WritesX acceptAll (.adrLong d off) [d] d fun s => (s.pc &&& ~~~0x3F#64) + off)

/-- FADD, FSUB, FMUL, FDIV, FMIN, FMAX, the fused four, FSQRT, FEQ, FLT, FLE, FCVT and FCLASS, in both formats: on
compute and service cores each completes with its destination holding the result of its operation on the operands as
R223 places them, and with exactly that operation's flags ORed into cr.fflags (none for FCLASS); nothing else changes.
The operations fadd, fsub, fmul, fdiv, ffma, fsqrt and the float conversions are the model's own (their rounding is
the statement RoundingIsNearestEven). In every format, over the values of the operands, infinities among them: the
lesser or greater of two numbers is one of the operands with no flag, a zero of negative sign counting as the lesser
of two zeros; one NaN gives the other operand and two the canonical quiet NaN; the comparisons say whether the values
are equal, less, or less or equal, and false for a NaN; NV is raised for a signalling NaN, and by the ordered
comparisons for any. FCLASS writes the sign and the class of the value. A finite value becomes the integer that is
next to it toward zero, or nearest to it with ties to even, with NX when that is not its value; one out of the range
of the w bits becomes the nearest end of it, and a NaN 0, with NV. [R116, R117, R127, R223, R257, R259, R261, R263,
R265, R131, R132] -/
def Obligations.ScalarFloatResults : Prop :=
  let value (neg : Bool) (k : Nat) (g : Int) : ℝ := (if neg then -1 else 1) * (k : ℝ) * (2 : ℝ) ^ g
  let ext (v : FVal) : EReal := match v with
    | .inf true => ⊥
    | .inf false => ⊤
    | .fin neg k g => ((value neg k g : ℝ) : EReal)
    | .nan _ => 0
  let isNan (v : FVal) : Prop := ∃ q, v = .nan q
  let nv (a b : FVal) : BitVec 5 := if a = .nan true ∨ b = .nan true then 16 else 0
  (∀ f ∈ [fp64, fp32, fp16, bf16, e8m10], ∀ a b,
    let u := fdecode f a
    let v := fdecode f b
    (¬ isNan u → ¬ isNan v →
      (ext u < ext v → fminmax f false a b = (a, 0) ∧ fminmax f true a b = (b, 0)) ∧
      (ext v < ext u → fminmax f false a b = (b, 0) ∧ fminmax f true a b = (a, 0)) ∧
      (ext u = ext v → fsign f a = true → fsign f b = false → fminmax f false a b = (a, 0) ∧ fminmax f true a b = (b, 0)) ∧
      (ext u = ext v → fsign f a = false → fsign f b = true → fminmax f false a b = (b, 0) ∧ fminmax f true a b = (a, 0)) ∧
      ((fcompare f 0 a b).1 = true ↔ ext u = ext v) ∧ ((fcompare f 1 a b).1 = true ↔ ext u < ext v) ∧
      ((fcompare f 2 a b).1 = true ↔ ext u ≤ ext v) ∧ ∀ op, (fcompare f op a b).2 = 0) ∧
    (isNan u → ¬ isNan v → ∀ m, fminmax f m a b = (b, nv u v)) ∧ (¬ isNan u → isNan v → ∀ m, fminmax f m a b = (a, nv u v)) ∧
    (isNan u → isNan v → ∀ m, fminmax f m a b = (qnan f, nv u v)) ∧
    (isNan u ∨ isNan v → fcompare f 0 a b = (false, nv u v) ∧ fcompare f 1 a b = (false, 16) ∧ fcompare f 2 a b = (false, 16)) ∧
    (let k := fclass f a - (if fsign f a then 8 else 0)
     (if fsign f a then 8 else 0) ≤ fclass f a ∧ (k = 5 ↔ u = .nan true) ∧ (k = 4 ↔ u = .nan false) ∧
       (k = 3 ↔ ∃ neg, u = .inf neg) ∧
       ∀ neg m e, u = .fin neg m e → (k = 0 ↔ m = 0) ∧ (k = 1 ↔ m ≠ 0 ∧ |value neg m e| < (2 : ℝ) ^ (f.emin + f.frac)) ∧
         (k = 2 ↔ (2 : ℝ) ^ (f.emin + f.frac) ≤ |value neg m e|)) ∧
    ∀ w rz, 0 < w →
      (isNan u → floatToInt f w rz a = (0, 16)) ∧
      (∀ neg, u = .inf neg → floatToInt f w rz a = (if neg then 2 ^ (w - 1) else 2 ^ (w - 1) - 1, 16)) ∧
      ∀ neg m e (n : Int), u = .fin neg m e →
        let A := value neg m e
        (if rz then (0 ≤ A → (n : ℝ) ≤ A ∧ A < n + 1) ∧ (A < 0 → A ≤ n ∧ (n : ℝ) - 1 < A)
         else |(n : ℝ) - A| ≤ 1 / 2 ∧ (|(n : ℝ) - A| = 1 / 2 → n % 2 = 0)) →
        (2 ^ (w - 1) ≤ n → floatToInt f w rz a = (2 ^ (w - 1) - 1, 16)) ∧
        (n < -2 ^ (w - 1) → floatToInt f w rz a = (2 ^ (w - 1), 16)) ∧
        (-2 ^ (w - 1) ≤ n → n < 2 ^ (w - 1) → (floatToInt f w rz a).1 = (BitVec.ofInt w n).toNat ∧
          ((floatToInt f w rz a).2 = if (n : ℝ) = A then 0 else 1))) ∧
  (∀ d dp c b, WritesXFlags acceptCompute (.fadd d dp c b) [d, c, b] d
    (fun s => BitVec.ofNat 64 (fadd (dpFmt dp) (floatArg dp (s.x b)) (floatArg dp (s.x c))).1)
    fun s => (fadd (dpFmt dp) (floatArg dp (s.x b)) (floatArg dp (s.x c))).2) ∧
  (∀ d dp c b, WritesXFlags acceptCompute (.fsub d dp c b) [d, c, b] d
    (fun s => BitVec.ofNat 64 (fsub (dpFmt dp) (floatArg dp (s.x b)) (floatArg dp (s.x c))).1)
    fun s => (fsub (dpFmt dp) (floatArg dp (s.x b)) (floatArg dp (s.x c))).2) ∧
  (∀ d dp c b, WritesXFlags acceptCompute (.fmul d dp c b) [d, c, b] d
    (fun s => BitVec.ofNat 64 (fmul (dpFmt dp) (floatArg dp (s.x b)) (floatArg dp (s.x c))).1)
    fun s => (fmul (dpFmt dp) (floatArg dp (s.x b)) (floatArg dp (s.x c))).2) ∧
  (∀ d dp c b, WritesXFlags acceptCompute (.fdiv d dp c b) [d, c, b] d
    (fun s => BitVec.ofNat 64 (fdiv (dpFmt dp) (floatArg dp (s.x b)) (floatArg dp (s.x c))).1)
    fun s => (fdiv (dpFmt dp) (floatArg dp (s.x b)) (floatArg dp (s.x c))).2) ∧
  (∀ d dp c b, WritesXFlags acceptCompute (.fmin d dp c b) [d, c, b] d
    (fun s => BitVec.ofNat 64 (fminmax (dpFmt dp) false (floatArg dp (s.x b)) (floatArg dp (s.x c))).1)
    fun s => (fminmax (dpFmt dp) false (floatArg dp (s.x b)) (floatArg dp (s.x c))).2) ∧
  (∀ d dp c b, WritesXFlags acceptCompute (.fmax d dp c b) [d, c, b] d
    (fun s => BitVec.ofNat 64 (fminmax (dpFmt dp) true (floatArg dp (s.x b)) (floatArg dp (s.x c))).1)
    fun s => (fminmax (dpFmt dp) true (floatArg dp (s.x b)) (floatArg dp (s.x c))).2) ∧
  (∀ d dp a c b, WritesXFlags acceptCompute (.fmadd d dp a c b) [d, a, c, b] d
    (fun s => BitVec.ofNat 64 (ffma (dpFmt dp) false false (floatArg dp (s.x b)) (floatArg dp (s.x c)) (floatArg dp (s.x a))).1)
    fun s => (ffma (dpFmt dp) false false (floatArg dp (s.x b)) (floatArg dp (s.x c)) (floatArg dp (s.x a))).2) ∧
  (∀ d dp a c b, WritesXFlags acceptCompute (.fmsub d dp a c b) [d, a, c, b] d
    (fun s => BitVec.ofNat 64 (ffma (dpFmt dp) false true (floatArg dp (s.x b)) (floatArg dp (s.x c)) (floatArg dp (s.x a))).1)
    fun s => (ffma (dpFmt dp) false true (floatArg dp (s.x b)) (floatArg dp (s.x c)) (floatArg dp (s.x a))).2) ∧
  (∀ d dp a c b, WritesXFlags acceptCompute (.fnmadd d dp a c b) [d, a, c, b] d
    (fun s => BitVec.ofNat 64 (ffma (dpFmt dp) true true (floatArg dp (s.x b)) (floatArg dp (s.x c)) (floatArg dp (s.x a))).1)
    fun s => (ffma (dpFmt dp) true true (floatArg dp (s.x b)) (floatArg dp (s.x c)) (floatArg dp (s.x a))).2) ∧
  (∀ d dp a c b, WritesXFlags acceptCompute (.fnmsub d dp a c b) [d, a, c, b] d
    (fun s => BitVec.ofNat 64 (ffma (dpFmt dp) true false (floatArg dp (s.x b)) (floatArg dp (s.x c)) (floatArg dp (s.x a))).1)
    fun s => (ffma (dpFmt dp) true false (floatArg dp (s.x b)) (floatArg dp (s.x c)) (floatArg dp (s.x a))).2) ∧
  (∀ d dp b, WritesXFlags acceptCompute (.fsqrt d dp b) [d, b] d
    (fun s => BitVec.ofNat 64 (fsqrt (dpFmt dp) (floatArg dp (s.x b))).1)
    fun s => (fsqrt (dpFmt dp) (floatArg dp (s.x b))).2) ∧
  (∀ d dp b, WritesX acceptCompute (.fclass d dp b) [d, b] d
    fun s => BitVec.ofNat 64 (fclass (dpFmt dp) (floatArg dp (s.x b)))) ∧
  (∀ d dp c b, WritesXFlags acceptCompute (.feq d dp c b) [d, c, b] d
    (fun s => if (fcompare (dpFmt dp) 0 (floatArg dp (s.x b)) (floatArg dp (s.x c))).1 then 1 else 0)
    fun s => (fcompare (dpFmt dp) 0 (floatArg dp (s.x b)) (floatArg dp (s.x c))).2) ∧
  (∀ d dp c b, WritesXFlags acceptCompute (.flt d dp c b) [d, c, b] d
    (fun s => if (fcompare (dpFmt dp) 1 (floatArg dp (s.x b)) (floatArg dp (s.x c))).1 then 1 else 0)
    fun s => (fcompare (dpFmt dp) 1 (floatArg dp (s.x b)) (floatArg dp (s.x c))).2) ∧
  (∀ d dp c b, WritesXFlags acceptCompute (.fle d dp c b) [d, c, b] d
    (fun s => if (fcompare (dpFmt dp) 2 (floatArg dp (s.x b)) (floatArg dp (s.x c))).1 then 1 else 0)
    fun s => (fcompare (dpFmt dp) 2 (floatArg dp (s.x b)) (floatArg dp (s.x c))).2) ∧
  (∀ d tz toF fromF b, WritesXFlags acceptCompute (.fcvt d tz toF fromF b) [d, b] d
    (fun s => BitVec.ofNat 64 (convertScalar fromF toF (tz == 1) (s.x b)).1)
    fun s => (convertScalar fromF toF (tz == 1) (s.x b)).2)

/-- BC (all eight conditions), J and CALL in both target sizes, JR, CALLR, RET and LOOP: each completes with the PC at
rel_target (the line address plus a signed line delta, and the head index of the field) or at the register's value
with bit 0 cleared; CALL and CALLR write link_next to x1 and read their target first; LOOP decrements its counter;
nothing else changes. A transfer needs no sequential successor; a branch not taken and a finished loop go to it, or
without one take LINE_FORMAT. A condition above 7, x0 as a loop counter and a target of head index 0 have no encoding
(statement EncodeDecodeRoundTrip), and a target beyond its line faults at its fetch (statement
StepRunsDecodedInstruction). [R267, R269, R271, R273, R275, R277] -/
def Obligations.ControlTransfersGoWhereTheRulesSay : Prop :=
  let target16 (p : Word) (f : BitVec 16) : Word :=
    (p.extractLsb' 6 58 + (f.extractLsb' 5 11).signExtend 58) ++ f.extractLsb' 0 5 ++ 0#1
  let target32 (p : Word) (f : BitVec 32) : Word :=
    (p.extractLsb' 6 58 + (f.extractLsb' 5 27).signExtend 58) ++ f.extractLsb' 0 5 ++ 0#1
  let taken (cond : BitVec 4) (a b : Word) : Prop :=
    (cond = 0 ∧ a = b) ∨ (cond = 1 ∧ a ≠ b) ∨ (cond = 2 ∧ a.toInt < b.toInt) ∨ (cond = 3 ∧ b.toInt ≤ a.toInt) ∨
      (cond = 4 ∧ a.toNat < b.toNat) ∨ (cond = 5 ∧ b.toNat ≤ a.toNat) ∨ (cond = 6 ∧ a &&& b ≠ 0) ∨ (cond = 7 ∧ a &&& b = 0)
  (∀ a t cond b s, Accepted acceptAll (.bc a t cond b) [a, b] [] 0 s → taken cond (s.x a) (s.x b) →
    GoesTo (.bc a t cond b) s (target16 s.pc t)) ∧
  (∀ a t cond b s, Accepted acceptAll (.bc a t cond b) [a, b] [] 0 s → ¬ taken cond (s.x a) (s.x b) →
    ∃ u, HeadEnds (.bc a t cond b) s s u ∧ SameBut s u [] [] [] 0) ∧
  (∀ a t cond b s, Accepted acceptAll (.bcLong a t cond b) [a, b] [] 0 s → taken cond (s.x a) (s.x b) →
    GoesTo (.bcLong a t cond b) s (target32 s.pc t)) ∧
  (∀ a t cond b s, Accepted acceptAll (.bcLong a t cond b) [a, b] [] 0 s → ¬ taken cond (s.x a) (s.x b) →
    ∃ u, HeadEnds (.bcLong a t cond b) s s u ∧ SameBut s u [] [] [] 0) ∧
  (∀ t s, Accepted acceptAll (.j t) [] [] 0 s → GoesTo (.j t) s (target16 s.pc t)) ∧
  (∀ t s, Accepted acceptAll (.jLong t) [] [] 0 s → GoesTo (.jLong t) s (target32 s.pc t)) ∧
  (∀ t s, Accepted acceptAll (.call t) [] [] 0 s → CallsTo (.call t) s (target16 s.pc t)) ∧
  (∀ t s, Accepted acceptAll (.callLong t) [] [] 0 s → CallsTo (.callLong t) s (target32 s.pc t)) ∧
  (∀ b s, Accepted acceptAll (.jr b) [b] [] 0 s → GoesTo (.jr b) s (s.x b &&& ~~~1#64)) ∧
  (∀ b s, Accepted acceptAll (.callr b) [b] [] 0 s → CallsTo (.callr b) s (s.x b &&& ~~~1#64)) ∧
  (∀ s, Accepted acceptAll .ret [] [] 0 s → GoesTo .ret s (s.x 1 &&& ~~~1#64)) ∧
  (∀ c t s, Accepted acceptAll (.loop c t) [c] [] 0 s → s.x c - 1 ≠ 0 →
    ∃ u, exec (.loop c t) s = .next u ∧ u.x c = s.x c - 1 ∧ u.pc = target16 s.pc t ∧
      u.me.sys.instret = s.me.sys.instret + 1 ∧ SameBut s u [c] [] [] 0) ∧
  (∀ c t s, Accepted acceptAll (.loop c t) [c] [] 0 s → s.x c - 1 = 0 →
    ∃ u, HeadEnds (.loop c t) s s u ∧ u.x c = 0 ∧ SameBut s u [c] [] [] 0)

/-- On compute and service cores NOP completes at p + 2 while p's head index is below the line's N, and at head 1 of
the next line when it is not and F is 1, changing nothing else. When F is 0 there is no successor: the head completes
and the hart takes LINE_FORMAT with the saved PC at head 1 of the next line and the line's address as the value. The
statements of the other families say the same of their heads (HeadEnds). [R201, R210] -/
def Obligations.SequentialFlow : Prop :=
  ∀ s im, s.image = some im → Accepted acceptCompute .nop [] [] 0 s →
    (headIndex s.pc < lineN im.bytes → GoesTo .nop s (s.pc + 2)) ∧
    (lineN im.bytes ≤ headIndex s.pc → lineF im.bytes = true →
      GoesTo .nop s ((s.pc.extractLsb' 6 58 + 1) ++ 0b000010#6)) ∧
    (lineN im.bytes ≤ headIndex s.pc → lineF im.bytes = false →
      exec .nop s = .next (s.countHead.takeTrap (BitVec.ofNat 64 0x02) ((s.pc.extractLsb' 6 58 + 1) ++ 0b000010#6)
        (s.pc &&& ~~~0x3F#64)))

/-- In the main context of a compute or service core, a trap whose level R178 gives (supervisor from user, and from
supervisor with SIT 0; machine from supervisor with SIT 1 whatever MIT holds, and from machine with MIT 0; on a
service core always machine) and whose vector has a nonzero head index: the level's cr.cause, cr.epc and cr.tval hold
the three values and its cr.tvec is unchanged; the other level's copies are unchanged; SIT or MIT is 1, SPREV or MPREV
holds the previous privilege, PRV is the level and every other bit of cr.status is as it was; the PC is cr.tvec with
bit 0 cleared; no x, v or p register and no byte of memory changes. Without a level the trap is a double trap
(statement TrapsThatStopOrEndARun). [R177, R178, R180] -/
def Obligations.TrapEntryOnComputeAndServiceCores : Prop :=
  ∀ (s : State) (cause epc tval : Word), s.ctx = .main → (kindOf s.cur = 0 ∨ kindOf s.cur = 3) →
    let st := s.me.traps.status
    let t := s.takeTrap cause epc tval
    let toSup := kindOf s.cur = 0 ∧ (bits st 1 0 = 0 ∨ (bits st 1 0 = 1 ∧ bit st 10 = false))
    let toMach := ¬ toSup ∧ (bits st 1 0 < 2 ∨ bit st 11 = false)
    (toSup → headIndex s.me.traps.sup.tvec ≠ 0 →
      t.me.traps.sup = ⟨cause, epc, tval, s.me.traps.sup.tvec⟩ ∧ t.me.traps.mach = s.me.traps.mach ∧
      bits t.me.traps.status 1 0 = 1 ∧ bit t.me.traps.status 10 = true ∧ bits t.me.traps.status 13 13 = bits st 1 0 ∧
      (∀ k, k < 64 → k ≠ 0 → k ≠ 1 → k ≠ 10 → k ≠ 13 → bit t.me.traps.status k = bit st k) ∧
      t.pc = s.me.traps.sup.tvec &&& ~~~1#64) ∧
    (toMach → headIndex s.me.traps.mach.tvec ≠ 0 →
      t.me.traps.mach = ⟨cause, epc, tval, s.me.traps.mach.tvec⟩ ∧ t.me.traps.sup = s.me.traps.sup ∧
      bits t.me.traps.status 1 0 = 2 ∧ bit t.me.traps.status 11 = true ∧ bits t.me.traps.status 15 14 = bits st 1 0 ∧
      (∀ k, k < 64 → k ≠ 0 → k ≠ 1 → k ≠ 11 → k ≠ 14 → k ≠ 15 → bit t.me.traps.status k = bit st k) ∧
      t.pc = s.me.traps.mach.tvec &&& ~~~1#64) ∧
    ((toSup ∧ headIndex s.me.traps.sup.tvec ≠ 0) ∨ (toMach ∧ headIndex s.me.traps.mach.tvec ≠ 0) →
      (∀ r, t.x r = s.x r) ∧ (∀ r, t.v r = s.v r) ∧ (∀ r, t.p r = s.p r) ∧ (∀ a, memGet t.mem a = memGet s.mem a))

/-- A trap in the main context of a compute or service core that has no level left, or whose vector has head index 0,
leaves the hart idle and fenced, so that it can execute no further head, and changes no byte of memory unless the task
that it ran goes back to an overflow area (the model writes its record there: assumption log 90). A trap on a loader
or storer core leaves it stopped by a trap with its cr.cause, cr.epc and cr.tval holding the trap, and leaves
COMPANION_TRAP pending on its compute core with the faulting PC, bit 0 clear for the loader and set for the storer; no
byte of memory and no x register changes, and the compute core's main context is as before. In the handler context a
trap ends the active run; HANDLER_FAULT pends with the PC at fault; of a scope-miss run toward whose core the hold is,
the core makes the fence, over everything before it, that its HRET would have waited for; the runs in the FIFO stay
there and wait; the main context and the trap registers keep their values. [R41, R45, R178, R179, R191] -/
def Obligations.TrapsThatStopOrEndARun : Prop :=
  (∀ (s : State) (cause epc tval : Word), s.ctx = .main → (kindOf s.cur = 0 ∨ kindOf s.cur = 3) →
    s.fencedCore s.cur = false →
    (let st := s.me.traps.status
     let toSup := kindOf s.cur = 0 ∧ (bits st 1 0 = 0 ∨ (bits st 1 0 = 1 ∧ bit st 10 = false))
     (2 ≤ bits st 1 0 ∧ bit st 11 = true) ∨ (toSup ∧ headIndex s.me.traps.sup.tvec = 0) ∨
       (¬ toSup ∧ headIndex s.me.traps.mach.tvec = 0)) →
    let t := s.takeTrap cause epc tval
    t.me.act = .idle ∧ t.fencedCore s.cur = true ∧ t.canRun s.cur = false ∧
    ((∀ r, s.me.task = some r → bit r.task.record.w2 5 = true →
      (s.cluster (clusterOf s.cur)).disp.room (bits r.task.record.w2 1 0) = some none) →
      ∀ a, memGet t.mem a = memGet s.mem a)) ∧
  (∀ (s : State) (cause epc tval : Word), s.ctx = .main → hartExists s.cur = true →
    (kindOf s.cur = 1 ∨ kindOf s.cur = 2) →
    let t := s.takeTrap cause epc tval
    let v := (epc &&& ~~~1#64) ||| (if kindOf s.cur = 2 then 1 else 0)
    t.me.act = .stopped true ∧ t.me.traps.mach = ⟨cause, epc, tval, s.me.traps.mach.tvec⟩ ∧
      v ∈ (t.hart (coreOf s.cur)).traps.pend.companion ∧ (t.hart (coreOf s.cur)).main = (s.hart (coreOf s.cur)).main ∧
      (∀ r, t.x r = s.x r) ∧ ∀ a, memGet t.mem a = memGet s.mem a) ∧
  (∀ (s : State) (cause epc tval : Word), s.ctx = .handler →
    let t := s.takeTrap cause epc tval
    t.me.handler.run = none ∧ t.me.traps.pend.handlerFault = some epc ∧
      t.me.runs.fifo = s.me.runs.fifo ∧ t.me.runs.blocked.isSome = true ∧ t.me.main = s.me.main ∧
      t.me.traps.sup = s.me.traps.sup ∧ t.me.traps.mach = s.me.traps.mach ∧
      t.me.traps.status = s.me.traps.status ∧ (∀ a, memGet t.mem a = memGet s.mem a) ∧
      ∀ r u sc h, s.me.handler.run = some r → r.kind = .scopeMiss u sc → tget s.holds u = some h → h.writer = s.cur →
        tget t.holds u = some { h with auto := some (if s.me.handler.fenced then 0 else s.me.mem.serial) })

/-- TRAP completes and raises TRAP with its operand and the PC after it; that it counts in cr.instret, as a head whose
own effect the trap is, is the model's reading of R279 and R283 (assumption log 23). ERET in supervisor and in machine
mode with MPREV not 3 restores PC from the level's cr.epc with bit 0 cleared and PRV from SPREV or MPREV, clears SIT
or MIT and leaves every other status bit; a service core stays in machine mode. ULRET with INH 1 continues at UEPC and
clears INH. ERET in user mode or with MPREV 3, ULRET with INH 0, HRET in the main context, and the first three in the
handler context raise ILLEGAL. [R178, R186, R283, R284] -/
def Obligations.TrapAndReturns : Prop :=
  (∀ imm s, s.ctx = .main → exec (.trap imm) s =
    .next (s.countHead.takeTrap (BitVec.ofNat 64 0x04) s.linkNext (imm.setWidth 64))) ∧
  (∀ s level, s.ctx = .main → s.prv = level → (level = 1 ∨ (level = 2 ∧ bits s.me.traps.status 15 14 ≠ 3)) →
    ∃ t, exec .eret s = .next t ∧ t.pc = (s.me.traps.copy level).epc &&& ~~~1#64 ∧
      bits t.me.traps.status 1 0 =
        (if level = 1 then bits s.me.traps.status 13 13 else if kindOf s.cur = 3 then 2 else bits s.me.traps.status 15 14) ∧
      bit t.me.traps.status (if level = 1 then 10 else 11) = false ∧
      (∀ k, k < 64 → k ≠ 0 → k ≠ 1 → k ≠ (if level = 1 then 10 else 11) →
        bit t.me.traps.status k = bit s.me.traps.status k) ∧
      (∀ r, t.x r = s.x r) ∧ (∀ r, t.v r = s.v r) ∧ ∀ a, memGet t.mem a = memGet s.mem a) ∧
  (∀ s, s.ctx = .main → (s.prv = 0 ∨ (s.prv = 2 ∧ bits s.me.traps.status 15 14 = 3)) →
    Traps .eret s (BitVec.ofNat 64 0x03) 0x5040) ∧
  (∀ s, s.onCore → bit s.me.sys.uhandler 0 = true → ∃ t, exec .ulret s = .next t ∧
    t.pc = s.me.sys.uhandler &&& ~~~1#64 ∧ t.me.sys.uhandler = s.me.sys.uhandler &&& ~~~1#64 ∧
    (∀ r, t.x r = s.x r) ∧ ∀ a, memGet t.mem a = memGet s.mem a) ∧
  (∀ s, s.onCore → bit s.me.sys.uhandler 0 = false → Traps .ulret s (BitVec.ofNat 64 0x03) 0x5040) ∧
  (∀ s, s.ctx = .main → exec .hret s = .next (s.takeTrap (BitVec.ofNat 64 0x03) s.pc 0x5040)) ∧
  (∀ i s, (i = .eret ∨ i = .ulret ∨ ∃ imm, i = .trap imm) → kindOf s.cur = 0 → s.ctx = .handler →
    exec i s = .next (s.takeTrap (BitVec.ofNat 64 0x03) s.pc 0x5040))

/-- For a register of the table of R278 that the hart's kind holds, read at or above its Read privilege: CRR, and CRS
and CRC with a zero operand, write its value to xd and change nothing else. CRW, CRS and CRC of a writable register at
or above its Write privilege write x[SB], old OR x[SB], or old AND NOT x[SB] by the register's own rule, and xd
receives the old value; a write that the rule refuses raises OPERAND with value 0. The handler context may not write
cr.status or the trap registers: CRW, CRS and CRC of 0x010 to 0x014 raise ILLEGAL there, with any operand (R280). On a
compute core a machine-mode write of cr.tvec, cr.epc and cr.tval reads back whole (the model's reading: assumption log
9), and of cr.cause as INT, SUB and CODE; cr.tasklim reads the written limit, or 0x1000 when the limit is below it;
cr.winmap reads its BASE and LOCK bits until LOCK is 1, and is then unchanged. Only the rules of cr.qctl0 to cr.qctl7,
cr.ldctl and cr.stctl refuse a value; every other write is accepted, and with a sequential successor its head
completes there. A write of cr.status changes only UEN from user mode, and also SEN, SPREV and SIT from supervisor
mode; machine mode changes every RW field, but a 3 written to MPREV leaves it; PRV and the reserved bits never change.
[R46, R47, R64, R168, R175, R177, R278, R280, R282] -/
def Obligations.ControlRegisterAccess : Prop :=
  (∀ (s : State) (num : BitVec 12) (r : CrRule), crRule num.toNat = some r → r.holds (kindOf s.cur) = true →
    r.read ≤ s.prv →
    let old := s.crRead s.cur s.prv num.toNat
    let guarded := s.ctx = .handler ∧ 0x10 ≤ num.toNat ∧ num.toNat ≤ 0x14
    let mayWrite := ¬ guarded ∧ ∃ w, r.write = some w ∧ w ≤ s.prv ∧
      ¬ (0x48 ≤ num.toNat ∧ num.toNat ≤ 0x4F ∧ kindOf s.cur ≠ 0)
    let reads (i : Instr) (d : BitVec 6) : Prop := ∃ t, HeadEnds i s s t ∧ t.x d = (if d = 0 then 0 else old) ∧
      SameBut s t [d] [] [] 0
    let writes (i : Instr) (d : BitVec 6) (new : Word) : Prop := match s.crWrite s.cur s.prv num.toNat new with
      | some u => exec i s = .next ((u.setX d old).retire)
      | none => Traps i s (BitVec.ofNat 64 0x05) 0
    (∀ d, Accepted acceptAll (.crr d num) [d] [] 0 s → reads (.crr d num) d) ∧
    (∀ d b, Accepted acceptAll (.crs d num b) [d, b] [] 0 s → ¬ guarded → s.x b = 0 → reads (.crs d num b) d) ∧
    (∀ d b, Accepted acceptAll (.crc d num b) [d, b] [] 0 s → ¬ guarded → s.x b = 0 → reads (.crc d num b) d) ∧
    (∀ d b i, guarded → (i = .crw d num b ∨ i = .crs d num b ∨ i = .crc d num b) → Accepted acceptAll i [d, b] [] 0 s →
      Traps i s (BitVec.ofNat 64 0x03) (BitVec.ofNat 64 (0x5280 + d.toNat))) ∧
    (∀ d b, Accepted acceptAll (.crw d num b) [d, b] [] 0 s → mayWrite → writes (.crw d num b) d (s.x b)) ∧
    (∀ d b, Accepted acceptAll (.crs d num b) [d, b] [] 0 s → mayWrite → s.x b ≠ 0 →
      writes (.crs d num b) d (old ||| s.x b)) ∧
    (∀ d b, Accepted acceptAll (.crc d num b) [d, b] [] 0 s → mayWrite → s.x b ≠ 0 →
      writes (.crc d num b) d (old &&& ~~~s.x b)) ∧
    (s.flows →
      let done (i : Instr) (d : BitVec 6) : Prop := ∃ t, exec i s = .next t ∧ t.pc = s.linkNext ∧ t.x d = if d = 0 then 0 else old
      let free := ¬ (num.toNat = 0x26 ∨ num.toNat = 0x29 ∨ (0x48 ≤ num.toNat ∧ num.toNat ≤ 0x4F))
      (∀ d, Accepted acceptAll (.crr d num) [d] [] 0 s → done (.crr d num) d) ∧
      (∀ d b, Accepted acceptAll (.crw d num b) [d, b] [] 0 s → mayWrite → free → done (.crw d num b) d) ∧
      (∀ d b, Accepted acceptAll (.crs d num b) [d, b] [] 0 s → ((s.x b = 0 ∧ ¬ guarded) ∨ (mayWrite ∧ free)) →
        done (.crs d num b) d) ∧
      (∀ d b, Accepted acceptAll (.crc d num b) [d, b] [] 0 s → ((s.x b = 0 ∧ ¬ guarded) ∨ (mayWrite ∧ free)) →
        done (.crc d num b) d))) ∧
  (∀ (s : State) (h prv num : Nat) (v : Word), num ≠ 0x26 → num ≠ 0x29 → ¬ (0x48 ≤ num ∧ num ≤ 0x4F) →
    (s.crWrite h prv num v).isSome = true) ∧
  (∀ (s : State) (v : Word), kindOf s.cur = 0 →
    let becomes (prv num : Nat) (w : Word) : Prop := ∃ t, s.crWrite s.cur prv num v = some t ∧ t.crRead s.cur prv num = w
    (∀ prv, prv ≤ 2 → becomes prv 0x10 (statusWrite prv (s.crRead s.cur prv 0x10) v)) ∧
    becomes 2 0x14 v ∧ becomes 2 0x12 v ∧ becomes 2 0x13 v ∧ becomes 2 0x11 (v &&& 0x8000_0000_0000_FFFF) ∧
    becomes 1 0x60 (if (v &&& 0xFFFF_FFFF_FFFF).toNat < 0x1000 then 0x1000 else v &&& 0xFFFF_FFFF_FFFF) ∧
    becomes 2 0x17 (if bit (s.crRead s.cur 2 0x17) 0 then s.crRead s.cur 2 0x17 else v &&& 0xFFFF_FFFF_FE00_0001)) ∧
  (∀ (old v : Word) (k : Nat), k < 64 →
    (k ≠ 5 → bit (statusWrite 0 old v) k = bit old k) ∧ bit (statusWrite 0 old v) 5 = bit v 5 ∧
    (k ≠ 5 → k ≠ 6 → k ≠ 10 → k ≠ 13 → bit (statusWrite 1 old v) k = bit old k) ∧
    (k = 5 ∨ k = 6 ∨ k = 10 ∨ k = 13 → bit (statusWrite 1 old v) k = bit v k) ∧
    (k = 5 ∨ k = 6 ∨ k = 7 ∨ k = 10 ∨ k = 11 ∨ k = 13 → bit (statusWrite 2 old v) k = bit v k) ∧
    (k = 14 ∨ k = 15 → bit (statusWrite 2 old v) k = if bits v 15 14 = 3 then bit old k else bit v k) ∧
    (k < 5 ∨ k = 8 ∨ k = 9 ∨ k = 12 ∨ 16 ≤ k → bit (statusWrite 2 old v) k = bit old k))

/-- Of an accepted CRR, CRW, CRS or CRC: a number outside the table, a register the hart's kind does not hold, and a
read below the Read privilege raise ILLEGAL with the head as value and leave the register unchanged; so does a write
(CRS and CRC with a zero operand only read) of a register without a Write privilege or below it, and a companion's
write of a queue register. [R35] -/
def Obligations.ControlRegisterPrivilege : Prop :=
  ∀ (s : State) (num : BitVec 12),
    let illegal (i : Instr) (d : BitVec 6) : Prop := Traps i s (BitVec.ofNat 64 0x03) (BitVec.ofNat 64 (0x5280 + d.toNat))
    let noRead := match crRule num.toNat with
      | none => True
      | some r => r.holds (kindOf s.cur) = false ∨ s.prv < r.read
    let noWrite := match crRule num.toNat with
      | none => True
      | some r => r.holds (kindOf s.cur) = false ∨ s.prv < r.read ∨ r.write = none ∨ (∃ w, r.write = some w ∧ s.prv < w) ∨
        (0x48 ≤ num.toNat ∧ num.toNat ≤ 0x4F ∧ kindOf s.cur ≠ 0)
    (∀ d, Accepted acceptAll (.crr d num) [d] [] 0 s → noRead → illegal (.crr d num) d) ∧
    (∀ d b, Accepted acceptAll (.crw d num b) [d, b] [] 0 s → noWrite → illegal (.crw d num b) d) ∧
    (∀ d b, Accepted acceptAll (.crs d num b) [d, b] [] 0 s → s.x b ≠ 0 → noWrite → illegal (.crs d num b) d) ∧
    (∀ d b, Accepted acceptAll (.crc d num b) [d, b] [] 0 s → s.x b ≠ 0 → noWrite → illegal (.crc d num b) d) ∧
    (∀ d b, Accepted acceptAll (.crs d num b) [d, b] [] 0 s → noRead → illegal (.crs d num b) d) ∧
    (∀ d b, Accepted acceptAll (.crc d num b) [d, b] [] 0 s → noRead → illegal (.crc d num b) d)

/-- FENCE with acquire completes and changes nothing; with release it enters the store buffer behind every earlier
store; ordered, it completes when the hart's earlier accesses are performed at its scope and waits otherwise, and in a
scope-miss run of no wider a scope it is the run's fence. FENCE.I completes with every line image of the hart
discarded once its store buffer is empty and waits until then. PAUSE holds the context for 1 to 32 cycles and then
completes. SLEEP completes when an interrupt or completion event pends or its limit has passed and otherwise waits.
Loads being performed at their heads, so that an acquire has nothing to wait for, and a pending completion event
ending SLEEP, are the model's readings (assumption log 21 and 30). [R40, R99, R204, R286] -/
def Obligations.FencesAndWaits : Prop :=
  (∀ q s, Accepted acceptAll (.fence q) [] [] 0 s → qualOrd q = 1 → EndsAs (.fence q) s s s [] [] [] 0 fun _ => True) ∧
  (∀ q s, Accepted acceptAll (.fence q) [] [] 0 s → qualOrd q = 2 →
    EndsAs (.fence q) s s (s.pushStore (.fence (qualScope q) (s.ctx == .handler)) q false) [] [] [] 0 fun t =>
      ∃ e, t.me.mem.sb = s.me.mem.sb ++ [e] ∧ e.op = .fence (qualScope q) (s.ctx == .handler)) ∧
  (∀ q s, Accepted acceptAll (.fence q) [] [] 0 s → qualOrd q = 3 → s.drained s.cur (qualScope q) = true → s.ctx = .main →
    EndsAs (.fence q) s s s [] [] [] 0 fun _ => True) ∧
  (∀ q s, Accepted acceptAll (.fence q) [] [] 0 s → qualOrd q = 3 → s.drained s.cur (qualScope q) = true → s.ctx = .handler →
    ∃ t, HeadEnds (.fence q) s s t ∧ t.me.main = s.me.main ∧ t.me.mem = s.me.mem ∧ (∀ a, memGet t.mem a = memGet s.mem a) ∧
      ∀ r u sc, s.me.handler.run = some r → r.kind = .scopeMiss u sc →
        t.me.handler.fenced = (s.me.handler.fenced || decide (sc.toNat ≤ (qualScope q).toNat))) ∧
  (∀ q s, Accepted acceptAll (.fence q) [] [] 0 s → qualOrd q = 3 → s.drained s.cur (qualScope q) = false →
    Waits (.fence q) s .drain) ∧
  (∀ s, Ready acceptAll .fenceI [] [] 0 s → s.me.mem.sb = [] →
    EndsAs .fenceI s s s.dropImages [] [] [] 0 fun t => t.me.mem.since = s.past.length ∧ t.image = none) ∧
  (∀ s, Accepted acceptAll .fenceI [] [] 0 s → s.me.mem.sb = [] → ¬ s.flows →
    exec .fenceI s = .next (s.countHead.takeTrap (BitVec.ofNat 64 0x02) s.linkNext (lineOfPc s.pc)).dropImages) ∧
  (∀ s, Accepted acceptAll .fenceI [] [] 0 s → s.me.mem.sb ≠ [] → Waits .fenceI s .drain) ∧
  (∀ s, Accepted acceptAll .pause [] [] 0 s → s.parkedAs .pause = none → s.parkValue = none → ∃ t n, exec .pause s = .next t ∧ t.pc = s.pc ∧
    1 ≤ n ∧ n ≤ 32 ∧ t.parkedAs .pause = some ⟨.pause, s.clock, some (s.clock + n), none⟩) ∧
  (∀ s p, Accepted acceptAll .pause [] [] 0 s → s.parkedAs .pause = some p → s.parkOver p = true →
    EndsAs .pause s s s [] [] [] 0 fun _ => True) ∧
  (∀ b s, Accepted acceptAll (.sleep b) [b] [] 0 s →
    (s.me.anyPending = true ∨ ∃ p, s.parkedAs .sleep = some p ∧ s.parkOver p = true) →
    EndsAs (.sleep b) s s s [] [] [] 0 fun _ => True) ∧
  (∀ b s, Accepted acceptAll (.sleep b) [b] [] 0 s → s.me.anyPending = false →
    (∀ p, s.parkedAs .sleep = some p → s.parkOver p = false) → Waits (.sleep b) s .sleep)

/-- On a compute or service core above user privilege with an empty store buffer, TLBI.VA, TLBI.ALL and TLBI.RNG
complete, and no TLB entry of the issuing core and of a compute core's cluster and die, nor at cluster and die scope
of any core or cluster in scope, nor at package scope and above of any hart, cluster or die, then covers a named page;
no register, no byte of memory and no main context of another hart changes; TLBI.RNG of length 0 removes nothing. In
user mode all three are ILLEGAL, and a store buffer that is not empty makes them wait. For an address below 2^48 with
no TLB entry for it, no update pending, nothing poisoned, nothing tagged or held and no spill area: when the entries
of levels 3, 2 and 1 are valid pointers to nodes in DRAM and the level-0 entry is a valid leaf that allows the access,
the address translates to the leaf's page with the low 16 bits of the address and the leaf's sync bit, and no byte
changes; PAGE_WALK then leaves the translation in the hart's TLB. When the leaf does not allow the access, or the
level-3 entry has V clear, PAGE_FAULT is raised with the subcause of the access (FETCH_ACCESS with SUB 1 for a fetch).
An address of 2^48 or above raises it too. That an update needs both W and D of the leaf, as a store does, and that a
TLB entry is keyed by the table root that it came from are the model's readings (assumption log 14). [R65, R85, R86,
R87, R176, R288] -/
def Obligations.TranslationAndItsInvalidation : Prop :=
  (let acc : Accept := ⟨true, true, false, true⟩
  let gone (s t : State) (scope : BitVec 3) (lo hi : Nat) : Prop :=
    (∀ j, (4 ≤ scope.toNat ∨ j = (if kindOf s.cur = 3 then s.cur else coreOf s.cur) ∨ (kindOf s.cur = 0 ∧ kindOf j = 0 ∧
        ((scope = 2 ∧ clusterOf j = clusterOf s.cur) ∨ (scope = 3 ∧ dieOf j = dieOf s.cur)))) →
      ∀ e ∈ (t.hart j).mem.tlb, e.meets lo hi = false) ∧
    (∀ k, (4 ≤ scope.toNat ∨ (kindOf s.cur = 0 ∧ (k = clusterOf s.cur ∨ (scope = 3 ∧ k / 64 = dieOf s.cur)))) →
      ∀ e ∈ (t.cluster k).tlb, e.meets lo hi = false) ∧
    (∀ d, (4 ≤ scope.toNat ∨ (kindOf s.cur = 0 ∧ d = dieOf s.cur)) → ∀ e ∈ (t.die d).tlb, e.meets lo hi = false)
  let same (i : Instr) (s t : State) : Prop := HeadEnds i s s t ∧ (∀ r, t.x r = s.x r) ∧ (∀ a, memGet t.mem a = memGet s.mem a) ∧
    ∀ h, h ≠ s.cur → (t.hart h).main = (s.hart h).main
  (∀ scope b s, Accepted acc (.tlbiVa scope b) [b] [] 0 s → s.prv ≠ 0 → s.me.mem.sb = [] →
    ∃ t, same (.tlbiVa scope b) s t ∧ gone s t scope (s.x b).toNat (s.x b).toNat) ∧
  (∀ scope s, Accepted acc (.tlbiAll scope) [] [] 0 s → s.prv ≠ 0 → s.me.mem.sb = [] →
    ∃ t, same (.tlbiAll scope) s t ∧ gone s t scope 0 (2 ^ 64)) ∧
  (∀ scope c b s, Accepted acc (.tlbiRng scope c b) [c, b] [] 0 s → s.prv ≠ 0 → s.me.mem.sb = [] →
    ∃ t, same (.tlbiRng scope c b) s t ∧
      (s.x c ≠ 0 → gone s t scope (s.x b).toNat ((s.x b).toNat + (s.x c).toNat - 1)) ∧
      (s.x c = 0 → ∀ j, (t.hart j).mem.tlb = (s.hart j).mem.tlb)) ∧
  (∀ i s, (∃ scope b, i = .tlbiVa scope b ∧ Accepted acc i [b] [] 0 s) ∨
      (∃ scope, i = .tlbiAll scope ∧ Accepted acc i [] [] 0 s) ∨
      (∃ scope c b, i = .tlbiRng scope c b ∧ Accepted acc i [c, b] [] 0 s) →
    (s.prv = 0 → ∃ e, encode i = some e ∧ Traps i s (BitVec.ofNat 64 0x03) (BitVec.ofNat 64 e.head)) ∧
    (s.prv ≠ 0 → s.me.mem.sb ≠ [] → Waits i s .drain))) ∧
  (let pte (s : State) (node lo n va : Nat) : Word := BitVec.ofNat 64 (memNat s.mem (node + 8 * (va / 2 ^ lo % n)) 8)
  let next (e : Word) : Nat := e.toNat / 256 % 2 ^ 40 * 256
  let pointer (e : Word) : Prop := bit e 0 = true ∧ e.toNat < 2 ^ 48 ∧ bit e 1 = false ∧ bit e 2 = false ∧ bit e 3 = false ∧
    next e < 2 ^ 38
  let leaf (e : Word) : Prop := bit e 0 = true ∧ e.toNat < 2 ^ 48 ∧ (bit e 2 = true → bit e 1 = true) ∧
    next e % 2 ^ 16 = 0 ∧ next e < 2 ^ 38
  let allowed (e : Word) (acc : Acc) (prv : Nat) : Prop := (prv = 0 → bit e 4 = true) ∧ bit e 6 = true ∧ match acc with
    | .load => bit e 1 = true
    | .store => bit e 2 = true ∧ bit e 7 = true
    | .update => bit e 2 = true ∧ bit e 7 = true
    | .fetch => bit e 3 = true
  let fault (acc : Acc) : Word := match acc with
    | .load => 0x0B
    | .store => 0x10B
    | .update => 0x20B
    | .fetch => 0x101
  ∀ (s : State) (h va prv : Nat) (acc : Acc) (root tval : Word),
    let own := if kindOf h = 3 then h else coreOf h
    let n3 := bits root 47 12 * 4096
    let e3 := pte s n3 39 512 va
    let e2 := pte s (next e3) 30 512 va
    let e1 := pte s (next e2) 21 512 va
    let e0 := pte s (next e1) 16 32 va
    (kindOf h = 3 → root ≠ 0) → (2 ^ 48 ≤ va → Refuses (translate h root prv acc va tval) s (fault acc) tval) ∧
    (va < 2 ^ 48 → tlbHit (s.hart own).mem.tlb root va = none → tlbHit (s.cluster (clusterOf h)).tlb root va = none →
      tlbHit (s.die (dieOf h)).tlb root va = none → (∀ d, (s.die d).gutter = []) → s.poison = [] → s.tags = [] →
      s.holds = [] → s.waiters = [] → (∀ a, s.inSpill a = false) → n3 < 2 ^ 38 →
      (bit e3 0 = false → Refuses (translate h root prv acc va tval) s (fault acc) tval) ∧
      (pointer e3 → pointer e2 → pointer e1 → leaf e0 →
        (allowed e0 acc prv → ∃ t, Gives (translate h root prv acc va tval) s ⟨next e0 + va % 2 ^ 16, bit e0 5⟩ t ∧
          t.mem = s.mem) ∧
        (¬ allowed e0 acc prv → Refuses (translate h root prv acc va tval) s (fault acc) tval) ∧
        (hartExists h = true → s.rootOf h = root → ∃ t, exec (.pageWalk h (BitVec.ofNat 64 va)) s = .next t ∧
          t.mem = s.mem ∧ (tlbHit (t.hart own).mem.tlb root va).isSome = true))))

/-- MSG to a core of the package, with fewer than 16 messages of the hart undelivered and its payload readable,
completes with one message under way that holds exactly those bytes, slot and counter; a target above 4,095 raises
OPERAND with the target as value; the 17th message waits. WAITC completes with xd holding the counter, zero-extended,
once the signed difference to the threshold is not negative or its limit has passed, and waits otherwise. [R60, R296,
R297, R298, R299] -/
def Obligations.MessagesAndCounters : Prop :=
  (∀ lenm slot mc c t s data u, Accepted acceptAll (.msg lenm slot mc c t) [c, t] [] 0 s → (s.x t).toNat < 4096 →
    s.msgsOut s.cur < 16 → Gives (loadBytes (s.x c) (lenm.toNat + 1)) s data u →
    EndsAs (.msg lenm slot mc c t) s u ((u.send (.msg u.cur (s.x t).toNat slot.toNat data mc u.me.mem.serial)).modMe fun h =>
        { h with mem := { h.mem with serial := h.mem.serial + 1 } }) [] [] [] 0 fun w =>
      w.net = u.net ++ [.msg u.cur (s.x t).toNat slot.toNat data mc u.me.mem.serial]) ∧
  (∀ lenm slot mc c t s, Accepted acceptAll (.msg lenm slot mc c t) [c, t] [] 0 s → 4096 ≤ (s.x t).toNat →
    Traps (.msg lenm slot mc c t) s (BitVec.ofNat 64 0x05) (s.x t)) ∧
  (∀ lenm slot mc c t s, Accepted acceptAll (.msg lenm slot mc c t) [c, t] [] 0 s → (s.x t).toNat < 4096 →
    16 ≤ s.msgsOut s.cur → Waits (.msg lenm slot mc c t) s .drain) ∧
  (∀ d mc c b s, Accepted acceptAll (.waitc d mc c b) [d, c, b] [] 0 s →
    (0 ≤ (s.counter s.cur mc - (s.x b).setWidth 32).toInt ∨ ∃ p, s.parkedAs .counter = some p ∧ s.parkOver p = true) →
    EndsAs (.waitc d mc c b) s s s [d] [] [] 0 fun t =>
      t.x d = if d = 0 then 0 else (s.counter s.cur mc).setWidth 64) ∧
  (∀ d mc c b s, Accepted acceptAll (.waitc d mc c b) [d, c, b] [] 0 s →
    (s.counter s.cur mc - (s.x b).setWidth 32).toInt < 0 → (∀ p, s.parkedAs .counter = some p → s.parkOver p = false) →
    Waits (.waitc d mc c b) s .counter)

/-- HCTL.HOLD above user privilege sets the hold and completes when no run is active, and otherwise waits with the
hold set; HCTL.GO clears it; HCTL.ST writes hold times 256, plus 32 when a run is active, plus the number of runs in
the FIFO; HOLD and GO in user mode are ILLEGAL. HRET of a scope-miss run whose fence is made, or whose core's accesses
are performed at the scope, ends the run and marks the unit's hold, where it is toward this writer, as lifting; HRET
of a drain run with an empty store buffer and no held unit in the row's places ends the run; otherwise both wait. That
it waits for the hart's whole store buffer, and not for the stores of that run alone, is the model's choice
(assumption log 34). A head that ends a run counts, and no main-context register changes. [R38, R39, R102, R284, R301,
R416] -/
def Obligations.HandlerContextControl : Prop :=
  (∀ s, Accepted acceptMain .hctlHold [] [] 0 s → s.prv ≠ 0 → s.me.handler.run = none → ∃ t, HeadEnds .hctlHold s s t ∧
    t.me.runs = { s.me.runs with hold := true } ∧ (∀ r, t.x r = s.x r)) ∧
  (∀ s, Accepted acceptMain .hctlHold [] [] 0 s → s.prv ≠ 0 → s.me.handler.run ≠ none →
    Waits .hctlHold s .noRuns ∧ ∃ t, exec .hctlHold s = .next t ∧ t.me.runs.hold = true) ∧
  (∀ s, Accepted acceptMain .hctlGo [] [] 0 s → s.prv ≠ 0 → ∃ t, HeadEnds .hctlGo s s t ∧
    t.me.runs = { s.me.runs with hold := false } ∧ (∀ r, t.x r = s.x r)) ∧
  (∀ s, Accepted acceptMain .hctlHold [] [] 0 s → s.prv = 0 →
    Traps .hctlHold s (BitVec.ofNat 64 0x03) 0x5E40 ∧ Traps .hctlGo s (BitVec.ofNat 64 0x03) 0x5E40) ∧
  (∀ d, WritesX acceptMain (.hctlSt d) [d] d fun s => BitVec.ofNat 64
    ((if s.me.runs.hold then 256 else 0) + (if s.me.handler.run.isSome then 32 else 0) + s.me.runs.fifo.length)) ∧
  (∀ s r u sc, kindOf s.cur = 0 → s.ctx = .handler → s.me.handler.run = some r → r.kind = .scopeMiss u sc →
    (s.me.handler.fenced = true ∨ s.drained s.cur sc = true) → ∃ t, exec .hret s = .next t ∧ t.me.handler.run = none ∧
      (∀ hd, tget s.holds u = some hd → hd.writer = s.cur → tget t.holds u = some { hd with lifted := true }) ∧
      t.me.sys.instret = s.me.sys.instret + 1 ∧ t.me.main = s.me.main ∧ ∀ a, memGet t.mem a = memGet s.mem a) ∧
  (∀ s r u sc, kindOf s.cur = 0 → s.ctx = .handler → s.me.handler.run = some r → r.kind = .scopeMiss u sc →
    s.me.handler.fenced = false → s.drained s.cur sc = false → Waits .hret s .drain) ∧
  (∀ s r k, kindOf s.cur = 0 → s.ctx = .handler → s.me.handler.run = some r → r.kind = .drain k →
    (s.me.mem.sb = [] → (s.spansWait s.cur (s.rowSpans s.cur k)).1 = false → ∃ t, exec .hret s = .next t ∧ t.me.handler.run = none ∧
      t.me.sys.instret = s.me.sys.instret + 1 ∧ t.me.main.x = s.me.main.x) ∧
    (s.me.mem.sb ≠ [] → Waits .hret s .drain) ∧
    (s.me.mem.sb = [] → (s.spansWait s.cur (s.rowSpans s.cur k)).1 = true → Waits .hret s .drain))

/-- SPAWN of a readable, 32-byte aligned record whose release is performed completes with xd holding 0, 2 or 3: 3 and
an unchanged dispatcher for a record with a reserved bit set or a head index 0; 2 and an unchanged dispatcher when
SRAM and the overflow area are full; else 0, and the queue holds the record, last in the order of acceptance, in SRAM
or at its place of the area, ready now if the queue is live. A misaligned record raises OPERAND with its address, and
so does, with the status address, an ENQ or LAUNCHG whose status word is misaligned, outside a compute core's own TCM,
or of an untranslated service core outside service SRAM. ENQ and LAUNCHG with a status word that passes its checks,
their record or patch readable, the release performed and fewer than 64 replies outstanding complete with one request
under way that holds the handle, what was read, the status word's home and the counter. TASKEND stops a companion in
user mode; on a compute core it waits for the retirement, and from supervisor mode it discards the pending runs, for
each of which the core makes the fence that the lift of a unit held toward it needs; in machine mode it is ILLEGAL.
That a companion's PC stays at TASKEND, that the spawning hart's own dispatcher decides at once, and that an ENTRY,
LENTRY or SENTRY with bit 0 set makes a bad record too, are the model's readings (assumption log 41). [R43, R54, R155,
R157, R160, R290, R292, R295] -/
def Obligations.TaskInstructions : Prop :=
  (∀ d b s r u, Accepted ⟨true, true, false, false⟩ (.spawn d b) [d, b] [] 0 s → (s.x b).toNat % 32 = 0 →
    Gives (recordM (s.x b)) s r u → u.drained u.cur 4 = true →
    let place := u.queuePlace (clusterOf u.cur) (recordPrio r)
    let d0 := (u.cluster place.1).disp
    ∀ tq, d0.queue place.2 = some tq →
    ∃ t, HeadEnds (.spawn d b) s u t ∧ (∀ e, e ≠ d → t.x e = u.x e) ∧
      (recordBad r = true → t.x d = (if d = 0 then 0 else 3) ∧ (t.cluster place.1).disp = d0) ∧
      (recordBad r = false → d0.room place.2 = none → (t.cluster place.1).disp = d0 ∧ t.x d = (if d = 0 then 0 else 2)) ∧
      (∀ pl, recordBad r = false → d0.room place.2 = some pl → t.x d = 0 ∧
        ∃ k, (t.cluster place.1).disp.tasks = d0.tasks ++ [k] ∧ k.record = r ∧ k.queue = place.2 ∧ k.overflow = pl ∧
          k.ready = if tq.live then some u.clock else none)) ∧
  (∀ d b s, Accepted ⟨true, true, false, false⟩ (.spawn d b) [d, b] [] 0 s → (s.x b).toNat % 32 ≠ 0 →
    Traps (.spawn d b) s (BitVec.ofNat 64 0x05) (s.x b)) ∧
  (∀ h mc st b s home u r w, Accepted ⟨true, true, false, true⟩ (.enq h mc st b) [h, st, b] [] 0 s →
    Gives (statusM (s.x st)) s home u → (s.x b).toNat % 32 = 0 → Gives (recordM (s.x b)) u r w →
    w.drained w.cur 4 = true → w.repliesDue w.cur < 64 →
    EndsAs (.enq h mc st b) s w (w.send (.enq w.cur (w.x h) r home mc)) [] [] [] 0 fun t =>
      t.net = w.net ++ [.enq w.cur (w.x h) r home mc]) ∧
  (∀ st mc p g s home u l w, Accepted ⟨true, true, false, true⟩ (.launchg st mc p g) [st, p, g] [] 0 s →
    Gives (statusM (s.x st)) s home u → Gives (patchM (s.x p)) u l w →
    w.drained w.cur 4 = true → w.repliesDue w.cur < 64 →
    EndsAs (.launchg st mc p g) s w (w.send (.launchg w.cur (w.x g) l home mc)) [] [] [] 0 fun t =>
      t.net = w.net ++ [.launchg w.cur (w.x g) l home mc]) ∧
  (∀ i st l s, ((∃ h mc b, i = .enq h mc st b ∧ l = [h, st, b]) ∨ (∃ mc p g, i = .launchg st mc p g ∧ l = [st, p, g])) →
    Accepted ⟨true, true, false, true⟩ i l [] 0 s →
    ((s.x st).toNat % 8 ≠ 0 ∨ (kindOf s.cur = 0 ∧ (s.windowOf s.cur (s.x st).toNat).1 ≠ .tcm) ∨
      (kindOf s.cur = 3 ∧ s.rootOf s.cur = 0 ∧ ((s.x st).toNat < 0xFFC0_0100_0000 ∨ 0xFFC0_01FF_FFFF < (s.x st).toNat))) →
    Traps i s (BitVec.ofNat 64 0x05) (s.x st)) ∧
  (∀ s, s.ctx = .main → hartExists s.cur = true → (kindOf s.cur = 1 ∨ kindOf s.cur = 2) → s.prv ≠ 2 →
    ∃ t, exec .taskend s = .next t ∧ t.me.act = .stopped false ∧ t.pc = s.pc ∧ ∀ a, memGet t.mem a = memGet s.mem a) ∧
  (∀ s, s.onCore → s.prv = 0 → Waits .taskend s .taskend ∧ ∀ a t, exec .taskend s = .next t → memGet t.mem a = memGet s.mem a) ∧
  (∀ s, s.onCore → s.prv = 1 → Waits .taskend s .taskend ∧
    ∃ t, exec .taskend s = .next t ∧ t.me.runs.fifo = [] ∧ t.me.runs.port = [] ∧
      ∀ r ∈ s.me.runs.fifo ++ s.me.runs.port, ∀ u sc h, r.kind = .scopeMiss u sc → tget s.holds u = some h → h.writer = s.cur →
        tget t.holds u = some { h with auto := some s.me.mem.serial }) ∧
  (∀ s, s.onCore → s.prv = 2 → Traps .taskend s (BitVec.ofNat 64 0x03) 0x5840)

/-- VADD to VSRA with a vector or a scalar operand, and VABS, VINDEX and VLI: with no named register in stream mode,
each completes with every active element of vd holding the result of its rule modulo 2^w, computed from the registers
before the write; an inactive element keeps its value, no flag is raised, and nothing else changes. A shift takes its
amount modulo w. VLI writes every copy of its pattern. [R303, R304, R305, R307, R311, R321, R322] -/
def Obligations.VectorIntegerElements : Prop :=
  (∀ d sc t p c b, ElementsOf (.vadd d sc t p c b) d sc t p c b fun x y => (x + y, 0)) ∧
  (∀ d sc t p c b, ElementsOf (.vsub d sc t p c b) d sc t p c b fun x y => (((x - y : Int) % 2 ^ fmtBits t).toNat, 0)) ∧
  (∀ d sc t p c b, ElementsOf (.vmul d sc t p c b) d sc t p c b fun x y => (x * y, 0)) ∧
  (∀ d sc t p c b, ElementsOf (.vmin d sc t p c b) d sc t p c b fun x y =>
    (if signed (fmtBits t) x ≤ signed (fmtBits t) y then x else y, 0)) ∧
  (∀ d sc t p c b, ElementsOf (.vmax d sc t p c b) d sc t p c b fun x y =>
    (if signed (fmtBits t) x ≤ signed (fmtBits t) y then y else x, 0)) ∧
  (∀ d sc t p c b, ElementsOf (.vand d sc t p c b) d sc t p c b fun x y => (x &&& y, 0)) ∧
  (∀ d sc t p c b, ElementsOf (.vor d sc t p c b) d sc t p c b fun x y => (x ||| y, 0)) ∧
  (∀ d sc t p c b, ElementsOf (.vxor d sc t p c b) d sc t p c b fun x y => (x ^^^ y, 0)) ∧
  (∀ d sc t p c b, ElementsOf (.vsll d sc t p c b) d sc t p c b fun x y => (x <<< (y % fmtBits t), 0)) ∧
  (∀ d sc t p c b, ElementsOf (.vsrl d sc t p c b) d sc t p c b fun x y => (x >>> (y % fmtBits t), 0)) ∧
  (∀ d sc t p c b, ElementsOf (.vsra d sc t p c b) d sc t p c b fun x y =>
    (((signed (fmtBits t) x >>> (y % fmtBits t)) % 2 ^ fmtBits t).toNat, 0)) ∧
  (∀ d t p b, Elementwise (.vabs d t p b) [] [b] d t p fun s k =>
    ((signed (fmtBits t) (velem (s.v b) (fmtBits t) k)).natAbs, 0)) ∧
  (∀ d p t x, Elementwise (.vindex d p t x) [x] [] d t p fun s k => ((s.x x).toNat + k, 0)) ∧
  (∀ d imm, WritesV (.vliW d imm) [] [] d 0 32 (fun _ _ => imm.toNat) fun _ _ => False) ∧
  (∀ d imm, WritesV (.vliD d imm) [] [] d 0 64 (fun _ _ => imm.toNat) fun _ _ => False) ∧
  (∀ d imm, WritesV (.vliQ d imm) [] [] d 0 128 (fun _ _ => imm.toNat) fun _ _ => False)

/-- VFADD to VFNEG, the fused four and the estimates: with no named register in stream mode, each completes with every
active element of vd holding the operation's result in format T and with exactly the flags of the active elements ORed
into cr.fflags; an inactive element keeps its value and raises nothing, and nothing else changes. The operations are
those of ScalarFloatResults; festimate is the model's: its value inside R335's bounds is free. [R303, R305, R307,
R313, R314, R335] -/
def Obligations.VectorFloatElements : Prop :=
  (∀ d sc t p c b, ElementsOf (.vfadd d sc t p c b) d sc t p c b (fadd (fmtOf t))) ∧
  (∀ d sc t p c b, ElementsOf (.vfsub d sc t p c b) d sc t p c b (fsub (fmtOf t))) ∧
  (∀ d sc t p c b, ElementsOf (.vfmul d sc t p c b) d sc t p c b (fmul (fmtOf t))) ∧
  (∀ d sc t p c b, ElementsOf (.vfdiv d sc t p c b) d sc t p c b (fdiv (fmtOf t))) ∧
  (∀ d sc t p c b, ElementsOf (.vfmin d sc t p c b) d sc t p c b (fminmax (fmtOf t) false)) ∧
  (∀ d sc t p c b, ElementsOf (.vfmax d sc t p c b) d sc t p c b (fminmax (fmtOf t) true)) ∧
  (∀ d t p b, Elementwise (.vfabs d t p b) [] [b] d t p fun s k =>
    let x := velem (s.v b) (fmtBits t) k
    match fdecode (fmtOf t) x with
    | .nan sn => (qnan (fmtOf t), if sn then flagNV else 0)
    | _ => (x % 2 ^ (fmtBits t - 1), 0)) ∧
  (∀ d t p b, Elementwise (.vfneg d t p b) [] [b] d t p fun s k =>
    let x := velem (s.v b) (fmtBits t) k
    match fdecode (fmtOf t) x with
    | .nan sn => (qnan (fmtOf t), if sn then flagNV else 0)
    | _ => (x ^^^ 2 ^ (fmtBits t - 1), 0)) ∧
  (∀ (d : BitVec 5) (sc : BitVec 1) (a : BitVec 5) (t : BitVec 4) (p : BitVec 3) (c : BitVec 6) (b : BitVec 5),
    let fused (i : Instr) (np nc : Bool) : Prop := Elementwise i (xsOfC sc c) (b :: a :: vsOfC sc c) d t p fun s k =>
      ffma (fmtOf t) np nc (velem (s.v b) (fmtBits t) k) (operandC s s.v sc c (fmtBits t) k) (velem (s.v a) (fmtBits t) k)
    fused (.vfma d sc a t p c b) false false ∧ fused (.vfms d sc a t p c b) false true ∧
      fused (.vfnma d sc a t p c b) true true ∧ fused (.vfnms d sc a t p c b) true false) ∧
  (∀ d t p b, Elementwise (.vrcpe d t p b) [] [b] d t p fun s k => festimate 0 t (velem (s.v b) (fmtBits t) k)) ∧
  (∀ d t p b, Elementwise (.vrsqe d t p b) [] [b] d t p fun s k => festimate 1 t (velem (s.v b) (fmtBits t) k)) ∧
  (∀ d t p b, Elementwise (.vexpe d t p b) [] [b] d t p fun s k => festimate 2 t (velem (s.v b) (fmtBits t) k))

/-- VSEL, VPERM, VPERM2, VREV, VROT, VSLIDE, both VBCAST, VMOVX, VMOVV, VCOMPRESS and VEXPAND: with no named register
in stream mode, each completes with vd (or xd) holding the elements its rule names and every element the rule does not
name unchanged; no flag is raised and nothing else changes. An index past the tables gives 0. [R317, R318, R319, R320,
R323, R327] -/
def Obligations.VectorRearrangement : Prop :=
  (∀ d sc t p c b, WritesV (.vsel d sc t p c b) (xsOfC sc c) (b :: vsOfC sc c) d p (fmtBits t) (fun s k =>
    if s.active p k then velem (s.v b) (fmtBits t) k else operandC s s.v sc c (fmtBits t) k) fun _ _ => False) ∧
  (∀ d sc t p c b, Elementwise (.vperm d sc t p c b) (xsOfC sc c) (b :: vsOfC sc c) d t p fun s k =>
    let j := operandC s s.v sc c (fmtBits t) k
    (if j < elemCount t then velem (s.v b) (fmtBits t) j else 0, 0)) ∧
  (∀ d sc a t p c b, Elementwise (.vperm2 d sc a t p c b) (xsOfC sc c) (b :: a :: vsOfC sc c) d t p fun s k =>
    let j := operandC s s.v sc c (fmtBits t) k
    let n := elemCount t
    (if j < n then velem (s.v b) (fmtBits t) j else if j < 2 * n then velem (s.v a) (fmtBits t) (j - n) else 0, 0)) ∧
  (∀ d t p b, Elementwise (.vrev d t p b) [] [b] d t p fun s k => (velem (s.v b) (fmtBits t) (elemCount t - 1 - k), 0)) ∧
  (∀ d sc t p c b, Elementwise (.vrot d sc t p c b) (xsOfC sc c) [b] d t p fun s k =>
    let amt := (if sc = 1 then (s.x c).toNat else c.toNat) % (2 * elemCount t)
    (velem (s.v b) (fmtBits t) ((k + amt) % elemCount t), 0)) ∧
  (∀ d sc a t p c b, Elementwise (.vslide d sc a t p c b) (xsOfC sc c) [b, a] d t p fun s k =>
    let n := elemCount t
    let j := k + (if sc = 1 then (s.x c).toNat else c.toNat) % (2 * n)
    (if j < n then velem (s.v b) (fmtBits t) j else if j < 2 * n then velem (s.v a) (fmtBits t) (j - n) else 0, 0)) ∧
  (∀ d p t x, Elementwise (.vbcast d p t x) [x] [] d t p fun s _ => ((s.x x).toNat, 0)) ∧
  (∀ d t p n b, Elementwise (.vbcastElement d t p n b) [] [b] d t p fun s _ => (velem (s.v b) (fmtBits t) n.toNat, 0)) ∧
  (∀ d t n b s, Accepted acceptCompute (.vmovx d t n b) [d] [b] 0 s → s.plainV [b] → ∃ u, HeadEnds (.vmovx d t n b) s s u ∧ SameBut s u [d] [] [] 0 ∧ u.x d = if d = 0 then 0 else
      let e := BitVec.ofNat (fmtBits t) (velem (s.v b) (fmtBits t) n.toNat)
      if t = 4 ∨ t = 5 ∨ t = 6 then e.signExtend 64 else e.setWidth 64) ∧
  (∀ d t n x, WritesV (.vmovv d t n x) [x] [] d 0 (fmtBits t) (fun s k =>
    if k = n.toNat then (s.x x).toNat % 2 ^ fmtBits t else velem (s.v d) (fmtBits t) k) fun _ _ => False) ∧
  (∀ d t p b, WritesV (.vcompress d t p b) [] [b] d p (fmtBits t) (fun s k =>
    ((((List.range (elemCount t)).filter (s.active p)).map (velem (s.v b) (fmtBits t)))[k]?).getD
      (velem (s.v d) (fmtBits t) k)) fun _ _ => False) ∧
  (∀ d t p b, WritesV (.vexpand d t p b) [] [b] d p (fmtBits t) (fun s k =>
    if s.active p k then velem (s.v b) (fmtBits t) ((List.range k).filter (s.active p)).length
    else velem (s.v d) (fmtBits t) k) fun _ _ => False)

/-- VRED completes with xd holding the root of the pairwise tree over the active elements (the identity where none is
active), placed as VMOVX places it, and with the flags of the combinations made and NV for an active signalling NaN.
VSCAN writes every active element with the running value after it, VSCANX with the running value before it (the
identity at the first); inactive elements keep their values. reduceOp is the model's name for the rounded sum, the
minimum, the maximum and the bitwise operations of R325. A NaN that a tree or scan passes through uncombined is
written canonical, which is the model's reading of R307 (assumption log 12). [R307, R325, R326] -/
def Obligations.VectorReductionsAndScans : Prop :=
  (∀ d op t p b s, Accepted acceptCompute (.vred d op t p b) [d] [b] p s → s.plainV [b] →
    ∃ (u : State) (g : Flags) (val : Nat → Nat → Option Nat) (r : Nat), HeadEnds (.vred d op t p b) s s u ∧ SameBut s u [d] [] [] g ∧
      (∀ k, k < elemCount t → val 0 k = if s.active p k then some (velem (s.v b) (fmtBits t) k) else none) ∧
      (∀ l j, j < elemCount t / 2 ^ (l + 1) → val (l + 1) j = match val l (2 * j), val l (2 * j + 1) with
        | some x, some y => some (reduceOp op.toNat t x y).1
        | none, y => y
        | x, none => x) ∧
      r = (match val (Nat.log2 (elemCount t)) 0 with
        | some x => canonical t x
        | none => reduceUnit op.toNat t) ∧
      u.x d = (if d = 0 then 0 else
        if t = 4 ∨ t = 5 ∨ t = 6 then (BitVec.ofNat (fmtBits t) r).signExtend 64 else BitVec.ofNat 64 r) ∧
      ∀ j, j < 5 → (g.getLsbD j = true ↔
        (∃ l i x y, i < elemCount t / 2 ^ (l + 1) ∧ val l (2 * i) = some x ∧ val l (2 * i + 1) = some y ∧
          (reduceOp op.toNat t x y).2.getLsbD j = true) ∨
        j = 4 ∧ floatFmt t = true ∧ ∃ k, k < elemCount t ∧ s.active p k = true ∧
          fdecode (fmtOf t) (velem (s.v b) (fmtBits t) k) = .nan true)) ∧
  (∀ (d : BitVec 5) (op : BitVec 2) (t : BitVec 4) (p : BitVec 3) (b : BitVec 5) (s : State) (ex : Bool),
    let i : Instr := if ex then .vscanx d op t p b else .vscan d op t p b
    let e (k : Nat) : Nat := velem (s.v b) (fmtBits t) k
    Accepted acceptCompute i [] [d, b] p s → s.plainV [d, b] →
    ∃ (u : State) (g : Flags) (run : Nat → Option Nat), HeadEnds i s s u ∧ SameBut s u [] [d] [] g ∧
      run 0 = none ∧
      (∀ k, k < elemCount t → run (k + 1) = if s.active p k then
        (match run k with | some x => some (reduceOp op.toNat t x (e k)).1 | none => some (e k)) else run k) ∧
      (∀ k, k < elemCount t → velem (u.v d) (fmtBits t) k = if s.active p k then
          (match (if ex then run k else run (k + 1)) with
            | some x => canonical t x % 2 ^ fmtBits t
            | none => reduceUnit op.toNat t % 2 ^ fmtBits t)
        else velem (s.v d) (fmtBits t) k) ∧
      ∀ j, j < 5 → (g.getLsbD j = true ↔
        (∃ k x, k < elemCount t ∧ s.active p k = true ∧ run k = some x ∧
          (reduceOp op.toNat t x (e k)).2.getLsbD j = true) ∨
        j = 4 ∧ floatFmt t = true ∧ ∃ k, k < elemCount t ∧ s.active p k = true ∧ fdecode (fmtOf t) (e k) = .nan true))

/-- VCMP writes bit i of pd as the condition's truth for an active element of the format and 0 for every other bit;
for floats −0 equals +0, a NaN makes eq, lt and le false and ne true, unord is true for a NaN, and NV is raised for an
active signalling NaN and, by lt and le, for any active NaN. PAND to PMOV write the bitwise results, PCNT the number
of 1 bits of pa AND pm, PFIRST the index of the lowest of them or 64 (the effects of R336 and R337). A write to p0 is
discarded, and nothing else changes. [R316] -/
def Obligations.VectorCompareAndPredicates : Prop :=
  (∀ (d : BitVec 3) (sc : BitVec 1) (cond t : BitVec 4) (p : BitVec 3) (c : BitVec 6) (b : BitVec 5) (s : State),
    let i : Instr := .vcmp d sc cond t p c b
    let w := fmtBits t
    let x (k : Nat) : Nat := velem (s.v b) w k
    let y (k : Nat) : Nat := operandC s s.v sc c w k
    let isNan (v : Nat) : Prop := ∃ q, fdecode (fmtOf t) v = .nan q
    let ord (k : Nat) : Int := forder (fdecode (fmtOf t) (x k)) (fdecode (fmtOf t) (y k))
    let holds (k : Nat) : Prop :=
      if floatFmt t = true then
        let nan := isNan (x k) ∨ isNan (y k)
        if cond = 0 then ¬ nan ∧ ord k = 0 else if cond = 1 then nan ∨ ord k ≠ 0
        else if cond = 2 then ¬ nan ∧ ord k < 0 else if cond = 3 then ¬ nan ∧ ord k ≤ 0 else nan
      else if cond = 0 then x k = y k else if cond = 1 then x k ≠ y k
        else if cond = 2 then signed w (x k) < signed w (y k) else if cond = 3 then signed w (x k) ≤ signed w (y k)
        else if cond = 4 then x k < y k else x k ≤ y k
    let raises (k : Nat) : Prop := floatFmt t = true ∧
      (fdecode (fmtOf t) (x k) = .nan true ∨ fdecode (fmtOf t) (y k) = .nan true ∨
        ((cond = 2 ∨ cond = 3) ∧ (isNan (x k) ∨ isNan (y k))))
    Accepted ⟨true, false, false, true⟩ i [] [] 0 s → s.plainV (b :: vsOfC sc c) →
    ∃ u g, HeadEnds i s s u ∧ SameBut s u [] [] [d] g ∧
      (d = 0 → u.p 0 = ~~~0#64) ∧
      (d ≠ 0 → ∀ k, k < 64 → ((u.p d).getLsbD k = true ↔ k < elemCount t ∧ s.active p k = true ∧ holds k)) ∧
      ∀ j, j < 5 → (g.getLsbD j = true ↔ j = 4 ∧ ∃ k, k < elemCount t ∧ s.active p k = true ∧ raises k)) ∧
  (∀ d pb pa, WritesP (.pand d pb pa) d fun s => s.p pa &&& s.p pb) ∧
  (∀ d pb pa, WritesP (.por d pb pa) d fun s => s.p pa ||| s.p pb) ∧
  (∀ d pb pa, WritesP (.pxor d pb pa) d fun s => s.p pa ^^^ s.p pb) ∧
  (∀ d pa, WritesP (.pnot d pa) d fun s => ~~~ s.p pa) ∧
  (∀ d x, WritesP (.pmovToPredicate d x) d fun s => s.x x) ∧
  (∀ d pa, WritesX ⟨true, false, false, true⟩ (.pmovToScalar d pa) [d] d fun s => s.p pa) ∧
  (∀ d pm pa, WritesXSuch ⟨true, false, false, true⟩ (.pcnt d pm pa) [d] d fun s r =>
    r.toNat = ((List.range 64).filter fun k => (s.p pa).getLsbD k && (s.p pm).getLsbD k).length) ∧
  (∀ d pm pa, WritesXSuch ⟨true, false, false, true⟩ (.pfirst d pm pa) [d] d fun s r =>
    (s.p pa &&& s.p pm = 0 → r = 64) ∧ ∀ k, (s.p pa &&& s.p pm).getLsbD k = true →
      (∀ j, j < k → (s.p pa &&& s.p pm).getLsbD j = false) → r.toNat = k)

/-- With x[XK] from 1 to 64, VTOPK completes with slots 0 to k − 1 of the value group and of the index group holding
the first k of a ranked arrangement of the valid list entries (with M) and the active row elements (nonzero ones with
NZ), then the fill and index 0xFFFF_FFFF; slots k to 63 keep their contents, and bit j of pd is set exactly for j
below k and the number of candidates. x[XK] = 0 writes nothing, and a value above 64 raises OPERAND with value 0. No
flag and nothing else changes. [R328, R329, R330] -/
def Obligations.TopKSelection : Prop :=
  ∀ (d : BitVec 5) (nz m t : BitVec 1) (p pd : BitVec 3) (xb xk : BitVec 6) (vi b : BitVec 5) (s : State),
    let i : Instr := .vtopk d nz m t p pd xb xk vi b
    let k := (s.x xk).toNat
    let group := [d, d + 1, d + 2, d + 3, vi, vi + 1, vi + 2, vi + 3]
    let isInt : Bool := t == 1
    let list := ((List.range 64).filter fun j => m == 1 && s.active pd j).map fun j => (⟨s.slot d j, s.slot vi j, true⟩ : Cand)
    let zero (v : Nat) : Bool := v == 0 || (!isInt && v == 0x8000_0000)
    let row := ((List.range 16).filter fun j => s.active p j && !(nz == 1 && zero (velem (s.v b) 32 j))).map
      fun j => (⟨velem (s.v b) 32 j, ((s.x xb).toNat + j) % 2 ^ 32, false⟩ : Cand)
    let ahead (x y : Cand) : Prop := rankAbove isInt x.val y.val = true ∨
      (rankAbove isInt y.val x.val = false ∧ (x.idx < y.idx ∨ (x.idx = y.idx ∧ (x.list = true ∨ y.list = false))))
    Accepted ⟨true, false, false, true⟩ i [xb, xk] (b :: group) 0 s → s.plainV (b :: group) →
    (64 < k → Traps i s (BitVec.ofNat 64 0x05) 0) ∧
    (k = 0 → ∃ u, HeadEnds i s s u ∧ SameBut s u [] [] [] 0) ∧
    (1 ≤ k → k ≤ 64 → ∃ (u : State) (cand : List Cand), HeadEnds i s s u ∧
      SameBut s u [] group [pd] 0 ∧ cand.Perm (list ++ row) ∧ cand.Pairwise ahead ∧
      (∀ j, j < 64 → (u.slot d j, u.slot vi j) = if k ≤ j then (s.slot d j, s.slot vi j)
        else match cand[j]? with
          | some c => (c.val, c.idx)
          | none => (if isInt then 0x8000_0000 else 0xFF80_0000, 0xFFFF_FFFF)) ∧
      (pd ≠ 0 → ∀ j, j < 64 → ((u.p pd).getLsbD j = true ↔ j < k ∧ j < cand.length)))

/-- Without EF, each completes with element PART·n + i on the narrower side and element i on the wider side related by
the conversion for each active i below n, every other element of vd unchanged, and exactly the active conversions'
flags ORed into cr.fflags. With EF, an active element takes the R128 step with slot i of the residue register, which
then holds the step's residue. VENC and VDEC use the decode table of their slot; a slot that is not valid raises
OPERAND with value 0 and changes nothing. The conversions convertFmt, encodeFrom and decodeCode and the step
feedbackStep are the model's. [R122, R127, R128, R332, R333] -/
def Obligations.VectorConversions : Prop :=
  let n (toF fromF : BitVec 4) : Nat := 512 / Nat.max (fmtBits toF) (fmtBits fromF)
  let at_ (mine other part : BitVec 4) (i : Nat) : Nat :=
    if fmtBits mine < fmtBits other then part.toNat * (512 / fmtBits other) + i else i
  let converts (i : Instr) (d : BitVec 5) (part : BitVec 4) (p : BitVec 3) (toF fromF : BitVec 4) (b : BitVec 5) (s : State)
      (f : Nat → FRes) : Prop :=
    let y (k : Nat) : FRes := f (velem (s.v b) (fmtBits fromF) (at_ fromF toF part k))
    ∃ u g, HeadEnds i s s u ∧ SameBut s u [] [d] [] g ∧
      (∀ k, k < n toF fromF → s.active p k = true →
        velem (u.v d) (fmtBits toF) (at_ toF fromF part k) = (y k).1 % 2 ^ fmtBits toF) ∧
      (∀ j, j < elemCount toF → (∀ k, k < n toF fromF → s.active p k = true → at_ toF fromF part k ≠ j) →
        velem (u.v d) (fmtBits toF) j = velem (s.v d) (fmtBits toF) j) ∧
      ∀ j, j < 5 → (g.getLsbD j = true ↔ ∃ k, k < n toF fromF ∧ s.active p k = true ∧ (y k).2.getLsbD j = true)
  let feeds (i : Instr) (d : BitVec 5) (er : BitVec 3) (part : BitVec 4) (p : BitVec 3) (toF : BitVec 4) (b : BitVec 5)
      (s : State) (enc : Nat → FRes) (dec : Nat → Nat) : Prop :=
    let y (k : Nat) := feedbackStep (velem (s.v b) 32 k) (velem (s.residue er) 32 k) enc dec
    ∃ u g, HeadEnds i s s u ∧
      SameBut (s.modMe fun h => { h with e := u.me.e }) u [] [d] [] g ∧
      (∀ k, k < 16 → velem (u.v d) (fmtBits toF) (part.toNat * 16 + k) = if s.active p k then (y k).1 % 2 ^ fmtBits toF
        else velem (s.v d) (fmtBits toF) (part.toNat * 16 + k)) ∧
      (∀ j, j < elemCount toF → (j < part.toNat * 16 ∨ part.toNat * 16 + 16 ≤ j) →
        velem (u.v d) (fmtBits toF) j = velem (s.v d) (fmtBits toF) j) ∧
      (∀ k, k < 16 → velem (u.residue er) 32 k = if s.active p k then (y k).2.2 % 2 ^ 32 else velem (s.residue er) 32 k) ∧
      (∀ r, r ≠ er → u.residue r = s.residue r) ∧
      ∀ j, j < 5 → (g.getLsbD j = true ↔ ∃ k, k < 16 ∧ s.active p k = true ∧ (y k).2.1.getLsbD j = true)
  (∀ d er rz part p toF fromF b s, Accepted acceptCompute (.vcvt d er 0 rz part p toF fromF b) [] [d, b] p s → s.plainV [d, b] →
    converts (.vcvt d er 0 rz part p toF fromF b) d part p toF fromF b s (convertFmt fromF toF (rz == 1))) ∧
  (∀ d er rz part p toF fromF b s, Accepted ⟨true, false, false, true⟩ (.vcvt d er 1 rz part p toF fromF b) [] [d, b] 0 s → s.plainV [d, b] →
    feeds (.vcvt d er 1 rz part p toF fromF b) d er part p toF b s (fconvert fp32 (fmtOf toF))
      fun c => (fconvert (fmtOf toF) fp32 c).1) ∧
  (∀ d er ef part p toF fromF b s, s.me.engine.tablePending (toF.toNat % 4) = false →
    (ef = 0 → Accepted acceptCompute (.venc d er ef part p toF fromF b) [] [d, b] p s → s.plainV [d, b] →
      ((s.me.tables[toF.toNat % 4]?).getD none = none → Traps (.venc d er ef part p toF fromF b) s (BitVec.ofNat 64 0x05) 0) ∧
      ∀ tb, (s.me.tables[toF.toNat % 4]?).getD none = some tb →
        converts (.venc d er ef part p toF fromF b) d part p toF fromF b s (encodeFrom tb (decide (12 ≤ toF.toNat)) fromF)) ∧
    (ef = 1 → Accepted ⟨true, false, false, true⟩ (.venc d er ef part p toF fromF b) [] [d, b] 0 s → s.plainV [d, b] →
      ∀ tb, (s.me.tables[toF.toNat % 4]?).getD none = some tb →
        feeds (.venc d er ef part p toF fromF b) d er part p toF b s (encodeCode tb (decide (12 ≤ toF.toNat)))
          fun c => (decodeCode tb (decide (12 ≤ toF.toNat)) fp32 c).1)) ∧
  (∀ d part p toF fromF b s, s.me.engine.tablePending (fromF.toNat % 4) = false →
    Accepted acceptCompute (.vdec d part p toF fromF b) [] [d, b] p s → s.plainV [d, b] →
    ((s.me.tables[fromF.toNat % 4]?).getD none = none → Traps (.vdec d part p toF fromF b) s (BitVec.ofNat 64 0x05) 0) ∧
    ∀ tb, (s.me.tables[fromF.toNat % 4]?).getD none = some tb →
      converts (.vdec d part p toF fromF b) d part p toF fromF b s (decodeCode tb (decide (12 ≤ fromF.toNat)) (fmtOf toF)))

/-- Every form of LD at an aligned address. In TCM or scratchpad, with a plain qualifier and nothing in the way
(LocalAt), it completes with xd holding the little-endian bytes at the home, sign- or zero-extended, and with nothing
else changed. Anywhere and with any qualifier: if the checks and translation of the address give a place (once its
request has gone to a registrar, the place of the request), and the ordered read of the place gives a value, it
completes with that value, and nothing changes but what those checks and that read change. A misaligned address raises
MISALIGNED with the address as value. The address is the base register, or with P the head's line, plus the sign-
extended offset. [R66, R68, R92, R203, R339, R341] -/
def Obligations.ScalarLoads : Prop :=
  let reads (i : Instr) (xs : List (BitVec 6)) (d : BitVec 6) (size : Nat) (sx : Bool) (q : BitVec 8)
      (addr : State → Word) : Prop :=
    let val (v : Nat) : Word := if sx then (BitVec.ofNat (8 * size) v).signExtend 64 else BitVec.ofNat 64 v
    (∀ s home, Accepted acceptAll i xs [] 0 s → (addr s).toNat % size = 0 → qualOrd q = 0 → LocalAt s (addr s) size home →
      EndsAs i s s s [d] [] [] 0 fun t => t.x d = if d = 0 then 0 else val (memNat s.mem home size)) ∧
    (∀ s p u v w, Accepted acceptAll i xs [] 0 s → (addr s).toNat % size = 0 → Gives (sentPlaceM (myPlace .load (addr s) size)) s p u →
      Gives (loadAt p size q (addr s)) u v w → w.ctx = s.ctx →
      EndsAs i s w w [d] [] [] 0 fun t => t.x d = if d = 0 then 0 else val v) ∧
    (∀ s, Accepted acceptAll i xs [] 0 s → (addr s).toNat % size ≠ 0 → Traps i s (BitVec.ofNat 64 0x08) (addr s))
  let short (b : BitVec 6) (off : BitVec 15) (s : State) : Word := s.x b + off.signExtend 64
  let long (p : BitVec 1) (b : BitVec 6) (off : BitVec 46) (s : State) : Word :=
    (if p = 1 then s.pc &&& ~~~0x3F#64 else s.x b) + off.signExtend 64
  let named (p : BitVec 1) (b : BitVec 6) : List (BitVec 6) := if p = 1 then [] else [b]
  (∀ d off b q, reads (.ldB d off b q) [d, b] d 1 true q (short b off)) ∧
  (∀ d off b q, reads (.ldBu d off b q) [d, b] d 1 false q (short b off)) ∧
  (∀ d off b q, reads (.ldH d off b q) [d, b] d 2 true q (short b off)) ∧
  (∀ d off b q, reads (.ldHu d off b q) [d, b] d 2 false q (short b off)) ∧
  (∀ d off b q, reads (.ldW d off b q) [d, b] d 4 true q (short b off)) ∧
  (∀ d off b q, reads (.ldWu d off b q) [d, b] d 4 false q (short b off)) ∧
  (∀ d off b q, reads (.ldD d off b q) [d, b] d 8 false q (short b off)) ∧
  (∀ d p off b q, reads (.ldBLong d p off b q) (d :: named p b) d 1 true q (long p b off)) ∧
  (∀ d p off b q, reads (.ldBuLong d p off b q) (d :: named p b) d 1 false q (long p b off)) ∧
  (∀ d p off b q, reads (.ldHLong d p off b q) (d :: named p b) d 2 true q (long p b off)) ∧
  (∀ d p off b q, reads (.ldHuLong d p off b q) (d :: named p b) d 2 false q (long p b off)) ∧
  (∀ d p off b q, reads (.ldWLong d p off b q) (d :: named p b) d 4 true q (long p b off)) ∧
  (∀ d p off b q, reads (.ldWuLong d p off b q) (d :: named p b) d 4 false q (long p b off)) ∧
  (∀ d p off b q, reads (.ldDLong d p off b q) (d :: named p b) d 8 false q (long p b off))

/-- Every form of ST and STT at an aligned address. In TCM or scratchpad outside the thatcher's stack, with a plain
qualifier, nothing in the way and no search running, it completes with the store buffer holding one entry, the low
bytes of the register at their home; no byte of memory and no register changes yet. Anywhere, when the checks give a
place: unordered, it completes with those bytes buffered behind the trail entry of a running search; ordered, it is
performed at its head once the drain and the waits at its unit are over, the trail entry written before it. A
misaligned address raises MISALIGNED, and STT outside the TCM window raises OPERAND, each with the address as value.
[R40, R66, R72, R92, R97, R339, R343, R437] -/
def Obligations.ScalarStores : Prop :=
  let writes (a : Accept) (stt : Bool) (i : Instr) (xs : List (BitVec 6)) (src : BitVec 6) (size : Nat) (q : BitVec 8)
      (addr : State → Word) : Prop :=
    let here (s : State) : Prop := (addr s).toNat % size = 0 ∧ (stt = true → (s.windowOf s.cur (addr s).toNat).1 = .tcm)
    let data (s : State) (p : Place) : List MaskedByte := cellsAt p.home (bytesOf (s.x src).toNat size)
    (∀ s home, Accepted a i xs [] 0 s → here s → qualOrd q = 0 → LocalAt s (addr s) size home → outsideStack home size →
      s.mySearch = none → EndsAs i s s (s.pushCells (data s ⟨home, false⟩) q false) [] [] [] 0 fun t =>
        (∀ b, memGet t.mem b = memGet s.mem b) ∧
          ∃ e, t.me.mem.sb = [e] ∧ e.op = .write (data s ⟨home, false⟩) ∧ e.qual = q ∧ e.sync = false) ∧
    (∀ s p u w, Accepted a i xs [] 0 s → here s → qualOrd q ≠ 3 → Gives (myPlace .store (addr s) size) s p u →
      Gives (storeCheck p size (addr s)) u () u → Gives (trailStore p.home stt false) u () w →
      EndsAs i s w (w.pushCells (data s p) q p.sync) [] [] [] 0 fun t => ∀ b, memGet t.mem b = memGet w.mem b) ∧
    (∀ s p u v y z w, Accepted a i xs [] 0 s → here s → qualOrd q = 3 → Gives (myPlace .store (addr s) size) s p u →
      Gives (storeCheck p size (addr s)) u () u → Gives (drainM (qualScope q)) u () v →
      Gives (meetTag p.home p.sync false) v () y → Gives (trailStore p.home stt true) y () z →
      Gives (meetCells (data s p) p.sync) z () w →
      EndsAs i s (w.storeNow (data s p) q p.sync) (w.storeNow (data s p) q p.sync) [] [] [] 0 fun _ => True) ∧
    (∀ s, Accepted a i xs [] 0 s → (stt = true → (s.windowOf s.cur (addr s).toNat).1 = .tcm) → (addr s).toNat % size ≠ 0 →
      Traps i s (BitVec.ofNat 64 0x08) (addr s)) ∧
    (∀ s, Accepted a i xs [] 0 s → stt = true → (s.windowOf s.cur (addr s).toNat).1 ≠ .tcm →
      Traps i s (BitVec.ofNat 64 0x05) (addr s))
  let short (b : BitVec 6) (off : BitVec 15) (s : State) : Word := s.x b + off.signExtend 64
  let long (p : BitVec 1) (b : BitVec 6) (off : BitVec 46) (s : State) : Word :=
    (if p = 1 then s.pc &&& ~~~0x3F#64 else s.x b) + off.signExtend 64
  let named (p : BitVec 1) (b : BitVec 6) : List (BitVec 6) := if p = 1 then [] else [b]
  (∀ r off b q, writes acceptAll false (.stB r off b q) [r, b] r 1 q (short b off)) ∧
  (∀ r off b q, writes acceptAll false (.stH r off b q) [r, b] r 2 q (short b off)) ∧
  (∀ r off b q, writes acceptAll false (.stW r off b q) [r, b] r 4 q (short b off)) ∧
  (∀ r off b q, writes acceptAll false (.stD r off b q) [r, b] r 8 q (short b off)) ∧
  (∀ r p off b q, writes acceptAll false (.stBLong r p off b q) (r :: named p b) r 1 q (long p b off)) ∧
  (∀ r p off b q, writes acceptAll false (.stHLong r p off b q) (r :: named p b) r 2 q (long p b off)) ∧
  (∀ r p off b q, writes acceptAll false (.stWLong r p off b q) (r :: named p b) r 4 q (long p b off)) ∧
  (∀ r p off b q, writes acceptAll false (.stDLong r p off b q) (r :: named p b) r 8 q (long p b off)) ∧
  (∀ r off b q, writes acceptMain true (.sttB r off b q) [r, b] r 1 q (short b off)) ∧
  (∀ r off b q, writes acceptMain true (.sttH r off b q) [r, b] r 2 q (short b off)) ∧
  (∀ r off b q, writes acceptMain true (.sttW r off b q) [r, b] r 4 q (short b off)) ∧
  (∀ r off b q, writes acceptMain true (.sttD r off b q) [r, b] r 8 q (short b off)) ∧
  (∀ r off b q, writes acceptMain true (.sttBLong r off b q) [r, b] r 1 q (long 0 b off)) ∧
  (∀ r off b q, writes acceptMain true (.sttHLong r off b q) [r, b] r 2 q (long 0 b off)) ∧
  (∀ r off b q, writes acceptMain true (.sttWLong r off b q) [r, b] r 4 q (long 0 b off)) ∧
  (∀ r off b q, writes acceptMain true (.sttDLong r off b q) [r, b] r 8 q (long 0 b off))

/-- STORE_BUFFER_RETIRE of an entry that may go and waits at no unit, and that holds the bytes of one word, at a DRAM,
TCM or scratchpad home on a die without pending updates and outside every spill area: afterwards each of those bytes
reads as stored and every other byte of memory as before, a TCM or scratchpad word is full, a word covered whole has
lost its poison, the entry has left the buffer, and no register of any hart changes. Before that, a load of exactly
the bytes that the youngest buffered store holds gets them. [R62, R68, R92, R110, R184] -/
def Obligations.StoreRetirement : Prop :=
  (∀ (s : State) (h k a : Nat) (d : List Byte) (e : StoreEntry), Memory.wf s.mem = true → (s.hart h).mem.sb[k]? = some e →
    e.op = .write (cellsAt a d) → d ≠ [] → a % 8 + d.length ≤ 8 →
    (homeOf a = .dram ∨ homeOf a = .tcm ∨ homeOf a = .pad) →
    (s.die (homeDie a)).gutter = [] → s.inSpill a = false → e.qual.toNat < 128 → s.entryReady h k e = true →
    s.entryWaits h e = (false, s) → ∃ t, exec (.storeBufferRetire h k) s = .next t ∧
      (∀ j, j < d.length → memGet t.mem (a + j) = (d[j]?).getD 0) ∧
      (∀ b, b < a ∨ a + d.length ≤ b → memGet t.mem b = memGet s.mem b) ∧
      (homeOf a ≠ .dram → t.isFull (wordAt a) = true) ∧
      (homeOf a ≠ .pad → d.length = 8 → wordAt a ∉ t.poison) ∧
      (t.hart h).mem.sb = (s.hart h).mem.sb.take k ++ (s.hart h).mem.sb.drop (k + 1) ∧
      ∀ j, (t.hart j).main = (s.hart j).main ∧ (t.hart j).handler = (s.hart j).handler ∧ (t.hart j).p = (s.hart j).p) ∧
  (∀ (s : State) (l : List StoreEntry) (e : StoreEntry) (home n : Nat) (d : List Byte) (q : BitVec 8) (va : Word),
    s.me.mem.sb = l ++ [e] → e.op = .write (cellsAt home d) → d.length = n → 1 ≤ n → n ≤ 8 → inHartWindow home = false →
    waitsForUpdate home n s.me.mem.sb = false → qualOrd q ≠ 3 → Gives (loadAt ⟨home, false⟩ n q va) s (natOf d) s)

/-- Unit-stride forms of 8 to 64 bits, aligned, in TCM or scratchpad with nothing in the way: VLD completes with every
active element holding the bytes at base + i·w/8 and every other element unchanged; VST (outside the thatcher's stack,
no search running) completes with exactly the active elements' bytes buffered, no register and no byte of memory
changed yet. Every form, strided, 4-bit and ordered ones included, completes so when its base, its places and its
reads are given, with the elements that were read; an ordered VST is performed at its head once its waits are over. An
odd element offset of a 4-bit format and a misaligned first element raise MISALIGNED, and VLD into a stream-mode
register raises OPERAND. [R66, R303, R306, R339, R345] -/
def Obligations.VectorLoadsAndStores : Prop :=
  let part (t : BitVec 4) (q : BitVec 8) (e : VElem × Place) : M (Nat × Nat) := do
    let v ← loadPart e.2 ((fmtBits t + 7) / 8) q e.1.addr
    pure (e.1.idx, if fmtBits t = 4 then v / 16 ^ (e.1.idx % 2) % 16 else v)
  let loads (i : Instr) (d : BitVec 5) (off : BitVec 32) (c : BitVec 6) (sc : BitVec 1) (p : BitVec 3) (t : BitVec 4)
      (b : BitVec 6) (q : BitVec 8) : Prop :=
    (∀ s home, Accepted acceptCompute i (b :: xsOfC sc c) [d] p s → s.plainV [d] → sc = 0 → fmtBits t ≠ 4 → qualOrd q = 0 →
      (s.x b + off.signExtend 64).toNat % (fmtBits t / 8) = 0 → LocalAt s (s.x b + off.signExtend 64) 64 home →
      EndsAs i s s s [] [d] [] 0 fun u => ∀ k, k < elemCount t → velem (u.v d) (fmtBits t) k =
        if s.active p k then memNat s.mem (home + k * (fmtBits t / 8)) (fmtBits t / 8) else velem (s.v d) (fmtBits t) k) ∧
    (∀ s a places u vals w, Accepted acceptCompute i (b :: xsOfC sc c) [d] p s → s.plainV [d] →
      Gives (vectorBase t b off) s a s → Gives (vectorPlaces .load t (vectorElems s t p sc c a)) s places u →
      Gives (places.mapM (part t q)) u vals w → w.ctx = s.ctx →
      EndsAs i s w w [] [d] [] 0 fun y => ∀ k, k < elemCount t → velem (y.v d) (fmtBits t) k =
        match vals.find? (fun e => e.1 == k) with
        | some e => e.2 % 2 ^ fmtBits t
        | none => velem (w.v d) (fmtBits t) k) ∧
    (∀ s, Accepted acceptCompute i (b :: xsOfC sc c) [d] p s → ¬ s.plainV [d] → Traps i s (BitVec.ofNat 64 0x05) 0)
  let stores (i : Instr) (d : BitVec 5) (off : BitVec 32) (c : BitVec 6) (sc : BitVec 1) (p : BitVec 3) (t : BitVec 4)
      (b : BitVec 6) (q : BitVec 8) : Prop :=
    let cells (u : State) (places : List (VElem × Place)) (sync : Bool) : List MaskedByte :=
      vectorCells t (u.v d) (places.filter fun e => e.2.sync == sync)
    (∀ s home, Accepted acceptCompute i (b :: xsOfC sc c) [d] p s → s.plainV [d] → sc = 0 → fmtBits t ≠ 4 → qualOrd q = 0 →
      s.mySearch = none → (s.x b + off.signExtend 64).toNat % (fmtBits t / 8) = 0 →
      LocalAt s (s.x b + off.signExtend 64) 64 home → outsideStack home 64 →
      EndsAs i s s (s.pushCells (((List.range (elemCount t)).filter (s.active p)).flatMap fun k =>
        cellsAt (home + k * (fmtBits t / 8)) (bytesOf (velem (s.v d) (fmtBits t) k) (fmtBits t / 8))) q false) [] [] [] 0
        fun u => ∀ x, memGet u.mem x = memGet s.mem x) ∧
    (∀ s a places u, Accepted acceptCompute i (b :: xsOfC sc c) [d] p s → s.plainV [d] → qualOrd q ≠ 3 →
      Gives (vectorBase t b off) s a s → Gives (vectorPlaces .store t (vectorElems s t p sc c a)) s places u →
      u.plainV [d] → EndsAs i s u ((u.pushCells (cells u places false) q false).pushCells (cells u places true) q true)
        [] [] [] 0 fun y => ∀ x, memGet y.mem x = memGet u.mem x) ∧
    (∀ s a places u y z z1 w w1, Accepted acceptCompute i (b :: xsOfC sc c) [d] p s → s.plainV [d] → qualOrd q = 3 →
      Gives (vectorBase t b off) s a s → Gives (vectorPlaces .store t (vectorElems s t p sc c a)) s places u →
      u.plainV [d] → Gives (drainM (qualScope q)) u () y → Gives (meetCells (cells u places false) false) y () z →
      Gives (meetCells (cells u places true) true) z () z1 → z1.plainV [d] →
      Gives (storeCells (cells u places false) q false) z1 () w → Gives (storeCells (cells u places true) q true) w () w1 →
      EndsAs i s w1 w1 [] [] [] 0 fun _ => True)
  let odd (i : Instr) (off : BitVec 32) (c : BitVec 6) (sc : BitVec 1) (p : BitVec 3) (t : BitVec 4) (b : BitVec 6)
      (d : BitVec 5) : Prop :=
    ∀ s, Accepted acceptCompute i (b :: xsOfC sc c) [d] p s → s.plainV [d] → fmtBits t = 4 → off.getLsbD 0 = true →
      Traps i s (BitVec.ofNat 64 0x08) (s.x b + (off.signExtend 64).sshiftRight 1)
  (∀ d c sc p t b q, loads (.vld d c sc p t b q) d 0 c sc p t b q) ∧
  (∀ d off c sc p t b q, loads (.vldLong d off c sc p t b q) d off c sc p t b q ∧
    odd (.vldLong d off c sc p t b q) off c sc p t b d) ∧
  (∀ d c sc p t b q, stores (.vst d c sc p t b q) d 0 c sc p t b q) ∧
  (∀ d off c sc p t b q, stores (.vstLong d off c sc p t b q) d off c sc p t b q ∧
    odd (.vstLong d off c sc p t b q) off c sc p t b d) ∧
  (∀ d c p t b q s, Accepted acceptCompute (.vld d c 0 p t b q) [b] [d] p s → s.plainV [d] → fmtBits t ≠ 4 →
    s.active p 0 = true → (s.x b).toNat % (fmtBits t / 8) ≠ 0 → (s.x b).toNat + 64 ≤ 2 ^ 64 →
    Traps (.vld d c 0 p t b q) s (BitVec.ofNat 64 0x08) (s.x b))

/-- On an aligned word of TCM or scratchpad with nothing in the way and a plain qualifier: LDF of a full word writes
it to xd, and an LDF that waited as the word became full writes the value of then, whatever the word holds since;
LDF.C does so and leaves the word empty; STE of an empty word (no search running, outside the thatcher's stack) leaves
the word holding the register and full, and every other byte unchanged; CLRE enters the store buffer. LDF and LDF.C of
an empty word and STE of a full one wait and change no byte, register or full-empty bit. A loft address raises NO_FE
and a misaligned one MISALIGNED, with the address as value. [R66, R68, R347] -/
def Obligations.FullEmptyAccess : Prop :=
  let acc : Accept := ⟨true, true, true, false⟩
  let at_ (off : BitVec 16) (b : BitVec 6) (s : State) : Word := s.x b + off.signExtend 64
  let here (off : BitVec 16) (b : BitVec 6) (q : BitVec 8) (s : State) (home : Nat) : Prop :=
    (at_ off b s).toNat % 8 = 0 ∧ LocalAt s (at_ off b s) 8 home ∧ qualOrd q = 0
  let still (i : Instr) (s : State) (home : Nat) (copy : Bool) : Prop := Waits i s (.fullEmpty home copy false) ∧ ∀ t, exec i s = .next t →
    t.full = s.full ∧ (∀ r, t.x r = s.x r) ∧ ∀ a, memGet t.mem a = memGet s.mem a
  let stops (i : Instr) (xs : List (BitVec 6)) (off : BitVec 16) (b : BitVec 6) : Prop :=
    (∀ s, Accepted acc i xs [] 0 s → (at_ off b s).toNat % 8 ≠ 0 → Traps i s (BitVec.ofNat 64 0x08) (at_ off b s)) ∧
    (∀ s o, Accepted acc i xs [] 0 s → (at_ off b s).toNat % 8 = 0 →
      windowCheck s s.cur (at_ off b s).toNat 8 = .ok (.loft, o) → Traps i s (BitVec.ofNat 64 0x0D) (at_ off b s))
  (∀ d off b q s home v, Accepted acc (.ldf d off b q) [d, b] [] 0 s → here off b q s home → s.parkValue = some v →
    EndsAs (.ldf d off b q) s s s [d] [] [] 0 fun t => t.x d = if d = 0 then 0 else v) ∧
  (∀ d off b q s home, Accepted acc (.ldf d off b q) [d, b] [] 0 s → here off b q s home → s.parkValue = none →
    s.isFull home = true →
    EndsAs (.ldf d off b q) s s s [d] [] [] 0 fun t => t.x d = if d = 0 then 0 else BitVec.ofNat 64 (memNat s.mem home 8)) ∧
  (∀ d off b q s home, Accepted acc (.ldfC d off b q) [d, b] [] 0 s → here off b q s home → s.parkValue = none →
    s.isFull home = true →
    EndsAs (.ldfC d off b q) s s (s.setFull home false) [d] [] [] 0 fun t => t.isFull home = false ∧
      t.x d = if d = 0 then 0 else BitVec.ofNat 64 (memNat s.mem home 8)) ∧
  (∀ d off b q s home, Accepted acc (.ldf d off b q) [d, b] [] 0 s → here off b q s home → s.parkValue = none →
    s.isFull home = false → still (.ldf d off b q) s home true) ∧
  (∀ d off b q s home, Accepted acc (.ldfC d off b q) [d, b] [] 0 s → here off b q s home → s.parkValue = none →
    s.isFull home = false → still (.ldfC d off b q) s home false) ∧
  (∀ r off b q s home, Accepted acc (.ste r off b q) [r, b] [] 0 s → here off b q s home → outsideStack home 8 →
    Memory.wf s.mem = true → s.mySearch = none → s.isFull home = false → ∃ t, HeadEnds (.ste r off b q) s s t ∧
      memNat t.mem home 8 = (s.x r).toNat ∧ t.isFull home = true ∧
      (∀ a, a < home ∨ home + 8 ≤ a → memGet t.mem a = memGet s.mem a) ∧ (∀ y, t.x y = s.x y) ∧ (∀ y, t.v y = s.v y) ∧
      t.me.sys.fflags = s.me.sys.fflags) ∧
  (∀ r off b q s home, Accepted acc (.ste r off b q) [r, b] [] 0 s → here off b q s home → outsideStack home 8 →
    s.isFull home = true → still (.ste r off b q) s home false) ∧
  (∀ off b q s home, Accepted acc (.clre off b q) [b] [] 0 s → here off b q s home → outsideStack home 8 →
    EndsAs (.clre off b q) s s (s.pushStore (.clre home) q false) [] [] [] 0 fun t =>
      ∃ e, t.me.mem.sb = [e] ∧ e.op = .clre home) ∧
  (∀ d off b q, stops (.ldf d off b q) [d, b] off b ∧ stops (.ldfC d off b q) [d, b] off b) ∧
  (∀ r off b q, stops (.ste r off b q) [r, b] off b) ∧ ∀ off b q, stops (.clre off b q) [b] off b

/-- PREF completes at every address, and one that would fault changes nothing at all. CLEAN and FLUSH complete with
one entry for their unit in the store buffer, or with none for TCM, scratchpad and sync-class places. LOFT_WRITE_BACK
of a dirty block that may leave, DECODE_AHEAD, DECODE_AHEAD_PLACE_EXPIRY and PATROL_SCRUB go on, leave every register
as it is and every byte of memory, but that a write-back may place the block raw in its loft's overflow area (R75).
After the write-back the block is in the eaves buffer no longer. DECODE_AHEAD of a block up to 64 ahead of the latest
read of a live reader that holds a place brings its four lines into the cluster's slice with priority 6, unused, when
L2 has room; without such a place it changes nothing. After the expiry the place is gone, and the readers at work that
wait for one, in the order of their first sequential read, have what is free of the four; an uncorrectable word is
poisoned. That the raw block of number b stands at byte 256·b of the area is the model's choice (assumption log 96).
[R75, R76, R79, R81, R184, R187, R349] -/
def Obligations.CacheMaintenance : Prop :=
  let at_ (off : BitVec 16) (b : BitVec 6) (s : State) : Word := s.x b + off.signExtend 64
  let cleans (drop : Bool) (i : Instr) (off : BitVec 16) (b : BitVec 6) (q : BitVec 8) : Prop :=
    (∀ s home, Accepted acceptAll i [b] [] 0 s → LocalAt s (at_ off b s) 1 home → EndsAs i s s s [] [] [] 0 fun _ => True) ∧
    ∀ s p u, Accepted acceptAll i [b] [] 0 s → Gives (myPlace .load (at_ off b s) 1) s p u →
      EndsAs i s u (match cacheUnit p with
        | some x => u.pushStore (.clean x drop) q false
        | none => u) [] [] [] 0 fun _ => True
  let still (s t : State) : Prop :=
    ∀ h, (t.hart h).main = (s.hart h).main ∧ (t.hart h).handler = (s.hart h).handler ∧ (t.hart h).p = (s.hart h).p
  let quiet (s t : State) : Prop := t.mem = s.mem ∧ still s t
  (∀ off b q s, Accepted acceptAll (.pref off b q) [b] [] 0 s → ∃ t, HeadEnds (.pref off b q) s s t ∧
    (∀ r, t.x r = s.x r) ∧ (∀ r, t.v r = s.v r) ∧ (∀ r, t.p r = s.p r) ∧ t.me.sys.fflags = s.me.sys.fflags) ∧
  (∀ off b q s e u, Accepted acceptAll (.pref off b q) [b] [] 0 s →
    (myPlace .load (at_ off b s) 1).run s = (.error e, u) → EndsAs (.pref off b q) s s s [] [] [] 0 fun _ => True) ∧
  (∀ off b q, cleans false (.clean off b q) off b q) ∧ (∀ off b q, cleans true (.flush off b q) off b q) ∧
  (∀ s k b e, (s.cluster k).loft.eaves.find? (fun x => x.1 == b) = some e → e.2.1 = true →
    s.evictable (loftHome k (256 * b)) = true → Memory.wf s.mem = true → ∃ t, exec (.loftWriteBack k b) s = .next t ∧ still s t ∧
      (∀ a, a < loftArea k + 256 * b ∨ loftArea k + 256 * b + 256 ≤ a → memGet t.mem a = memGet s.mem a) ∧
      ∀ x ∈ (t.cluster k).loft.eaves, x.1 ≠ b) ∧
  (∀ s k n b, ∃ t, exec (.decodeAhead k n b) s = .next t ∧ quiet s t) ∧
  (∀ s k n b pl, k < 256 → b < 98304 → pl ∈ (s.cluster k).loft.places → pl.1 = readerOf k n → pl.2.1 ≤ b → b ≤ pl.2.1 + 64 →
    s.readerLives (readerOf k n) = true → (s.die (k / 64)).l2.length ≤ 12 → ∃ t, exec (.decodeAhead k n b) s = .next t ∧
      ∀ j, j < 4 → (⟨loftHome k (256 * b) / 64 + j, 6, false, true, false, s.clock⟩ : L2Line) ∈ (t.die (k / 64)).l2) ∧
  (∀ s k n b, (∀ pl ∈ (s.cluster k).loft.places, pl.1 = readerOf k n → b < pl.2.1 ∨ pl.2.1 + 64 < b) →
    exec (.decodeAhead k n b) s = .next s) ∧
  (∀ s k n r b c, (s.cluster k).loft.places[n]? = some (r, b, c) → (s.readerLives r = false ∨ c + 4096 ≤ s.clock) →
    ∃ t, exec (.decodeAheadPlaceExpiry k n) s = .next t ∧ quiet s t ∧
      let kept := (s.cluster k).loft.places.take n ++ (s.cluster k).loft.places.drop (n + 1)
      let line := (s.cluster k).loft.waiting.filter fun p => s.readerLives p.1
      (t.cluster k).loft.places = kept ++ line.take (4 - kept.length) ∧
        (t.cluster k).loft.waiting = line.drop (4 - kept.length)) ∧
  (∀ s a, ∃ t, exec (.patrolScrub a false) s = .next t ∧ t = s) ∧
  (∀ s a, protectedHome a = true → ∃ t, exec (.patrolScrub a true) s = .next t ∧ quiet s t ∧ secdedWord a ∈ t.poison)

/-- On a main context of the triple whose role and element size match: QRD of an enabled queue that holds an element
completes with the destination (x, or v with V, zero-extended) holding the oldest element, COUNT one less and the head
one place on; QWR with room completes with the element, and its queue's ring, in the store buffer, and its retirement
appends it: COUNT one more and exactly its bytes in the scratchpad. QRD of an empty and QWR of a full queue wait. A
wrong role or size raises OPERAND with 0, and a disabled queue QUEUE_DISABLED with the queue number. QCFG writes the
RW fields of a queue that is empty or disabled, and a companion blocked on an enabled one is answered with
QUEUE_DISABLED; it waits while elements remain. [R47, R48, R49, R50, R51, R68, R355, R356, R357] -/
def Obligations.QueueAccess : Prop :=
  let acc : Accept := ⟨true, false, true, false⟩
  let size (w : BitVec 2) : Nat := match w.toNat with | 0 => 4 | 1 => 8 | 2 => 16 | _ => 64
  let mine (s : State) (q : BitVec 3) (write : Bool) (w : BitVec 2) : Prop :=
    (if write then bits (s.qctl (coreOf s.cur) q) 33 32 else bits (s.qctl (coreOf s.cur) q) 35 34) = queueCode s.cur ∧
      queueSize (s.qctl (coreOf s.cur) q) = size w
  let open_ (s : State) (q : BitVec 3) : Prop := bit (s.qctl (coreOf s.cur) q) 63 = true
  let head (s : State) (q : BitVec 3) : Nat := ((s.hart (coreOf s.cur)).queues.head[q.toNat]?).getD 0
  let oldest (s : State) (q : BitVec 3) : Nat := padHome (clusterOf (coreOf s.cur)) (s.queueOffset (coreOf s.cur) q 0)
  let clear (s : State) (a n : Nat) : Prop := ∀ u ∈ unitsOver 8 a n, s.mustWait s.cur (8 * u) none = false ∧
    ∀ g, tget s.tags (8 * u) = some g → inScope g.writer g.scope s.cur = true
  let taken (s : State) (q : BitVec 3) : State :=
    let v := s.qctl (coreOf s.cur) q
    s.setQctl (coreOf s.cur) q (setBits v 48 36 (bits v 48 36 - 1)) ((head s q + 1) % 2 ^ bits v 31 28)
  (∀ d w v q s, Accepted acc (.qrd d w v q) [] [] 0 s → s.ctx = .main →
    (v = 1 → kindOf s.cur = 0 ∧ s.plainV [d.setWidth 5]) → s.me.answer = none → mine s q false w → open_ s q →
    clear s (oldest s q) (size w) → bits (s.qctl (coreOf s.cur) q) 48 36 ≠ 0 → s.poisonIn (oldest s q) (size w) = none →
    EndsAs (.qrd d w v q) s s (taken s q) (if v = 1 then [] else [d]) (if v = 1 then [d.setWidth 5] else []) [] 0 fun t =>
      let e := natOf ((List.range (size w)).map fun i => memGet s.mem (oldest s q + i))
      (v = 1 → t.v (d.setWidth 5) = BitVec.ofNat 512 e) ∧ (v = 0 → t.x d = if d = 0 then 0 else BitVec.ofNat 64 e)) ∧
  (∀ d w v q s, Accepted acc (.qrd d w v q) [] [] 0 s → (v = 1 → kindOf s.cur = 0 ∧ s.plainV [d.setWidth 5]) →
    s.me.answer = none → mine s q false w → open_ s q → bits (s.qctl (coreOf s.cur) q) 48 36 = 0 →
    Waits (.qrd d w v q) s (.queue q)) ∧
  (∀ d w v q s, Accepted acc (.qwr d w v q) [] [] 0 s → s.ctx = .main →
    (v = 1 → kindOf s.cur = 0 ∧ s.plainV [d.setWidth 5]) → s.me.answer = none → mine s q true w → open_ s q → s.queueStack (coreOf s.cur) q 1 = none →
    queueCount (s.qctl (coreOf s.cur) q) + s.queuePending (coreOf s.cur) q < queueDepth (s.qctl (coreOf s.cur) q) →
    let e := bytesOf (if v = 1 then (s.v (d.setWidth 5)).toNat else (s.x d).toNat) (size w)
    let op : StoreOp := .queue q e (s.queueRing (coreOf s.cur) q).1 (s.queueRing (coreOf s.cur) q).2
    EndsAs (.qwr d w v q) s s (s.pushStore op 0 false) [] [] [] 0 fun t => ∃ x, t.me.mem.sb = s.me.mem.sb ++ [x] ∧ x.op = op) ∧
  (∀ d w q s, Accepted acc (.qwr d w 0 q) [] [] 0 s → s.me.answer = none → mine s q true w → open_ s q →
    s.queueStack (coreOf s.cur) q 1 = none →
    queueDepth (s.qctl (coreOf s.cur) q) ≤ queueCount (s.qctl (coreOf s.cur) q) + s.queuePending (coreOf s.cur) q →
    Waits (.qwr d w 0 q) s (.queue q)) ∧
  (∀ d w q s, Accepted acc (.qrd d w 0 q) [] [] 0 s → s.me.answer = none →
    (¬ mine s q false w → Traps (.qrd d w 0 q) s (BitVec.ofNat 64 0x05) 0) ∧
    (mine s q false w → ¬ open_ s q → Traps (.qrd d w 0 q) s (BitVec.ofNat 64 0x0E) (q.setWidth 64))) ∧
  (∀ d w q s, Accepted acc (.qwr d w 0 q) [] [] 0 s → s.me.answer = none →
    (¬ mine s q true w → Traps (.qwr d w 0 q) s (BitVec.ofNat 64 0x05) 0) ∧
    (mine s q true w → ¬ open_ s q → Traps (.qwr d w 0 q) s (BitVec.ofNat 64 0x0E) (q.setWidth 64))) ∧
  (∀ (s : State) (h ring len : Nat) (q : BitVec 3) (e : StoreEntry) (d : List Byte), Memory.wf s.mem = true →
    (s.hart h).mem.sb[0]? = some e → e.op = .queue q d ring len → e.qual = 0 → s.entryReady h 0 e = true → s.entryWaits h e = (false, s) →
    let c := coreOf h
    let v := s.qctl c q
    bit v 63 = true → d.length = queueSize v → d ≠ [] → ∃ t, exec (.storeBufferRetire h 0) s = .next t ∧
      t.qctl c q = setBits v 48 36 (queueCount v + 1) ∧
      (∀ j, j < d.length → memGet t.mem (padHome (clusterOf c) (s.queueOffset c q (queueCount v)) + j) = (d[j]?).getD 0) ∧
      ∀ a, (a < padHome (clusterOf c) (s.queueOffset c q (queueCount v)) ∨
        padHome (clusterOf c) (s.queueOffset c q (queueCount v)) + d.length ≤ a) → memGet t.mem a = memGet s.mem a) ∧
  (∀ q b s, Accepted acceptMain (.qcfg q b) [b] [] 0 s → (bit (s.x b) 63 = true → queueRangeOk (s.x b) = true) →
    (bit (s.qctl s.cur q) 63 = true → queueCount (s.qctl s.cur q) = 0 ∧ s.queuePending s.cur q = 0) →
    EndsAs (.qcfg q b) s s ((if bit (s.qctl s.cur q) 63 then s.dropQueue s.cur q else s).setQctl s.cur q
      (s.x b &&& 0x8000_000F_FC0F_FFC0) 0) [] [] [] 0 fun t => t.qctl s.cur q = s.x b &&& 0x8000_000F_FC0F_FFC0 ∧
        ∀ h ∈ [4096 + s.cur, 8192 + s.cur], ∀ p, bit (s.qctl s.cur q) 63 = true → (s.hart h).park = some p → p.why = .queue q →
          (t.hart h).answer = some (.trap (BitVec.ofNat 64 0x0E) (q.setWidth 64) false)) ∧
  (∀ q b s, Accepted acceptMain (.qcfg q b) [b] [] 0 s → bit (s.qctl s.cur q) 63 = true →
    queueCount (s.qctl s.cur q) ≠ 0 → Waits (.qcfg q b) s .queueEmpty)

/-- STRM with a 16-byte aligned descriptor that can be read, a register of v24 to v31 in no stream, a free slot,
counts whose product is from 1 to 2^32 - 1 and no reserved bit completes with the slot enabled on that register with
LEFT at the product; a reserved scope is ILLEGAL, and anything else raises OPERAND with the descriptor's address.
STRMOFF completes with the slot off and every held strip gone. STREAM_REFILL of an open slot with fewer than four
strips held and a readable strip that need not wait appends exactly the 64 bytes at the strip's address, and moves on
by one strip; a misaligned strip address is kept as the slot's fault and FLT is set. VADD of a register in stream mode
with itself, whose stream has a strip ready, reads that strip for both fields and pops it once: LEFT falls by one, and
the last pop ends the stream. With no strip and no fault held it waits and changes no register. A destination in
stream mode raises OPERAND with value 0. That a reserved scope in the descriptor is ILLEGAL while an ORD other than
plain is OPERAND which R91 would make ILLEGAL too, is the model's choice (assumption log 58). [R91, R303, R306, R350,
R351, R353, R354] -/
def Obligations.Streams : Prop :=
  (∀ (d : BitVec 5) (k : BitVec 2) (b : BitVec 6) (s u : State) (ws : List Word),
    let W (j : Nat) : Word := (ws[j]?).getD 0
    let c0 := bits (W 4) 31 0
    let c1 := bits (W 4) 63 32
    let c2 := bits (W 5) 31 0
    Accepted acceptMain (.strm d k b) [b] [] 0 s → (s.x b).toNat % 16 = 0 → 24 ≤ d.toNat → (s.stream s.cur k).en = false →
    s.streamSlot d = none → Gives (loadWords (s.x b) 6) s ws u → u.cur = s.cur →
    (c0 * c1 * c2 ≠ 0 → c0 * c1 * c2 < 2 ^ 32 → bits (W 5) 63 40 = 0 → plainQual (bits (W 5) 39 32) = true →
      scopeBad (bits (W 5) 39 32) = false → ∃ t, HeadEnds (.strm d k b) s u t ∧ (∀ r, t.x r = u.x r) ∧ (∀ r, t.v r = u.v r) ∧
        (∀ a, memGet t.mem a = memGet u.mem a) ∧ (∀ j, j ≠ k → t.stream s.cur j = u.stream s.cur j) ∧
        let z := t.stream s.cur k
        z.en = true ∧ z.flt = false ∧ z.reg.toNat + 24 = d.toNat ∧ z.left = c0 * c1 * c2 ∧ z.held = [] ∧ z.next = 0 ∧
          z.base = W 0 ∧ z.s0 = W 1 ∧ z.s1 = W 2 ∧ z.s2 = W 3 ∧ z.c0 = c0 ∧ z.c1 = c1 ∧ z.c2 = c2) ∧
    (c0 * c1 * c2 = 0 ∨ 2 ^ 32 ≤ c0 * c1 * c2 ∨ bits (W 5) 63 40 ≠ 0 ∨ plainQual (bits (W 5) 39 32) = false →
      scopeBad (bits (W 5) 39 32) = false →
      exec (.strm d k b) s = .next (u.dropReply.takeTrap (BitVec.ofNat 64 0x05) u.pc (s.x b))) ∧
    (scopeBad (bits (W 5) 39 32) = true → exec (.strm d k b) s =
      .next (u.dropReply.takeTrap (BitVec.ofNat 64 0x03) u.pc (BitVec.ofNat 64 (headOf 0x56 2 d.toNat))))) ∧
  (∀ d k b s, Accepted acceptMain (.strm d k b) [b] [] 0 s → ((s.x b).toNat % 16 ≠ 0 ∨ d.toNat < 24 ∨
    (s.stream s.cur k).en = true ∨ s.streamSlot d ≠ none) → Traps (.strm d k b) s (BitVec.ofNat 64 0x05) (s.x b)) ∧
  (∀ k s, Accepted acceptMain (.strmoff k) [] [] 0 s →
    EndsAs (.strmoff k) s s (s.modStream s.cur k Stream.off) [] [] [] 0 fun t =>
      (t.stream s.cur k).en = false ∧ ((s.stream s.cur k).en = true → (t.stream s.cur k).held = [])) ∧
  (∀ (c : Nat) (k : BitVec 2) (s u v : State) (l : Spans), kindOf c = 0 →
    let z := s.stream c k
    z.en = true → z.flt = false → z.held.length < 4 → z.next < z.c0 * z.c1 * z.c2 → s.storesBefore c z.after = true →
    let a := z.base + BitVec.ofNat 64 (z.next % z.c0) * z.s0 + BitVec.ofNat 64 (z.next / z.c0 % z.c1) * z.s1 +
      BitVec.ofNat 64 (z.next / (z.c0 * z.c1)) * z.s2
    (a.toNat % 8 ≠ 0 → ∃ t, exec (.streamRefill c k) s = .next t ∧
      t.stream c k = { z with flt := true, fault := some (BitVec.ofNat 64 0x08, a) }) ∧
    (a.toNat % 8 = 0 → Gives (spansOf c z.root z.prv .load a.toNat 64 false) s l u → u.spansWait c l = (false, v) →
      v.poisonSpans l = none →
      let r := v.readSpansAs ⟨c, z.qual, some (.stream c k.toNat)⟩ l
      r.2.stream c k = z → ∃ t, exec (.streamRefill c k) s = .next t ∧ t.mem = r.2.mem ∧
        t.stream c k = { z with held := z.held ++ [BitVec.ofNat 512 (natOf r.1)], next := z.next + 1 })) ∧
  (∀ d t p b s k v rest, Accepted acceptCompute (.vadd d 0 t p (b.setWidth 6) b) [] [d, b] p s → s.streamSlot d = none →
    s.streamSlot b = some k → (s.stream s.cur k).held = v :: rest → d ≠ b →
    ∃ u, HeadEnds (.vadd d 0 t p (b.setWidth 6) b) s s u ∧
      (∀ j, j < elemCount t → velem (u.v d) (fmtBits t) j = if s.active p j then
        2 * velem v (fmtBits t) j % 2 ^ fmtBits t else velem (s.v d) (fmtBits t) j) ∧
      u.stream s.cur k = { s.stream s.cur k with
        held := rest, left := (s.stream s.cur k).left - 1, en := decide (1 < (s.stream s.cur k).left) } ∧
      (∀ r, u.x r = s.x r) ∧ ∀ a, memGet u.mem a = memGet s.mem a) ∧
  (∀ d t p b s k, Accepted acceptCompute (.vadd d 0 t p (b.setWidth 6) b) [] [d, b] p s → s.streamSlot d = none →
    s.streamSlot b = some k → (s.stream s.cur k).held = [] → (s.stream s.cur k).fault = none →
    Waits (.vadd d 0 t p (b.setWidth 6) b) s .stream ∧
      ∀ u, exec (.vadd d 0 t p (b.setWidth 6) b) s = .next u → ∀ r, u.v r = s.v r) ∧
  (∀ d t p b s k, Accepted acceptCompute (.vadd d 0 t p (b.setWidth 6) b) [] [d, b] p s → s.streamSlot d = some k →
    Traps (.vadd d 0 t p (b.setWidth 6) b) s (BitVec.ofNat 64 0x05) 0)

/-- COPY, between memories and queues in any pairing, GATHER, to memory or a queue, and PUTS with an aligned block
that can be read, no reserved bit, LEN not 0, targets, queues and ranges in order and every range translated complete
with one command in their hart's two-entry queue that moves LEN bytes (LEN times COUNT for GATHER) between exactly
those places; nothing else changes. A block that is not 64-byte aligned raises OPERAND with its address, as does one
with LEN 0; a reserved scope in it is ILLEGAL; a disabled queue raises QUEUE_DISABLED with its number; a full command
queue makes them wait. That a reserved scope in the block is ILLEGAL while an ORD other than plain is OPERAND, which
R91 would make ILLEGAL too, is the model's choice (assumption log 58). COPYW and COPYW.ALL complete when no transfer
of the hart (with that id) is unfinished, and otherwise wait. [R52, R74, R91, R104, R338, R358, R359, R361, R363,
R367, R368] -/
def Obligations.CopyCommands : Prop :=
  let W (ws : List Word) (j : Nat) : Word := (ws[j]?).getD 0
  let len (ws : List Word) : Nat := bits (W ws 2) 31 0
  let tidy (ws : List Word) : Prop := bit (W ws 2) 39 = false ∧ bit (W ws 2) 35 = false ∧ bits (W ws 3) 47 33 = 0 ∧
    bits (W ws 3) 31 16 = 0 ∧ bits (W ws 6) 63 34 = 0 ∧ W ws 7 = 0 ∧ len ws ≠ 0 ∧ plainQual (bits (W ws 3) 15 8) = true ∧
    plainQual (bits (W ws 3) 7 0) = true ∧
    scopeBad (bits (W ws 3) 15 8) = false ∧ scopeBad (bits (W ws 3) 7 0) = false ∧ handlerOk (bit (W ws 3) 32) (W ws 4) = true
  let cmd (s w : State) (ws : List Word) (a b : XferEnd) (n : Nat) (bell : Option (BitVec 2)) (ordered : Bool) : Xfer :=
    { hart := s.cur, op := .copy a b n, xid := BitVec.ofNat 16 (bits (W ws 3) 63 48), int := bit (W ws 3) 32
      handler := W ws 4, bell := bell.map fun k => (k, w.roll w.cur k), after := w.me.mem.serial, moved := 0, ahead := []
      buf := [], ordered := ordered, ended := false, done := false, squal := BitVec.ofNat 8 (bits (W ws 3) 15 8), dqual := BitVec.ofNat 8 (bits (W ws 3) 7 0) }
  let queued (i : Instr) (s w : State) (x : Xfer) : Prop :=
    EndsAs i s w (w.modMe fun h => { h with copy := { h.copy with queue := h.copy.queue ++ [x] } }) [] [] [] 0 fun t =>
      t.me.copy.queue = w.me.copy.queue ++ [x]
  let side (q : Option (BitVec 3)) (l : Spans) : XferEnd := match q with | some n => .queue n | none => .memory l
  let able (s : State) (q : Option (BitVec 3)) : Prop := ∀ n, q = some n → bit (s.qctl (coreOf s.cur) n) 63 = true
  let clear (s : State) (q : Option (BitVec 3)) (n : Nat) : Prop :=
    ∀ k, q = some k → s.queueStack (coreOf s.cur) k (n / queueSize (s.qctl (coreOf s.cur) k)) = none
  let srcOf (ws : List Word) (q : Option (BitVec 3)) : List XRange :=
    if q.isSome then [] else [⟨.load, bits (W ws 2) 34 32, bits (W ws 2) 51 40, (W ws 0).toNat, len ws⟩]
  let dstOf (ws : List Word) (q : Option (BitVec 3)) (n : Nat) : List XRange :=
    if q.isSome then [] else [⟨.store, bits (W ws 2) 38 36, bits (W ws 2) 63 52, (W ws 1).toNat, n⟩]
  let srcOk (ws : List Word) (q : Option (BitVec 3)) : Prop :=
    if q.isSome then W ws 0 = 0 ∧ bits (W ws 2) 34 32 = 0 ∧ bits (W ws 2) 51 40 = 0
    else targetEndOk (bits (W ws 2) 34 32) (bits (W ws 2) 51 40) (W ws 0).toNat (len ws) = true
  let dstOk (ws : List Word) (q : Option (BitVec 3)) (n : Nat) : Prop :=
    if q.isSome then W ws 1 = 0 ∧ bits (W ws 2) 38 36 = 0 ∧ bits (W ws 2) 63 52 = 0
    else targetEndOk (bits (W ws 2) 38 36) (bits (W ws 2) 63 52) (W ws 1).toNat n = true
  let plain (acc : Accept) (i : Instr) (b : BitVec 6) (bell : Option (BitVec 2)) (qs qd : Option (BitVec 3)) : Prop :=
    ∀ (s u w : State) (ws : List Word) (l : List Spans), Accepted acc i [b] [] 0 s → (s.x b).toNat % 64 = 0 →
      ((qs.isSome || qd.isSome) = true → kindOf s.cur ≠ 3 ∧ s.ctx = .main) →
      Gives (loadWords (s.x b) 8) s ws u → u.cur = s.cur → tidy ws → W ws 5 = 0 → W ws 6 = 0 → srcOk ws qs →
      dstOk ws qd (len ws) → u.queueSideOk qs false (len ws) = true → u.queueSideOk qd true (len ws) = true →
      (∀ k, bell = some k → bit (W ws 3) 32 = false ∧ bit (u.roll u.cur k) 63 = true) →
      Gives (rangesM true true (srcOf ws qs ++ dstOf ws qd (len ws))) u l w → w.cur = s.cur → clear w qd (len ws) →
      (able w qs → able w qd → w.me.copy.queue.length < 2 → queued i s w (cmd s w ws
        (side qs (l.take (srcOf ws qs).length).flatten) (side qd (l.drop (srcOf ws qs).length).flatten) (len ws) bell false)) ∧
      (able w qs → able w qd → 2 ≤ w.me.copy.queue.length → ∃ t, exec i s = .next t ∧ t.pc = w.pc ∧
        (t.parkedAs .engine).isSome = true ∧ t.me.copy.queue = w.me.copy.queue) ∧
      (∀ k, qs = some k → ¬ able w qs →
        exec i s = .next (w.dropReply.takeTrap (BitVec.ofNat 64 0x0E) w.pc (k.setWidth 64))) ∧
      (∀ k, qd = some k → able w qs → ¬ able w qd →
        exec i s = .next (w.dropReply.takeTrap (BitVec.ofNat 64 0x0E) w.pc (k.setWidth 64)))
  let stops (acc : Accept) (i : Instr) (b : BitVec 6) (head : Nat) : Prop :=
    (∀ s, Accepted acc i [b] [] 0 s → (s.x b).toNat % 64 ≠ 0 → Traps i s (BitVec.ofNat 64 0x05) (s.x b)) ∧
    ∀ s ws u, Accepted acc i [b] [] 0 s → (s.x b).toNat % 64 = 0 → Gives (loadWords (s.x b) 8) s ws u →
      (scopeBad (bits (W ws 3) 15 8) = true ∨ scopeBad (bits (W ws 3) 7 0) = true →
        exec i s = .next (u.dropReply.takeTrap (BitVec.ofNat 64 0x03) u.pc (BitVec.ofNat 64 head))) ∧
      (scopeBad (bits (W ws 3) 15 8) = false → scopeBad (bits (W ws 3) 7 0) = false → len ws = 0 →
        exec i s = .next (u.dropReply.takeTrap (BitVec.ofNat 64 0x05) u.pc (s.x b)))
  (∀ b v d w q, plain acceptAll (.copy b v d w q) b none (queueField w q) (queueField v d)) ∧
  (∀ b, stops acceptAll (.copy b 0 0 0 0) b (headOf 0x59 2 b.toNat)) ∧
  (∀ b k, plain acceptMain (.puts b k) b (some k) none none ∧ stops acceptMain (.puts b k) b (headOf 0x5C 2 b.toNat)) ∧
  (∀ b, stops ⟨true, false, false, true⟩ (.gather b 0 0) b (headOf 0x58 2 b.toNat)) ∧
  (∀ (b : BitVec 6) (v : BitVec 1) (d : BitVec 3) (s u y w : State) (ws : List Word) (idx : List Nat) (l : List Spans),
    let n := len ws * bits (W ws 6) 31 0
    let qd := queueField v d
    Accepted ⟨true, false, false, true⟩ (.gather b v d) [b] [] 0 s → (s.x b).toNat % 64 = 0 →
    (v = 1 → kindOf s.cur ≠ 3 ∧ s.ctx = .main) →
    Gives (loadWords (s.x b) 8) s ws u → u.cur = s.cur → tidy ws → bits (W ws 2) 34 32 = 0 → bits (W ws 2) 51 40 = 0 →
    len ws ≤ 8192 → bits (W ws 6) 33 32 ≤ 1 → bits (W ws 6) 31 0 ≤ 4096 → bits (W ws 6) 31 0 ≠ 0 →
    dstOk ws qd n → u.queueSideOk qd true (len ws) = true →
    Gives (indexListM (W ws 5) (bits (W ws 6) 31 0) (bits (W ws 6) 33 32)) u idx y →
    Gives (rangesM true true (idx.map (fun i => ⟨.load, 0, 0, ((W ws 0).toNat + i * len ws) % 2 ^ 64, len ws⟩) ++
      dstOf ws qd n)) y l w → w.cur = s.cur → clear w qd n → able w qd → w.me.copy.queue.length < 2 →
    queued (.gather b v d) s w (cmd s w ws (.memory (l.take idx.length).flatten) (side qd (l.drop idx.length).flatten) n
      none true)) ∧
  (∀ b s, Accepted acceptAll (.copyw b) [b] [] 0 s → s.xferWaits (fun x => x.xid == (s.x b).setWidth 16) = false →
    EndsAs (.copyw b) s s s [] [] [] 0 fun _ => True) ∧
  (∀ b s, Accepted acceptAll (.copyw b) [b] [] 0 s → s.xferWaits (fun x => x.xid == (s.x b).setWidth 16) = true →
    Waits (.copyw b) s .copyw) ∧
  (∀ s, Accepted acceptAll .copywAll [] [] 0 s → s.xferWaits (fun _ => true) = false →
    EndsAs .copywAll s s s [] [] [] 0 fun _ => True) ∧
  (∀ s, Accepted acceptAll .copywAll [] [] 0 s → s.xferWaits (fun _ => true) = true → Waits .copywAll s .copyw)

/-- TRANSFER_COMPLETE of a transfer whose hart's earlier stores are performed, with nothing poisoned, no tag, hold,
registrar request or update in the way, no spill area, and every loft block expanded. Between memories, over any
number of spans: one or more of the remaining destination words arrive as the source held them, in ascending order
into TCM and scratchpad and for a GATHER everywhere, every other byte keeps its value, and what has arrived is
remembered; with the last word the transfer leaves the engine, and one with INT raises its event, or holds it while
the FIFO is full. From a queue: the oldest element is taken, and its bytes arrive in whole words. To a queue: one
element arrives behind the youngest. Between queues: the oldest element goes over. A COPYL writes one or more of its
remaining destination words, each assembled from its elements over what it held, and no other byte. COPYL with a well-
formed request that can be read, identities and ranges that check, and fewer than 32 requests unfinished completes
with one request at its cluster's block-transfer engine; COPYL_REQUEST hands the next core's oldest request to that
core's transfers. That a reserved scope in a request of COPYL is ILLEGAL by R91 is the model's reading (assumption log
58). [R52, R84, R91, R104, R105, R106, R107, R186, R361, R363, R365, R366] -/
def Obligations.TransfersMoveBytes : Prop :=
  let calm (s : State) : Prop := Memory.wf s.mem = true ∧ s.poison = [] ∧ s.tags = [] ∧ s.holds = [] ∧ s.waiters = [] ∧
    (∀ d, (s.die d).gutter = [] ∧ (s.die d).registrar = []) ∧ ∀ a, s.inSpill a = false
  let at_ (l : Spans) (j : Nat) : Nat := (((partSpans l j 1).head?).map (·.home)).getD 0
  let runs (s : State) (o k : Nat) (x : Xfer) : Prop := calm s ∧ (s.hart o).copy.active[k]? = some x ∧ x.done = false ∧
    x.ended = false ∧ s.storesBefore x.hart x.after = true
  let covers (l : Spans) (len : Nat) : Prop := (l.map (·.len)).sum = len ∧ (∀ p ∈ l, 0 < p.len) ∧
    ∀ i j, i < len → j < len → at_ l i = at_ l j → i = j
  let expanded (s : State) (a : Nat) : Prop := homeOf a = .loft →
    (s.cluster (loftPlace a).1).loft.eaves.any (fun e => e.1 == (loftPlace a).2) = true
  let near (s : State) (l : Spans) (len : Nat) : Prop := ∀ j, j < len → expanded s (at_ l j)
  let left (s t : State) (o k : Nat) (x : Xfer) : Prop :=
    let e := eventHart x.hart
    (x.int = false → (t.hart o).copy.active = (s.hart o).copy.active.take k ++ (s.hart o).copy.active.drop (k + 1)) ∧
    (x.int = true → (s.hart e).copy.events.length < 8 →
      (t.hart e).copy.events = (s.hart e).copy.events ++ [⟨x.xid, x.handler⟩]) ∧
    (x.int = true → 8 ≤ (s.hart e).copy.events.length → ∃ y ∈ (t.hart o).copy.active, y.done = true ∧ y.xid = x.xid)
  let elem (o : Nat) (s : State) (q : BitVec 3) (j : Nat) : Nat := padOf o (s.queueOffset o q j)
  (∀ (s : State) (o k len : Nat) (x : Xfer) (a b : Spans), runs s o k x → x.op = .copy (.memory a) (.memory b) len →
    covers b len → (a.map (·.len)).sum = len → (∀ p ∈ a, 0 < p.len) → near s a len → near s b len →
    (∀ i j, i < len → j < len → at_ a i ≠ at_ b j) →
    let todo := (wordCuts b 0).filter fun w => decide (x.moved ≤ w.1) && !x.ahead.contains w.1
    todo ≠ [] → ∃ t now, exec (.transferComplete o k) s = .next t ∧ now ≠ [] ∧ (∀ w ∈ now, w ∈ todo) ∧
      ((x.ordered || ascends b) = true → ∃ r, todo = now ++ r) ∧
      (∀ w ∈ now, ∀ j, j < w.2 → memGet t.mem (at_ b (w.1 + j)) = memGet s.mem (at_ a (w.1 + j))) ∧
      (∀ c, (∀ w ∈ now, ∀ j, j < w.2 → c ≠ at_ b (w.1 + j)) → memGet t.mem c = memGet s.mem c) ∧
      ((∀ w ∈ todo, w ∈ now) → left s t o k x) ∧
      (¬ (∀ w ∈ todo, w ∈ now) → ∃ y, (t.hart o).copy.active[k]? = some y ∧ y.op = x.op ∧ y.hart = x.hart ∧
        ∀ w ∈ wordCuts b 0, (w.1 < y.moved ∨ w.1 ∈ y.ahead) ↔ (w ∉ todo ∨ w ∈ now))) ∧
  (∀ (s : State) (o k len : Nat) (x : Xfer) (q : BitVec 3) (b : Spans), runs s o k x → x.op = .copy (.queue q) (.memory b) len →
    covers b len → near s b len → (∃ w ∈ wordCuts b 0, w.1 = x.moved) → queueCount (s.qctl o q) ≠ 0 →
    let size := queueSize (s.qctl o q)
    let d := x.buf ++ (List.range size).map fun i => memGet s.mem (elem o s q 0 + i)
    x.moved + d.length ≤ len → ∃ t n, exec (.transferComplete o k) s = .next t ∧ n ≤ d.length ∧
      queueCount (t.qctl o q) = queueCount (s.qctl o q) - 1 ∧
      (∀ j, j < n → memGet t.mem (at_ b (x.moved + j)) = (d[j]?).getD 0) ∧
      (∀ c, (∀ j, j < n → c ≠ at_ b (x.moved + j)) → memGet t.mem c = memGet s.mem c) ∧
      (∀ w ∈ wordCuts b 0, x.moved ≤ w.1 → w.1 + w.2 ≤ x.moved + n ∨ x.moved + n ≤ w.1) ∧
      (∀ w ∈ wordCuts b 0, x.moved ≤ w.1 → w.1 + w.2 ≤ x.moved + d.length → w.1 + w.2 ≤ x.moved + n) ∧
      (x.moved + d.length = len → n = d.length ∧ left s t o k x) ∧
      (x.moved + d.length < len →
        (t.hart o).copy.active[k]? = some { x with moved := x.moved + n, buf := d.drop n })) ∧
  (∀ (s : State) (o k len : Nat) (x : Xfer) (q : BitVec 3) (a : Spans), runs s o k x → x.op = .copy (.memory a) (.queue q) len →
    (a.map (·.len)).sum = len → near s a len → s.queueRoom o q = true →
    let size := queueSize (s.qctl o q)
    let place := elem o s q (queueCount (s.qctl o q))
    x.moved + size ≤ len → ∃ t, exec (.transferComplete o k) s = .next t ∧
      queueCount (t.qctl o q) = (queueCount (s.qctl o q) + 1) % 2 ^ 13 ∧
      (∀ j, j < size → memGet t.mem (place + j) = memGet s.mem (at_ a (x.moved + j))) ∧
      (∀ c, (c < place ∨ place + size ≤ c) → memGet t.mem c = memGet s.mem c) ∧
      (len = x.moved + size → left s t o k x) ∧
      (x.moved + size < len → (t.hart o).copy.active[k]? = some { x with moved := x.moved + size })) ∧
  (∀ (s : State) (o k len : Nat) (x : Xfer) (q r : BitVec 3), runs s o k x → x.op = .copy (.queue q) (.queue r) len → q ≠ r →
    queueCount (s.qctl o q) ≠ 0 → s.queueRoom o r = true →
    let size := queueSize (s.qctl o q)
    let place := elem o s r (queueCount (s.qctl o r))
    ∃ t, exec (.transferComplete o k) s = .next t ∧ queueCount (t.qctl o q) = queueCount (s.qctl o q) - 1 ∧
      queueCount (t.qctl o r) = (queueCount (s.qctl o r) + 1) % 2 ^ 13 ∧
      (∀ j, j < size → memGet t.mem (place + j) = memGet s.mem (elem o s q 0 + j)) ∧
      (∀ c, (c < place ∨ place + size ≤ c) → memGet t.mem c = memGet s.mem c) ∧
      (len ≤ x.moved + size → left s t o k x) ∧
      (x.moved + size < len → (t.hart o).copy.active[k]? = some { x with moved := x.moved + size })) ∧
  (∀ (s : State) (o k : Nat) (x : Xfer) (src dst : Layout), runs s o k x → x.op = .copyl src dst →
    (∀ p ∈ src.spans ++ dst.spans, ∀ a, p.home ≤ a → a < p.home + p.len → expanded s a) →
    let words := sortBy (fun (a b : Nat) => decide (a ≤ b))
      (((List.range dst.count).flatMap fun j => (dst.cells j 0).map (fun c => wordAt c.addr)).dedup)
    let todo := words.filter fun w => decide (x.moved ≤ w) && !x.ahead.contains w
    todo ≠ [] → ∃ t now, exec (.transferComplete o k) s = .next t ∧ now ≠ [] ∧ (∀ w ∈ now, w ∈ todo) ∧
      (ascends dst.spans = true → ∃ r, todo = now ++ r) ∧
      (∀ w ∈ now, ∀ a, w ≤ a → a < w + 8 → memGet t.mem a = maskedOver (s.layoutWord src dst w) a (memGet s.mem a)) ∧
      (∀ c, wordAt c ∉ now → memGet t.mem c = memGet s.mem c) ∧ ((∀ w ∈ todo, w ∈ now) → left s t o k x) ∧
      (¬ (∀ w ∈ todo, w ∈ now) → ∃ y, (t.hart o).copy.active[k]? = some y ∧ y.op = x.op ∧ y.hart = x.hart ∧
        ∀ w ∈ words, (w < y.moved ∨ w ∈ y.ahead) ↔ (w ∉ todo ∨ w ∈ now))) ∧
  (∀ (b : BitVec 6) (s u v w y z w' : State) (ws : List Word) (src dst : Layout) (si di : Nat) (p : List Spans),
    let W (j : Nat) : Word := (ws[j]?).getD 0
    let src' : Layout := { src with spans := (p.take (src.ranges .load).length).flatten }
    let dst' : Layout := { dst with spans := (p.drop (src.ranges .load).length).flatten }
    Accepted acceptMain (.copyl b) [b] [] 0 s → (s.x b).toNat % 16 = 0 → Gives (loadWords (s.x b) 22) s ws u →
    (∀ q ∈ [bits (W 3) 7 0, bits (W 13) 7 0], scopeBad q = false ∧ plainQual q = true) →
    readLayout ((ws.drop 2).take 10) = some (src, si) → readLayout ((ws.drop 12).take 10) = some (dst, di) →
    bits (W 0) 47 33 = 0 → bits (W 0) 31 0 = 0 → handlerOk (bit (W 0) 32) (W 1) = true → src.fmt = dst.fmt →
    src.count = dst.count → src.ok = true → dst.ok = true → Gives (identityM src.fmt si (s.x b)) u () v →
    Gives (identityM dst.fmt di (s.x b)) v () w → Gives (layoutWindowM src) w () y → Gives (layoutWindowM dst) y () z →
    Gives (rangesM true false (src.ranges .load ++ dst.ranges .store)) z p w' → w'.cur = s.cur → dst'.stackByte = none →
    w'.copylCount (clusterOf s.cur) < 32 → ∃ t x, HeadEnds (.copyl b) s w' t ∧
      (t.cluster (clusterOf s.cur)).copyl = (w'.cluster (clusterOf s.cur)).copyl ++ [x] ∧ x.hart = s.cur ∧
      x.op = .copyl src' dst' ∧ x.xid = BitVec.ofNat 16 (bits (W 0) 63 48) ∧ x.moved = 0 ∧ x.ahead = [] ∧
      (∀ r, t.x r = w'.x r) ∧ ∀ a, memGet t.mem a = memGet w'.mem a) ∧
  (∀ b s, Accepted acceptMain (.copyl b) [b] [] 0 s → (s.x b).toNat % 16 ≠ 0 →
    Traps (.copyl b) s (BitVec.ofNat 64 0x05) (s.x b)) ∧
  (∀ (s : State) (k h : Nat) (x : Xfer) (r : List Xfer), (s.cluster k).copyl = x :: r → x.hart = h →
    (coreTurn k (s.cluster k).copylTurn).find? (fun c => (s.cluster k).copyl.any fun y => y.hart == c) = some h →
    ∃ t, exec (.copylRequest k) s = .next t ∧ (t.cluster k).copyl = r ∧
      (t.hart h).copy.active = (s.hart h).copy.active ++ [x] ∧ t.mem = s.mem)

/-- ROLLW between phases with a value that describes the core (or with EN 0) completes with xd holding the old value
and cr.roll the value's EN and class fields with both counts 0. BARR between phases completes with ARR one higher
modulo 256, C set and one arrival under way. BWAIT completes with ARR in bits 15:8 and code 0 (1 with FM, 2 at its
time limit), and waits while DONE differs from ARR. PHASE sets C. A context whose EN is 0 raises OPERAND with 0 in
BARR, BWAIT and PHASE. BARRIER_ARRIVAL_SIGNAL makes an arrival reach the network once its release is made: when it was
the last that a phase lacked, the phase may then complete, and before it may not. BARRIER_RELEASE, once the phase may
complete, leaves DONE of every member equal to ARR and C clear. [R370, R371, R374, R375, R378, R380, R381] -/
def Obligations.BellBarriers : Prop :=
  let acc := acceptMain
  (∀ d k b s, Accepted acc (.rollw d k b) [d, b] [] 0 s → rollArr (s.roll s.cur k) = rollDone (s.roll s.cur k) →
    (bit (s.x b) 63 = true → bits (s.x b) 47 44 + bits (s.x b) 39 36 ≤ 15 ∧ bits (s.x b) 43 40 + bits (s.x b) 35 32 ≤ 15 ∧
      describes (s.x b) s.cur = true) → ∃ t, HeadEnds (.rollw d k b) s s t ∧
      t.x d = (if d = 0 then 0 else s.roll s.cur k) ∧ (∀ r, r ≠ d → t.x r = s.x r) ∧ (∀ r, t.v r = s.v r) ∧
      t.roll s.cur k = (if bit (s.x b) 63 then s.x b &&& 0xC0FF_FFFF_FFFF_0000 else 0) ∧
      (∀ j, j ≠ k → t.roll s.cur j = s.roll s.cur j) ∧ ∀ a, memGet t.mem a = memGet s.mem a) ∧
  (∀ d k b s, Accepted acc (.rollw d k b) [d, b] [] 0 s → rollArr (s.roll s.cur k) ≠ rollDone (s.roll s.cur k) →
    Waits (.rollw d k b) s .bellPhase) ∧
  (∀ k s, Accepted acc (.barr k) [] [] 0 s → bit (s.roll s.cur k) 63 = true →
    rollArr (s.roll s.cur k) = rollDone (s.roll s.cur k) →
    let n := (rollArr (s.roll s.cur k) + 1) % 256
    ∃ t, HeadEnds (.barr k) s s t ∧ rollArr (t.roll s.cur k) = n ∧ bit (t.roll s.cur k) 61 = true ∧
      rollDone (t.roll s.cur k) = rollDone (s.roll s.cur k) ∧ rollClass (t.roll s.cur k) = rollClass (s.roll s.cur k) ∧
      (∃ serial, t.net = s.net ++ [.arrival s.cur k.toNat (BitVec.ofNat 8 n) serial]) ∧ (∀ r, t.x r = s.x r) ∧
      ∀ a, memGet t.mem a = memGet s.mem a) ∧
  (∀ d c k s, Accepted acc (.bwait d c k) [d, c] [] 0 s → bit (s.roll s.cur k) 63 = true →
    rollDone (s.roll s.cur k) = rollArr (s.roll s.cur k) → EndsAs (.bwait d c k) s s s [d] [] [] 0 fun t =>
      t.x d = if d = 0 then 0 else
        BitVec.ofNat 64 (rollArr (s.roll s.cur k) * 256 + if bit (s.roll s.cur k) 60 then 1 else 0)) ∧
  (∀ d c k s p, Accepted acc (.bwait d c k) [d, c] [] 0 s → bit (s.roll s.cur k) 63 = true →
    rollDone (s.roll s.cur k) ≠ rollArr (s.roll s.cur k) → s.parkedAs .bell = some p → s.parkOver p = true →
    EndsAs (.bwait d c k) s s s [d] [] [] 0 fun t =>
      t.x d = if d = 0 then 0 else BitVec.ofNat 64 (rollArr (s.roll s.cur k) * 256 + 2)) ∧
  (∀ d c k s, Accepted acc (.bwait d c k) [d, c] [] 0 s → bit (s.roll s.cur k) 63 = true →
    rollDone (s.roll s.cur k) ≠ rollArr (s.roll s.cur k) → s.parkedAs .bell = none → Waits (.bwait d c k) s .bell) ∧
  (∀ k s, Accepted acc (.phase k) [] [] 0 s → bit (s.roll s.cur k) 63 = true →
    EndsAs (.phase k) s s (s.setRoll s.cur k (setBit (s.roll s.cur k) 61 true)) [] [] [] 0 fun t =>
      bit (t.roll s.cur k) 61 = true) ∧
  (∀ k s, bit (s.roll s.cur k) 63 = false →
    (Accepted acc (.barr k) [] [] 0 s → Traps (.barr k) s (BitVec.ofNat 64 0x05) 0) ∧
    (Accepted acc (.phase k) [] [] 0 s → Traps (.phase k) s (BitVec.ofNat 64 0x05) 0) ∧
    ∀ d c, Accepted acc (.bwait d c k) [d, c] [] 0 s → Traps (.bwait d c k) s (BitVec.ofNat 64 0x05) 0) ∧
  (∀ (s : State) (j c b : Nat) (n : BitVec 8) (serial : Nat), s.net[j]? = some (.arrival c b n serial) →
    s.performedBelow c serial = true → (rollScope (s.roll c (BitVec.ofNat 2 b))).toNat < 5 →
    ∃ t, exec (.barrierArrivalSignal j) s = .next t ∧ t.net = s.net.take j ++ s.net.drop (j + 1) ∧ t.harts = s.harts ∧
      t.mem = s.mem) ∧
  (∀ (s : State) (j c m : Nat) (k : BitVec 2) (n : BitVec 8) (serial : Nat),
    let v := s.roll m k
    s.net[j]? = some (.arrival c k.toNat n serial) → s.performedBelow c serial = true →
    (∀ i, i ≠ j → ∀ n' x, s.net[i]? ≠ some (.arrival c k.toNat n' x)) → (rollScope (s.roll c k)).toNat < 5 → rollScope v ≠ 5 →
    bit v 63 = true → s.fencedCore m = false → s.fencedCore c = false → rollArr v ≠ rollDone v → c < 4096 →
    describes v c = true → rollClass (s.roll c k) = rollClass v → rollArr (s.roll c k) = rollArr v →
    (∀ x ∈ described v, x ≠ c → s.arrived k v (rollArr v) x = true) →
    (∀ x ∈ described v, s.updatesOut x k v = false ∧ s.putsOut x k v = false) →
    s.canComplete m k = false ∧ ∃ t, exec (.barrierArrivalSignal j) s = .next t ∧ t.canComplete m k = true) ∧
  (∀ (s : State) (c : Nat) (k : BitVec 2), s.canComplete c k = true → ∃ t, exec (.barrierRelease c k) s = .next t ∧
    t.mem = s.mem ∧ ∀ m, m < 4096 → s.isMember k (s.roll c k) m = true →
      rollDone (t.roll m k) = rollArr (s.roll c k) ∧ bit (t.roll m k) 61 = false)

/-- On an aligned sync-class word whose checks pass, with a plain qualifier, an empty store buffer, nothing to wait
for at the word, no poison, nothing outstanding, an idle registrar and no answer recorded under the request's number,
each AMO completes with xd holding the old word, zero-extended, and the word holding the operand (SWAP), the new value
if the old one equals the compare value (CAS) or the sum modulo 2^(8n) (FADD); every other byte keeps its value. A
misaligned address raises MISALIGNED and a word outside sync-class pages ACCESS_FAULT. REGISTRAR_SERVE performs a
request, of any kind, size and operand, that no earlier one to its word precedes: a load changes nothing, the others
write as above, and the waiting hart gets the old value; at a poisoned word nothing changes and the reply says so, and
a request whose answer is recorded gets that answer again and changes nothing. An AMO.FADD whose reply has come
completes with it, whatever has become of its page. [R62, R82, R112, R113, R382, R383] -/
def Obligations.RegistrarAtomics : Prop :=
  let idle (s : State) (p : Place) (size : Nat) : Prop := Memory.wf s.mem = true ∧ p.sync = true ∧ s.me.mem.sb = [] ∧
    s.registrarBusy = false ∧ s.mustWait s.cur (unitOf p.home true) none = false ∧ s.poisonIn p.home size = none ∧
    (s.die (homeDie p.home)).registrar = [] ∧ ∀ e ∈ s.me.mem.replies, e.1 ≠ s.me.mem.regSeq
  let acts (i : Instr) (d b : BitVec 6) (w : BitVec 1) (q : BitVec 8) (xs : List (BitVec 6)) (new : State → Nat → Nat) : Prop :=
    let size := if w = 1 then 8 else 4
    (∀ s p u, Accepted acceptAll i xs [] 0 s → s.registrarMine = false → (s.x b).toNat % size = 0 → qualOrd q = 0 →
      Gives (globalPlace (s.x b) size) s p u → u.cur = s.cur → u.ctx = s.ctx → idle u p size →
      ∃ t, HeadEnds i s u t ∧
        t.x d = (if d = 0 then 0 else BitVec.ofNat 64 (memNat u.mem p.home size)) ∧ (∀ r, r ≠ d → t.x r = u.x r) ∧
        (∀ r, t.v r = u.v r) ∧ memNat t.mem p.home size = new u (memNat u.mem p.home size) % 2 ^ (8 * size) ∧
        ∀ a, (a < p.home ∨ p.home + size ≤ a) → memGet t.mem a = memGet u.mem a) ∧
    (∀ s, Accepted acceptAll i xs [] 0 s → (s.x b).toNat % size ≠ 0 → Traps i s (BitVec.ofNat 64 0x08) (s.x b)) ∧
    (∀ s p u, Accepted acceptAll i xs [] 0 s → s.registrarMine = false → (s.x b).toNat % size = 0 →
      Gives (globalPlace (s.x b) size) s p u → p.sync = false → exec i s = .next (u.dropReply.takeTrap (BitVec.ofNat 64 0x0C) u.pc (s.x b)))
  (∀ d w c b q, acts (.amoSwap d w c b q) d b w q [d, c, b] fun s _ => (s.x c).toNat) ∧
  (∀ d w n c b q, acts (.amoCas d w n c b q) d b w q [d, n, c, b] fun s old =>
    if old = (s.x c).toNat % 2 ^ (if w = 1 then 64 else 32) then (s.x n).toNat else old) ∧
  (∀ d w c b q, acts (.amoFadd d w c b q) d b w q [d, c, b] fun s old => old + (s.x c).toNat) ∧
  (∀ (s : State) (d k : Nat) (r : RegRequest), Memory.wf s.mem = true → (s.die d).registrar[k]? = some r →
    (∀ e ∈ (s.die d).registrar.take k, wordAt e.op.place.1 ≠ wordAt r.op.place.1) →
    (s.hart r.hart).mem.regWait = some r →
    let a := r.op.place.1
    let n := r.op.place.2
    let old := BitVec.ofNat 64 (memNat s.mem a n)
    let new : Word := match r.op with
      | .load _ _ => old
      | .swap _ _ v => v
      | .cas _ _ o v => if old = o then v else old
      | .fadd _ _ v => old + v
    let served (t : State) (w : RegReply) : Prop := exec (.registrarServe d k) s = .next t ∧
      (t.die d).registrar = (s.die d).registrar.take k ++ (s.die d).registrar.drop (k + 1) ∧
      (t.hart r.hart).mem.regWait = none ∧ (t.hart r.hart).mem.regReply = some w
    ((∀ e ∈ (s.hart r.hart).mem.replies, e.1 ≠ r.seq) → s.poisonIn a n = none → n ≤ 8 → ∃ t, served t (.value old) ∧
      memNat t.mem a n = new.toNat % 2 ^ (8 * n) ∧ (∀ b, (b < a ∨ a + n ≤ b) → memGet t.mem b = memGet s.mem b) ∧
      (r.seq, .value old) ∈ (t.hart r.hart).mem.replies) ∧
    (∀ w, (∀ e ∈ (s.hart r.hart).mem.replies, e.1 ≠ r.seq) → s.poisonIn a n = some w →
      ∃ t, served t (.poisoned w) ∧ t.mem = s.mem ∧
      (r.seq, .poisoned w) ∈ (t.hart r.hart).mem.replies) ∧
    ∀ v, (s.hart r.hart).mem.replies.find? (fun e => e.1 == r.seq) = some (r.seq, v) → ∃ t, served t v ∧ t.mem = s.mem) ∧
  (∀ (d b : BitVec 6) (w : BitVec 1) (c : BitVec 6) (q : BitVec 8) (s : State) (v : Word),
    let size := if w = 1 then 8 else 4
    Accepted acceptAll (.amoFadd d w c b q) [d, c, b] [] 0 s → (s.x b).toNat % size = 0 → s.me.mem.regCtx = s.ctx →
    s.me.mem.regReply = some (.value v) → EndsAs (.amoFadd d w c b q) s s (s.modMe fun h => { h with mem := { h.mem with regReply := none } }) [d] [] []
      0 fun t =>
        t.x d = if d = 0 then 0 else BitVec.ofNat 64 (v.toNat % 2 ^ (8 * size)))

/-- REGION.RD and RDC complete with xd holding the region's status word, and RDC leaves its FLAGS 0; a die above 3
raises OPERAND with 0. REGION.SET, of a range in one page clear of the other regions, and OFF send one table change
and wait; with its answer they complete with xd holding it, and REGION_TABLE_UPDATE makes the change once no earlier
change and no update stands before it. UPD and UPDV complete with their updates in the store buffer, UFLUSH with its
lines (with none for length 0). UPDATE_ACCEPTED puts an update into the gutter, and an access to its line then finds
the sum applied, integers modulo 2^32. GUTTER_SPILL of a slice above its limit, spills its oldest page, the first 256
entries of its oldest entry's region (an entry is an element with all its combined updates, or one update where the
region keeps them apart), as a run of its own, and no byte changes; without room in the spill area the lines of that
page are applied in place. That REGION_TABLE_UPDATE answers with the status word that stood before the old region's
entries are applied is the model's choice (assumption log 29). [R108, R110, R384, R386, R387, R388, R390, R392, R394,
R396] -/
def Obligations.UpdateRegions : Prop :=
  let acc : Accept := ⟨true, false, false, true⟩
  (∀ d idx b s, Accepted acc (.regionRd d idx b) [d, b] [] 0 s → (s.x b).toNat < 4 →
    EndsAs (.regionRd d idx b) s s s [d] [] [] 0 fun t =>
      t.x d = if d = 0 then 0 else (s.die (s.x b).toNat).regionStatus idx.toNat) ∧
  (∀ d idx b s, Accepted acc (.regionRdc d idx b) [d, b] [] 0 s → (s.x b).toNat < 4 →
    ∃ t, HeadEnds (.regionRdc d idx b) s s t ∧ t.x d = (if d = 0 then 0 else (s.die (s.x b).toNat).regionStatus idx.toNat) ∧
    (∀ rg, tget (s.die (s.x b).toNat).regions idx.toNat = some rg →
      tget (t.die (s.x b).toNat).regions idx.toNat = some { rg with flags := 0 }) ∧ (∀ r, r ≠ d → t.x r = s.x r) ∧
    ∀ a, memGet t.mem a = memGet s.mem a) ∧
  (∀ d idx b s, 4 ≤ (s.x b).toNat →
    (Accepted acc (.regionRd d idx b) [d, b] [] 0 s → Traps (.regionRd d idx b) s (BitVec.ofNat 64 0x05) 0) ∧
    (Accepted acc (.regionRdc d idx b) [d, b] [] 0 s → Traps (.regionRdc d idx b) s (BitVec.ofNat 64 0x05) 0) ∧
    (Accepted acc (.regionOff d idx b) [d, b] [] 0 s → Traps (.regionOff d idx b) s (BitVec.ofNat 64 0x05) 0)) ∧
  (∀ d idx b s v, Accepted acc (.regionSet d idx b) [d, b] [] 0 s → s.me.answer = some (.value v) →
    EndsAs (.regionSet d idx b) s s (s.modMe fun h => { h with answer := none }) [d] [] [] 0 fun t =>
      t.x d = if d = 0 then 0 else v) ∧
  (∀ d idx b s v, Accepted acc (.regionOff d idx b) [d, b] [] 0 s → (s.x b).toNat < 4 → s.me.answer = some (.value v) →
    EndsAs (.regionOff d idx b) s s (s.modMe fun h => { h with answer := none }) [d] [] [] 0 fun t =>
      t.x d = if d = 0 then 0 else v) ∧
  (∀ (d idx b : BitVec 6) (s u v : State) (ws : List Word) (p : Place),
    let W (j : Nat) : Word := (ws[j]?).getD 0
    let op := BitVec.ofNat 4 (bits (W 3) 3 0)
    Accepted acc (.regionSet d idx b) [d, b] [] 0 s → s.regionBusy = false → s.drained s.cur 4 = true →
    (s.x b).toNat % 32 = 0 → Gives (loadWords (s.x b) 4) s ws u → bits (W 3) 31 8 = 0 → bits (W 3) 6 4 = 0 →
    bits (W 3) 63 32 = 0 → op ≠ 15 → (W 0).toNat % 64 = 0 → (W 1).toNat % 64 = 0 → W 1 ≠ 0 →
    Gives (regionRange (W 0)) u p v → v.cur = s.cur → v.regionBusy = false → p.sync = false → homeOf p.home = .dram →
    v.rangeLeaves (W 0) (W 1).toNat = false → v.localIn v.cur (W 0).toNat (W 1).toNat = none →
    (∀ e ∈ (v.die (homeDie p.home)).regions, e.2.en = true → e.1 ≠ idx.toNat →
      rangesMeet p.home (W 1).toNat e.2.base e.2.len = false ∧
      rangesMeet p.home (W 1).toNat e.2.spill (e.2.splen * 4096) = false) →
    Waits (.regionSet d idx b) s .reply ∧ ∃ t, exec (.regionSet d idx b) s = .next t ∧ t.net = v.net ++
      [.region s.cur (homeDie p.home) idx.toNat (some { en := true, base := p.home, len := (W 1).toNat, spill := 0, splen := 0
                                                        ordered := bit (W 3) 7, op := op, flags := 0 })]) ∧
  (∀ d idx b s, Accepted acc (.regionOff d idx b) [d, b] [] 0 s → (s.x b).toNat < 4 → s.regionBusy = false →
    s.drained s.cur 4 = true → Waits (.regionOff d idx b) s .reply ∧
      ∃ t, exec (.regionOff d idx b) s = .next t ∧ t.net = s.net ++ [.region s.cur (s.x b).toNat idx.toNat none]) ∧
  (∀ (s : State) (k h d idx : Nat) (rg : Region), s.net[k]? = some (.region h d idx (some rg)) →
    (∀ p ∈ s.net.take k, ∀ h' new, p ≠ .region h' d idx new) → (∀ old, tget (s.die d).regions idx = some old →
      old.en = false ∨ s.updateToward old = false) → ∃ t, exec (.regionTableUpdate k) s = .next t ∧
      tget (t.die d).regions idx = some rg ∧ t.net = s.net.take k ++ s.net.drop (k + 1) ∧
      (t.hart h).answer = some (.value ((s.die d).regionStatus idx))) ∧
  (∀ r off b q s pa size u, Accepted acceptAll (.upd r off b q) [r, b] [] 0 s →
    Gives (updatePlace (s.x b + off.signExtend 64)) s (pa, size) u → u.ctx = s.ctx →
    (s.x b + off.signExtend 64).toNat % size = 0 →
    EndsAs (.upd r off b q) s u (u.pushStore (.update pa size (BitVec.ofNat 64 ((u.x r).toNat % 2 ^ (8 * size)))) q false)
      [] [] [] 0 fun t => ∃ e, t.me.mem.sb = u.me.mem.sb ++ [e]) ∧
  (∀ r off b q s pa size u, Accepted acceptAll (.updLong r off b q) [r, b] [] 0 s →
    Gives (updatePlace (s.x b + off.signExtend 64)) s (pa, size) u → u.ctx = s.ctx →
    (s.x b + off.signExtend 64).toNat % size = 0 →
    EndsAs (.updLong r off b q) s u (u.pushStore (.update pa size (BitVec.ofNat 64 ((u.x r).toNat % 2 ^ (8 * size)))) q false)
      [] [] [] 0 fun t => ∃ e, t.me.mem.sb = u.me.mem.sb ++ [e]) ∧
  (∀ (src : BitVec 5) (t : BitVec 4) (p : BitVec 3) (vi : BitVec 5) (b : BitVec 6) (q : BitVec 8) (s : State) (pa : Nat → Nat),
    let act := (List.range (elemCount t)).filter (s.active p)
    let addr (k : Nat) : Word := s.x b + BitVec.ofNat 64 (velem (s.v vi) (fmtBits t) k * (fmtBits t / 8))
    Accepted acc (.updv src t p vi b q) [b] [src, vi] p s → s.plainV [src, vi] →
    (∀ k ∈ act, Gives (updatePlace (addr k)) s (pa k, fmtBits t / 8) s ∧ (addr k).toNat % (fmtBits t / 8) = 0) →
    EndsAs (.updv src t p vi b q) s s (act.foldl (fun y k =>
      y.pushStore (.update (pa k) (fmtBits t / 8) (BitVec.ofNat 64 (velem (s.v src) (fmtBits t) k))) q false) s) [] [] [] 0
      fun y => y.me.mem.sb.length = s.me.mem.sb.length + act.length) ∧
  (∀ c b s, Accepted acceptAll (.uflush c b) [c, b] [] 0 s → s.x c = 0 → EndsAs (.uflush c b) s s s [] [] [] 0 fun _ => True) ∧
  (∀ c b s p u, Accepted acceptAll (.uflush c b) [c, b] [] 0 s → 1 ≤ (s.x c).toNat →
    (s.x b).toNat % 2 ^ 16 + (s.x c).toNat ≤ 2 ^ 16 →
    s.localIn s.cur (s.x b).toNat (s.x c).toNat = none →
    Gives (translate s.cur (s.rootOf s.cur) s.prv .update (s.x b).toNat (s.x b)) s p u → p.sync = false →
    ∃ l, EndsAs (.uflush c b) s u (u.pushStore (.uflush l) 0 false) [] [] [] 0 fun t =>
      ∀ j, (j ∈ l ↔ j % 64 = 0 ∧ p.home / 64 * 64 ≤ j ∧ j < p.home + (s.x c).toNat) ∧
        ∃ e, t.me.mem.sb = u.me.mem.sb ++ [e]) ∧
  (∀ (s : State) (h k pa idx : Nat) (v : Word) (e : StoreEntry) (rg : Region), Memory.wf s.mem = true →
    (s.hart h).mem.sb[k]? = some e → e.op = .update pa 4 v → e.qual = 0 → s.entryReady h k e = true → s.entryWaits h e = (false, s) →
    regionAt (s.die (homeDie pa)) pa = some (idx, rg) → rg.op = 0 → tget (s.die (homeDie pa)).regions idx = some rg →
    homeOf pa = .dram → (s.die (homeDie pa)).gutter = [] → v.toNat < 2 ^ 32 → ∃ t, exec (.updateAccepted h k) s = .next t ∧
      (t.die (homeDie pa)).gutter = [⟨idx, pa, 4, v, h, e.serial, 0⟩] ∧ t.mem = s.mem ∧
      (t.hart h).mem.sb = (s.hart h).mem.sb.take k ++ (s.hart h).mem.sb.drop (k + 1) ∧
      memNat (t.applyLine pa).mem pa 4 = (memNat s.mem pa 4 + v.toNat) % 2 ^ 32 ∧
      ((t.applyLine pa).die (homeDie pa)).gutter = [] ∧
      ∀ a, (a < pa ∨ pa + 4 ≤ a) → memGet (t.applyLine pa).mem a = memGet s.mem a) ∧
  (∀ s d j, (s.die d).binsUsed j ≤ 49152 → ∃ t, exec (.gutterSpill d j) s = .next t ∧ t = s) ∧
  (∀ (s : State) (d j : Nat) (e : GutterEntry) (rg : Region), 49152 < (s.die d).binsUsed j →
    (s.die d).gutter.find? (fun g => g.run == 0 && sliceOf g.addr == j) = some e → tget (s.die d).regions e.region = some rg →
    let bin := (s.die d).gutter.filter fun g => g.region == e.region && g.run == 0 && sliceOf g.addr == j
    let page := (s.die d).oldestPage j e.region rg
    let firsts := ((bin.map (·.addr)).reverse.dedup.reverse).take 256
    (if opIsFloat rg.op && rg.ordered then page = bin.take 256 else page = bin.filter fun g => firsts.contains g.addr) ∧
    rg.entries page ≤ 256 ∧
    ((s.die d).spillRoom e.region rg (rg.entries page) = true → ∃ t run, exec (.gutterSpill d j) s = .next t ∧
      t.mem = s.mem ∧ (∀ g ∈ (s.die d).gutter, g.run < run) ∧
      (t.die d).gutter = (s.die d).gutter.map fun g => if page.contains g then { g with run := run } else g) ∧
    ((s.die d).spillRoom e.region rg (rg.entries page) = false → ∃ t, exec (.gutterSpill d j) s = .next t ∧
      (t.die d).gutter = (s.die d).gutter.filter fun g => page.all fun p => p.addr / 64 != g.addr / 64))

/-- With cr.afmt (or cr.bfmt with .b) a matrix format, TZERO completes with the tile all zero and tagged with that
format and every other tile unchanged. TLOAD, when its rows can be read, completes with row i of the tile holding the
2w bytes of row i, and with the tag. TSTORE, when its rows' places are given, completes with the tile's words in the
store buffer in row order and no byte of memory changed yet; an ordered one stores them at its head once its waits are
over. A format that the engine does not take raises OPERAND with 0, a base or pitch that is not a multiple of 8
MISALIGNED with the address. [R399, R404] -/
def Obligations.TileRegisters : Prop :=
  let fmt (s : State) (r : BitVec 1) : BitVec 4 := BitVec.ofNat 4 (bits (if r = 1 then s.me.mat.bfmt else s.me.mat.afmt) 3 0)
  let loads (i : Instr) (off : Word) (r : BitVec 1) (tn : BitVec 3) (sp b : BitVec 6) (q : BitVec 8) : Prop :=
    (∀ s places vals u w, Accepted acceptMain i [sp, b] [] 0 s → matFmt (fmt s r) = true →
      Gives (tilePlaces .load (s.x b + off) (s.x sp) (fmtBits (fmt s r))) s places u →
      Gives (places.mapM fun e => loadPart e.2 8 q e.1) u vals w → w.cur = s.cur →
      let n := 2 * fmtBits (fmt s r) / 8
      ∃ t, HeadEnds i s w t ∧ (t.tile tn).tag = fmt s r ∧
        (∀ k : Fin 16, ∀ j, j < n → velem (t.tile tn).rows[k] 64 j = (vals[k.val * n + j]?).getD 0 % 2 ^ 64) ∧
        (∀ m, m ≠ tn → t.tile m = w.tile m) ∧ (∀ r, t.x r = w.x r) ∧ (∀ r, t.v r = w.v r) ∧
        ∀ a, memGet t.mem a = memGet w.mem a) ∧
    (∀ s, Accepted acceptMain i [sp, b] [] 0 s → matFmt (fmt s r) = false → Traps i s (BitVec.ofNat 64 0x05) 0) ∧
    (∀ s, Accepted acceptMain i [sp, b] [] 0 s → matFmt (fmt s r) = true →
      ((s.x b + off).toNat % 8 ≠ 0 ∨ (s.x sp).toNat % 8 ≠ 0) → Traps i s (BitVec.ofNat 64 0x08) (s.x b + off))
  let stores (i : Instr) (off : Word) (tn : BitVec 3) (sp b : BitVec 6) (q : BitVec 8) : Prop :=
    (∀ s places u, Accepted acceptMain i [sp, b] [] 0 s →
      Gives (tilePlaces .store (s.x b + off) (s.x sp) (fmtBits (s.tile tn).tag)) s places u →
      let n := 2 * fmtBits (s.tile tn).tag / 8
      let items := places.zipIdx.map fun e =>
        (e.1.2, cellsAt e.1.2.home (bytesOf (velem (((s.tile tn).rows[e.2 / n]?).getD 0) 64 (e.2 % n)) 8))
      (qualOrd q ≠ 3 → EndsAs i s u (items.foldl (fun y e => y.pushCells e.2 q e.1.sync) u) [] [] [] 0
        fun t => ∀ a, memGet t.mem a = memGet u.mem a) ∧
      (∀ v w z, qualOrd q = 3 → Gives (drainM (qualScope q)) u () v → Gives (items.forM fun e => meetCells e.2 e.1.sync) v () w →
        Gives (items.forM fun e => storeCells e.2 q e.1.sync) w () z → EndsAs i s z z [] [] [] 0 fun _ => True)) ∧
    (∀ s, Accepted acceptMain i [sp, b] [] 0 s → ((s.x b + off).toNat % 8 ≠ 0 ∨ (s.x sp).toNat % 8 ≠ 0) →
      Traps i s (BitVec.ofNat 64 0x08) (s.x b + off))
  (∀ r tn sp b q, loads (.tload r tn sp b q) 0 r tn sp b q) ∧
  (∀ off r tn sp b q, loads (.tloadLong off r tn sp b q) (off.signExtend 64) r tn sp b q) ∧
  (∀ tn sp b q, stores (.tstore tn sp b q) 0 tn sp b q) ∧
  (∀ off tn sp b q, stores (.tstoreLong off tn sp b q) (off.signExtend 64) tn sp b q) ∧
  (∀ f tn s, Accepted acceptMain (.tzero f tn) [] [] 0 s → matFmt (fmt s f.r) = true →
    EndsAs (.tzero f tn) s s (s.setTile tn ⟨Vector.replicate 16 0, fmt s f.r⟩) [] [] [] 0 fun t =>
      t.tile tn = ⟨Vector.replicate 16 0, fmt s f.r⟩ ∧ ∀ m, m ≠ tn → t.tile m = s.tile m) ∧
  (∀ f tn s, Accepted acceptMain (.tzero f tn) [] [] 0 s → matFmt (fmt s f.r) = false →
    Traps (.tzero f tn) s (BitVec.ofNat 64 0x05) 0)

/-- With at least one sub-array unfenced and fewer than two commands queued, and when its own checks pass, each
completes with one command at the end of its core's matrix queue that holds its operands and the format, scale and
table registers sampled at commit; no register and no byte of memory changes. TMMA needs both tiles' tags to equal
cr.afmt and cr.bfmt (else OPERAND with 0) and a 64-byte aligned accumulator inside the scratchpad, short of the
thatcher's stack. With no sub-array left PSWAP and QUIZ raise ENGINE_FENCED with 0, and a full queue makes them wait.
[R52, R189, R401, R402, R406, R409, R416, R418] -/
def Obligations.MatrixCommands : Prop :=
  let enters (i : Instr) (s u : State) (c : MatCmd) : Prop :=
    EndsAs i s u (u.modMe fun h => { h with engine := { h.engine with queue := h.engine.queue ++ [c] } }) [] [] [] 0 fun t =>
      t.me.engine.queue = u.me.engine.queue ++ [c]
  let free (s : State) : Prop := s.subArrays s.cur ≠ 0 ∧ s.me.engine.queue.length < 2
  let room (s : State) (c : Word) (cp : BitVec 4) (off : Nat) : Prop :=
    s.windowOf s.cur c.toNat = (.pad, off) ∧ c.toNat % 64 = 0 ∧ off + 15 * (64 * 2 ^ cp.toNat) + 64 ≤ 0xF_C000
  let fa (s : State) : BitVec 4 := BitVec.ofNat 4 (bits s.me.mat.afmt 3 0)
  let fb (s : State) : BitVec 4 := BitVec.ofNat 4 (bits s.me.mat.bfmt 3 0)
  (∀ c cp z tb ta s off, Accepted acceptMain (.tmma c cp z tb ta) [c] [] 0 s → free s → room s (s.x c) cp off →
    (s.tile ta).tag = fa s → (s.tile tb).tag = fb s → Gives (matFmtM (fa s)) s () s → Gives (matFmtM (fb s)) s () s →
    enters (.tmma c cp z tb ta) s s
      (s.sample (.mma off (64 * 2 ^ cp.toNat) 16 (z == 1) (.tile (s.tile ta)) (.tile (s.tile tb)) false) none)) ∧
  (∀ c cp z tb ta s, Accepted acceptMain (.tmma c cp z tb ta) [c] [] 0 s → Gives (matFmtM (fa s)) s () s →
    Gives (matFmtM (fb s)) s () s → ((s.tile ta).tag ≠ fa s ∨ (s.tile tb).tag ≠ fb s) →
    Traps (.tmma c cp z tb ta) s (BitVec.ofNat 64 0x05) 0) ∧
  (∀ c cp ce mc z k a p s off u rows, Accepted acceptMain (.tmmaP c cp ce mc z k a p) [c, k, a, p] [] 0 s → free s →
    room s (s.x c) cp off → Gives (matFmtM (fa s)) s () s → Gives (matFmtM (fb s)) s () s →
    (s.x k).toNat % 16 = 0 → 16 ≤ (s.x k).toNat → (s.x k).toNat ≤ 8192 / fmtBits (fb s) →
    Gives (panelM (s.x a) (s.x p) (s.x k).toNat (fmtBits (fa s))) s rows u → u.cur = s.cur → u.me.engine = s.me.engine →
    u.me.sys = s.me.sys → u.me.mat = s.me.mat → u.me.tables = s.me.tables → u.me.mem.serial = s.me.mem.serial →
    enters (.tmmaP c cp ce mc z k a p) s u (s.sample
      (.mma off (64 * 2 ^ cp.toNat) (s.x k).toNat (z == 1) (.panel rows) .plane false) (if ce = 1 then some mc else none))) ∧
  (∀ ce mc n b s u l, Accepted acceptMain (.pload ce mc n b) [n, b] [] 0 s → free s → (s.x b).toNat % 64 = 0 →
    (s.x n).toNat % 64 = 0 → 64 ≤ (s.x n).toNat → (s.x n).toNat ≤ 16384 →
    Gives (rangesM false true [⟨.load, 0, 0, (s.x b).toNat, (s.x n).toNat⟩]) s l u → u.cur = s.cur →
    u.me.engine = s.me.engine → u.me.mat = s.me.mat → u.me.tables = s.me.tables → u.me.mem.serial = s.me.mem.serial →
    enters (.pload ce mc n b) s u
      (s.sample (.pload l.flatten (s.x n).toNat) (if ce = 1 then some mc else none))) ∧
  (∀ s, Accepted acceptMain .pswap [] [] 0 s → free s → enters .pswap s s (s.sample .pswap none)) ∧
  (∀ s, Accepted acceptMain .quiz [] [] 0 s → free s → enters .quiz s s (s.sample .quiz none)) ∧
  (∀ s, s.subArrays s.cur = 0 →
    (Accepted acceptMain .pswap [] [] 0 s → Traps .pswap s (BitVec.ofNat 64 0x07) 0) ∧
    (Accepted acceptMain .quiz [] [] 0 s → Traps .quiz s (BitVec.ofNat 64 0x07) 0)) ∧
  (∀ s, s.subArrays s.cur ≠ 0 → 2 ≤ s.me.engine.queue.length →
    (Accepted acceptMain .pswap [] [] 0 s → Waits .pswap s .engine) ∧
    (Accepted acceptMain .quiz [] [] 0 s → Waits .quiz s .engine)) ∧
  (∀ (d : BitVec 6) (cp nr : BitVec 4) (hz nh : BitVec 1) (h c dp : BitVec 6) (s u : State) (off : Nat) (l : List Spans),
    let fc := BitVec.ofNat 4 (bits s.me.mat.cfmt 3 0)
    let drain (pitch : Word) : MatOp := .drain off (64 * 2 ^ cp.toNat) (nr.toNat + 1) (hz == 1)
      (if nh = 1 then none else some (s.x h)) (BitVec.ofNat 2 s.prv) (s.x d) pitch l
    let ranges (pitch : Word) : List XRange := (List.range (nr.toNat + 1)).map fun k =>
      ⟨.store, 0, 0, (s.x d + BitVec.ofNat 64 k * pitch).toNat, 16 * (fmtBits fc / 8)⟩
    let fits (pitch : Word) : Prop := free s ∧ fc.toNat < 3 ∧ room s (s.x c) cp off ∧ (s.x d).toNat % (fmtBits fc / 8) = 0 ∧
      pitch.toNat % (fmtBits fc / 8) = 0 ∧ Gives (rangesM false true (ranges pitch)) s l u ∧ u.cur = s.cur ∧
      u.me.engine = s.me.engine ∧ u.me.mat = s.me.mat ∧ u.me.tables = s.me.tables ∧
      u.me.mem.serial = s.me.mem.serial ∧ u.prv = s.prv ∧ u.me.main.x = s.me.main.x
    (Accepted acceptMain (.tdrain d cp nr hz nh h c dp) [d, h, c, dp] [] 0 s → fits (s.x dp) →
      enters (.tdrain d cp nr hz nh h c dp) s u (s.sample (drain (s.x dp)) none)) ∧
    ∀ imm : BitVec 32, Accepted acceptMain (.tdrainImm d imm cp nr hz nh h c) [d, h, c] [] 0 s → fits (imm.signExtend 64) →
      enters (.tdrainImm d imm cp nr hz nh h c) s u (s.sample (drain (imm.signExtend 64)) none)) ∧
  (∀ slot id b s u v l tb, Accepted acceptMain (.tblld slot id b) [b] [] 0 s → s.subArrays s.cur ≠ 0 → (s.x b).toNat % 16 = 0 →
    Gives (rangesM false true [⟨.load, 0, 0, (s.x b).toNat, 1040⟩]) s l u → u.me.mem.sb = [] →
    Gives (engineWaitM l.flatten) u () v → v.poisonSpans l.flatten = none →
    let w := (v.engineReadSpans l.flatten).2
    readTable (v.engineReadSpans l.flatten).1 = .ok tb → w.me.engine.queue.length < 2 →
    enters (.tblld slot id b) s w (w.sample (.tblld slot id tb) none))

/-- With the answer that the sixteen cores have met, each of the three completes and changes nothing else; with a trap
as its answer it takes that trap. Without one GBIND records its gang number and waits, GUNBIND of the bound gang
waits, and so does TMMA.G, whose checks pass, with its command recorded. GUNBIND of another number raises OPERAND with
0, as does TMMA.G without a gang; on a core that lost its gang they raise GANG_UNBOUND with its number.
GANG_BIND_COMPLETE with sixteen equal numbers on cores with no gang and four sub-arrays leaves all sixteen bound and
answered, and otherwise every one is answered with OPERAND and its own number, and bound to nothing new.
GANG_UNBIND_COMPLETE ends the gang once its commands are done. GANG_TMMA_START puts each member's command into its
queue, with the panel of its row's first member, when the sixteen agree in depth, formats and scales; otherwise all
sixteen are answered with OPERAND and no command enters. [R58, R59, R411, R412, R413, R414] -/
def Obligations.GangInstructions : Prop :=
  let done (i : Instr) (xs : List (BitVec 6)) : Prop := ∀ s, Accepted acceptMain i xs [] 0 s →
    (s.me.answer = some .done →
      EndsAs i s s (s.modMe fun h => { h with answer := none }) [] [] [] 0 fun t => t.me.answer = none) ∧
    ∀ c v, s.me.answer = some (.trap c v false) →
      exec i s = .next ((s.modMe fun h => { h with answer := none }).dropReply.takeTrap c s.pc v)
  (∀ n, done (.gbind n) []) ∧ (∀ n, done (.gunbind n) []) ∧
  (∀ c cp ce mc z k a p, done (.tmmaG c cp ce mc z k a p) [c, k, a, p]) ∧
  (∀ n s, Accepted acceptMain (.gbind n) [] [] 0 s → s.me.answer = none → Waits (.gbind n) s .gang ∧
    ∃ t, exec (.gbind n) s = .next t ∧ t.me.gang.bind = some n ∧ ∀ a, memGet t.mem a = memGet s.mem a) ∧
  (∀ n s, Accepted acceptMain (.gunbind n) [] [] 0 s → s.me.answer = none → s.me.gang.lost = none →
    (s.me.gang.gang = some n → Waits (.gunbind n) s .gang ∧
      ∃ t, exec (.gunbind n) s = .next t ∧ t.me.gang.unbind = some n) ∧
    (s.me.gang.gang ≠ some n → Traps (.gunbind n) s (BitVec.ofNat 64 0x05) 0)) ∧
  (∀ n g s, Accepted acceptMain (.gunbind n) [] [] 0 s → s.me.answer = none → s.me.gang.lost = some g →
    Traps (.gunbind n) s (BitVec.ofNat 64 0x06) (g.setWidth 64)) ∧
  (∀ (c : BitVec 6) (cp : BitVec 4) (ce : BitVec 1) (mc : BitVec 3) (z : BitVec 1) (k a p : BitVec 6) (s u : State) (off : Nat)
    (rows : List Spans),
    let fa := BitVec.ofNat 4 (bits s.me.mat.afmt 3 0)
    let fb := BitVec.ofNat 4 (bits s.me.mat.bfmt 3 0)
    let i : Instr := .tmmaG c cp ce mc z k a p
    Accepted acceptMain i [c, k, a, p] [] 0 s → s.me.answer = none →
    (s.me.gang.command.isSome = true → Waits i s .gang) ∧
    (s.me.gang.command = none → Gives (matFmtM fa) s () s → Gives (matFmtM fb) s () s → (s.x k).toNat % 16 = 0 →
      16 ≤ (s.x k).toNat → (s.x k).toNat ≤ 8192 / fmtBits fb → s.windowOf s.cur (s.x c).toNat = (.pad, off) →
      (s.x c).toNat % 64 = 0 → off + 15 * (64 * 2 ^ cp.toNat) + 64 ≤ 0xF_C000 →
      (s.me.gang.gang = none → s.me.gang.lost = none → Traps i s (BitVec.ofNat 64 0x05) 0) ∧
      (∀ g, s.me.gang.lost = some g → Traps i s (BitVec.ofNat 64 0x06) (g.setWidth 64)) ∧
      (s.me.gang.gang ≠ none → s.me.gang.lost = none → s.subArrays s.cur ≠ 0 →
        (if s.cur % 4 = 0 then Gives (panelM (s.x a) (s.x p) (s.x k).toNat (fmtBits fa)) s rows u else rows = [] ∧ u = s) →
        ∃ t, exec i s = .next t ∧ t.pc = u.pc ∧ (t.parkedAs .gang).isSome = true ∧ t.me.gang.command = some (s.sample
          (.mma off (64 * 2 ^ cp.toNat) (s.x k).toNat (z == 1) (.panel rows) .plane true) (if ce = 1 then some mc else none)) ∧
          t.mem = u.mem ∧ ∀ r, t.x r = u.x r))) ∧
  (∀ (s : State) (k : Nat) (m : Nat → BitVec 4), (∀ c ∈ coresOf k, (s.hart c).gang.bind = some (m c)) →
    let good := ∀ c ∈ coresOf k, m c = m (16 * k) ∧ (s.hart c).gang.gang = none ∧ s.subArrays c = 4
    ∃ t, exec (.gangBindComplete k) s = .next t ∧ t.mem = s.mem ∧ ∀ c ∈ coresOf k, (t.hart c).gang.bind = none ∧
      (good → (t.hart c).gang.gang = some (m c) ∧ (t.hart c).answer = some .done) ∧
      (¬ good → (t.hart c).gang.gang = (s.hart c).gang.gang ∧
        (t.hart c).answer = some (.trap (BitVec.ofNat 64 0x05) ((m c).setWidth 64) false))) ∧
  (∀ (s : State) (k : Nat) (n : BitVec 4), (∀ c ∈ coresOf k, (s.hart c).gang.unbind = some n ∧
    (s.hart c).gang.gang = some n ∧ (s.hart c).engine.queue.any MatCmd.isGang = false ∧
    ∀ r, (s.hart c).engine.run = some r → r.1.isGang = false) →
    ∃ t, exec (.gangUnbindComplete k) s = .next t ∧ t.mem = s.mem ∧ ∀ c ∈ coresOf k,
      (t.hart c).gang.gang = none ∧ (t.hart c).gang.unbind = none ∧ (t.hart c).answer = some .done) ∧
  (∀ (s : State) (k : Nat) (m : Nat → MatCmd), (∀ c ∈ coresOf k, (s.hart c).gang.command = some (m c) ∧
    (s.hart c).engine.queue.length < 2 ∧ s.sameFormats c (m c) = true) →
    let r (c : Nat) : MatCmd := s.resample c (m c)
    let agree := ∀ c ∈ coresOf k, (r c).panel.2 = (r (16 * k)).panel.2 ∧ (r c).fa = (r (16 * k)).fa ∧
      (r c).fb = (r (16 * k)).fb ∧ (r c).ea = (r (16 * k)).ea ∧ (r c).eb = (r (16 * k)).eb
    ∃ t, exec (.gangTmmaStart k) s = .next t ∧ t.mem = s.mem ∧ ∀ c ∈ coresOf k, (t.hart c).gang.command = none ∧
      (agree → (t.hart c).engine.queue = (s.hart c).engine.queue ++ [(r c).withPanel (r (16 * k + c % 16 / 4 * 4)).panel.1] ∧
        (t.hart c).answer = some .done) ∧
      (¬ agree → (t.hart c).engine.queue = (s.hart c).engine.queue ∧
        (t.hart c).answer = some (.trap (BitVec.ofNat 64 0x05) 0 false)))

/-- ENGINE_COMMAND_START moves the oldest queued command of an idle engine into it. CHUNK_RETIREMENT of a TMMA on two
tiles, with no quiz product due, no sub-array faulty, the issuer's stores performed, nothing to wait for and nothing
poisoned: word (i, j) of the accumulator becomes the FP32 sum of its old value (0 with Z) and the once-rounded group
sum of the sixteen exact products A(i,k) B(k,j) scaled by the sampled exponents, no byte outside the accumulator
changes, and its words are full. A row of a TDRAIN, at CHUNK_RETIREMENT without a handler and at its run's HRET with
one: each word of the row rounded to the sampled result format goes to its place in the destination, with HZ the row
is zero afterwards and without it as it was, no other byte changes, and the flags of the rounding join those of the
command. MATRIX_COMMAND_COMPLETE ends a TMMA whose chunks have retired and lands its flags in cr.mflags; for PSWAP it
swaps the planes. TABLE_INSTALL installs a validated table with its identity, OPERANDS_CONSUMED_EVENT raises the
oldest due counter by one, and a QUIZ_PRODUCT that is due resets the activity count; it fences no sub-array when it
passes, and fences the faulty ones when it fails. That HRET waits for the hart's whole store buffer is the model's
choice (assumption log 34). [R52, R129, R131, R188, R402, R406, R407, R409, R416, R418] -/
def Obligations.MatrixEngineSteps : Prop :=
  let at_ (l : Spans) (j : Nat) : Nat := (((partSpans l j 1).head?).map (·.home)).getD 0
  let drains (s : State) (c i : Nat) (m : MatCmd) (off pitch : Nat) (l : Spans) : Prop := Memory.wf s.mem = true ∧
    kindOf c = 0 ∧ s.poison = [] ∧ (∀ d, (s.die d).gutter = []) ∧ (∀ a, s.inSpill a = false) ∧ m.fc.toNat < 3 ∧
    off + i * pitch + 64 ≤ 0x10_0000 ∧ (l.map (·.len)).sum = 16 * (fmtBits m.fc / 8) ∧ (∀ p ∈ l, 0 < p.len) ∧
    s.spansWait c (s.rowSpans c i) = (false, s) ∧
    (∀ j k, j < 16 * (fmtBits m.fc / 8) → k < 16 * (fmtBits m.fc / 8) → at_ l j = at_ l k → j = k) ∧
    ∀ j, j < 16 * (fmtBits m.fc / 8) → (at_ l j < padHome (clusterOf c) (off + i * pitch) ∨
        padHome (clusterOf c) (off + i * pitch) + 64 ≤ at_ l j) ∧
      (homeOf (at_ l j) = .loft →
        (s.cluster (loftPlace (at_ l j)).1).loft.eaves.any (fun e => e.1 == (loftPlace (at_ l j)).2) = true)
  let left (s t : State) (c i : Nat) (m : MatCmd) (off pitch : Nat) (hz : Bool) (l : Spans) : Prop :=
    let a := padHome (clusterOf c) (off + i * pitch)
    let size := fmtBits m.fc / 8
    let code (j : Nat) : FRes := let v := memNat s.mem (a + 4 * j) 4
      if m.fc = 0 then (v, 0) else fconvert fp32 (fmtOf m.fc) v
    (∀ j, j < 16 * size → memGet t.mem (at_ l j) = (bytesOf (code (j / size)).1 size).getD (j % size) 0) ∧
    (∀ y, a ≤ y → y < a + 64 → memGet t.mem y = if hz then 0 else memGet s.mem y) ∧
    (∀ y, (y < a ∨ a + 64 ≤ y) → (∀ j, j < 16 * size → y ≠ at_ l j) → memGet t.mem y = memGet s.mem y) ∧
    ∀ b, b < 5 → ((t.hart c).engine.flags.getLsbD b = true ↔
      (s.hart c).engine.flags.getLsbD b = true ∨ ∃ j, j < 16 ∧ (code j).2.getLsbD b = true)
  (∀ (s : State) (c i off pitch rows : Nat) (hz : Bool) (prv : BitVec 2) (dest dpitch : Word) (spans : List Spans) (m : MatCmd),
    drains s c i m off pitch ((spans[i]?).getD []) → (s.hart c).engine.run = some (m, i) →
    m.op = .drain off pitch rows hz none prv dest dpitch spans → i < rows → s.storesBefore c m.after = true →
    ∃ t, exec (.chunkRetirement c) s = .next t ∧ left s t c i m off pitch hz ((spans[i]?).getD []) ∧
      (t.hart c).engine.run = some (m, i + 1)) ∧
  (∀ (s : State) (i n off pitch rows : Nat) (hz : Bool) (h : Option Word) (prv : BitVec 2) (dest dpitch : Word) (spans : List Spans)
    (m : MatCmd) (r : Run), drains s s.cur i m off pitch ((spans[i]?).getD []) → s.me.engine.run = some (m, n) →
    m.op = .drain off pitch rows hz h prv dest dpitch spans → s.ctx = .handler → s.me.handler.run = some r → r.kind = .drain i →
    s.me.mem.sb = [] → ∃ t, exec .hret s = .next t ∧ left s t s.cur i m off pitch hz ((spans[i]?).getD []) ∧
      t.me.handler.run = none ∧ t.me.engine.rowsLeft = s.me.engine.rowsLeft - 1) ∧
  (∀ (s : State) (c : Nat) (m : MatCmd) (r : List MatCmd), kindOf c = 0 → (s.hart c).engine.run = none →
    (s.hart c).engine.queue = m :: r → (∀ a b d e f g h i j, m.op ≠ .drain a b d e f g h i j) →
    ((∃ slot id tb, m.op = .tblld slot id tb) → s.stepOn c = false) →
    ∃ t, exec (.engineCommandStart c false) s = .next t ∧ (t.hart c).engine.run = some (m, 0) ∧
      (t.hart c).engine.queue = r ∧ t.mem = s.mem) ∧
  (∀ (s : State) (h : Nat) (x : Xfer) (r : List Xfer), kindOf h = 0 → (s.hart h).copy.turn % 3 = 0 →
    (s.hart h).copy.queue = x :: r → (s.hart h).copy.active = [] → ∃ t, exec (.engineCommandStart h true) s = .next t ∧
      (t.hart h).copy.queue = r ∧ (t.hart h).copy.active = [x] ∧ t.mem = s.mem) ∧
  (∀ (s : State) (c off pitch : Nat) (z : Bool) (a b : Tile) (m : MatCmd), Memory.wf s.mem = true → kindOf c = 0 →
    s.poison = [] → (s.hart c).engine.run = some (m, 0) → m.op = .mma off pitch 16 z (.tile a) (.tile b) false → 64 ≤ pitch →
    off + 15 * pitch + 64 ≤ 0x10_0000 → s.quizDue c = false → s.storesBefore c m.after = true →
    s.faultyArrays c = false → s.spansWait c (s.chunkSpans c) = (false, s) →
    let word (i j : Nat) : Nat := padHome (clusterOf c) (off + i * pitch + 4 * j)
    let prod (i j k : Nat) : Product := product (m.ea + m.eb) (matValue m.tables m.fa (a.elem i k))
      (matValue m.tables m.fb (b.elem k j))
    let sum (i j : Nat) : FRes := fadd fp32 (if z then 0 else memNat s.mem (word i j) 4)
      (groupSum ((List.range 16).map (prod i j))).1
    ∃ t, exec (.chunkRetirement c) s = .next t ∧
      (∀ i j, i < 16 → j < 16 → memNat t.mem (word i j) 4 = (sum i j).1 % 2 ^ 32) ∧
      (∀ y, (∀ i, i < 16 → y < word i 0 ∨ word i 0 + 64 ≤ y) → memGet t.mem y = memGet s.mem y) ∧
      (t.hart c).engine.run = some (m, 1) ∧ (t.hart c).main = (s.hart c).main ∧
      (∀ i j, i < 16 → j < 16 → t.isFull (wordAt (word i j)) = true) ∧
      ∀ j, j < 5 → ((t.hart c).engine.flags.getLsbD j = true ↔ (s.hart c).engine.flags.getLsbD j = true ∨
        ∃ i k, i < 16 ∧ k < 16 ∧ ((sum i k).2.getLsbD j = true ∨
          (groupSum ((List.range 16).map (prod i k))).2.getLsbD j = true))) ∧
  (∀ (s : State) (c off pitch depth n : Nat) (z : Bool) (a : ASource) (b : BSource) (g : Bool) (m : MatCmd), kindOf c = 0 →
    (s.hart c).engine.run = some (m, n) → m.op = .mma off pitch depth z a b g → depth ≤ 64 * n →
    ∃ t, exec (.matrixCommandComplete c) s = .next t ∧ (t.hart c).engine.run = none ∧
      (t.hart c).sys.mflags = (s.hart c).sys.mflags ||| (s.hart c).engine.flags.setWidth 64 ∧ t.mem = s.mem) ∧
  (∀ (s : State) (c n : Nat) (m : MatCmd), kindOf c = 0 → (s.hart c).engine.run = some (m, n) → m.op = .pswap →
    ∃ t, exec (.matrixCommandComplete c) s = .next t ∧ (t.hart c).engine.run = none ∧
      (t.hart c).engine.plane = !(s.hart c).engine.plane ∧ t.mem = s.mem) ∧
  (∀ (s : State) (c n : Nat) (m : MatCmd) (slot : BitVec 2) (id : BitVec 8) (tb : DecodeTable),
    (s.hart c).engine.run = some (m, n) → m.op = .tblld slot id tb → ∃ t, exec (.tableInstall c) s = .next t ∧
      ((t.hart c).tables[slot.toNat]?).getD none = some tb ∧
      tableId (t.hart c).mat.tbl slot.toNat = id.toNat ∧ bit (t.hart c).mat.tbl (32 + slot.toNat) = true ∧
      (t.hart c).engine.run = none ∧ t.mem = s.mem) ∧
  (∀ (s : State) (c : Nat) (n : BitVec 3) (r : List (BitVec 3)), (s.hart c).engine.events = n :: r →
    ∃ t, exec (.operandsConsumedEvent c) s = .next t ∧ (t.hart c).engine.events = r ∧
      ((t.hart c).mc[n.toNat]?).getD 0 = ((s.hart c).mc[n.toNat]?).getD 0 + 1 ∧ t.mem = s.mem) ∧
  (∀ (s : State) (c : Nat), kindOf c = 0 → s.quizDue c = true →
    (∀ m n, (s.hart c).engine.run = some (m, n) → m.op ≠ .quiz) →
    (s.faultyArrays c = false → ∃ t, exec (.quizProduct c 0) s = .next t ∧
      (t.hart c).engine.activity = 0 ∧ (t.hart c).sys.fence = (s.hart c).sys.fence ∧ t.mem = s.mem) ∧
    ∀ bad : BitVec 4, bad ≠ 0 → bits (s.hart c).sys.fence 3 0 = 0 → ∃ t, exec (.quizProduct c bad) s = .next t ∧
      (t.hart c).engine.activity = 0 ∧ (t.hart c).sys.fence = (s.hart c).sys.fence |||
        ((s.hart c).engine.bad ||| bad).setWidth 64 ∧ t.mem = s.mem) ∧
  (∀ (s : State) (c : Nat) (r : Run) (k : Nat), s.nextRun c = some r → r.kind = .drain k →
    ∃ t, exec (.drainRunStart c) s = .next t ∧ (t.hart c).handler.run = some r ∧
      (t.hart c).handler.pc = targetOf r.entry ∧ ((t.hart c).handler.x[4]?).getD 0 = r.x4 ∧
      ((t.hart c).handler.x[5]?).getD 0 = r.x5 ∧ ((t.hart c).handler.x[6]?).getD 0 = r.x6 ∧
      (t.hart c).main = (s.hart c).main ∧ t.mem = s.mem)

/-- TREEMUL, TREEADD, TCONV, TRESUME and CONTRACT: with the thatcher's answer that the operation is done each
completes and changes nothing else; an answer that names a start fault is a trap at the head, and one that names a
stop is a trap at the successor. Without an answer, with its table loads installed and its stores performed, each
joins its cluster's queue with the addresses of its operands and waits; while the thatcher holds it, it waits.
CONTRACT reads its block first: an unaligned or illegal block raises OPERAND with the block's address. That a stop,
answered at the successor, counts its head in cr.instret, although R279 counts no head that traps, is the model's
choice (assumption log 23). [R420, R421, R423] -/
def Obligations.TreeInstructions : Prop :=
  let answered (i : Instr) (xs : List (BitVec 6)) : Prop :=
    (∀ s, Accepted acceptMain i xs [] 0 s → s.me.answer = some .done →
      EndsAs i s s (s.modMe fun h => { h with answer := none }) [] [] [] 0 fun t => t.me.answer = none) ∧
    (∀ s c v, Accepted acceptMain i xs [] 0 s → s.me.answer = some (.trap c v false) →
      exec i s = .next ((s.modMe fun h => { h with answer := none }).dropReply.takeTrap c s.pc v)) ∧
    (∀ s c v, Accepted acceptMain i xs [] 0 s → s.me.answer = some (.trap c v true) →
      exec i s = .next ((s.modMe fun h => { h with answer := none }).countHead.takeTrap c s.linkNext v)) ∧
    (∀ s, Accepted acceptMain i xs [] 0 s → s.me.answer = none → (s.cluster (clusterOf s.cur)).serves s.cur = true →
      Waits i s .thatcher)
  let free (s : State) : Prop := s.me.answer = none ∧ (s.cluster (clusterOf s.cur)).serves s.cur = false ∧
    s.me.engine.tablesSettled = true
  let joins (i : Instr) (s u : State) (w : TreeWait) : Prop := ∃ t, exec i s = .next t ∧ t.pc = u.pc ∧
    (t.parkedAs .thatcher).isSome = true ∧
    (t.cluster (clusterOf u.cur)).treeWait = (u.cluster (clusterOf u.cur)).treeWait ++ [w] ∧
    (∀ r, t.x r = u.x r) ∧ ∀ a, memGet t.mem a = memGet u.mem a
  (∀ d b a, answered (.treemul d b a) [d, b, a] ∧ ∀ s, Accepted acceptMain (.treemul d b a) [d, b, a] [] 0 s → free s →
    s.me.mem.sb = [] → joins (.treemul d b a) s s ⟨s.cur, .mul, false, s.x a, s.x b, s.x d, none⟩) ∧
  (∀ d b a, answered (.treeadd d b a) [d, b, a] ∧ ∀ s, Accepted acceptMain (.treeadd d b a) [d, b, a] [] 0 s → free s →
    s.me.mem.sb = [] → joins (.treeadd d b a) s s ⟨s.cur, .add, false, s.x a, s.x b, s.x d, none⟩) ∧
  (∀ d a, answered (.tconv d a) [d, a] ∧ ∀ s, Accepted acceptMain (.tconv d a) [d, a] [] 0 s → free s →
    s.me.mem.sb = [] → joins (.tconv d a) s s ⟨s.cur, .conv, false, s.x a, 0, s.x d, none⟩) ∧
  (answered .tresume [] ∧ ∀ s, Accepted acceptMain .tresume [] [] 0 s → free s →
    s.me.mem.sb = [] → joins .tresume s s ⟨s.cur, .mul, true, 0, 0, 0, none⟩) ∧
  (∀ b, answered (.contract b) [b] ∧
    (∀ s, Accepted acceptMain (.contract b) [b] [] 0 s → s.me.answer = none →
      (s.cluster (clusterOf s.cur)).serves s.cur = false → (s.x b).toNat % 64 ≠ 0 →
      Traps (.contract b) s (BitVec.ofNat 64 0x05) (s.x b)) ∧
    (∀ s w u, Accepted acceptMain (.contract b) [b] [] 0 s → free s → (s.x b).toNat % 64 = 0 →
      Gives (loadWords (s.x b) 16) s w u → readContract w (BitVec.ofNat 4 (bits s.me.mat.cfmt 3 0)) s.me.slotValid = none →
      exec (.contract b) s = .next (u.dropReply.takeTrap (BitVec.ofNat 64 0x05) u.pc (s.x b))) ∧
    ∀ s w u c, Accepted acceptMain (.contract b) [b] [] 0 s → free s → (s.x b).toNat % 64 = 0 →
      Gives (loadWords (s.x b) 16) s w u → u.me.mem.sb = [] →
      readContract w (BitVec.ofNat 4 (bits s.me.mat.cfmt 3 0)) s.me.slotValid = some c →
      joins (.contract b) s u ⟨u.cur, .contract, false, s.x b, 0, 0, some c⟩)

/-- THATCHER_START gives the idle thatcher the oldest waiting instruction with the registers sampled then, or answers
it with OPERAND where the samples are illegal. THATCHER_STEP of a step that can be made: while engines have chunks of
it left, each that has one and is not due a quiz product retires one, and no byte changes; with none left the step
lands, its bytes, its frames and its flags together. A step at two scaled-identity roots writes the destination node:
of a product the once-rounded scaled product, of a sum the once-rounded sum, as a scaled identity or a zero leaf, with
RES, the pool's generation and CHECK; of a conversion the scaled identity; and the walk is finished. A step at two
interior roots allocates one block of 256 bytes and pushes its frame, whose word the recursion stack at the top of the
scratchpad then holds. A step of CONTRACT moves on by one output tile; for a product of two dense row-major matrices
in the scratchpad with at most 16 by 16 results, each result is the sum of its products over the common index in
groups of sixteen, added to the old value with ACC, rounded to FP32 at each addition and once to the result format,
and no other byte changes. A pending TASK_LIMIT that may be taken stops the operation with NEXT and the resume record
written, and its instruction traps at its successor. TREE_COMPLETE answers the instruction when both NEXT are
rewritten. The layout of the stack and of the record is the model's choice (assumption logs 87 and 88), and so are the
tiles of CONTRACT and that it runs one of them at a step (assumption log 89). [R134, R140, R141, R142, R143, R144,
R146, R148, R152, R153, R421, R423] -/
def Obligations.ThatcherRuns : Prop :=
  let ctx (r : TreeRun) (c : Nat) : TreeCtx := ⟨r, c, [], []⟩
  let made (r : TreeRun) : TreeRun := { r with at_ := none, spent := [] }
  let comes (s : State) (k c : Nat) (r q : TreeRun) : Prop := (s.cluster k).treeRun = some r ∧ r.finished = false ∧
    (s.hart r.core).traps.pend.taskLimit = none ∧ s.stepAt k r = some (c, q)
  let node (typ : Nat) (r : TreeRun) (edge scale : Nat) : List Byte :=
    let w0 := typ * 2 ^ 60 + edge * 2 ^ 56 + r.smp.fc.toNat * 2 ^ 52 + 2 ^ 32
    let w1 := if typ = 2 then scale else 0
    ([w0, w1, 0, r.npool.gen.toNat * 2 ^ 16 + nodeCheck w0 w1 0 r.npool.gen.toNat]).flatMap (fun w => bytesOf w 8)
  let start (s : State) (w : TreeWait) : TreeRun :=
    { core := w.core, kind := w.kind, a := w.a, b := w.b, dest := w.dest, smp := (s.hart w.core).treeSample
      npool := .none_, dpool := .none_, frames := [], steps := 0, finished := false, con := w.con, at_ := none, spent := [] }
  let taken (s : State) (k : Nat) (rest : List TreeWait) : State := s.modCluster k fun c => { c with treeWait := rest }
  (∀ (s t : State) (k : Nat) (w : TreeWait) (rest : List TreeWait) (c : TreeCtx), (s.cluster k).treeRun = none →
    (s.cluster k).treeWait = w :: rest → w.resume = false →
    s.runTree (start s w) w.core (startNew w) = (.ok c, t) →
    (∃ d x, t.runTree c.run w.core rootEdges = (.ok d, x)) →
    ∃ u r, exec (.thatcherStart k) s = .next u ∧ (u.cluster k).treeRun = some r ∧ r.core = w.core ∧ r.kind = w.kind ∧
      r.a = w.a ∧ r.b = w.b ∧ r.dest = w.dest ∧ r.smp = (s.hart w.core).treeSample ∧ r.frames = [] ∧ r.steps = 0 ∧
      r.finished = false ∧ r.con = w.con ∧ r.spent = [] ∧ (u.cluster k).treeWait = rest) ∧
  (∀ (s t : State) (k : Nat) (w : TreeWait) (rest : List TreeWait) (c : TreeCtx), (s.cluster k).treeRun = none →
    (s.cluster k).treeWait = w :: rest → w.resume = true →
    s.runTree (start s w) w.core (startResumed w) = (.ok c, t) → exec (.thatcherStart k) s =
      .next (((taken t k rest).modCluster k fun k => { k with treeRun := some c.run }).holdFrames k c.run.frames)) ∧
  (∀ (s : State) (k : Nat) (w : TreeWait) (rest : List TreeWait), (s.cluster k).treeRun = none →
    (s.cluster k).treeWait = w :: rest → w.resume = false →
    s.sampleOk w.core w.kind (s.hart w.core).treeSample = false →
    ∃ u, exec (.thatcherStart k) s = .next u ∧ (u.cluster k).treeRun = none ∧ (u.cluster k).treeWait = rest ∧
      (u.hart w.core).answer = some (.trap (BitVec.ofNat 64 0x05) 0 false) ∧ u.mem = s.mem) ∧
  (∀ (s v : State) (k c : Nat) (r q : TreeRun) (d : TreeCtx), comes s k c r q →
    s.runTree q c (match q.con with | some con => contractStep con | none => walkStep) = (.ok d, v) →
    let left (n : Nat) : Bool := ((q.begun d.work).nextChunk d.work n).isSome
    ((workCores d.work).any left = false → ∃ u, exec (.thatcherStep k) s = .next u ∧
      (u.cluster k).treeRun = some (made d.run) ∧ u.mem = (v.holdFrames k d.run.frames).mem ∧
      ∀ n, (u.hart n).sys.mflags =
        d.flags.foldl (fun f e => if e.1 = n then f ||| e.2.setWidth 64 else f) (v.hart n).sys.mflags) ∧
    ((workCores d.work).any left = true → ∃ u, exec (.thatcherStep k) s = .next u ∧ u.mem = s.mem ∧
      (∃ p, (u.cluster k).treeRun = some p ∧ p.steps = r.steps ∧ p.frames = r.frames) ∧
      ∀ n, (u.hart n).engine.chunks = (s.hart n).engine.chunks +
        if n ∈ workCores d.work ∧ left n = true ∧ s.quizDue n = false then 1 else 0)) ∧
  (∀ (s : State) (k c : Nat) (r q : TreeRun) (e : Stop) (v : State), comes s k c r q →
    s.runTree q c (match q.con with | some con => contractStep con | none => walkStep) = (.error e, v) → stopOf e = none →
    ∃ u, exec (.thatcherStep k) s = .next u ∧ (u.cluster k).treeRun = some r ∧
      ∀ n, (u.hart n).sys.mflags = (s.hart n).sys.mflags) ∧
  (∀ (s v x y : State) (k c : Nat) (r p : TreeRun) (a b : TNode) (o : TreeOp) (l : Spans), comes s k c r p →
    p.con = none → p.frames = [] → p.spent = [] → a.typ = 2 → b.typ = 2 → (rootOp.run (ctx p c)).run s = (.ok (o, ctx p c), v) →
    (∀ d : TreeCtx, d.run = p → ((treeSpans .store (BitVec.ofNat 64 p.dest.toNat) 32).run d).run v = (.ok (l, d), x)) →
    x.unitWaits p.core l = (false, y) →
    let writes (q : FRes) (core : Nat) : Prop := ∃ u, exec (.thatcherStep k) s = .next u ∧
      u.mem = (y.engineWriteSpans l (node (if q.1 % 2 ^ 31 = 0 then 1 else 2) p a.edge q.1)).mem ∧
      (u.cluster k).treeRun = some { made p with finished := true, steps := p.steps + 1 } ∧
      (u.hart core).sys.mflags = (y.hart core).sys.mflags ||| q.2.setWidth 64
    (p.kind = .mul → o = .prod a b →
      writes (roundProduct fp32 (product (p.smp.ea + p.smp.eb) (fdecode fp32 a.scale) (fdecode fp32 b.scale))) p.core) ∧
    (p.kind = .add → o = .sum a b → writes (roundSum fp32 (fdecode fp32 a.scale) (fdecode fp32 b.scale)) p.core) ∧
    (p.kind = .conv → o = .copy a → a.scale % 2 ^ 31 ≠ 0 → writes (a.scale, 0) p.core)) ∧
  (∀ (s v : State) (k c : Nat) (r p : TreeRun) (a b : TNode), comes s k c r p → p.con = none → p.kind = .mul →
    p.frames = [] → p.spent = [] → (a.typ = 0 ∨ b.typ = 0) → k < 256 → Memory.wf v.mem = true →
    (rootOp.run (ctx p c)).run s = (.ok (.prod a b, ctx p c), v) → p.npool.next + 256 ≤ p.npool.limit →
    ∃ u, exec (.thatcherStep k) s = .next u ∧
      memNat u.mem (padHome k 0xF_C000) 8 = (p.npool.next - p.npool.base) / 128 * 2 ^ 32 % 2 ^ 64 ∧
      (∀ y, (y < padHome k 0xF_C000 ∨ padHome k 0xF_C000 + 8 ≤ y) → memGet u.mem y = memGet v.mem y) ∧
      (u.cluster k).treeRun = some { made p with frames := [⟨(p.npool.next - p.npool.base) / 128, false, false, 0⟩]
                                                 npool := { p.npool with next := p.npool.next + 256 } }) ∧
  (∀ (s v : State) (k c : Nat) (r p : TreeRun) (con : Contract) (d : TreeCtx), comes s k c r p → p.con = some con →
    p.frames = [] → s.runTree p c (contractStep con) = (.ok d, v) → (p.begun d.work).allSpent d.work = true →
    ∃ u q, exec (.thatcherStep k) s = .next u ∧ u.mem = v.mem ∧ (u.cluster k).treeRun = some q ∧ q.steps = p.steps + 1 ∧
      q.finished = decide (tileCount (con.idxC.map fun m => nth con.ext m 0) ≤ p.steps + 1)) ∧
  (∀ (s : State) (c a b o : Nat) (r : TreeRun) (con : Contract),
    let m := nth con.ext 0 0
    let p := nth con.ext 1 0
    let n := nth con.ext 2 0
    let size (x : ConOperand) : Nat := fmtBits x.fmt / 8
    let lies (x : ConOperand) (off len : Nat) : Prop := x.kind = 0 ∧ x.fmt.toNat < 3 ∧
      s.windowOf r.core x.base.toNat = (.pad, off) ∧ off + len * size x ≤ 0xF_C000
    let home (x : ConOperand) (off i : Nat) : Nat := padHome (clusterOf r.core) (off + i * size x)
    let elem (x : ConOperand) (off i : Nat) : FVal := fdecode (fmtOf x.fmt) (memNat s.mem (home x off i) (size x))
    let value (i j : Nat) : FRes := accumulate 16 (if con.acc then (roundVal fp32 (elem con.opC o (i * n + j))).1 else 0)
      ((List.range p).map fun q => product (r.smp.ea + r.smp.eb) (elem con.opA a (i * p + q)) (elem con.opB b (q * n + j)))
    let code (i j : Nat) : Nat :=
      if con.opC.fmt = 0 then (value i j).1 else (fconvert fp32 (fmtOf con.opC.fmt) (value i j).1).1
    con.idxA = [0, 1] → con.idxB = [1, 2] → con.idxC = [0, 2] → 1 ≤ m → m ≤ 16 → 1 ≤ n → n ≤ 16 → 1 ≤ p →
    lies con.opA a (m * p) → lies con.opB b (p * n) → lies con.opC o (m * n) → r.steps = 0 → r.spent = [] →
    kindOf r.core = 0 → Memory.wf s.mem = true → s.poison = [] → s.tags = [] → s.holds = [] → s.waiters = [] →
    ∃ d v, s.runTree r c (contractStep con) = (.ok d, v) ∧ d.run = { r with steps := 1, finished := true } ∧
      (∀ i j, i < m → j < n → memNat v.mem (home con.opC o (i * n + j)) (size con.opC) =
        code i j % 2 ^ (8 * size con.opC)) ∧
      ∀ y, (y < home con.opC o 0 ∨ home con.opC o (m * n) ≤ y) → memGet v.mem y = memGet s.mem y) ∧
  (∀ (s t : State) (k : Nat) (r : TreeRun) (v : Word) (d : TreeCtx), (s.cluster k).treeRun = some r → r.finished = false →
    (s.hart r.core).traps.pend.taskLimit = some v → interruptsEnabled (s.hart r.core).traps.status = true →
    s.runTree r r.core (do
      writeNexts
      treeWrite (s.hart r.core).recordAt ((r.record 4 v).flatMap fun w => bytesOf w 8)) = (.ok d, t) →
    ∃ u, exec (.thatcherStep k) s = .next u ∧ (u.cluster k).treeRun = none ∧ u.mem = t.mem ∧
      (u.hart r.core).answer = some (.trap (interruptCause 0x02 0) v true) ∧
      (u.hart r.core).traps.pend.taskLimit = none) ∧
  (∀ (s t : State) (k : Nat) (r : TreeRun) (c : TreeCtx), (s.cluster k).treeRun = some r → r.finished = true →
    s.runTree r r.core writeNexts = (.ok c, t) →
    ∃ u, exec (.treeComplete k) s = .next u ∧ (u.cluster k).treeRun = none ∧ (u.hart r.core).answer = some .done ∧
      u.mem = t.mem)

/-- With a running search: MARK writes CTOP; TRY of one alternative writes 0; TRY of more, with room, appends one
entry per snapped register, ascending, writes the choice point, moves NSEQ and CTOP and writes 0, and without room
raises SEARCH_TRAIL; FAIL under CANCEL ends the search with code 3, on an empty stack with code 1, and else unwinds to
the newest choice point, restores its snaps, takes its next alternative and goes to RESUME; CUT removes choice points
down to its mark; SEARCHEND ends it with code 2. An ending search goes to EXIT and reports to its victim. SFRAME
starts a search from a legal block. Without a search the others raise OPERAND. [R428, R431, R433, R434, R435] -/
def Obligations.SearchInstructions : Prop :=
  let ends (i : Instr) (s : State) (q : Search) (code : Nat) : Prop := ∃ t, exec i s = .next t ∧ t.pc = targetOf q.exit ∧
    t.me.search = none ∧ t.tcmNat (q.block + 32) 8 = q.statusWord code false % 2 ^ 64 ∧
    t.net = s.net ++ (if q.stolen then [.complete s.cur (clusterOf s.cur * 16 + q.vcore) q.vcp q.vtoken] else []) ∧
    (∀ r, t.x r = s.x r) ∧ ∀ a, memGet t.mem a = memGet s.mem a
  (∀ d s q, Accepted acceptMain (.mark d) [d] [] 0 s → s.mySearch = some q →
    EndsAs (.mark d) s s s [d] [] [] 0 fun t => t.x d = if d = 0 then 0 else BitVec.ofNat 64 q.ctop) ∧
  (∀ s, s.mySearch = none →
    (∀ a m n, Accepted acceptMain (.tryPush a m n) [a, m, n] [] 0 s → Traps (.tryPush a m n) s (BitVec.ofNat 64 0x05) 0) ∧
    (Accepted acceptMain .fail [] [] 0 s → Traps .fail s (BitVec.ofNat 64 0x05) 0) ∧
    (∀ b, Accepted acceptMain (.cut b) [b] [] 0 s → Traps (.cut b) s (BitVec.ofNat 64 0x05) 0) ∧
    (∀ d, Accepted acceptMain (.mark d) [d] [] 0 s → Traps (.mark d) s (BitVec.ofNat 64 0x05) 0) ∧
    (Accepted acceptMain .searchend [] [] 0 s → Traps .searchend s (BitVec.ofNat 64 0x05) 0)) ∧
  (∀ a m n s q, s.mySearch = some q → Accepted acceptMain (.tryPush a m n) [a, m, n] [] 0 s →
    (bit (s.x m) 0 = true ∨ 65535 < (s.x n).toNat ∨ a = 0) → Traps (.tryPush a m n) s (BitVec.ofNat 64 0x05) 0) ∧
  (∀ a m n s q, s.mySearch = some q → Accepted acceptMain (.tryPush a m n) [a, m, n] [] 0 s → bit (s.x m) 0 = false →
    (s.x n).toNat = 1 → a ≠ 0 → EndsAs (.tryPush a m n) s s s [a] [] [] 0 fun t => t.x a = 0) ∧
  (∀ a m n s q, s.mySearch = some q → Accepted acceptMain (.tryPush a m n) [a, m, n] [] 0 s → bit (s.x m) 0 = false →
    2 ≤ (s.x n).toNat → (s.x n).toNat ≤ 65535 → a ≠ 0 →
    let regs := bitPositions (s.x m).toNat 64
    (q.tlim < q.ttop + 16 * regs.length → Traps (.tryPush a m n) s (BitVec.ofNat 64 0x13) (s.tcmVa s.cur q.ttop)) ∧
    (q.ttop + 16 * regs.length ≤ q.tlim → q.clim < q.ctop + 64 →
      Traps (.tryPush a m n) s (BitVec.ofNat 64 0x13) (s.tcmVa s.cur q.ctop)) ∧
    (q.ttop + 16 * regs.length ≤ q.tlim → q.ctop + 64 ≤ q.clim →
      areasOk [(q.block, 64), (q.ttop, 16 * regs.length), (q.ctop, 64)] = true →
      ∃ t, HeadEnds (.tryPush a m n) s s t ∧ t.x a = 0 ∧ (∀ r, r ≠ a → t.x r = s.x r) ∧
        t.mySearch = some { q with ttop := q.ttop + 16 * regs.length, ctop := q.ctop + 64, nseq := q.nseq + 1 } ∧
        t.choice q.ctop = { count := (s.x n).toNat, next := 1, token := q.nseq, xa := a, resume := s.linkNext, snap := regs
                            tmark := q.ttop + 16 * regs.length, thief := 0 } ∧
        (∀ j, j < regs.length → t.tcmNat (q.ttop + 16 * j) 8 = 2 ^ 63 + nth regs j 0 ∧
          t.tcmNat (q.ttop + 16 * j + 8) 8 = (s.x (BitVec.ofNat 6 (nth regs j 0))).toNat) ∧
        ∀ y, memGet t.mem y = memGet s.mem y)) ∧
  (∀ s q, s.mySearch = some q → Accepted acceptMain .fail [] [] 0 s → areasOk [(q.block, 64)] = true →
    (q.cancel = true → ends .fail s q 3) ∧ (q.cancel = false → q.ctop ≤ q.cbase → ends .fail s q 1)) ∧
  (∀ s q c, s.mySearch = some q → Accepted acceptMain .fail [] [] 0 s → q.cancel = false → q.cbase < q.ctop →
    let u := State.unwindTo (s.choice (q.ctop - 64)).tmark 2048 s
    s.choice (q.ctop - 64) = c → c.next < c.count → u.choice (q.ctop - 64) = c →
    State.backtrackPoison q 512 q.ctop s = none →
    ∃ t, exec .fail s = .next t ∧ t.pc = targetOf c.resume ∧
      t.x c.xa = (if c.xa = 0 then 0 else BitVec.ofNat 64 c.next) ∧
      (∀ j, j < c.snap.length → BitVec.ofNat 6 (nth c.snap j 0) ≠ c.xa → BitVec.ofNat 6 (nth c.snap j 0) ≠ 0 →
        t.x (BitVec.ofNat 6 (nth c.snap j 0)) =
          BitVec.ofNat 64 (u.tcmNat (c.tmark - 16 * (c.snap.length - j) + 8) 8)) ∧
      (∀ r, r ≠ c.xa → r.toNat ∉ c.snap → t.x r = s.x r) ∧
      (c.next + 1 ≠ c.count → (t.choice (q.ctop - 64)).next = c.next + 1 ∧ t.mySearch = u.mySearch) ∧
      (c.next + 1 = c.count → t.mySearch = u.mySearch.map fun p =>
        { p with ttop := c.tmark - 16 * c.snap.length, ctop := q.ctop - 64 }) ∧
      ∀ y, memGet t.mem y = memGet s.mem y) ∧
  (∀ b s q, s.mySearch = some q → Accepted acceptMain (.cut b) [b] [] 0 s → areasOk [(q.block, 64)] = true →
    (q.cancel = true → ends (.cut b) s q 3) ∧
    (q.cancel = false → ((s.x b).toNat < q.cbase ∨ ((s.x b).toNat - q.cbase) % 64 ≠ 0) →
      Traps (.cut b) s (BitVec.ofNat 64 0x05) 0) ∧
    (q.cancel = false → s.unitPoison (s.x b).toNat (q.ctop - (s.x b).toNat) = none → q.cbase ≤ (s.x b).toNat → ((s.x b).toNat - q.cbase) % 64 = 0 →
      q.ctop ≤ 0x8000 → q.cbase ≤ q.ctop → (q.ctop - q.cbase) % 64 = 0 → ∃ t, HeadEnds (.cut b) s s t ∧
        t.mySearch = some { q with ctop := min q.ctop (s.x b).toNat } ∧ (∀ r, t.x r = s.x r) ∧
        (q.ctop = (s.x b).toNat + 64 → t.net = s.net ++ (bitPositions (s.choice (s.x b).toNat).thief 16).map
          (fun k => .cancel (clusterOf s.cur * 16 + k) s.cur (s.x b).toNat (s.choice (s.x b).toNat).token)) ∧
        ∀ y, memGet t.mem y = memGet s.mem y)) ∧
  (∀ s q, s.mySearch = some q → Accepted acceptMain .searchend [] [] 0 s → areasOk [(q.block, 64)] = true →
    ends .searchend s q 2) ∧
  (∀ b s, Accepted acceptMain (.sframe b) [b] [] 0 s → (s.mySearch.isSome = true ∨ (s.windowOf s.cur (s.x b).toNat).1 ≠ .tcm ∨
    (s.windowOf s.cur (s.x b).toNat).2 % 64 ≠ 0) → Traps (.sframe b) s (BitVec.ofNat 64 0x05) (s.x b)) ∧
  (∀ b s off w u, Accepted acceptMain (.sframe b) [b] [] 0 s → s.mySearch = none →
    s.windowOf s.cur (s.x b).toNat = (.tcm, off) → off % 64 = 0 → Gives (loadWords (s.x b) 8) s w u → u.cur = s.cur →
    u.ctx = s.ctx → (readBlock off w = none →
      exec (.sframe b) s = .next (u.dropReply.takeTrap (BitVec.ofNat 64 0x05) u.pc (s.x b))) ∧
    ∀ q, readBlock off w = some q → ∃ t, HeadEnds (.sframe b) s u t ∧ t.mySearch = some q ∧
      q.block = off ∧ q.ttop = q.tbase ∧ q.ctop = q.cbase ∧ q.stolen = false ∧ q.cancel = false ∧
      t.tcmNat (off + 32) 8 = q.statusWord 0 true ∧ (∀ r, t.x r = u.x r) ∧ ∀ y, memGet t.mem y = memGet u.mem y)

/-- STEAL by a core with an empty search of its own sends one request and waits; a search that is not empty, no
search, its own number or one above 15 raise OPERAND. THEFT_SERVE takes the alternative COUNT - 1 from the lowest
choice point that has one left, sets the thief's bit, and writes the victim's frame as it stood at that choice point
into the thief's frame; with none left it answers 1, with frames of unequal length 2. STEAL then writes the status;
with 0 it writes the snaps and the alternative and goes to RESUME. A cancellation that names the stolen choice point
sets CANCEL, also of an alternative that was given and not yet taken; a completion clears the thief's bit. That a
thief whose own search has ended is answered 1, and which search a cancellation or a completion applies to, are the
model's choice (assumption log 38). [R439, R440, R441] -/
def Obligations.TheftAndItsMessages : Prop :=
  let asks (s : State) : Prop := ∀ p ∈ s.net, ∀ v, p ≠ .theft s.cur v
  (∀ d v s q, Accepted acceptMain (.steal d v) [d, v] [] 0 s → s.me.theft = none → asks s → s.mySearch = some q →
    q.ctop = q.cbase → q.ttop = q.tbase → (s.x v).toNat ≤ 15 → (s.x v).toNat ≠ s.cur % 16 → s.me.mem.sb = [] →
    Waits (.steal d v) s .steal ∧ ∃ t, exec (.steal d v) s = .next t ∧
      t.net = s.net ++ [.theft s.cur (clusterOf s.cur * 16 + (s.x v).toNat)] ∧ t.mem = s.mem) ∧
  (∀ d v s, Accepted acceptMain (.steal d v) [d, v] [] 0 s → s.me.theft = none → asks s →
    (s.mySearch = none ∨ (∃ q, s.mySearch = some q ∧ (q.ctop ≠ q.cbase ∨ q.ttop ≠ q.tbase ∨ 15 < (s.x v).toNat ∨
      (s.x v).toNat = s.cur % 16))) → Traps (.steal d v) s (BitVec.ofNat 64 0x05) 0) ∧
  (∀ d v s w, Accepted acceptMain (.steal d v) [d, v] [] 0 s → s.me.theft = none → .theft s.cur w ∈ s.net →
    Waits (.steal d v) s .steal) ∧
  (∀ d v s t, Accepted acceptMain (.steal d v) [d, v] [] 0 s → s.me.theft = some t → t.status ≠ 0 →
    EndsAs (.steal d v) s s (s.modMe fun h => { h with theft := none }) [d] [] [] 0 fun u =>
      u.x d = if d = 0 then 0 else BitVec.ofNat 64 t.status) ∧
  (∀ d v s t q, Accepted acceptMain (.steal d v) [d, v] [] 0 s → s.me.theft = some t → t.status = 0 →
    s.mySearch = some q → t.xa ≠ 0 → t.snaps.map (·.1) = (t.snaps.map (·.1)).dedup → (∀ e ∈ t.snaps, 0 < e.1 ∧ e.1 < 64) →
    ∃ u, exec (.steal d v) s = .next u ∧ u.pc = targetOf t.resume ∧ u.x t.xa = BitVec.ofNat 64 t.alt ∧
      (∀ e ∈ t.snaps, BitVec.ofNat 6 e.1 ≠ t.xa → u.x (BitVec.ofNat 6 e.1) = e.2) ∧
      (d ≠ 0 → d ≠ t.xa → d.toNat ∉ t.snaps.map (·.1) → u.x d = 0) ∧
      u.mySearch = some { q with stolen := true, cancel := q.cancel || t.cancel, vcore := t.victim % 16,
                                  vcp := t.cp, vtoken := t.token } ∧
      u.me.theft = none ∧ ∀ y, memGet u.mem y = memGet s.mem y) ∧
  (∀ (s : State) (thief victim : Nat) (q own : Search), s.net = [.theft thief victim] → kindOf victim = 0 →
    s.fencedCore victim = false → (s.hart victim).search = some q → (s.hart thief).search = some own → thief ≠ victim →
    let v : State := { s with cur := victim, ctx := .main }
    (v.lowestOpen q = none → ∃ t w, exec (.theftServe victim) s = .next t ∧ (t.hart thief).theft = some w ∧ w.status = 1 ∧
      t.net = [] ∧ t.mem = s.mem) ∧
    (∀ off, v.lowestOpen q = some off → q.flen ≠ own.flen → ∃ t w, exec (.theftServe victim) s = .next t ∧
      (t.hart thief).theft = some w ∧ w.status = 2 ∧ t.net = [] ∧ t.mem = s.mem) ∧
    (∀ off, v.lowestOpen q = some off → q.flen = own.flen → Memory.wf s.mem = true → s.poison = [] → thief < 4096 → own.fbase + own.flen ≤ 0x8000 →
      ∃ t w, exec (.theftServe victim) s = .next t ∧ (t.hart thief).theft = some w ∧ w.status = 0 ∧ w.victim = victim ∧
        w.cp = off ∧ w.token = (v.choice off).token ∧ w.xa = (v.choice off).xa ∧ w.alt = (v.choice off).count - 1 ∧
        w.resume = (v.choice off).resume ∧ t.net = [] ∧
        (State.choice { t with cur := victim, ctx := .main } off).count = (v.choice off).count - 1 ∧
        (State.choice { t with cur := victim, ctx := .main } off).thief.testBit (thief % 16) = true ∧
        ∀ k, k < own.flen → memGet t.mem (tcmHome thief (own.fbase + k)) =
          (((v.frameThen q (v.choice off).tmark)[k]?).getD 0))) ∧
  (∀ (s : State) (thief victim : Nat), s.net = [.theft thief victim] → (s.fencedCore victim = true ∨
    (s.hart victim).search = none ∨ (s.hart thief).search = none) → ∃ t w, exec (.theftServe victim) s = .next t ∧
      (t.hart thief).theft = some w ∧ w.status = 1 ∧ t.net = [] ∧ t.mem = s.mem) ∧
  (∀ (s : State) (thief victim cp : Nat) (token : BitVec 16) (q : Search), s.net = [.cancel thief victim cp token] →
    (s.hart thief).search = some q →
    (q.stolen = true → q.vcore = victim % 16 → q.vcp = cp → q.vtoken = token →
      ∃ t, exec (.searchCancellation 0) s = .next t ∧ (t.hart thief).search = some { q with cancel := true } ∧ t.net = [] ∧
        t.mem = s.mem) ∧
    ((q.stolen = false ∨ q.vcore ≠ victim % 16 ∨ q.vcp ≠ cp ∨ q.vtoken ≠ token) →
      ∃ t, exec (.searchCancellation 0) s = .next t ∧ (t.hart thief).search = some q ∧ t.net = [] ∧ t.mem = s.mem)) ∧
  (∀ (s : State) (thief victim cp : Nat) (token : BitVec 16) (w : Theft), s.net = [.cancel thief victim cp token] →
    (s.hart thief).theft = some w → w.status = 0 → w.victim = victim → w.cp = cp → w.token = token →
    ∃ t, exec (.searchCancellation 0) s = .next t ∧ (t.hart thief).theft = some { w with cancel := true } ∧ t.net = [] ∧
      t.mem = s.mem) ∧
  (∀ (s : State) (thief victim cp : Nat) (token : BitVec 16) (q : Search), s.net = [.complete thief victim cp token] →
    (s.hart victim).search = some q →
    let c := State.choice { s with cur := victim, ctx := .main } cp
    (q.cbase ≤ cp → cp < q.ctop → c.token = token →
      State.unitPoison { s with cur := victim, ctx := .main } cp 64 = none → ∃ t, exec (.searchCompletionMessage 0) s = .next t ∧ t.net = [] ∧
      (State.choice { t with cur := victim, ctx := .main } cp).thief = c.thief &&& (2 ^ 16 - 1 - 2 ^ (thief % 16)) ∧
      (State.choice { t with cur := victim, ctx := .main } cp).count = c.count ∧ t.mem = s.mem) ∧
    ((cp < q.cbase ∨ q.ctop ≤ cp ∨ c.token ≠ token) → exec (.searchCompletionMessage 0) s = .next { s with net := [] }))

/-- ASUMM and both forms of ASCREEN read their 64-byte block, and with its checks passed, the ranges translated, the
stores performed and fewer than eight requests held complete with the request at the end of the cluster's screener; no
register changes. With eight they wait. An unaligned block, or one that breaks a rule, raises OPERAND with its
address. SCREENER_REQUEST of an ASUMM that need not wait and whose means and radius go to distinct places writes the
mean of every element and the radius there, takes the request away and raises the counter it names; a poisoned word
ends it with a MACHINE_CHECK, no write and no counter, which is the model's choice (assumption log 39; R184 names the
MACHINE_CHECK alone). What an ASCREEN writes is stated with ScreenSelection. [R184, R442, R443, R444, R445] -/
def Obligations.ScreenerRequests : Prop :=
  let joins (i : Instr) (s u : State) (op : ScreenOp) (dv : BitVec 1) (dmc : BitVec 3) (l : List Spans) : Prop :=
    EndsAs i s u (u.modCluster (clusterOf u.cur) fun k => { k with screener := k.screener ++
      [⟨u.cur, op, if dv = 1 then some dmc else none, u.me.tables.toList, l.flatten⟩] }) [] [] [] 0
      fun t => ∀ y, memGet t.mem y = memGet u.mem y
  let screens (i : Instr) (xs : List (BitVec 6)) (b : BitVec 6) (dv : BitVec 1) (dmc : BitVec 3)
      (q : State → Option Word) (k : Option Nat) : Prop :=
    (∀ s, Accepted acceptMain i xs [] 0 s → (s.x b).toNat % 64 ≠ 0 → Traps i s (BitVec.ofNat 64 0x05) (s.x b)) ∧
    ∀ s w u, Accepted acceptMain i xs [] 0 s → (s.x b).toNat % 64 = 0 → Gives (loadWords (s.x b) 8) s w u →
      (readScreen w (q s) k = none → exec i s = .next (u.dropReply.takeTrap (BitVec.ofNat 64 0x05) u.pc (s.x b))) ∧
      ∀ op l v, readScreen w (q s) k = some op → Gives (rangesM false true op.ranges) u l v → v.me.mem.sb = [] →
        ((v.cluster (clusterOf v.cur)).screener.length < 8 → joins i s v op dv dmc l) ∧
        (8 ≤ (v.cluster (clusterOf v.cur)).screener.length → exec i s = .next (v.parkCtx .screener none))
  (∀ dv dmc b, screens (.ascreen dv dmc b) [b] b dv dmc (fun _ => none) none) ∧
  (∀ kimm ko qo sq dv dmc b, screens (.ascreenLong kimm ko qo sq dv dmc b) [b, sq] b dv dmc
    (fun s => if qo = 1 then some (s.x sq) else none) (if ko = 1 then some kimm.toNat else none)) ∧
  (∀ dv dmc b s, Accepted acceptMain (.asumm dv dmc b) [b] [] 0 s → (s.x b).toNat % 64 ≠ 0 →
    Traps (.asumm dv dmc b) s (BitVec.ofNat 64 0x05) (s.x b)) ∧
  (∀ dv dmc b s w u, Accepted acceptMain (.asumm dv dmc b) [b] [] 0 s → (s.x b).toNat % 64 = 0 →
    Gives (loadWords (s.x b) 8) s w u →
    (readSumm w = none → exec (.asumm dv dmc b) s = .next (u.dropReply.takeTrap (BitVec.ofNat 64 0x05) u.pc (s.x b))) ∧
    ∀ keys mean rad pitch d m fmt id l v, readSumm w = some (.summ keys mean rad pitch d m fmt, id) →
      Gives (identityM fmt id (s.x b)) u () u → Gives (rangesM false true (ScreenOp.summ keys mean rad pitch d m fmt).ranges) u l v →
      v.me.mem.sb = [] → (v.cluster (clusterOf v.cur)).screener.length < 8 →
      joins (.asumm dv dmc b) s v (.summ keys mean rad pitch d m fmt) dv dmc l) ∧
  (∀ (s : State) (k : Nat) (r : ScreenReq) (rest : List ScreenReq) (keys mean rad : Word) (pitch d m : Nat)
      (fmt : BitVec 4), Memory.wf s.mem = true → (s.cluster k).screener = r :: rest →
    r.op = .summ keys mean rad pitch d m fmt → (s.poisonSpans r.readSpans) = none →
    s.unitWaits r.core r.spans = (false, s) → (∀ e, (s.die e).gutter = []) → (∀ a, s.inSpill a = false) →
    (∀ p ∈ r.spans, ∀ x, p.home ≤ x → x < p.home + p.len → homeOf x = .loft →
      (s.cluster (loftPlace x).1).loft.eaves.any (fun e => e.1 == (loftPlace x).2) = true) →
    let at_ (a : Word) (n i : Nat) : Option Nat := ((partSpans (rangeSpans r.spans a n) i 1).head?).map (·.home)
    let places := (List.range (2 * d)).map (at_ mean (2 * d)) ++ (List.range 4).map (at_ rad 4)
    let keyOf (t : Nat) : List FVal := valuesOf r.tables fmt d ((List.range (d * fmtBits fmt / 8)).map fun i =>
      match at_ (keys + BitVec.ofNat 64 (t * pitch)) (d * fmtBits fmt / 8) i with | some h => memGet s.mem h | none => 0)
    let mu := (List.range d).map (fun j => meanOf ((List.range m).map fun t => nth (keyOf t) j fzeroVal))
    let data : List Byte := mu.flatMap (fun c => bytesOf c 2) ++
      bytesOf (radiusOf ((List.range m).map keyOf) (mu.map (fdecode (fmtOf 2)))) 4
    (∀ t i, t < m → i < d * fmtBits fmt / 8 →
      (at_ (keys + BitVec.ofNat 64 (t * pitch)) (d * fmtBits fmt / 8) i).isSome = true) →
    (∀ p ∈ places, p.isSome = true) → places.Nodup →
    ∃ u, exec (.screenerRequest k) s = .next u ∧ (u.cluster k).screener = rest ∧
      (∀ (j h : Nat), places[j]? = some (some h) → memGet u.mem h = data.getD j 0) ∧
      (∀ y, some y ∉ places → memGet u.mem y = memGet s.mem y) ∧
      ∀ c, r.done = some c → (u.hart r.core).mc[c.toNat]? = some (((s.hart r.core).mc[c.toNat]?).getD 0 + 1)) ∧
  (∀ (s : State) (k : Nat) (w : Word) (r : ScreenReq) (rest : List ScreenReq), (s.cluster k).screener = r :: rest →
    s.unitWaits r.core r.spans = (false, s) → s.poisonSpans r.readSpans = some w → ∃ u, exec (.screenerRequest k) s = .next u ∧ (u.cluster k).screener = rest ∧
      (u.hart r.core).traps.pend.machineCheck = some (BitVec.ofNat 8 2, w) ∧ u.mem = s.mem ∧
      (u.hart r.core).mc = (s.hart r.core).mc)

/-- For every list of scores, K and pair of forcing bits, the selection rises strictly and names only blocks that
exist; it holds block 0 with SINK and the last block with RECENT; of the blocks that are not forced it holds exactly
the lesser of K and their number; and no block that it leaves out has a larger score than a block it holds unforced,
or the same score and a lower index. SCREENER_REQUEST of an ASCREEN that need not wait, with no poisoned word and
every place it writes distinct, takes the request away, and for each query block, with the scores that its queries
give the key blocks, bit b of the bitmap is set exactly where b is selected, the list holds the selected blocks,
rising, and the count their number; no other byte changes, and the counter it names rises by one. That a request is
served in one step is the model's choice (assumption log 39). [R442, R445, R446] -/
def Obligations.ScreenSelection : Prop :=
  (∀ (scores : List Int) (k : Nat) (recent sink : Bool),
    let sel := selection scores k recent sink
    let n := scores.length
    let forced (b : Nat) : Prop := (sink = true ∧ b = 0) ∨ (recent = true ∧ b + 1 = n)
    let free (b : Nat) : Bool := !((sink && b == 0) || (recent && b + 1 == n))
    sel.Pairwise (· < ·) ∧ (∀ b ∈ sel, b < n) ∧ (∀ b, b < n → forced b → b ∈ sel) ∧
    (sel.filter free).length = min k ((List.range n).filter free).length ∧
    ∀ b c, b ∈ sel → free b = true → c < n → free c = true → c ∉ sel →
      nth scores c 0 < nth scores b 0 ∨ (nth scores c 0 = nth scores b 0 ∧ b < c)) ∧
  ∀ (s : State) (kk : Nat) (r : ScreenReq) (rest : List ScreenReq) (q means rads mask list cnt : Word)
      (nkb pitch d g nq k : Nat) (fmt : BitVec 4) (recent sink : Bool), Memory.wf s.mem = true →
    (s.cluster kk).screener = r :: rest → r.op = .screen q means rads mask list cnt nkb pitch d g nq k fmt recent sink →
    s.poisonSpans r.readSpans = none → s.unitWaits r.core r.spans = (false, s) → (∀ e, (s.die e).gutter = []) →
    (∀ a, s.inSpill a = false) → (∀ p ∈ r.spans, ∀ x, p.home ≤ x → x < p.home + p.len → homeOf x = .loft →
      (s.cluster (loftPlace x).1).loft.eaves.any (fun e => e.1 == (loftPlace x).2) = true) →
    let at_ (a : Word) (n i : Nat) : Option Nat := ((partSpans (rangeSpans r.spans a n) i 1).head?).map (·.home)
    let held (a : Word) (n i : Nat) : Byte := match at_ a n i with | some h => memGet s.mem h | none => 0
    let mean (b : Nat) : List FVal := valuesOf r.tables 2 d ((List.range (2 * d)).map fun i => held means (2 * d * nkb) (2 * d * b + i))
    let radius (b : Nat) : FVal := fdecode fp32 (natOf ((List.range 4).map fun i => held rads (4 * nkb) (4 * b + i)))
    let size := d * fmtBits fmt / 8
    let query (a i : Nat) : List FVal := valuesOf r.tables fmt d ((List.range size).map (held (queryAt q pitch nq a i) size))
    let sel (a : Nat) : List Nat := selection ((List.range nkb).map fun b =>
      ((List.range nq).map fun i => boundKey (query a i) (mean b) (radius b)).foldl max (-infKey)) k recent sink
    let bits_ (a : Nat) : List (Option Nat) := (List.range (8 * maskWords nkb)).map
      (at_ (mask + BitVec.ofNat 64 (8 * a * maskWords nkb)) (8 * maskWords nkb))
    let items (a : Nat) : List (Option Nat) := (List.range (4 * (sel a).length)).map
      (at_ (list + BitVec.ofNat 64 (4 * a * (k + 2))) (4 * (sel a).length))
    let count (a : Nat) : List (Option Nat) := (List.range 4).map (at_ (cnt + BitVec.ofNat 64 (4 * a)) 4)
    let places := (List.range g).flatMap fun a => bits_ a ++ items a ++ count a
    (∀ i, i < 2 * d * nkb → (at_ means (2 * d * nkb) i).isSome = true) →
    (∀ i, i < 4 * nkb → (at_ rads (4 * nkb) i).isSome = true) →
    (∀ a i j, a < g → i < nq → j < size → (at_ (queryAt q pitch nq a i) size j).isSome = true) →
    (∀ p ∈ places, p.isSome = true) → places.Nodup →
    ∃ u, exec (.screenerRequest kk) s = .next u ∧ (u.cluster kk).screener = rest ∧
      (∀ a b h, a < g → b < 64 * maskWords nkb → (bits_ a)[b / 8]? = some (some h) →
        (memGet u.mem h).getLsbD (b % 8) = decide (b ∈ sel a)) ∧
      (∀ a j h, a < g → (items a)[j]? = some (some h) → memGet u.mem h = (bytesOf (nth (sel a) (j / 4) 0) 4).getD (j % 4) 0) ∧
      (∀ a j h, a < g → (count a)[j]? = some (some h) → memGet u.mem h = (bytesOf (sel a).length 4).getD j 0) ∧
      (∀ y, some y ∉ places → memGet u.mem y = memGet s.mem y) ∧
      ∀ c, r.done = some c → (u.hart r.core).mc[c.toNat]? = some (((s.hart r.core).mc[c.toNat]?).getD 0 + 1)

/-- With the output connected, the source plain, the sender's earlier accesses performed and fewer than eight chunks
held or on their way, XSEND completes with one chunk of the register, the low 16 bits of the tag and its sender on its
way; unconnected it raises OPERAND with 0, with eight it waits, and for a fenced receiver it discards the chunk.
CHANNEL_CHUNK_ARRIVAL appends a chunk that no earlier one of its sender precedes. XRECV gives the oldest chunk and its
tag, and waits on an empty input. That the eight chunks of R449 count those still on their way is the model's choice
(assumption log 40). XCTL.CON connects (reserved bits raise OPERAND), XCTL.DIS ends the connection, and XCTL.ST
reports both. [R447, R448, R449, R450] -/
def Obligations.TransformChannels : Prop :=
  (∀ d ch x s, Accepted acceptMain (.xsend d ch x) [x] [d] 0 s → s.channelOut ch = none →
    Traps (.xsend d ch x) s (BitVec.ofNat 64 0x05) 0) ∧
  (∀ d ch x s c, Accepted acceptMain (.xsend d ch x) [x] [d] 0 s → s.channelOut ch = some c → s.plainV [d] →
    s.drained s.cur 3 = true →
    let core := c.toNat % 4096
    let n := c.toNat / 4096
    (s.fencedCore core = false → s.channelLoad core n < 8 →
      EndsAs (.xsend d ch x) s s (s.send (.chunk core n ⟨s.v d, (s.x x).setWidth 16, s.cur⟩)) [] [] [] 0 fun t =>
        t.net = s.net ++ [.chunk core n ⟨s.v d, (s.x x).setWidth 16, s.cur⟩]) ∧
    (s.fencedCore core = false → 8 ≤ s.channelLoad core n → Waits (.xsend d ch x) s .channel) ∧
    (s.fencedCore core = true → EndsAs (.xsend d ch x) s s s [] [] [] 0 fun t => t.net = s.net)) ∧
  (∀ d ch x s, s.plainV [d] → Accepted acceptMain (.xrecv d ch x) [x] [d] 0 s → s.me.channelIn ch.toNat = [] →
    Waits (.xrecv d ch x) s .channel) ∧
  (∀ d ch x s c rest, Accepted acceptMain (.xrecv d ch x) [x] [d] 0 s → s.plainV [d] → s.me.channelIn ch.toNat = c :: rest →
    EndsAs (.xrecv d ch x) s s (s.modMe fun h => { h with chan := { h.chan with
        inp := h.chan.inp.setIfInBounds ch.toNat rest } }) [x] [d] [] 0 fun t =>
      t.v d = c.data ∧ t.x x = (if x = 0 then 0 else c.tag.setWidth 64) ∧ t.me.channelIn ch.toNat = rest) ∧
  (∀ ch b s, Accepted acceptMain (.xctlCon ch b) [b] [] 0 s → bits (s.x b) 63 14 ≠ 0 →
    Traps (.xctlCon ch b) s (BitVec.ofNat 64 0x05) 0) ∧
  (∀ ch b s, Accepted acceptMain (.xctlCon ch b) [b] [] 0 s → bits (s.x b) 63 14 = 0 →
    EndsAs (.xctlCon ch b) s s (s.modMe fun h => { h with chan := { h.chan with
        out := h.chan.out.setIfInBounds ch.toNat (some ((s.x b).setWidth 14)) } }) [] [] [] 0 fun t =>
      t.channelOut ch = some ((s.x b).setWidth 14) ∧ ∀ e, e ≠ ch → t.channelOut e = s.channelOut e) ∧
  (∀ ch s, Accepted acceptMain (.xctlDis ch) [] [] 0 s →
    EndsAs (.xctlDis ch) s s (s.modMe fun h => { h with chan := { h.chan with
        out := h.chan.out.setIfInBounds ch.toNat none } }) [] [] [] 0 fun t =>
      t.channelOut ch = none ∧ ∀ e, e ≠ ch → t.channelOut e = s.channelOut e) ∧
  (∀ d ch s, Accepted acceptMain (.xctlSt d ch) [d] [] 0 s → d ≠ 0 →
    EndsAs (.xctlSt d ch) s s s [d] [] [] 0 fun t => (s.me.channelIn ch.toNat).length < 256 →
      bits (t.x d) 13 0 = ((s.channelOut ch).getD 0).toNat ∧ bit (t.x d) 16 = (s.channelOut ch).isSome ∧
        bits (t.x d) 31 24 = (s.me.channelIn ch.toNat).length) ∧
  (∀ (s : State) (k core ch : Nat) (c : Chunk), s.net[k]? = some (.chunk core ch c) → ch < 4 →
    (∀ p ∈ s.net.take k, ∀ e, p = .chunk core ch e → e.src ≠ c.src) →
    ∃ t, exec (.channelChunkArrival k) s = .next t ∧ t.net = dropAt s.net k ∧ t.mem = s.mem ∧
      (t.hart core).channelIn ch = (s.hart core).channelIn ch ++ (if s.fencedCore core then [] else [c]) ∧
      ∀ e, e ≠ core → t.hart e = s.hart e)

/-- SCOPE_MISS_HOLD puts a hold with the smallest scope on the unit and a run into its writer's FIFO, or a message at
the memory interface of a loader, storer or service core, and toward a fenced or halted writer lifts at once; a run
starts at cr.smvec with x4 to x6; an interface marks the lift once the accesses before the message are performed;
SCOPE_MISS_LIFT drops the hold, whatever has become of the tag, and widens a tag of the same writer, after a trapped
or discarded run once the writer's fence is made. LINK_REPLAY repeats the hart's last registrar request, which is the
model's choice (assumption logs 43 and 46). MESSAGE_DELIVERY, where no word it writes is held, writes the payload,
sets its words full and raises the counter; at a fenced core it is discarded. PARK_WAKE and the expiries bring a
parked context to its head. INTERRUPT_TAKEN takes MACHINE_CHECK, TASK_LIMIT, SERVICE, HANDLER_FAULT, COMPANION_TRAP in
this order at its level. USER_COMPLETION_INTERRUPT goes to the oldest event's handler. [R60, R101, R102, R103, R113,
R178, R183, R186, R286, R299, R380, R472] -/
def Obligations.ScopeMissesMessagesAndWakes : Prop :=
  let turnsTo (i : Instr) (s : State) (h : Nat) (hd : Bool) : Prop :=
    exec i s = .next { s with cur := h, ctx := if hd then .handler else .main }
  let expires (i : Nat → Bool → Instr) (why : Why) : Prop := ∀ (s : State) (h : Nat) (hd : Bool) (p : Park),
    s.parkOf h hd = some p → p.why = why → (s.parkOver p = true → turnsTo (i h hd) s h hd) ∧
      (s.parkOver p = false → exec (i h hd) s = .next s)
  (∀ (s : State) (h u : Nat) (t : Tag), tget s.tags u = some t → (s.hart h).waitsHeld u = true →
    inScope t.writer t.scope h = false → tget s.holds u = none →
    let sc := smallestScope t.writer h
    let isRun (r : Run) : Prop := r.kind = .scopeMiss u sc ∧ r.prv = 1 ∧ r.x4 = (unitName u t.sync).1 ∧
      r.x5 = BitVec.ofNat 64 sc.toNat ∧ r.x6 = (unitName u t.sync).2
    (s.writerGone t.writer = false → kindOf t.writer = 0 → (s.hart t.writer).runs.fifo.length < 16 →
      (s.hart t.writer).runs.port = [] → ∃ v r, exec (.scopeMissHold h u) s = .next v ∧
        tget v.holds u = some ⟨t.writer, t.scope, sc, false, true, false, none⟩ ∧ tget v.tags u = some t ∧ isRun r ∧
        (v.hart t.writer).runs.fifo = (s.hart t.writer).runs.fifo ++ [r] ∧ v.mem = s.mem) ∧
    (s.writerGone t.writer = false → (kindOf t.writer ≠ 0 ∨ 16 ≤ (s.hart t.writer).runs.fifo.length) →
      ∃ v r, exec (.scopeMissHold h u) s = .next v ∧ tget v.tags u = some t ∧ isRun r ∧
        tget v.holds u = some ⟨t.writer, t.scope, sc, false, true, false,
          if kindOf t.writer = 0 then none else some (s.hart t.writer).mem.serial⟩ ∧
        (v.hart t.writer).runs.port = (s.hart t.writer).runs.port ++ [r] ∧ v.mem = s.mem) ∧
    (s.writerGone t.writer = true → ∃ v, exec (.scopeMissHold h u) s = .next v ∧ tget v.holds u = none ∧
      tget v.tags u = some { t with scope := if sc.toNat < t.scope.toNat then t.scope else sc } ∧ v.harts = s.harts ∧
      v.mem = s.mem)) ∧
  (∀ (s : State) (c : Nat) (r : Run) (u : Nat) (sc : BitVec 3), s.nextRun c = some r → r.kind = .scopeMiss u sc →
    ∃ t, exec (.scopeMissRunStart c) s = .next t ∧ (t.hart c).handler.run = some r ∧
      (t.hart c).handler.pc = targetOf (s.hart c).sys.smvec ∧ ((t.hart c).handler.x[4]?).getD 0 = r.x4 ∧
      ((t.hart c).handler.x[5]?).getD 0 = r.x5 ∧ ((t.hart c).handler.x[6]?).getD 0 = r.x6 ∧
      (t.hart c).main = (s.hart c).main ∧ t.mem = s.mem) ∧
  (∀ (s : State) (h u n : Nat) (sc : BitVec 3) (r : Run) (rest : List Run) (d : Hold), kindOf h ≠ 0 →
    (s.hart h).runs.port = r :: rest → r.kind = .scopeMiss u sc → sc.toNat < 5 → d.scope.toNat < 5 →
    tget s.holds u = some d →
    (d.writer ≠ h → ∃ t, exec (.companionScopeMiss h) s = .next t ∧ (t.hart h).runs.port = rest ∧ t.holds = s.holds) ∧
    (d.writer = h → d.auto = some n → s.performedBelow h n = true → ∃ t, exec (.companionScopeMiss h) s = .next t ∧ (t.hart h).runs.port = rest ∧
      tget t.holds u = some { d with lifted := true } ∧ t.mem = s.mem) ∧
    (d.writer = h → d.auto = some n → s.performedBelow h n = false → exec (.companionScopeMiss h) s = .next s)) ∧
  (∀ (s : State) (u : Nat) (d : Hold), tget s.holds u = some d → (s.holds.map (·.1)).Nodup → d.scope.toNat < 5 →
    let lifts : Prop := ∃ v, exec (.scopeMissLift u) s = .next v ∧ tget v.holds u = none ∧ v.mem = s.mem ∧
      (tget s.tags u = none → v.tags = s.tags) ∧ ∀ t, tget s.tags u = some t → tget v.tags u = some (if t.writer = d.writer then
        { t with scope := if d.scope.toNat < t.scope.toNat then t.scope else d.scope, freed := t.freed || d.fill } else t)
    (d.lifted = true → lifts) ∧ (d.lifted = false → d.auto = none → exec (.scopeMissLift u) s = .next s) ∧
    (∀ n, d.lifted = false → d.auto = some n → kindOf d.writer = 0 → (s.performedBelow d.writer n = true → lifts) ∧
      (s.performedBelow d.writer n = false → exec (.scopeMissLift u) s = .next s))) ∧
  (∀ (s : State) (h : Nat), ∃ t, exec (.linkReplay h) s = .next t ∧ t.board.replays = s.board.replays + 1 ∧ t.mem = s.mem ∧
    t.harts = s.harts ∧ ∀ r, (s.hart h).mem.regLast = some r → (t.die (homeDie r.op.place.1)).registrar =
      (s.die (homeDie r.op.place.1)).registrar ++ [r]) ∧
  (∀ (s : State) (k src core slot serial : Nat) (data : List Byte) (mc : BitVec 3), Memory.wf s.mem = true →
    s.net[k]? = some (.msg src core slot data mc serial) → core < 4096 → 256 * slot + data.length ≤ 0x8000 →
    (∀ p ∈ s.net.take k, ∀ a b c d, p ≠ .msg src core a b c d) →
    (s.fencedCore core = false →
      s.partyWaits src [⟨tcmHome core (256 * slot), data.length, tcmHome core (256 * slot), false⟩] = (false, s) →
      ∃ t, exec (.messageDelivery k) s = .next t ∧ t.net = dropAt s.net k ∧
      (∀ j, j < data.length → memGet t.mem (tcmHome core (256 * slot) + j) = (data[j]?).getD 0 ∧
        t.isFull (wordAt (tcmHome core (256 * slot) + j)) = true) ∧
      (∀ a, (a < tcmHome core (256 * slot) ∨ tcmHome core (256 * slot) + data.length ≤ a) → memGet t.mem a = memGet s.mem a) ∧
      ((t.hart core).mc[mc.toNat]?).getD 0 = ((s.hart core).mc[mc.toNat]?).getD 0 + 1) ∧
    (s.fencedCore core = true → exec (.messageDelivery k) s = .next { s with net := dropAt s.net k })) ∧
  (∀ (s : State) (h : Nat) (hd : Bool), (s.parkOf h hd).isSome = true → turnsTo (.parkWake h hd) s h hd) ∧
  expires .sleepLimitExpiry .sleep ∧ expires .pauseExpiry .pause ∧ expires .waitcTimeout .counter ∧
  (∀ (s : State) (c : Nat) (p : Park), s.parkOf c false = some p → p.why = .bell →
    (s.parkOver p = true → turnsTo (.bwaitTimeout c) s c false) ∧
    (s.parkOver p = false → exec (.bwaitTimeout c) s = .next s)) ∧
  (∀ (s : State) (h level : Nat) (cause tval : Word), (kindOf h = 0 ∨ kindOf h = 3) → s.canRun h = true →
    s.committed h = false → s.asleep h = false → s.owesLift h = false → trapLevel (kindOf h) (s.hart h).traps.status = some level →
    headIndex ((s.hart h).traps.vector level) ≠ 0 →
    let p := (s.hart h).traps.pend
    let en := interruptsEnabled (s.hart h).traps.status = true
    ((∃ sub v, p.machineCheck = some (sub, v) ∧ cause = BitVec.ofNat 64 (2 ^ 63 + sub.toNat * 256 + 1) ∧ tval = v) ∨
      (p.machineCheck = none ∧ en ∧ p.taskLimit = some tval ∧ cause = BitVec.ofNat 64 (2 ^ 63 + 2)) ∨
      (p.machineCheck = none ∧ en ∧ p.taskLimit = none ∧ p.service = some tval ∧ cause = BitVec.ofNat 64 (2 ^ 63 + 3)) ∨
      (p.machineCheck = none ∧ en ∧ p.taskLimit = none ∧ p.service = none ∧ p.handlerFault = some tval ∧
        cause = BitVec.ofNat 64 (2 ^ 63 + 4)) ∨
      (p.machineCheck = none ∧ en ∧ p.taskLimit = none ∧ p.service = none ∧ p.handlerFault = none ∧
        p.companion.head? = some tval ∧ cause = BitVec.ofNat 64 (2 ^ 63 + 5))) →
    ∃ t, exec (.interruptTaken h) s = .next t ∧
      (t.hart h).traps.copy level = ⟨cause, (s.hart h).main.pc, tval, (s.hart h).traps.vector level⟩ ∧
      bits (t.hart h).traps.status 1 0 = level ∧ (t.hart h).main.pc = targetOf ((s.hart h).traps.vector level) ∧
      (t.hart h).main.x = (s.hart h).main.x ∧ (t.hart h).park = none ∧ t.mem = s.mem) ∧
  (∀ (s : State) (h : Nat), s.canRun h = true → (s.hart h).traps.pend = .reset → exec (.interruptTaken h) s = .next s) ∧
  (∀ (s : State) (c : Nat) (e : UserEvent) (r : List UserEvent), s.canRun c = true → kindOf c = 0 →
    bits (s.hart c).traps.status 1 0 = 0 → bit (s.hart c).traps.status 5 = true → bit (s.hart c).sys.uhandler 0 = false →
    (s.hart c).traps.pend = .reset → s.committed c = false → s.asleep c = false → (s.hart c).copy.events = e :: r →
    ∃ t, exec (.userCompletionInterrupt c) s = .next t ∧ (t.hart c).sys.uhandler = (s.hart c).main.pc ||| 1 ∧
      (t.hart c).sys.xfer = e.xid.setWidth 64 ∧ (t.hart c).copy.events = r ∧ (t.hart c).main.pc = targetOf e.handler ∧
      (t.hart c).main.x = (s.hart c).main.x ∧ (t.hart c).traps = (s.hart c).traps ∧ t.mem = s.mem) ∧
  (∀ (s : State) (h : Nat) (code : Word), hartExists h = true → ∃ t, exec (.serviceInterrupt h code) s = .next t ∧
    (t.hart h).traps.pend = { (s.hart h).traps.pend with service := some code } ∧ (t.hart h).main = (s.hart h).main ∧
    (∀ j, j ≠ h → t.hart j = s.hart j) ∧ t.mem = s.mem)

/-- HART_HALT stops a hart and HART_RELEASE lets it go without its unperformed stores; a hart-window store writes the
register or the supervisor copy it names, by the register's own rule, and a load changes nothing. Writes of queue,
companion, preemption, stream, counter, window-map and task-limit registers of a core have the effects of these
registers; one that the register refuses is an OPERAND trap of the core. SERVICE_CORE_START runs an idle service core.
CORE_FENCE stops a core with its companions, and its task goes back to the dispatcher when it may restart and else is
logged; CLUSTER_FENCE and a wear margin below 2 percent fence sixteen cores; DIE_FAILURE logs, halts every compute
core and companion and begins recovery, sends a stop to every other module, and RECOVERY_STOP_MESSAGE does so without
log and stop. No event here changes a byte of memory, but for the record of a task that finds its dispatcher's SRAM
full. The model's choices here: that a write from outside which the register refuses traps its core (assumption log
19), that the halt of a compute core takes its companions and its task too (20), WHO of the die's record (47), and
that a die failure recovers from the last checkpoint held (67). [R46, R48, R64, R168, R171, R190, R191, R192, R194,
R351, R457, R464] -/
def Obligations.ControlAndContainmentEvents : Prop :=
  let still (i : Instr) (s : State) (P : State → Prop) : Prop := ∃ t, exec i s = .next t ∧ P t ∧ t.mem = s.mem
  let calm (s : State) (k : Nat) : Prop := (s.cluster k).disp.tasks = [] ∧ ∀ c ∈ coresOf k, (s.hart c).task = none
  (∀ s h, hartExists h = true → (s.hart h).halted = false → still (.hartHalt h) s fun t => (t.hart h).halted = true ∧
    t.canRun h = false ∧ (kindOf h = 0 → (t.hart h).task = none ∧ (t.hart h).search = none ∧
      t.canRun (4096 + h) = false ∧ t.canRun (8192 + h) = false)) ∧
  (∀ s h, hartExists h = true → (s.hart h).halted = true → still (.hartRelease h) s fun t => (t.hart h).halted = false ∧
    (t.hart h).mem.sb = [] ∧ (kindOf h = 3 → (t.hart h).act = .running ∧
      (t.hart h).main.pc = targetOf (s.hart h).traps.mach.epc) ∧ ∀ j, j ≠ h → t.hart j = s.hart j) ∧
  (∀ s h, (hartExists h = true → (s.hart h).halted = true → exec (.hartHalt h) s = .next s) ∧
    (hartExists h = true → (s.hart h).halted = false → exec (.hartRelease h) s = .next s) ∧
    ∀ off, exec (.hartWindowRegisterAccess h off none) s = .next s) ∧
  (∀ s h (num : BitVec 12) v r, hartExists h = true → crRule num.toNat = some r → r.holds (kindOf h) = true →
    (num.toNat < 0x48 ∨ 0x4F < num.toNat ∨ kindOf h = 0) →
    let w := if r.write = none then s else (s.crWrite h 2 num.toNat v).getD s
    exec (.controlRegisterWrite h num v) s = .next w ∧
    exec (.hartWindowRegisterAccess h (8 * num.toNat) (some v)) s = .next w) ∧
  (∀ s h v, hartExists h = true → (kindOf h = 0 ∨ kindOf h = 3) →
    still (.hartWindowRegisterAccess h 0x808 (some v)) s (fun t => (t.hart h).traps.sup.epc = v ∧
      (t.hart h).traps.mach = (s.hart h).traps.mach ∧ (t.hart h).main = (s.hart h).main) ∧
    still (.hartWindowRegisterAccess h 0x818 (some v)) s (fun t => (t.hart h).traps.sup.tvec = v ∧
      (t.hart h).traps.mach = (s.hart h).traps.mach ∧ (t.hart h).main = (s.hart h).main)) ∧
  (∀ s c q v, kindOf c = 0 → bit (s.qctl c q) 63 = false →
    (queueRangeOk (setBit v 63 true) = true → still (.queueEnable c q v) s fun t =>
      t.qctl c q = setBit v 63 true &&& 0x8000_000F_FC0F_FFC0 ∧ ∀ k, k ≠ q → t.qctl c k = s.qctl c k) ∧
    (queueRangeOk (setBit v 63 true) = false → s.canRun c = true → exec (.queueEnable c q v) s =
      .next (s.trapMain c (BitVec.ofNat 64 0x05) (s.hart c).main.pc 0)) ∧
    exec (.queueDisable c q) s = .next s) ∧
  (∀ s c q, kindOf c = 0 → bit (s.qctl c q) 63 = true → still (.queueDisable c q) s fun t =>
    bit (t.qctl c q) 63 = false ∧ bits (t.qctl c q) 48 36 = 0 ∧
      (∀ k, k < 64 → k ≠ 63 → (k < 36 ∨ 48 < k) → bit (t.qctl c q) k = bit (s.qctl c q) k) ∧
      ∀ k, k ≠ q → t.qctl c k = s.qctl c k) ∧
  (∀ s c (st : Bool) (pc : BitVec 12), kindOf c = 0 →
    let h := if st then 8192 + c else 4096 + c
    ((s.hart h).act ≠ .running → pc.toNat % 32 ≠ 0 → still (.companionStart c st pc) s fun t =>
      (t.hart h).act = .running ∧ (t.hart h).main.pc = BitVec.ofNat 64 (2 * pc.toNat) ∧
        bits (t.hart h).traps.status 1 0 = 0 ∧ (t.hart h).main.x = (s.hart h).main.x) ∧
    ((s.hart h).act ≠ .running → pc.toNat % 32 = 0 → s.canRun c = true → exec (.companionStart c st pc) s =
      .next (s.trapMain c (BitVec.ofNat 64 0x05) (s.hart c).main.pc 0)) ∧
    ((s.hart h).act = .running → exec (.companionStart c st pc) s = .next s ∧
      ((s.hart h).mem.regWait = none → (s.hart h).mem.regReply = none → still (.companionStop c st) s fun t =>
        (t.hart h).act = .stopped false ∧ (t.hart h).main = (s.hart h).main)) ∧
    ((s.hart h).act ≠ .running → exec (.companionStop c st) s = .next s)) ∧
  (∀ s c park (floor : BitVec 2), kindOf c = 0 →
    let low : Word := BitVec.ofNat 64 ((if park then 4 else 0) + floor.toNat)
    ((s.hart c).task ≠ none → still (.preemptRequest c park floor) s fun t => bit (t.hart c).sys.preempt 63 = true ∧
      (t.hart c).sys.preemptNext = low ∧ (t.hart c).sys.preempt &&& 7 = (s.hart c).sys.preempt &&& 7) ∧
    ((s.hart c).task = none → still (.preemptRequest c park floor) s fun t => (t.hart c).sys.preempt = low) ∧
    still (.preemptCancel c park floor) s fun t => (t.hart c).sys.preempt = low ∧ (t.hart c).sys.preemptNext = 0) ∧
  (∀ s c slot, kindOf c = 0 → still (.streamSlotDisable c slot) s fun t => (t.stream c slot).en = false ∧
    ((s.stream c slot).en = true → (t.stream c slot).held = []) ∧ ∀ k, k ≠ slot → t.stream c k = s.stream c k) ∧
  (∀ s c (mc : BitVec 3) v, kindOf c = 0 → still (.mailboxCounterWrite c mc v) s fun t =>
    ((t.hart c).mc[mc.toNat]?).getD 0 = v.setWidth 32 ∧ ∀ k, k ≠ mc.toNat → (t.hart c).mc[k]? = (s.hart c).mc[k]?) ∧
  (∀ s c v, kindOf c = 0 → still (.winmapWrite c v) s fun t => (t.hart c).sys.winmap =
    if bit (s.hart c).sys.winmap 0 then (s.hart c).sys.winmap else v &&& 0xFFFF_FFFF_FE00_0001) ∧
  (∀ s c v, kindOf c = 0 → still (.tasklimWrite c v) s fun t => (t.hart c).sys.tasklim =
    if (v &&& 0xFFFF_FFFF_FFFF).toNat < 0x1000 then 0x1000 else v &&& 0xFFFF_FFFF_FFFF) ∧
  (∀ s i, 1 ≤ i → i ≤ 3 → (s.hart (12288 + i)).act = .idle → (s.hart (12288 + i)).halted = false →
    bit (s.hart (12288 + i)).sys.fence 8 = false → still (.serviceCoreStart i) s fun t =>
      (t.hart (12288 + i)).act = .running ∧ bit (t.hart (12288 + i)).main.pc 0 = false) ∧
  (∀ s c, kindOf c = 0 → s.fencedCore c = false → ∃ t, exec (.coreFence c) s = .next t ∧ t.fencedCore c = true ∧
    ((∀ r, (s.hart c).task = some r → bit r.task.record.w2 5 = true → (s.cluster (clusterOf c)).disp.sram < 1024 ∧
      (s.cluster (clusterOf c)).disp.live (bits r.task.record.w2 1 0) = true) → t.mem = s.mem) ∧
    t.canRun c = false ∧ t.canRun (4096 + c) = false ∧ t.canRun (8192 + c) = false ∧ (t.hart c).task = none ∧
    (t.hart c).search = none ∧
    ((s.hart c).task = none → t.dev.log.getLast? = some ⟨2, s.nanos, BitVec.ofNat 64 c, 0⟩) ∧
    ∀ r, (s.hart c).task = some r →
      (bit r.task.record.w2 5 = true → ∃ x, (t.cluster (clusterOf c)).disp.tasks =
        (s.cluster (clusterOf c)).disp.tasks ++ [x] ∧ x.record = r.task.record ∧ x.ready = some s.clock) ∧
      (bit r.task.record.w2 5 = false → t.dev.log.getLast? = some ⟨1, s.nanos, r.task.record.w0, r.task.record.w1⟩ ∧
        (t.cluster (clusterOf c)).disp = (s.cluster (clusterOf c)).disp)) ∧
  (∀ s c, kindOf c = 0 → s.fencedCore c = true → exec (.coreFence c) s = .next s) ∧
  (∀ s k, k < 256 → (s.cluster k).fenced = false → ∃ t, exec (.clusterFence k) s = .next t ∧ (t.cluster k).fenced = true ∧
    (calm s k → t.mem = s.mem) ∧
    (t.cluster k).treeRun = none ∧ (t.cluster k).screener = [] ∧
    ∀ c ∈ coresOf k, t.fencedCore c = true ∧ bit (t.hart c).sys.fence 9 = true ∧ t.canRun c = false) ∧
  (∀ s k v, k < 256 →
    let w : Word := 0x8000_0000_0000_0000 ||| (v &&& 0x0000_FFFF_FFFF_FFFF)
    (4 ≤ bits v 15 8 → still (.wearUpdate k v) s fun t => (t.cluster k).wear = w ∧
      (t.cluster k).fenced = (s.cluster k).fenced ∧ t.harts = s.harts) ∧
    (bits v 15 8 < 4 → ∃ t, exec (.wearUpdate k v) s = .next t ∧ (t.cluster k).wear = w ∧ (t.cluster k).fenced = true ∧
      (calm s k → t.mem = s.mem))) ∧
  (∀ s d, d < 4 → still (.dieFailure d) s fun t =>
    t.dev.log.getLast? = some ⟨4, s.nanos, BitVec.ofNat 64 (1024 * d), 0⟩ ∧
    (∀ h, h < 12288 → (t.hart h).halted = true) ∧
    t.dev.stops = s.dev.stops ++ (List.range s.dev.podM).filter (fun n => n != s.dev.podN) ∧
    t.dev.tierOp = (s.dev.tier.getLast?).map (fun i => .recover i.1 i.2.1)) ∧
  (∀ s, still .recoveryStopMessage s fun t => t.dev.log = s.dev.log ∧ t.dev.stops = s.dev.stops ∧ (∀ h, h < 12288 → (t.hart h).halted = true) ∧
    t.dev.tierOp = (s.dev.tier.getLast?).map (fun i => .recover i.1 i.2.1))

/-- ENQ_ARRIVAL decides in the order reserved handle 4, queue gone 1, bad record 3, full 2, accepted 0 last in the
order of acceptance, in SRAM or at its place of the overflow area, and the reply's arrival, where its word is not
held, writes the status word and raises the counter. LAUNCHG_ARRIVAL answers 6 for a graph that is gone, 7 for a bad
patch, 5 while eight instances live, else 0, and during a checkpoint the code of BUSY (assumption log 92).
TASK_DISPATCH runs on an idle core a ready task that no admitted one precedes, at its ENTRY in user mode with x2 and
x3 set. TASK_RETIREMENT leaves the core idle with its queues and streams off, applies a pending preemption and raises
the counter that DV names. A task that has been ready for cr.agelimit is top level, and AGE_LIMIT_EXPIRY writes
nothing; TASK_LIMIT_EXPIRY raises TASK_LIMIT once. A probe goes to the nearest cluster, which gives a stealable task
when it has two ready; the task joins the prober's queue with its ready time once there is room. That this is the
default queue of its level is the model's choice (assumption log 84). [R53, R54, R154, R160, R161, R162, R165, R169,
R171, R173, R292, R295] -/
def Obligations.TaskDispatchAndRetirement : Prop :=
  (∀ (s : State) (k src st : Nat) (h : Word) (r : TaskRecord) (mc : BitVec 3), s.net[k]? = some (.enq src h r st mc) →
    let place := s.queuePlace (bits h 31 30 * 64 + bits h 29 24) (bits h 23 16)
    let d := (s.cluster place.1).disp
    let gone := d.queue place.2 = none ∨ ∃ q, d.queue place.2 = some q ∧ q.gen ≠ BitVec.ofNat 16 (bits h 15 0)
    let full (q : TaskQueue) := 1024 ≤ d.sram ∧
      ∀ i, i < q.ovSize / 32 → ∃ t ∈ d.tasks, t.queue = place.2 ∧ t.overflow = some i
    ∃ t code, exec (.enqArrival k) s = .next t ∧ t.net = dropAt s.net k ++ [.reply src st code mc] ∧
      (bits h 63 32 ≠ 0 → code = 4) ∧ (bits h 63 32 = 0 → gone → code = 1) ∧
      (bits h 63 32 = 0 → ¬ gone → recordBad r = true → code = 3) ∧
      (∀ q, bits h 63 32 = 0 → ¬ gone → recordBad r = false → d.queue place.2 = some q →
        (full q → code = 2) ∧ (¬ full q → code = 0 ∧ ∃ x, (t.cluster place.1).disp.tasks = d.tasks ++ [x] ∧
          x.record = r ∧ x.queue = place.2 ∧ x.ready = (if q.live then some s.clock else none) ∧
          (q.live = true → d.sram < 1024 → x.overflow = none) ∧ (x.overflow = none → t.mem = s.mem) ∧
          ∀ i, x.overflow = some i → (∀ y ∈ d.tasks, y.queue = place.2 → y.overflow ≠ some i) ∧
            (q.ovAddr.toNat + 32 * i + 32 ≤ 2 ^ 38 → Memory.wf s.mem = true → (∀ e, (s.die e).gutter = []) →
              (∀ a, s.inSpill a = false) →
              (∀ j, j < 32 → memGet t.mem (q.ovAddr.toNat + 32 * i + j) = ((recordBytes r)[j]?).getD 0) ∧
              ∀ a, (a < q.ovAddr.toNat + 32 * i ∨ q.ovAddr.toNat + 32 * i + 32 ≤ a) → memGet t.mem a = memGet s.mem a))) ∧
      (code ≠ 0 → t.mem = s.mem ∧ ∀ c, t.cluster c = s.cluster c)) ∧
  (∀ (s : State) (k dst st code : Nat) (mc : BitVec 3), s.net[k]? = some (.reply dst st code mc) →
    Memory.wf s.mem = true → homeOf st = .tcm → code < 8 →
    (bit (s.hart (counterOwner dst)).sys.fence 8 = false →
      s.partyWaits outsideParty [⟨st, 8, st, false⟩] = (false, s) → ∃ t, exec (.enqReply k) s = .next t ∧ t.net = dropAt s.net k ∧
      memNat t.mem st 8 = code ∧ ((t.hart (counterOwner dst)).mc[mc.toNat]?).getD 0 =
        ((s.hart (counterOwner dst)).mc[mc.toNat]?).getD 0 + 1) ∧
    (bit (s.hart (counterOwner dst)).sys.fence 8 = true → exec (.enqReply k) s = .next { s with net := dropAt s.net k })) ∧
  (∀ (s : State) (k src st : Nat) (h : Word) (patch : List Word) (mc : BitVec 3),
    s.net[k]? = some (.launchg src h patch st mc) →
    let n := bits h 31 16
    ∃ t code, exec (.launchgArrival k) s = .next t ∧ t.net = dropAt s.net k ++ [.reply src st code mc] ∧
      (code ≠ 0 → t.mem = s.mem) ∧ (s.dev.tierOp ≠ none → code = 3) ∧
      (s.dev.tierOp = none → tget s.dev.graphs n = none → code = 6) ∧
      ∀ g, s.dev.tierOp = none → tget s.dev.graphs n = some g →
        ((bits h 63 32 ≠ 0 ∨ g.gen ≠ BitVec.ofNat 16 (bits h 15 0)) → code = 6) ∧
        (bits h 63 32 = 0 → g.gen = BitVec.ofNat 16 (bits h 15 0) →
          (patchOk patch g.body.params.length = false → code = 7) ∧
          (patchOk patch g.body.params.length = true → 8 ≤ s.liveOf n → code = 5 ∧
            t.dev.launchQueue = s.dev.launchQueue ++ [(n, applyPatch patch g.body.params)]) ∧
          (patchOk patch g.body.params.length = true → s.liveOf n < 8 → code = 0 ∧
            (g.body.tasks ≠ [] → ∃ x, t.dev.instances = s.dev.instances ++ [x] ∧ x.graph = n ∧ x.body = g.body ∧
              x.params = applyPatch patch g.body.params)))) ∧
  (∀ (s : State) (c : Nat), s.idleCore c = true →
    let d := (s.cluster (clusterOf c)).disp
    let may (t : Task) : Prop := t ∈ d.tasks ∧ d.isReady t = true ∧ bits (s.hart c).sys.preempt 1 0 ≤ s.levelOf d t
    ((∀ t, ¬ may t) → exec (.taskDispatch c) s = .next s) ∧
    ((∃ t, may t) → ∃ u t, exec (.taskDispatch c) s = .next u ∧ may t ∧ (∀ x, may x → taskBefore s d x t = false) ∧
      (∀ x ∈ (u.cluster (clusterOf c)).disp.tasks, x.order ≠ t.order) ∧
      (u.hart c).act = .running ∧ (u.hart c).task = some ⟨t, s.clock, false⟩ ∧ (u.hart c).traps.pend.taskLimit = none ∧ (u.hart c).main.pc = t.record.w0 ∧
      bits (u.hart c).traps.status 1 0 = 0 ∧ (u.hart c).main.x[2]? = some (s.tcmVa c 0x8000) ∧
      (u.hart c).main.x[3]? = some t.record.w1 ∧
      (∀ r, r ≠ 2 → r ≠ 3 → (u.hart c).main.x[r]? = (s.hart c).main.x[r]?) ∧
      (bit t.record.w2 6 = true → (u.hart (4096 + c)).act = .running ∧
        (u.hart (4096 + c)).main.pc = BitVec.ofNat 64 (bits t.record.w2 28 16)) ∧
      (bit t.record.w2 7 = true → (u.hart (8192 + c)).act = .running ∧
        (u.hart (8192 + c)).main.pc = BitVec.ofNat 64 (bits t.record.w2 44 32)) ∧ u.mem = s.mem)) ∧
  (∀ (s : State) (c : Nat) (r : Running), s.retirable c = true → (s.hart c).task = some r → r.task.graph = none →
    ∃ t, exec (.taskRetirement c) s = .next t ∧ (t.hart c).act = .idle ∧ (t.hart c).task = none ∧ (t.hart c).park = none ∧
      (t.hart c).search = none ∧ (t.hart c).main.x = (s.hart c).main.x ∧ t.mem = s.mem ∧
      (t.hart c).traps.pend.taskLimit = none ∧
      (t.hart c).sys.instret = (s.hart c).sys.instret + 1 ∧ (∀ q, bit (t.qctl c q) 63 = false) ∧
      (∀ k, (t.stream c k).en = false) ∧
      (t.hart c).sys.preempt = (if bit (s.hart c).sys.preempt 63 then (s.hart c).sys.preemptNext
        else (s.hart c).sys.preempt) ∧
      (bit r.task.record.w3 15 = true → s.fencedCore (bits r.task.record.w3 11 0) = false →
        ((t.hart (bits r.task.record.w3 11 0)).mc[bits r.task.record.w3 14 12]?).getD 0 =
          ((s.hart (bits r.task.record.w3 11 0)).mc[bits r.task.record.w3 14 12]?).getD 0 + 1)) ∧
  (∀ (s : State) (c : Nat), s.retirable c = false → exec (.taskRetirement c) s = .next s) ∧
  (∀ (s : State) (k j : Nat), exec (.ageLimitExpiry k j) s = .next s ∧ ∀ (t : Task) (n : Nat), t.ready = some n →
    s.levelOf (s.cluster k).disp t = if n + (s.cluster k).disp.agelimit.toNat ≤ s.clock then 3 else bits t.record.w2 1 0) ∧
  (∀ (s : State) (c : Nat) (r : Running), (s.hart c).task = some r →
    (r.limited = false → bits (s.hart c).sys.tasklim 47 0 ≤ s.clock - r.since → ∃ t,
      exec (.taskLimitExpiry c) s = .next t ∧ (t.hart c).task = some { r with limited := true } ∧
      (t.hart c).traps.pend.taskLimit = some (BitVec.ofNat 64 (s.clock - r.since)) ∧ (t.hart c).main = (s.hart c).main ∧
      t.mem = s.mem) ∧
    ((r.limited = true ∨ s.clock - r.since < bits (s.hart c).sys.tasklim 47 0) → exec (.taskLimitExpiry c) s = .next s)) ∧
  (∀ (s : State) (k : Nat), s.probing k = false → s.wantsTask k = true → (s.cluster k).disp.probing = [] →
    (∀ t, (s.cluster k).disp.probeAt = some t → t + 1024 ≤ s.clock) → ∃ u j, exec (.stealProbe k) s = .next u ∧
      u.net = s.net ++ [.probe k j] ∧ j ≠ k ∧ j / 64 = k / 64 ∧ (u.cluster k).disp.probeAt = some s.clock ∧ u.mem = s.mem ∧
      ∀ i, i ≠ k → i / 64 = k / 64 → gridDistance k j ≤ gridDistance k i) ∧
  (∀ (s : State) (k src dst : Nat), s.net[k]? = some (.probe src dst) →
    let d := (s.cluster dst).disp
    let may (t : Task) : Prop := t ∈ d.tasks ∧ d.isReady t = true ∧ ∃ q, d.queue t.queue = some q ∧ q.stealable = true
    ((d.tasks.filter d.isReady).length < 2 → exec (.stealProbeAnswer k) s = .next { s with net := dropAt s.net k }) ∧
    (2 ≤ (d.tasks.filter d.isReady).length → (∃ t, may t) → ∃ u t, exec (.stealProbeAnswer k) s = .next u ∧ may t ∧
      (∀ x, may x → givenBefore x t = false) ∧ u.net = dropAt s.net k ++ [.stolen src t] ∧
      (∀ x ∈ (u.cluster dst).disp.tasks, x.order ≠ t.order) ∧ u.mem = s.mem)) ∧
  (∀ (s : State) (k dst : Nat) (t : Task), s.net[k]? = some (.stolen dst t) →
    let p := s.queuePlace dst (recordPrio t.record)
    ((s.cluster p.1).disp.room p.2 ≠ none → ∃ u x, exec (.stolenTaskArrival k) s = .next u ∧ u.net = dropAt s.net k ∧
      (u.cluster p.1).disp.tasks = (s.cluster p.1).disp.tasks ++ [x] ∧ x.record = t.record ∧ x.ready = t.ready ∧
      x.queue = p.2 ∧ ((s.cluster p.1).disp.live p.2 = true → (s.cluster p.1).disp.sram < 1024 →
        x.overflow = none ∧ u.mem = s.mem)) ∧
    ((s.cluster p.1).disp.room p.2 = none → exec (.stolenTaskArrival k) s = .next s))

/-- A reply is a 32-byte header and its payload. A repeated SEQ gets its recorded reply again; an endpoint that there
is not only counts a port error; a request behind an unfinished one of its endpoint waits, and another with its SEQ is
BAD_REQUEST; a wrong SEQ and a malformed header or code are refused; the ROM stage refuses all but LOAD_IMAGE and the
identity query; another JOB is BAD_JOB; during a checkpoint all is BUSY. LOAD_IMAGE stages its bytes; with LAST the
check begins, other images are BUSY, and its end starts a good image or writes the failing step and discards it. MAP
writes its entries or answers FAULT. COPY_IN and COPY_OUT move any words of theirs at each of their turns, at the
places found as they began, and answer when all are moved; a page that stops them is NOT_FOUND at the first address or
FAULT, poison a FAULT. LAUNCH starts an instance, waits behind eight, names the graph NOT_FOUND or the patch
BAD_REQUEST; the queries and EVENTS return what they name. MAP's tables, the order of the checks, what EVENTS counts
from, the codes of LAUNCH and the forms of keys and signatures, like the JOB in a reply, are the model's readings
(assumption log 49, 50, 69, 70, 93, 94). [R105, R172, R173, R295, R451, R453, R454, R455, R456, R458, R466, R467] -/
def Obligations.ServiceRequestsAndMemory : Prop :=
  let header (r : Request) (code n : Nat) : Prop := r.ver.toNat = 1 ∧ r.code.toNat = code ∧ r.status = 0 ∧ r.reply = false ∧
    r.reserved = false ∧ r.len.toNat = n ∧ n ≤ 65504
  let fresh (s : State) (r : Request) : Prop := (∀ p ∈ (s.endpoint r.ep).replies, p.1 ≠ r.seq) ∧ r.ep < 4096 ∧
    (s.endpoint r.ep).work = none ∧ s.tierEndpoint ≠ some r.ep ∧ ∀ l, (s.endpoint r.ep).last = some l → r.seq = l + 1
  let admitted (s : State) (r : Request) : Prop := fresh s r ∧ s.dev.service = true ∧ r.job = s.dev.job ∧ s.dev.tierOp = none
  let begun (s : State) (r : Request) (body : List Byte) (l : Spans) : Prop := (∀ p ∈ (s.endpoint r.ep).replies, p.1 ≠ r.seq) ∧
    r.ep < 4096 ∧ ∃ m, (s.endpoint r.ep).work = some ⟨r, body, l, m⟩
  let bad (s : State) (r : Request) : State :=
    s.modDev fun d => { d with lastReply := some (r.ep, replyBytes r.code r.seq r.job 1 []) }
  let replies (i : Instr) (s : State) (r : Request) (status : Nat) (payload : List Byte) (P : State → Prop) : Prop :=
    ∃ t, exec i s = .next t ∧ t.dev.lastReply = some (r.ep, replyBytes r.code r.seq r.job status payload) ∧
      (t.endpoint r.ep).last = some r.seq ∧ (t.endpoint r.ep).work = none ∧
      (r.seq, replyBytes r.code r.seq r.job status payload) ∈ (t.endpoint r.ep).replies ∧ P t
  let one (s : State) : State → Prop := fun t => t.mem = s.mem ∧ t.harts = s.harts ∧ t.clusters = s.clusters
  (∀ (code : BitVec 8) (seq : Word) (job : BitVec 32) (status : Nat) (p : List Byte), status < 256 → p.length < 2 ^ 32 →
    let d := replyBytes code seq job status p
    d.length = 32 + p.length ∧ natOf (d.take 4) = p.length ∧ (d[4]?).getD 0 = 1 ∧ ((d[5]?).getD 0).toNat = status ∧
      (d[6]?).getD 0 = code ∧ (d[7]?).getD 0 = 1 ∧ natOf ((d.drop 8).take 8) = seq.toNat ∧
      natOf ((d.drop 20).take 4) = job.toNat ∧ d.drop 32 = p) ∧
  (∀ (r : Request) (s : State), (4096 ≤ r.ep → exec (.queryEventCount r) s = .next (s.portError r.port.toNat)) ∧
    (∀ p, r.ep < 4096 → (s.endpoint r.ep).replies.find? (fun p => p.1 == r.seq) = some p → exec (.queryEventCount r) s =
      .next (s.modDev fun d => { d with lastReply := some (r.ep, p.2) }))) ∧
  (∀ (r : Request) (s : State), (∀ p ∈ (s.endpoint r.ep).replies, p.1 ≠ r.seq) → r.ep < 4096 →
    (s.tierEndpoint = some r.ep → (s.endpoint r.ep).work = none → exec (.queryEventCount r) s = .next s) ∧
    (∀ w, (s.endpoint r.ep).work = some w → (w.req.seq ≠ r.seq → exec (.queryEventCount r) s = .next s) ∧
      (w.req.seq = r.seq → exec (.queryEventCount r) s = .next (bad s r))) ∧
    (s.tierEndpoint ≠ some r.ep → (s.endpoint r.ep).work = none → ∀ l, (s.endpoint r.ep).last = some l → r.seq ≠ l + 1 →
      exec (.queryEventCount r) s = .next (bad s r))) ∧
  (∀ (r : Request) (s : State) (va len : Word) (data : List Byte) (w : Work), (∀ p ∈ (s.endpoint r.ep).replies, p.1 ≠ r.seq) →
    r.ep < 4096 → (s.endpoint r.ep).work = some w → w.req.seq = r.seq →
    ((w.req ≠ r ∨ w.payload ≠ bytesOf va.toNat 8 ++ bytesOf len.toNat 8) → exec (.copyOut r va len) s = .next (bad s r)) ∧
    ((w.req ≠ r ∨ w.payload ≠ bytesOf va.toNat 8 ++ data) → data.length ≤ 65496 →
      exec (.copyIn r va data) s = .next (bad s r))) ∧
  (∀ (r : Request) (s : State), fresh s r → (¬ header r 6 4 ∨ r.op.toNat ≠ 2) → replies (.queryEventCount r) s r 1 [] (one s)) ∧
  (∀ (r : Request) (s : State), fresh s r → header r 6 4 → r.op.toNat = 2 →
    (s.dev.service = false → replies (.queryEventCount r) s r 7 [] (one s)) ∧
    (s.dev.service = true → r.job ≠ s.dev.job → replies (.queryEventCount r) s r 2 [] (one s)) ∧
    (s.dev.service = true → r.job = s.dev.job → s.dev.tierOp ≠ none → replies (.queryEventCount r) s r 3 [] (one s))) ∧
  (∀ (r : Request) (s : State) (off : Word) (data : List Byte), fresh s r → header r 1 (8 + data.length) →
    s.dev.service = false → off.toNat + data.length ≤ 0x200_0000 →
    (∀ e, s.dev.checking = some e → replies (.loadImage r off data) s r 3 [] (one s)) ∧
    (s.dev.checking = none → Memory.wf s.mem = true →
      let lands (t : State) : Prop := t.dev.service = false ∧
        (∀ k, k < data.length → memGet t.mem (0xFFC0_0200_0000 + off.toNat + k) = data.getD k 0) ∧
        ∀ a, (a < 0xFFC0_0200_0000 + off.toNat ∨ 0xFFC0_0200_0000 + off.toNat + data.length ≤ a) →
          memGet t.mem a = memGet s.mem a
      (r.last = false → replies (.loadImage r off data) s r 0 [] lands) ∧
      (r.last = true → ∃ t, exec (.loadImage r off data) s = .next t ∧ lands t ∧ t.dev.checking = some r.ep ∧
        (t.endpoint r.ep).work = some ⟨r, bytesOf off.toNat 8 ++ data, [], []⟩ ∧ t.dev.lastReply = s.dev.lastReply))) ∧
  (∀ (r : Request) (s : State) (off : Word) (data : List Byte) (l : Spans), begun s r (bytesOf off.toNat 8 ++ data) l → header r 1 (8 + data.length) →
    off.toNat + data.length ≤ 0x200_0000 → Memory.wf s.mem = true →
    (s.imageCheck = 0 → replies (.loadImage r off data) s r 0 [] fun t => t.dev.service = true ∧ t.dev.job = r.job ∧
      t.dev.bootStatus = 0x80 ∧ t.dev.checking = none ∧ (t.hart 12288).act = .running ∧
      (t.hart 12288).main.pc = BitVec.ofNat 64 (0xFFC0_0100_0000 + natOf (s.staged 0x10 8)) ∧
      t.dev.rollback = BitVec.ofNat 32 (max (natOf (s.staged 0xC 4)) s.dev.rollback.toNat) ∧
      ∀ k, k < natOf (s.staged 8 4) → memGet t.mem (0xFFC0_0100_0000 + k) = memGet s.mem (0xFFC0_0200_0200 + k)) ∧
    (s.imageCheck ≠ 0 → replies (.loadImage r off data) s r 0 [] fun t => t.dev.service = s.dev.service ∧
      t.dev.bootStatus = BitVec.ofNat 8 s.imageCheck ∧ t.dev.checking = none ∧ t.harts = s.harts ∧
      ∀ a, memGet t.mem a = if 0xFFC0_0200_0000 ≤ a ∧ a < 0xFFC0_0400_0000 then 0 else memGet s.mem a)) ∧
  (∀ (r : Request) (s : State) (va pa pte : Word), admitted s r → header r 2 32 → va.toNat % 65536 = 0 →
    pa.toNat % 65536 = 0 → va.toNat + 65536 ≤ 2 ^ 48 → pa.toNat + 65536 ≤ 2 ^ 48 → pte.toNat < 256 →
    let root := bits s.jobRoot 47 12 * 4096
    (∀ u, mapFrom va.toNat (BitVec.ofNat 64 (pa.toNat + pte.toNat)) 3 root s = some u →
      replies (.map r va pa 65536 pte) s r 0 [] fun t => t.mem = u.mem) ∧
    (mapFrom va.toNat (BitVec.ofNat 64 (pa.toNat + pte.toNat)) 3 root s = none →
      replies (.map r va pa 65536 pte) s r 6 [] fun t => t.mem = s.mem)) ∧
  (∀ (s u : State) (acc : Acc) (va n c : Nat) (l : Spans), s.requestSpans acc va n = (l, .stopped c, u) →
    (c = 5 ∨ c = 6) ∧ (c = 5 → l = [])) ∧
  (∀ (s w : State) (r : Request) (l : Spans) (now left : List (Nat × Nat)), s.wordsNow r l = (now, left, w) →
    (∀ c, (c ∈ now ∨ c ∈ left) ↔ c ∈ wordCuts l 0 ∧ ∀ m ∈ s.movedAt r, m.1 ≠ c.1) ∧ { w with free := s.free } = s) ∧
  (∀ (r : Request) (s u v w : State) (va : Word) (data : List Byte) (l : Spans) (now left : List (Nat × Nat)),
    (admitted s r ∧ s.requestSpans .store va.toNat data.length = (l, .whole, u) ∨
      begun s r (bytesOf va.toNat 8 ++ data) l ∧ u = s) → header r 3 (8 + data.length) → u.spansWait 12288 l = (false, v) →
    v.wordsNow r l = (now, left, w) →
    let t := now.foldl (fun s c => s.engineWriteSpans (partSpans l c.1 c.2) ((data.drop c.1).take c.2)) w
    (left = [] → replies (.copyIn r va data) s r 0 [] fun x => x.mem = t.mem) ∧
    (left ≠ [] → ∃ x, exec (.copyIn r va data) s = .next x ∧ x.mem = t.mem ∧ x.dev.lastReply = t.dev.lastReply ∧
      (x.endpoint r.ep).work = some ⟨r, bytesOf va.toNat 8 ++ data, l, w.movedAt r ++ now.map fun c => (c.1, [])⟩)) ∧
  (∀ (r : Request) (s u v w : State) (va : Word) (data : List Byte) (l : Spans) (c m : Nat), admitted s r →
    header r 3 (8 + data.length) → s.requestSpans .store va.toNat data.length = (l, .stopped c, u) →
    u.spansWait 12288 l = (false, v) → v.choose (spansLength l + 1) = (m, w) →
    replies (.copyIn r va data) s r c [] fun x => x.mem = (w.engineWriteSpans (takeSpans l m) (data.take m)).mem) ∧
  (∀ (r : Request) (s u v w : State) (va len : Word) (l : Spans) (now left : List (Nat × Nat)),
    (admitted s r ∧ s.requestSpans .load va.toNat len.toNat = (l, .whole, u) ∨
      begun s r (bytesOf va.toNat 8 ++ bytesOf len.toNat 8) l ∧ u = s) → header r 4 16 → len.toNat ≤ 65496 → u.spansWait 12288 l = (false, v) →
    ((v.poisonSpans l).isSome = true → replies (.copyOut r va len) s r 6 [] fun _ => True) ∧
    (v.poisonSpans l = none → v.wordsNow r l = (now, left, w) →
      let o := now.foldl (fun (o : List (Nat × List Byte) × State) c =>
        let q := o.2.engineReadSpans (partSpans l c.1 c.2)
        (o.1 ++ [(c.1, q.1)], q.2)) (w.movedAt r, w)
      (left = [] → replies (.copyOut r va len) s r 0
        ((sortBy (fun (a b : Nat × List Byte) => decide (a.1 ≤ b.1)) o.1).flatMap (·.2)) fun x => 256 + r.ep ∈ x.dev.podDirty) ∧
      (left ≠ [] → ∃ x, exec (.copyOut r va len) s = .next x ∧ (x.endpoint r.ep).work = some ⟨r, bytesOf va.toNat 8 ++ bytesOf len.toNat 8, l, o.1⟩))) ∧
  (∀ (r : Request) (s u : State) (va len : Word) (l : Spans) (c : Nat), admitted s r → header r 4 16 →
    len.toNat ≤ 65496 → s.requestSpans .load va.toNat len.toNat = (l, .stopped c, u) →
    replies (.copyOut r va len) s r c [] fun x => x.mem = u.mem) ∧
  (∀ (r : Request) (s : State) (h : Word) (patch : List Word), admitted s r → header r 5 (8 + 8 * patch.length) →
    (tget s.dev.graphs (bits h 31 16) = none → replies (.launch r h patch) s r 5 (bytesOf 6 4) fun t => t.mem = s.mem) ∧
    ∀ g, tget s.dev.graphs (bits h 31 16) = some g → bits h 63 32 = 0 → g.gen = BitVec.ofNat 16 (bits h 15 0) →
      (patchOk patch g.body.params.length = false → replies (.launch r h patch) s r 1 (bytesOf 7 4) fun t => t.mem = s.mem) ∧
      (patchOk patch g.body.params.length = true →
      (8 ≤ s.liveOf (bits h 31 16) → replies (.launch r h patch) s r 0 (bytesOf 5 4) fun t =>
        t.dev.launchQueue = s.dev.launchQueue ++ [(bits h 31 16, applyPatch patch g.body.params)]) ∧
      (s.liveOf (bits h 31 16) < 8 → g.body.tasks ≠ [] → replies (.launch r h patch) s r 0 (bytesOf 0 4) fun t =>
        ∃ x, t.dev.instances = s.dev.instances ++ [x] ∧ x.graph = bits h 31 16 ∧
          x.params = applyPatch patch g.body.params))) ∧
  (∀ (r : Request) (s : State) (nonce : Option (List Byte)), fresh s r →
    (s.dev.service = true → r.job = s.dev.job ∧ s.dev.tierOp = none) → (∀ n, nonce = some n → n.length = 64) →
    header r 6 (4 + (nonce.getD []).length) → r.op.toNat = 0 →
    let report := fit 16 Config.serialNumber ++ fit 64 (if s.dev.service then s.dev.imageHash else []) ++
      bytesOf s.dev.rollback.toNat 4 ++ fit 64 (nonce.getD []) ++ fit 132 identityKey ++ fit 4 []
    replies (.queryIdentity r nonce) s r 0 (report ++ fit 132 (identitySign report)) (one s)) ∧
  (∀ (r : Request) (s : State), admitted s r →
    (header r 6 4 → r.op.toNat = 1 →
      replies (.queryFences r) s r 0 ((List.range 4096).flatMap fun c => bytesOf (s.hart c).sys.fence.toNat 8) (one s)) ∧
    (header r 6 4 → r.op.toNat = 2 → replies (.queryEventCount r) s r 0 (bytesOf s.dev.log.length 8) (one s)) ∧
    (header r 6 4 → r.op.toNat = 3 → replies (.queryPortErrors r) s r 0
      ((List.range 8).flatMap fun p => bytesOf ((tget s.dev.portErrors p).getD 0) 8) (one s)) ∧
    ∀ first, first < 2 ^ 32 → header r 11 4 →
      replies (.events r first) s r 0 (((s.dev.log.drop first).take 2047).flatMap fun l =>
        bytesOf l.kind 8 ++ bytesOf l.time 8 ++ bytesOf l.who.toNat 8 ++ bytesOf l.arg.toNat 8) (one s))

/-- QUEUE create gives a free index a live queue with the next generation, never 0, and answers its handle; destroy
discards and counts the tasks; swap out and in clear and set live, and tasks accepted meanwhile become ready. A queue
that the handle does not name is NOT_FOUND. GRAPH_CAPTURE stores the records under a free number and answers the
handle; a structural edit of a graph with a live instance is GRAPH_BUSY and else replaces its tasks and dependences; a
parameter edit replaces its parameters. CHECKPOINT and RESTORE park every compute core and stay open;
CHECKPOINT_COMPLETE, once no task runs, holds the image and answers its size, or at poison answers FAULT and leaves
cr.preempt as it was; RESTORE_COMPLETE writes the image back, clears PARK and answers. The raw blocks that the lofts'
maps keep in DRAM are written afresh. What an image holds, its size, PARK left set and FAULT of a fenced cluster are
the model's readings (assumption log 51, 69). [R157, R158, R159, R161, R170, R172, R174, R455, R457] -/
def Obligations.ServiceQueuesGraphsAndCheckpoints : Prop :=
  let header (r : Request) (code n : Nat) : Prop := r.ver.toNat = 1 ∧ r.code.toNat = code ∧ r.status = 0 ∧ r.reply = false ∧
    r.reserved = false ∧ r.len.toNat = n ∧ n ≤ 65504
  let atLeast (r : Request) (code n : Nat) : Prop := header r code r.len.toNat ∧ n ≤ r.len.toNat
  let fresh (s : State) (r : Request) : Prop := (∀ p ∈ (s.endpoint r.ep).replies, p.1 ≠ r.seq) ∧ r.ep < 4096 ∧
    (s.endpoint r.ep).work = none ∧ s.tierEndpoint ≠ some r.ep ∧ ∀ l, (s.endpoint r.ep).last = some l → r.seq = l + 1
  let admitted (s : State) (r : Request) : Prop := fresh s r ∧ s.dev.service = true ∧ r.job = s.dev.job ∧ s.dev.tierOp = none
  let replies (i : Instr) (s : State) (r : Request) (status : Nat) (payload : List Byte) (P : State → Prop) : Prop :=
    ∃ t, exec i s = .next t ∧ t.dev.lastReply = some (r.ep, replyBytes r.code r.seq r.job status payload) ∧
      (t.endpoint r.ep).last = some r.seq ∧ t.mem = s.mem ∧ P t
  let named (h : Word) : Nat × Nat := (bits h 31 30 * 64 + bits h 29 24, bits h 23 16)
  let legal (h : Word) : Prop := bits h 63 32 = 0 ∧ 4 ≤ bits h 23 16
  let disp (s : State) (k : Nat) : Dispatcher := (s.cluster k).disp
  let inOverflow (a : Nat) : Prop := ∃ k b, loftArea k + 256 * b ≤ a ∧ a < loftArea k + 256 * b + 256
  (∀ (r : Request) (s : State) (h ova ovs : Word) (st : Bool), admitted s r → header r 9 28 →
    r.op.toNat = 0 → legal h → ovs.toNat % 32 = 0 →
    let k := (named h).1
    let q := (named h).2
    let gen : BitVec 16 := if (tget (disp s k).gens q).getD 0 + 1 = 0 then 1 else (tget (disp s k).gens q).getD 0 + 1
    ((s.cluster k).fenced = false → tget (disp s k).queues q = none →
      replies (.queueCreate r h ova ovs st) s r 0 (bytesOf (h.toNat / 65536 * 65536 + gen.toNat) 8) fun t =>
        tget (disp t k).queues q = some ⟨true, gen, st, ova, ovs.toNat⟩ ∧ gen ≠ 0 ∧ (disp t k).tasks = (disp s k).tasks) ∧
    ((s.cluster k).fenced = false → (tget (disp s k).queues q).isSome = true →
      replies (.queueCreate r h ova ovs st) s r 3 [] fun t => t.clusters = s.clusters) ∧
    ((s.cluster k).fenced = true → replies (.queueCreate r h ova ovs st) s r 6 [] fun t => t.clusters = s.clusters)) ∧
  (∀ (r : Request) (s : State) (h : Word) (i : Instr), admitted s r → header r 9 12 → legal h →
    (r.op.toNat = 1 ∧ i = .queueDestroy r h ∨ r.op.toNat = 2 ∧ i = .queueSwapOut r h ∨
      r.op.toNat = 3 ∧ i = .queueSwapIn r h) →
    tget (disp s (s.queuePlace (named h).1 (named h).2).1).queues (s.queuePlace (named h).1 (named h).2).2 = none →
    replies i s r 5 [] fun t => t.clusters = s.clusters) ∧
  (∀ (r : Request) (s : State) (h : Word) (q : TaskQueue), admitted s r → header r 9 12 → legal h →
    let k := (s.queuePlace (named h).1 (named h).2).1
    let n := (s.queuePlace (named h).1 (named h).2).2
    tget (disp s k).queues n = some q → q.gen = BitVec.ofNat 16 (bits h 15 0) →
    (r.op.toNat = 1 → ((disp s k).queues.map (·.1)).Nodup → replies (.queueDestroy r h) s r 0
      (bytesOf ((disp s k).tasks.filter (fun t => t.queue == n)).length 8) fun t => tget (disp t k).queues n = none ∧
        ∀ x ∈ (disp t k).tasks, x.queue ≠ n) ∧
    (r.op.toNat = 2 → replies (.queueSwapOut r h) s r 0 (bytesOf h.toNat 8) fun t => tget (disp t k).queues n = some { q with live := false } ∧
      (disp t k).tasks = (disp s k).tasks ∧ ∀ x, x.queue = n → (disp t k).isReady x = false) ∧
    (r.op.toNat = 3 → replies (.queueSwapIn r h) s r 0 (bytesOf h.toNat 8) fun t => tget (disp t k).queues n = some { q with live := true } ∧
      ∀ x ∈ (disp t k).tasks, x.queue = n → x.ready.isSome = true ∧ (disp t k).isReady x = true)) ∧
  (∀ (r : Request) (s : State) (g : GraphBody), admitted s r → graphBad g = false →
    atLeast r 10 (4 + 32 * g.tasks.length + g.params.length) → r.op.toNat = 0 → (∃ n, n < 65536 ∧ tget s.dev.graphs n = none) → ∃ n gen, n < 65536 ∧ tget s.dev.graphs n = none ∧
      replies (.graphCapture r g) s r 0 (bytesOf (n * 65536 + gen.toNat) 8) fun t => tget t.dev.graphs n = some ⟨gen, g⟩) ∧
  (∀ (r : Request) (s : State) (h : Word) (n : Nat) (g : Graph) (b : GraphBody) (ps : List Byte), admitted s r →
    graphBad b = false → s.graphOf h = some (n, g) →
    (atLeast r 10 (12 + 32 * b.tasks.length + b.params.length) → r.op.toNat = 1 →
      (0 < s.liveOf n → replies (.graphStructuralEdit r h b) s r 4 [] fun t => t.dev.graphs = s.dev.graphs) ∧
      (s.liveOf n = 0 → replies (.graphStructuralEdit r h b) s r 0 (bytesOf h.toNat 8) fun t =>
        tget t.dev.graphs n = some ⟨g.gen, b.tasks, b.deps, g.body.params⟩)) ∧
    (atLeast r 10 (12 + ps.length) → r.op.toNat = 2 → replies (.graphParameterEdit r h ps) s r 0 (bytesOf h.toNat 8) fun t =>
      tget t.dev.graphs n = some ⟨g.gen, g.body.tasks, g.body.deps, ps⟩)) ∧
  (∀ (r : Request) (s : State) (tier addr : Word), admitted s r →
    (header r 7 16 → ∃ t was, exec (.checkpoint r tier addr) s = .next t ∧
      t.dev.tierOp = some (.checkpoint (some r.ep) r.seq tier addr was) ∧
      (∀ c, c < 4096 → (tget was c).getD (0, 0) = ((s.hart c).sys.preempt, (s.hart c).sys.preemptNext)) ∧
      t.dev.lastReply = s.dev.lastReply ∧ (∀ c, c < 4096 → bit (t.hart c).sys.preempt 2 = true ∧ t.idleCore c = false) ∧
      t.mem = s.mem) ∧
    (header r 8 16 → s.tierImage tier addr = none → replies (.restore r tier addr) s r 5 [] fun t => t.harts = s.harts) ∧
    (header r 8 16 → (s.tierImage tier addr).isSome = true → ∃ t, exec (.restore r tier addr) s = .next t ∧
      t.dev.tierOp = some (.restore (some r.ep) r.seq tier addr) ∧ t.dev.lastReply = s.dev.lastReply ∧ t.mem = s.mem ∧
      ∀ c, c < 4096 → bit (t.hart c).sys.preempt 2 = true)) ∧
  (∀ (s : State) (ep : Nat) (seq tier addr : Word) (was : Table (Word × Word)),
    s.dev.tierOp = some (.checkpoint (some ep) seq tier addr was) →
    (s.quiet = false → exec .checkpointComplete s = .next s) ∧
    (s.quiet = true → s.poison.all (fun a => !inImage a) = true → ∃ t i, exec .checkpointComplete s = .next t ∧
      t.tierImage tier addr = some i ∧ t.dev.tierOp = none ∧ i.full = t.full ∧ i.poison = [] ∧
      i.mem = t.mem.filter (fun c => inImage c.1) ∧
      t.dev.lastReply = some (ep, replyBytes 7 seq s.dev.job 0 (bytesOf (2 ^ 38 + 2512 * 2 ^ 20) 8))) ∧
    (s.quiet = true → s.flushAll.poison.any inImage = true → ∃ t, exec .checkpointComplete s = .next t ∧
      t.dev.tierOp = none ∧ t.dev.tier = s.dev.tier ∧ t.dev.lastReply = some (ep, replyBytes 7 seq s.dev.job 6 []) ∧
      ∀ c, c < 4096 → ((t.hart c).sys.preempt, (t.hart c).sys.preemptNext) = (tget was c).getD (0, 0))) ∧
  (∀ (s : State) (ep : Nat) (seq tier addr : Word) (i : TierImage), s.dev.tierOp = some (.restore (some ep) seq tier addr) →
    (s.quiet = false → exec .restoreComplete s = .next s) ∧
    (s.quiet = true → s.tierImage tier addr = some i → Memory.wf i.mem = true → Memory.wf s.mem = true →
      ∃ t, exec .restoreComplete s = .next t ∧ t.dev.tierOp = none ∧ t.full = i.full ∧
      (∀ a, inImage a = true → a ∉ t.poison ∧ (memGet t.mem a = memGet i.mem a ∨ inOverflow a)) ∧
      (∀ c, c < 4096 → bit (t.hart c).sys.preempt 2 = false ∧ (t.hart c).halted = false) ∧
      t.dev.lastReply = some (ep, replyBytes 8 seq s.dev.job 0 (bytesOf (2 ^ 38 + 2512 * 2 ^ 20) 8)))) ∧
  (∀ (s : State) (tier addr : Word) (i : TierImage), s.dev.tierOp = some (.recover tier addr) →
    s.tierImage tier addr = some i → Memory.wf i.mem = true → Memory.wf s.mem = true → s.dev.instances = [] → ∃ t,
      exec .restoreComplete s = .next t ∧ t.dev.tierOp = none ∧
        ∀ a, inImage a = true → memGet t.mem a = memGet i.mem a ∨ inOverflow a)

/-- POD_JOIN stores its ring; a hall pass of an older generation is dropped, and another is forwarded with this
module's entry rewritten and, at 64 ready movable tasks without an idle cluster, up to sixteen oldest records sent to
a requester; module 0 issues a new token after 48 us. A transferred record joins the cluster with the most idle cores,
ready now, once there is room. A fence is acknowledged once no COPY_IN of its sender is half done, and fences are
awaited per sender; another module's may report its part of a pod-level class. DEVICE_RESET leaves the state after
reset but for what no rule clears, the lofts with their maps among it; undervoltage and a die at 110 C do the same.
SENSOR_UPDATE stores the samples and the new cap and steps the clock by 250 MHz between 1,500 and 3,000. Each side-
band read by slave 0x4A answers its value and the PEC of the transaction (assumption log 95); a power cap of 600 to
2,900 W with a good PEC waits for the next update. What reset keeps, what a fence message says, the steps of the
clock, the cluster whose wear is read and what answers a pass are the model's readings (assumption log 52, 53, 54,
57). [R166, R167, R451, R459, R460, R461, R462, R468, R469, R470, R471] -/
def Obligations.PodAndBoard : Prop :=
  let header (r : Request) (code n : Nat) : Prop := r.ver.toNat = 1 ∧ r.code.toNat = code ∧ r.status = 0 ∧ r.reply = false ∧
    r.reserved = false ∧ r.len.toNat = n ∧ n ≤ 65504
  let fresh (s : State) (r : Request) : Prop := (∀ p ∈ (s.endpoint r.ep).replies, p.1 ≠ r.seq) ∧ r.ep < 4096 ∧
    (s.endpoint r.ep).work = none ∧ s.tierEndpoint ≠ some r.ep ∧ ∀ l, (s.endpoint r.ep).last = some l → r.seq = l + 1
  let admitted (s : State) (r : Request) : Prop := fresh s r ∧ s.dev.service = true ∧ r.job = s.dev.job ∧ s.dev.tierOp = none
  let pec (l : List Byte) : Byte := packetError l
  let tells (i : Instr) (command : Byte) (block : Bool) (d : State → List Byte) : Prop := ∀ s, ∃ t, exec i s = .next t ∧
    (let sends := (if block then [BitVec.ofNat 8 (d s).length] else []) ++ d s
     t.board.smbus = sends ++ [pec ([0x94, command, 0x95] ++ sends)]) ∧
    { t.board with smbus := [] } = { s.board with smbus := [] } ∧ t.harts = s.harts ∧ t.mem = s.mem ∧ t.dev = s.dev
  (∀ (r : Request) (s : State) (n m : Word) (eps : List Nat), admitted s r → header r 12 (16 + 16 * eps.length) →
    n.toNat < m.toNat → m.toNat ≤ 256 →
    eps.length = m.toNat → (∀ e ∈ eps, e < 2 ^ 128) →
    (s.dev.instances ≠ [] → ∃ t, exec (.podJoin r n m eps) s = .next t ∧ t.dev.lastReply = some (r.ep, replyBytes r.code r.seq r.job 3 []) ∧
      t.dev.podM = s.dev.podM) ∧
    (s.dev.instances = [] → ∃ t, exec (.podJoin r n m eps) s = .next t ∧ t.dev.lastReply = some (r.ep, replyBytes r.code r.seq r.job 0 []) ∧
      t.dev.podN = n.toNat ∧ t.dev.podM = m.toNat ∧ t.dev.podEndpoints = eps ∧ t.mem = s.mem)) ∧
  (∀ (s : State) (p : HallPass), (p.gen.toNat < s.dev.passGen.toNat ∨ p.entries.length ≠ s.dev.podM) →
    exec (.hallPass p) s = .next s) ∧
  (∀ (s : State) (p : HallPass), s.dev.passGen.toNat ≤ p.gen.toNat → p.entries.length = s.dev.podM →
    s.dev.podN < s.dev.podM → (∀ e ∈ p.entries, e.req = false) → ∃ t o e, exec (.hallPass p) s = .next t ∧
      t.dev.passOut = some o ∧ o.gen = p.gen ∧ o.lap = (if s.dev.podN = 0 then p.lap + 1 else p.lap) ∧
      o.entries = p.entries.set s.dev.podN e ∧ e.ready = s.passEntry.ready ∧ e.idle = s.passEntry.idle ∧
      (e.req = true ↔ (∃ k, k < 256 ∧ s.idleCluster k = true) ∧ e.ready = 0) ∧ t.dev.sent = s.dev.sent ∧
      t.clusters = s.clusters ∧ t.mem = s.mem) ∧
  (∀ (s : State) (p : HallPass) (j : Nat) (e : PassEntry) (l : List (Nat × Task)), s.dev.passGen.toNat ≤ p.gen.toNat →
    p.entries.length = s.dev.podM → s.dev.podN < s.dev.podM → j ≠ s.dev.podN → p.entries[j]? = some e → e.req = true →
    (∀ i f, i ≠ j → p.entries[i]? = some f → f.req = false) → l = s.podTasks → 64 ≤ l.length →
    (∀ k, k < 256 → s.idleCluster k = false) → ∃ t o, exec (.hallPass p) s = .next t ∧ t.dev.passOut = some o ∧
      o.entries[j]? = some { e with req := false } ∧ t.dev.sent = s.dev.sent ++ [(j, (l.take 16).map (·.2.record))] ∧
      j ∈ t.dev.podDirty ∧ t.mem = s.mem) ∧
  (∀ s : State, s.dev.podN = 0 → s.dev.passAt + 48000 ≤ s.nanos → ∃ t o, exec .hallPassRegenerate s = .next t ∧
    t.dev.passOut = some o ∧ o.gen = s.dev.passGen + 1 ∧ t.dev.passGen = s.dev.passGen + 1 ∧ t.dev.passAt = s.nanos ∧
    o.entries.length = s.dev.podM ∧ t.mem = s.mem) ∧
  (∀ s : State, (s.dev.podN ≠ 0 ∨ s.nanos < s.dev.passAt + 48000) → exec .hallPassRegenerate s = .next s) ∧
  (∀ (s : State) (r : TaskRecord), (∀ d, (s.die d).redirect = []) → (∃ k, k < 256 ∧ (s.cluster k).fenced = false) →
    (∀ k, k < 256 → (s.cluster k).disp.live (recordPrio r) = true ∧ (s.cluster k).disp.sram < 1024) → ∃ t k x, exec (.podTaskTransfer [r]) s = .next t ∧
    k < 256 ∧ (s.cluster k).fenced = false ∧ (t.cluster k).disp.tasks = (s.cluster k).disp.tasks ++ [x] ∧ x.record = r ∧
    x.queue = recordPrio r ∧ x.ready = some s.clock ∧ t.mem = s.mem ∧
    ∀ j, j < 256 → (s.cluster j).fenced = false → ((coresOf j).filter s.idleCore).length ≤ ((coresOf k).filter s.idleCore).length) ∧
  (∀ (s : State) (r : TaskRecord), (∀ d, (s.die d).redirect = []) → (∀ k, k < 256 → (s.cluster k).disp.room (recordPrio r) = none) →
    exec (.podTaskTransfer [r]) s = .next s) ∧
  (∀ (s : State) (m : Nat), (s.copyHalf m = true → exec (.fenceMessage m) s = .next s) ∧
    (s.copyHalf m = false → ∃ t, exec (.fenceMessage m) s = .next t ∧ t.dev.acked = s.dev.acked ++ [m] ∧ t.mem = s.mem ∧
      t.harts = s.harts ∧ (t.dev.podParts = s.dev.podParts ∨
        m ∈ s.otherModules ∧ ∃ b v, b < 4 ∧ t.dev.podParts = s.dev.podParts ++ [(m, b, v)])) ∧
    ∃ t, exec (.fenceAcknowledgement m) s = .next t ∧ (∀ w, w ∈ t.dev.podWait ↔ w ∈ s.dev.podWait ∧ w ≠ m) ∧
      t.mem = s.mem ∧ t.harts = s.harts) ∧
  (∀ (s : State) (ep : Nat), ep < 4096 → ∃ t, exec (.endpointEstablished ep) s = .next t ∧ t.endpoint ep = ⟨none, [], none⟩ ∧
    (∀ e, e ≠ ep → t.endpoint e = s.endpoint e) ∧ t.tierEndpoint ≠ some ep ∧ t.dev.checking ≠ some ep ∧ t.mem = s.mem) ∧
  (∀ (s : State) (port : Nat), port < 8 → ∃ t, exec (.unsupportedPacket port) s = .next t ∧
    (tget t.dev.portErrors port).getD 0 = (tget s.dev.portErrors port).getD 0 + 1 ∧ t.mem = s.mem ∧ t.harts = s.harts) ∧
  (∀ s : State, exec .deviceReset s = .next s.deviceReset ∧ s.deviceReset.harts = [] ∧
    (∀ k, s.deviceReset.cluster k = { Cluster.reset with loft := { Cluster.reset.loft with map := (s.flushLofts.cluster k).loft.map, blocks := (s.flushLofts.cluster k).loft.blocks } }) ∧
    s.deviceReset.dies = [] ∧ s.deviceReset.dev.service = false ∧ s.deviceReset.net = [] ∧ s.deviceReset.full = [] ∧
    s.deviceReset.cur = 12288 ∧ s.deviceReset.ctx = .main ∧ s.deviceReset.board.cap = 2400 ∧
    (∀ a, memGet s.deviceReset.mem a = if clearedByReset a then 0 else memGet s.flushLofts.mem a) ∧
    (s.board.centivolts < 3800 → exec .undervoltageReset s = .next s.deviceReset) ∧
    (3800 ≤ s.board.centivolts → exec .undervoltageReset s = .next s) ∧
    ((∃ t ∈ s.board.temps, 1100 ≤ t) → ∃ t, exec .thermalTrip s = .next t ∧ t.harts = [] ∧ t.dev.service = false ∧
      t.board.temps = s.board.temps) ∧
    ((∀ t ∈ s.board.temps, t < 1100) → exec .thermalTrip s = .next s)) ∧
  (∀ (s : State) (w v : Nat) (ts : List Nat), ts.length = 5 → ∃ t, exec (.sensorUpdate w ts v) s = .next t ∧
    t.board.watts = w ∧ t.board.temps = ts ∧ t.board.centivolts = v ∧ t.board.cap = s.board.capNext ∧ t.mem = s.mem ∧
    t.harts = s.harts ∧
    (((∃ x ∈ ts, 1000 ≤ x) ∨ s.board.capNext < w) → t.board.clockMHz = max 1500 (s.board.clockMHz - 250)) ∧
    (¬ ((∃ x ∈ ts, 1000 ≤ x) ∨ s.board.capNext < w) → (∀ x ∈ ts, x < 950) → 100 * w < 95 * s.board.capNext →
      t.board.clockMHz = min 3000 (s.board.clockMHz + 250)) ∧
    (¬ ((∃ x ∈ ts, 1000 ≤ x) ∨ s.board.capNext < w) → ((∃ x ∈ ts, 950 ≤ x) ∨ 95 * s.board.capNext ≤ 100 * w) →
      t.board.clockMHz = s.board.clockMHz)) ∧
  tells .smbusReadPower 0x01 false (fun s => bytesOf s.board.watts 2) ∧
  tells .smbusReadTemperatures 0x02 true (fun s => s.board.temps.flatMap fun t => bytesOf t 2) ∧
  tells .smbusReadVoltage 0x03 false (fun s => bytesOf s.board.centivolts 2) ∧
  tells .smbusReadWear 0x04 true (fun s => bytesOf s.worstWear.toNat 8) ∧
  tells .smbusReadBootStatus 0x05 false (fun s => [s.dev.bootStatus]) ∧
  tells .smbusReadClock 0x06 false (fun s => bytesOf s.board.clockMHz 2) ∧
  (∀ (s : State) (w : BitVec 16) (p : BitVec 8), ∃ t, exec (.smbusWritePowerCap w p) s = .next t ∧
    t.board.capNext = (if p = pec ([0x94, 0x10] ++ bytesOf w.toNat 2) ∧ 600 ≤ w.toNat ∧ w.toNat ≤ 2900 then w.toNat else s.board.capNext) ∧
    t.board.cap = s.board.cap ∧ t.mem = s.mem ∧ t.harts = s.harts)
end

