-- ==== Sys2Proof/Laws/State.lean ====
section
/-! SUPPORT. Laws/State.lean: what each update of the state does to each part of it. -/

namespace Sys2Proof.Machine

/-! ## Tables -/

/-- The entry just put is the one found. -/
@[simp] theorem tget_tput_same {α : Type} (l : Table α) (k : Nat) (a : α) : tget (tput l k a) k = some a := by
  induction l with
  | nil => simp [tput, tget]
  | cons e r ih =>
    obtain ⟨j, b⟩ := e
    by_cases h : k < j
    · simp [tput, tget, h]
    · by_cases h2 : j = k
      · simp [tput, tget, h2]
      · simp [tput, tget, h, h2, ih]

/-- Another key's entry is as before. -/
theorem tget_tput_ne {α : Type} (l : Table α) (k j : Nat) (a : α) (h : j ≠ k) : tget (tput l k a) j = tget l j := by
  induction l with
  | nil => simp [tput, tget, Ne.symm h]
  | cons e r ih =>
    obtain ⟨i, b⟩ := e
    by_cases h1 : k < i
    · simp [tput, tget, h1, Ne.symm h]
    · by_cases h2 : i = k
      · subst h2; simp [tput, tget, Ne.symm h]
      · simp [tput, tget, h1, h2, ih]

/-- A table with an entry put at a key, read at any key. -/
theorem tget_tput {α : Type} (l : Table α) (k j : Nat) (a : α) :
    tget (tput l k a) j = if j = k then some a else tget l j := by
  split
  · subst_vars; simp
  · exact tget_tput_ne _ _ _ _ ‹_›

/-! ## Harts, clusters, dies and the device -/

@[simp] theorem State.modHart_clusters (s : State) (h : Nat) (f : Hart → Hart) : (s.modHart h f).clusters = s.clusters := rfl
@[simp] theorem State.modHart_dies (s : State) (h : Nat) (f : Hart → Hart) : (s.modHart h f).dies = s.dies := rfl
@[simp] theorem State.modHart_dev (s : State) (h : Nat) (f : Hart → Hart) : (s.modHart h f).dev = s.dev := rfl
@[simp] theorem State.modHart_board (s : State) (h : Nat) (f : Hart → Hart) : (s.modHart h f).board = s.board := rfl
@[simp] theorem State.modHart_mem (s : State) (h : Nat) (f : Hart → Hart) : (s.modHart h f).mem = s.mem := rfl
@[simp] theorem State.modHart_full (s : State) (h : Nat) (f : Hart → Hart) : (s.modHart h f).full = s.full := rfl
@[simp] theorem State.modHart_poison (s : State) (h : Nat) (f : Hart → Hart) : (s.modHart h f).poison = s.poison := rfl
@[simp] theorem State.modHart_tags (s : State) (h : Nat) (f : Hart → Hart) : (s.modHart h f).tags = s.tags := rfl
@[simp] theorem State.modHart_holds (s : State) (h : Nat) (f : Hart → Hart) : (s.modHart h f).holds = s.holds := rfl
@[simp] theorem State.modHart_waiters (s : State) (h : Nat) (f : Hart → Hart) : (s.modHart h f).waiters = s.waiters := rfl
@[simp] theorem State.modHart_past (s : State) (h : Nat) (f : Hart → Hart) : (s.modHart h f).past = s.past := rfl
@[simp] theorem State.modHart_net (s : State) (h : Nat) (f : Hart → Hart) : (s.modHart h f).net = s.net := rfl
@[simp] theorem State.modHart_clock (s : State) (h : Nat) (f : Hart → Hart) : (s.modHart h f).clock = s.clock := rfl
@[simp] theorem State.modHart_nanos (s : State) (h : Nat) (f : Hart → Hart) : (s.modHart h f).nanos = s.nanos := rfl
@[simp] theorem State.modHart_free (s : State) (h : Nat) (f : Hart → Hart) : (s.modHart h f).free = s.free := rfl
@[simp] theorem State.modHart_cur (s : State) (h : Nat) (f : Hart → Hart) : (s.modHart h f).cur = s.cur := rfl
@[simp] theorem State.modHart_ctx (s : State) (h : Nat) (f : Hart → Hart) : (s.modHart h f).ctx = s.ctx := rfl
@[simp] theorem State.modHart_turns (s : State) (h : Nat) (f : Hart → Hart) : (s.modHart h f).turns = s.turns := rfl
@[simp] theorem State.modCluster_harts (s : State) (k : Nat) (f : Cluster → Cluster) : (s.modCluster k f).harts = s.harts := rfl
@[simp] theorem State.modCluster_dies (s : State) (k : Nat) (f : Cluster → Cluster) : (s.modCluster k f).dies = s.dies := rfl
@[simp] theorem State.modCluster_dev (s : State) (k : Nat) (f : Cluster → Cluster) : (s.modCluster k f).dev = s.dev := rfl
@[simp] theorem State.modCluster_board (s : State) (k : Nat) (f : Cluster → Cluster) : (s.modCluster k f).board = s.board := rfl
@[simp] theorem State.modCluster_mem (s : State) (k : Nat) (f : Cluster → Cluster) : (s.modCluster k f).mem = s.mem := rfl
@[simp] theorem State.modCluster_full (s : State) (k : Nat) (f : Cluster → Cluster) : (s.modCluster k f).full = s.full := rfl
@[simp] theorem State.modCluster_poison (s : State) (k : Nat) (f : Cluster → Cluster) : (s.modCluster k f).poison = s.poison := rfl
@[simp] theorem State.modCluster_tags (s : State) (k : Nat) (f : Cluster → Cluster) : (s.modCluster k f).tags = s.tags := rfl
@[simp] theorem State.modCluster_holds (s : State) (k : Nat) (f : Cluster → Cluster) : (s.modCluster k f).holds = s.holds := rfl
@[simp] theorem State.modCluster_waiters (s : State) (k : Nat) (f : Cluster → Cluster) : (s.modCluster k f).waiters = s.waiters := rfl
@[simp] theorem State.modCluster_past (s : State) (k : Nat) (f : Cluster → Cluster) : (s.modCluster k f).past = s.past := rfl
@[simp] theorem State.modCluster_net (s : State) (k : Nat) (f : Cluster → Cluster) : (s.modCluster k f).net = s.net := rfl
@[simp] theorem State.modCluster_clock (s : State) (k : Nat) (f : Cluster → Cluster) : (s.modCluster k f).clock = s.clock := rfl
@[simp] theorem State.modCluster_nanos (s : State) (k : Nat) (f : Cluster → Cluster) : (s.modCluster k f).nanos = s.nanos := rfl
@[simp] theorem State.modCluster_free (s : State) (k : Nat) (f : Cluster → Cluster) : (s.modCluster k f).free = s.free := rfl
@[simp] theorem State.modCluster_cur (s : State) (k : Nat) (f : Cluster → Cluster) : (s.modCluster k f).cur = s.cur := rfl
@[simp] theorem State.modCluster_ctx (s : State) (k : Nat) (f : Cluster → Cluster) : (s.modCluster k f).ctx = s.ctx := rfl
@[simp] theorem State.modCluster_turns (s : State) (k : Nat) (f : Cluster → Cluster) : (s.modCluster k f).turns = s.turns := rfl
@[simp] theorem State.modDie_harts (s : State) (d : Nat) (f : Die → Die) : (s.modDie d f).harts = s.harts := rfl
@[simp] theorem State.modDie_clusters (s : State) (d : Nat) (f : Die → Die) : (s.modDie d f).clusters = s.clusters := rfl
@[simp] theorem State.modDie_dev (s : State) (d : Nat) (f : Die → Die) : (s.modDie d f).dev = s.dev := rfl
@[simp] theorem State.modDie_board (s : State) (d : Nat) (f : Die → Die) : (s.modDie d f).board = s.board := rfl
@[simp] theorem State.modDie_mem (s : State) (d : Nat) (f : Die → Die) : (s.modDie d f).mem = s.mem := rfl
@[simp] theorem State.modDie_full (s : State) (d : Nat) (f : Die → Die) : (s.modDie d f).full = s.full := rfl
@[simp] theorem State.modDie_poison (s : State) (d : Nat) (f : Die → Die) : (s.modDie d f).poison = s.poison := rfl
@[simp] theorem State.modDie_tags (s : State) (d : Nat) (f : Die → Die) : (s.modDie d f).tags = s.tags := rfl
@[simp] theorem State.modDie_holds (s : State) (d : Nat) (f : Die → Die) : (s.modDie d f).holds = s.holds := rfl
@[simp] theorem State.modDie_waiters (s : State) (d : Nat) (f : Die → Die) : (s.modDie d f).waiters = s.waiters := rfl
@[simp] theorem State.modDie_past (s : State) (d : Nat) (f : Die → Die) : (s.modDie d f).past = s.past := rfl
@[simp] theorem State.modDie_net (s : State) (d : Nat) (f : Die → Die) : (s.modDie d f).net = s.net := rfl
@[simp] theorem State.modDie_clock (s : State) (d : Nat) (f : Die → Die) : (s.modDie d f).clock = s.clock := rfl
@[simp] theorem State.modDie_nanos (s : State) (d : Nat) (f : Die → Die) : (s.modDie d f).nanos = s.nanos := rfl
@[simp] theorem State.modDie_free (s : State) (d : Nat) (f : Die → Die) : (s.modDie d f).free = s.free := rfl
@[simp] theorem State.modDie_cur (s : State) (d : Nat) (f : Die → Die) : (s.modDie d f).cur = s.cur := rfl
@[simp] theorem State.modDie_ctx (s : State) (d : Nat) (f : Die → Die) : (s.modDie d f).ctx = s.ctx := rfl
@[simp] theorem State.modDie_turns (s : State) (d : Nat) (f : Die → Die) : (s.modDie d f).turns = s.turns := rfl
@[simp] theorem State.modDev_harts (s : State) (f : Device → Device) : (s.modDev f).harts = s.harts := rfl
@[simp] theorem State.modDev_clusters (s : State) (f : Device → Device) : (s.modDev f).clusters = s.clusters := rfl
@[simp] theorem State.modDev_dies (s : State) (f : Device → Device) : (s.modDev f).dies = s.dies := rfl
@[simp] theorem State.modDev_board (s : State) (f : Device → Device) : (s.modDev f).board = s.board := rfl
@[simp] theorem State.modDev_mem (s : State) (f : Device → Device) : (s.modDev f).mem = s.mem := rfl
@[simp] theorem State.modDev_full (s : State) (f : Device → Device) : (s.modDev f).full = s.full := rfl
@[simp] theorem State.modDev_poison (s : State) (f : Device → Device) : (s.modDev f).poison = s.poison := rfl
@[simp] theorem State.modDev_tags (s : State) (f : Device → Device) : (s.modDev f).tags = s.tags := rfl
@[simp] theorem State.modDev_holds (s : State) (f : Device → Device) : (s.modDev f).holds = s.holds := rfl
@[simp] theorem State.modDev_waiters (s : State) (f : Device → Device) : (s.modDev f).waiters = s.waiters := rfl
@[simp] theorem State.modDev_past (s : State) (f : Device → Device) : (s.modDev f).past = s.past := rfl
@[simp] theorem State.modDev_net (s : State) (f : Device → Device) : (s.modDev f).net = s.net := rfl
@[simp] theorem State.modDev_clock (s : State) (f : Device → Device) : (s.modDev f).clock = s.clock := rfl
@[simp] theorem State.modDev_nanos (s : State) (f : Device → Device) : (s.modDev f).nanos = s.nanos := rfl
@[simp] theorem State.modDev_free (s : State) (f : Device → Device) : (s.modDev f).free = s.free := rfl
@[simp] theorem State.modDev_cur (s : State) (f : Device → Device) : (s.modDev f).cur = s.cur := rfl
@[simp] theorem State.modDev_ctx (s : State) (f : Device → Device) : (s.modDev f).ctx = s.ctx := rfl
@[simp] theorem State.modDev_turns (s : State) (f : Device → Device) : (s.modDev f).turns = s.turns := rfl
@[simp] theorem State.modDev_dev (s : State) (f : Device → Device) : (s.modDev f).dev = f s.dev := rfl
@[simp] theorem State.send_harts (s : State) (p : Packet) : (s.send p).harts = s.harts := rfl
@[simp] theorem State.send_clusters (s : State) (p : Packet) : (s.send p).clusters = s.clusters := rfl
@[simp] theorem State.send_dies (s : State) (p : Packet) : (s.send p).dies = s.dies := rfl
@[simp] theorem State.send_dev (s : State) (p : Packet) : (s.send p).dev = s.dev := rfl
@[simp] theorem State.send_board (s : State) (p : Packet) : (s.send p).board = s.board := rfl
@[simp] theorem State.send_mem (s : State) (p : Packet) : (s.send p).mem = s.mem := rfl
@[simp] theorem State.send_full (s : State) (p : Packet) : (s.send p).full = s.full := rfl
@[simp] theorem State.send_poison (s : State) (p : Packet) : (s.send p).poison = s.poison := rfl
@[simp] theorem State.send_tags (s : State) (p : Packet) : (s.send p).tags = s.tags := rfl
@[simp] theorem State.send_holds (s : State) (p : Packet) : (s.send p).holds = s.holds := rfl
@[simp] theorem State.send_waiters (s : State) (p : Packet) : (s.send p).waiters = s.waiters := rfl
@[simp] theorem State.send_past (s : State) (p : Packet) : (s.send p).past = s.past := rfl
@[simp] theorem State.send_clock (s : State) (p : Packet) : (s.send p).clock = s.clock := rfl
@[simp] theorem State.send_nanos (s : State) (p : Packet) : (s.send p).nanos = s.nanos := rfl
@[simp] theorem State.send_free (s : State) (p : Packet) : (s.send p).free = s.free := rfl
@[simp] theorem State.send_cur (s : State) (p : Packet) : (s.send p).cur = s.cur := rfl
@[simp] theorem State.send_ctx (s : State) (p : Packet) : (s.send p).ctx = s.ctx := rfl
@[simp] theorem State.send_turns (s : State) (p : Packet) : (s.send p).turns = s.turns := rfl
@[simp] theorem State.send_net (s : State) (p : Packet) : (s.send p).net = s.net ++ [p] := rfl
@[simp] theorem State.elapse_harts (s : State) (c n : Nat) : (s.elapse c n).harts = s.harts := rfl
@[simp] theorem State.elapse_clusters (s : State) (c n : Nat) : (s.elapse c n).clusters = s.clusters := rfl
@[simp] theorem State.elapse_dies (s : State) (c n : Nat) : (s.elapse c n).dies = s.dies := rfl
@[simp] theorem State.elapse_dev (s : State) (c n : Nat) : (s.elapse c n).dev = s.dev := rfl
@[simp] theorem State.elapse_board (s : State) (c n : Nat) : (s.elapse c n).board = s.board := rfl
@[simp] theorem State.elapse_mem (s : State) (c n : Nat) : (s.elapse c n).mem = s.mem := rfl
@[simp] theorem State.elapse_full (s : State) (c n : Nat) : (s.elapse c n).full = s.full := rfl
@[simp] theorem State.elapse_poison (s : State) (c n : Nat) : (s.elapse c n).poison = s.poison := rfl
@[simp] theorem State.elapse_tags (s : State) (c n : Nat) : (s.elapse c n).tags = s.tags := rfl
@[simp] theorem State.elapse_holds (s : State) (c n : Nat) : (s.elapse c n).holds = s.holds := rfl
@[simp] theorem State.elapse_waiters (s : State) (c n : Nat) : (s.elapse c n).waiters = s.waiters := rfl
@[simp] theorem State.elapse_past (s : State) (c n : Nat) : (s.elapse c n).past = s.past := rfl
@[simp] theorem State.elapse_net (s : State) (c n : Nat) : (s.elapse c n).net = s.net := rfl
@[simp] theorem State.elapse_free (s : State) (c n : Nat) : (s.elapse c n).free = s.free := rfl
@[simp] theorem State.elapse_cur (s : State) (c n : Nat) : (s.elapse c n).cur = s.cur := rfl
@[simp] theorem State.elapse_ctx (s : State) (c n : Nat) : (s.elapse c n).ctx = s.ctx := rfl
@[simp] theorem State.elapse_turns (s : State) (c n : Nat) : (s.elapse c n).turns = s.turns := rfl
@[simp] theorem State.elapse_clock (s : State) (c n : Nat) : (s.elapse c n).clock = s.clock + c := rfl
@[simp] theorem State.elapse_nanos (s : State) (c n : Nat) : (s.elapse c n).nanos = s.nanos + n := rfl
@[simp] theorem State.modMe_clusters (s : State) (f : Hart → Hart) : (s.modMe f).clusters = s.clusters := rfl
@[simp] theorem State.modMe_dies (s : State) (f : Hart → Hart) : (s.modMe f).dies = s.dies := rfl
@[simp] theorem State.modMe_dev (s : State) (f : Hart → Hart) : (s.modMe f).dev = s.dev := rfl
@[simp] theorem State.modMe_board (s : State) (f : Hart → Hart) : (s.modMe f).board = s.board := rfl
@[simp] theorem State.modMe_mem (s : State) (f : Hart → Hart) : (s.modMe f).mem = s.mem := rfl
@[simp] theorem State.modMe_full (s : State) (f : Hart → Hart) : (s.modMe f).full = s.full := rfl
@[simp] theorem State.modMe_poison (s : State) (f : Hart → Hart) : (s.modMe f).poison = s.poison := rfl
@[simp] theorem State.modMe_tags (s : State) (f : Hart → Hart) : (s.modMe f).tags = s.tags := rfl
@[simp] theorem State.modMe_holds (s : State) (f : Hart → Hart) : (s.modMe f).holds = s.holds := rfl
@[simp] theorem State.modMe_waiters (s : State) (f : Hart → Hart) : (s.modMe f).waiters = s.waiters := rfl
@[simp] theorem State.modMe_past (s : State) (f : Hart → Hart) : (s.modMe f).past = s.past := rfl
@[simp] theorem State.modMe_net (s : State) (f : Hart → Hart) : (s.modMe f).net = s.net := rfl
@[simp] theorem State.modMe_clock (s : State) (f : Hart → Hart) : (s.modMe f).clock = s.clock := rfl
@[simp] theorem State.modMe_nanos (s : State) (f : Hart → Hart) : (s.modMe f).nanos = s.nanos := rfl
@[simp] theorem State.modMe_free (s : State) (f : Hart → Hart) : (s.modMe f).free = s.free := rfl
@[simp] theorem State.modMe_cur (s : State) (f : Hart → Hart) : (s.modMe f).cur = s.cur := rfl
@[simp] theorem State.modMe_ctx (s : State) (f : Hart → Hart) : (s.modMe f).ctx = s.ctx := rfl
@[simp] theorem State.modMe_turns (s : State) (f : Hart → Hart) : (s.modMe f).turns = s.turns := rfl
@[simp] theorem State.modCluster_hart (s : State) (k : Nat) (f : Cluster → Cluster) (j : Nat) : (s.modCluster k f).hart j = s.hart j := rfl
@[simp] theorem State.modCluster_me (s : State) (k : Nat) (f : Cluster → Cluster) : (s.modCluster k f).me = s.me := rfl
@[simp] theorem State.modCluster_die (s : State) (k : Nat) (f : Cluster → Cluster) (j : Nat) : (s.modCluster k f).die j = s.die j := rfl
@[simp] theorem State.modDie_hart (s : State) (d : Nat) (f : Die → Die) (j : Nat) : (s.modDie d f).hart j = s.hart j := rfl
@[simp] theorem State.modDie_me (s : State) (d : Nat) (f : Die → Die) : (s.modDie d f).me = s.me := rfl
@[simp] theorem State.modDie_cluster (s : State) (d : Nat) (f : Die → Die) (j : Nat) : (s.modDie d f).cluster j = s.cluster j := rfl
@[simp] theorem State.modDev_hart (s : State) (f : Device → Device) (j : Nat) : (s.modDev f).hart j = s.hart j := rfl
@[simp] theorem State.modDev_me (s : State) (f : Device → Device) : (s.modDev f).me = s.me := rfl
@[simp] theorem State.modDev_cluster (s : State) (f : Device → Device) (j : Nat) : (s.modDev f).cluster j = s.cluster j := rfl
@[simp] theorem State.modDev_die (s : State) (f : Device → Device) (j : Nat) : (s.modDev f).die j = s.die j := rfl
@[simp] theorem State.send_hart (s : State) (p : Packet) (j : Nat) : (s.send p).hart j = s.hart j := rfl
@[simp] theorem State.send_me (s : State) (p : Packet) : (s.send p).me = s.me := rfl
@[simp] theorem State.send_cluster (s : State) (p : Packet) (j : Nat) : (s.send p).cluster j = s.cluster j := rfl
@[simp] theorem State.send_die (s : State) (p : Packet) (j : Nat) : (s.send p).die j = s.die j := rfl
@[simp] theorem State.elapse_hart (s : State) (c n : Nat) (j : Nat) : (s.elapse c n).hart j = s.hart j := rfl
@[simp] theorem State.elapse_me (s : State) (c n : Nat) : (s.elapse c n).me = s.me := rfl
@[simp] theorem State.elapse_cluster (s : State) (c n : Nat) (j : Nat) : (s.elapse c n).cluster j = s.cluster j := rfl
@[simp] theorem State.elapse_die (s : State) (c n : Nat) (j : Nat) : (s.elapse c n).die j = s.die j := rfl
@[simp] theorem State.modHart_cluster (s : State) (h : Nat) (f : Hart → Hart) (j : Nat) : (s.modHart h f).cluster j = s.cluster j := rfl
@[simp] theorem State.modHart_die (s : State) (h : Nat) (f : Hart → Hart) (j : Nat) : (s.modHart h f).die j = s.die j := rfl
@[simp] theorem State.modMe_cluster (s : State) (f : Hart → Hart) (j : Nat) : (s.modMe f).cluster j = s.cluster j := rfl
@[simp] theorem State.modMe_die (s : State) (f : Hart → Hart) (j : Nat) : (s.modMe f).die j = s.die j := rfl

@[simp] theorem State.hart_modHart_same (s : State) (h : Nat) (f : Hart → Hart) : (s.modHart h f).hart h = f (s.hart h) := by
  simp [State.hart, State.modHart]

theorem State.hart_modHart_ne (s : State) (h j : Nat) (f : Hart → Hart) (n : j ≠ h) : (s.modHart h f).hart j = s.hart j := by
  simp [State.hart, State.modHart, tget_tput_ne _ _ _ _ n]

theorem State.hart_modHart (s : State) (h j : Nat) (f : Hart → Hart) :
    (s.modHart h f).hart j = if j = h then f (s.hart h) else s.hart j := by
  split
  · subst_vars; simp
  · exact State.hart_modHart_ne _ _ _ _ ‹_›

@[simp] theorem State.me_modMe (s : State) (f : Hart → Hart) : (s.modMe f).me = f s.me := by
  show (s.modHart s.cur f).hart s.cur = f (s.hart s.cur)
  simp

@[simp] theorem State.me_modHart_cur (s : State) (f : Hart → Hart) : (s.modHart s.cur f).me = f s.me := s.me_modMe f

theorem State.hart_modMe_ne (s : State) (j : Nat) (f : Hart → Hart) (n : j ≠ s.cur) : (s.modMe f).hart j = s.hart j :=
  State.hart_modHart_ne _ _ _ _ n

@[simp] theorem State.cluster_modCluster_same (s : State) (k : Nat) (f : Cluster → Cluster) :
    (s.modCluster k f).cluster k = f (s.cluster k) := by
  simp [State.cluster, State.modCluster]

theorem State.cluster_modCluster_ne (s : State) (k j : Nat) (f : Cluster → Cluster) (n : j ≠ k) :
    (s.modCluster k f).cluster j = s.cluster j := by
  simp [State.cluster, State.modCluster, tget_tput_ne _ _ _ _ n]

@[simp] theorem State.die_modDie_same (s : State) (k : Nat) (f : Die → Die) : (s.modDie k f).die k = f (s.die k) := by
  simp [State.die, State.modDie]

theorem State.die_modDie_ne (s : State) (k j : Nat) (f : Die → Die) (n : j ≠ k) : (s.modDie k f).die j = s.die j := by
  simp [State.die, State.modDie, tget_tput_ne _ _ _ _ n]

/-! ## The registers of the executing context -/

@[simp] theorem State.setX_clusters (s : State) (n : BitVec 6) (w : Word) : (s.setX n w).clusters = s.clusters := by
  unfold State.setX; split; · rfl
  split <;> rfl
@[simp] theorem State.setX_dies (s : State) (n : BitVec 6) (w : Word) : (s.setX n w).dies = s.dies := by
  unfold State.setX; split; · rfl
  split <;> rfl
@[simp] theorem State.setX_dev (s : State) (n : BitVec 6) (w : Word) : (s.setX n w).dev = s.dev := by
  unfold State.setX; split; · rfl
  split <;> rfl
@[simp] theorem State.setX_board (s : State) (n : BitVec 6) (w : Word) : (s.setX n w).board = s.board := by
  unfold State.setX; split; · rfl
  split <;> rfl
@[simp] theorem State.setX_mem (s : State) (n : BitVec 6) (w : Word) : (s.setX n w).mem = s.mem := by
  unfold State.setX; split; · rfl
  split <;> rfl
@[simp] theorem State.setX_full (s : State) (n : BitVec 6) (w : Word) : (s.setX n w).full = s.full := by
  unfold State.setX; split; · rfl
  split <;> rfl
@[simp] theorem State.setX_poison (s : State) (n : BitVec 6) (w : Word) : (s.setX n w).poison = s.poison := by
  unfold State.setX; split; · rfl
  split <;> rfl
@[simp] theorem State.setX_tags (s : State) (n : BitVec 6) (w : Word) : (s.setX n w).tags = s.tags := by
  unfold State.setX; split; · rfl
  split <;> rfl
@[simp] theorem State.setX_holds (s : State) (n : BitVec 6) (w : Word) : (s.setX n w).holds = s.holds := by
  unfold State.setX; split; · rfl
  split <;> rfl
@[simp] theorem State.setX_waiters (s : State) (n : BitVec 6) (w : Word) : (s.setX n w).waiters = s.waiters := by
  unfold State.setX; split; · rfl
  split <;> rfl
@[simp] theorem State.setX_past (s : State) (n : BitVec 6) (w : Word) : (s.setX n w).past = s.past := by
  unfold State.setX; split; · rfl
  split <;> rfl
@[simp] theorem State.setX_net (s : State) (n : BitVec 6) (w : Word) : (s.setX n w).net = s.net := by
  unfold State.setX; split; · rfl
  split <;> rfl
@[simp] theorem State.setX_clock (s : State) (n : BitVec 6) (w : Word) : (s.setX n w).clock = s.clock := by
  unfold State.setX; split; · rfl
  split <;> rfl
@[simp] theorem State.setX_nanos (s : State) (n : BitVec 6) (w : Word) : (s.setX n w).nanos = s.nanos := by
  unfold State.setX; split; · rfl
  split <;> rfl
@[simp] theorem State.setX_free (s : State) (n : BitVec 6) (w : Word) : (s.setX n w).free = s.free := by
  unfold State.setX; split; · rfl
  split <;> rfl
@[simp] theorem State.setX_cur (s : State) (n : BitVec 6) (w : Word) : (s.setX n w).cur = s.cur := by
  unfold State.setX; split; · rfl
  split <;> rfl
@[simp] theorem State.setX_ctx (s : State) (n : BitVec 6) (w : Word) : (s.setX n w).ctx = s.ctx := by
  unfold State.setX; split; · rfl
  split <;> rfl
@[simp] theorem State.setX_turns (s : State) (n : BitVec 6) (w : Word) : (s.setX n w).turns = s.turns := by
  unfold State.setX; split; · rfl
  split <;> rfl
@[simp] theorem State.setX_cluster_at (s : State) (n : BitVec 6) (w : Word) (j : Nat) : (s.setX n w).cluster j = s.cluster j := by
  unfold State.setX; split; · rfl
  split <;> rfl
@[simp] theorem State.setX_die_at (s : State) (n : BitVec 6) (w : Word) (j : Nat) : (s.setX n w).die j = s.die j := by
  unfold State.setX; split; · rfl
  split <;> rfl
theorem State.setX_hart_ne (s : State) (n : BitVec 6) (w : Word) (j : Nat) (h : j ≠ s.cur) : (s.setX n w).hart j = s.hart j := by
  unfold State.setX; split; · rfl
  split <;> simp [State.hart_modMe_ne, h]
@[simp] theorem State.setX_me_act (s : State) (n : BitVec 6) (w : Word) : (s.setX n w).me.act = s.me.act := by
  unfold State.setX; split; · rfl
  split <;> simp
@[simp] theorem State.setX_me_halted (s : State) (n : BitVec 6) (w : Word) : (s.setX n w).me.halted = s.me.halted := by
  unfold State.setX; split; · rfl
  split <;> simp
@[simp] theorem State.setX_me_traps (s : State) (n : BitVec 6) (w : Word) : (s.setX n w).me.traps = s.me.traps := by
  unfold State.setX; split; · rfl
  split <;> simp
@[simp] theorem State.setX_me_sys (s : State) (n : BitVec 6) (w : Word) : (s.setX n w).me.sys = s.me.sys := by
  unfold State.setX; split; · rfl
  split <;> simp
@[simp] theorem State.setX_me_mat (s : State) (n : BitVec 6) (w : Word) : (s.setX n w).me.mat = s.me.mat := by
  unfold State.setX; split; · rfl
  split <;> simp
@[simp] theorem State.setX_me_tree (s : State) (n : BitVec 6) (w : Word) : (s.setX n w).me.tree = s.me.tree := by
  unfold State.setX; split; · rfl
  split <;> simp
@[simp] theorem State.setX_me_p (s : State) (n : BitVec 6) (w : Word) : (s.setX n w).me.p = s.me.p := by
  unfold State.setX; split; · rfl
  split <;> simp
@[simp] theorem State.setX_me_e (s : State) (n : BitVec 6) (w : Word) : (s.setX n w).me.e = s.me.e := by
  unfold State.setX; split; · rfl
  split <;> simp
@[simp] theorem State.setX_me_tiles (s : State) (n : BitVec 6) (w : Word) : (s.setX n w).me.tiles = s.me.tiles := by
  unfold State.setX; split; · rfl
  split <;> simp
@[simp] theorem State.setX_me_tables (s : State) (n : BitVec 6) (w : Word) : (s.setX n w).me.tables = s.me.tables := by
  unfold State.setX; split; · rfl
  split <;> simp
@[simp] theorem State.setX_me_mc (s : State) (n : BitVec 6) (w : Word) : (s.setX n w).me.mc = s.me.mc := by
  unfold State.setX; split; · rfl
  split <;> simp
@[simp] theorem State.setX_me_queues (s : State) (n : BitVec 6) (w : Word) : (s.setX n w).me.queues = s.me.queues := by
  unfold State.setX; split; · rfl
  split <;> simp
@[simp] theorem State.setX_me_bells (s : State) (n : BitVec 6) (w : Word) : (s.setX n w).me.bells = s.me.bells := by
  unfold State.setX; split; · rfl
  split <;> simp
@[simp] theorem State.setX_me_streams (s : State) (n : BitVec 6) (w : Word) : (s.setX n w).me.streams = s.me.streams := by
  unfold State.setX; split; · rfl
  split <;> simp
@[simp] theorem State.setX_me_mem (s : State) (n : BitVec 6) (w : Word) : (s.setX n w).me.mem = s.me.mem := by
  unfold State.setX; split; · rfl
  split <;> simp
@[simp] theorem State.setX_me_runs (s : State) (n : BitVec 6) (w : Word) : (s.setX n w).me.runs = s.me.runs := by
  unfold State.setX; split; · rfl
  split <;> simp
@[simp] theorem State.setX_me_park (s : State) (n : BitVec 6) (w : Word) : (s.setX n w).me.park = s.me.park := by
  unfold State.setX; split; · rfl
  split <;> simp
@[simp] theorem State.setX_me_hpark (s : State) (n : BitVec 6) (w : Word) : (s.setX n w).me.hpark = s.me.hpark := by
  unfold State.setX; split; · rfl
  split <;> simp
@[simp] theorem State.setX_me_engine (s : State) (n : BitVec 6) (w : Word) : (s.setX n w).me.engine = s.me.engine := by
  unfold State.setX; split; · rfl
  split <;> simp
@[simp] theorem State.setX_me_copy (s : State) (n : BitVec 6) (w : Word) : (s.setX n w).me.copy = s.me.copy := by
  unfold State.setX; split; · rfl
  split <;> simp
@[simp] theorem State.setX_me_gang (s : State) (n : BitVec 6) (w : Word) : (s.setX n w).me.gang = s.me.gang := by
  unfold State.setX; split; · rfl
  split <;> simp
@[simp] theorem State.setX_me_search (s : State) (n : BitVec 6) (w : Word) : (s.setX n w).me.search = s.me.search := by
  unfold State.setX; split; · rfl
  split <;> simp
@[simp] theorem State.setX_me_theft (s : State) (n : BitVec 6) (w : Word) : (s.setX n w).me.theft = s.me.theft := by
  unfold State.setX; split; · rfl
  split <;> simp
@[simp] theorem State.setX_me_chan (s : State) (n : BitVec 6) (w : Word) : (s.setX n w).me.chan = s.me.chan := by
  unfold State.setX; split; · rfl
  split <;> simp
@[simp] theorem State.setX_me_task (s : State) (n : BitVec 6) (w : Word) : (s.setX n w).me.task = s.me.task := by
  unfold State.setX; split; · rfl
  split <;> simp
@[simp] theorem State.setX_me_answer (s : State) (n : BitVec 6) (w : Word) : (s.setX n w).me.answer = s.me.answer := by
  unfold State.setX; split; · rfl
  split <;> simp
@[simp] theorem State.setX_me_stopReq (s : State) (n : BitVec 6) (w : Word) : (s.setX n w).me.stopReq = s.me.stopReq := by
  unfold State.setX; split; · rfl
  split <;> simp
@[simp] theorem State.setV_clusters (s : State) (n : BitVec 5) (w : VWord) : (s.setV n w).clusters = s.clusters := by
  unfold State.setV; split <;> rfl
@[simp] theorem State.setV_dies (s : State) (n : BitVec 5) (w : VWord) : (s.setV n w).dies = s.dies := by
  unfold State.setV; split <;> rfl
@[simp] theorem State.setV_dev (s : State) (n : BitVec 5) (w : VWord) : (s.setV n w).dev = s.dev := by
  unfold State.setV; split <;> rfl
@[simp] theorem State.setV_board (s : State) (n : BitVec 5) (w : VWord) : (s.setV n w).board = s.board := by
  unfold State.setV; split <;> rfl
@[simp] theorem State.setV_mem (s : State) (n : BitVec 5) (w : VWord) : (s.setV n w).mem = s.mem := by
  unfold State.setV; split <;> rfl
@[simp] theorem State.setV_full (s : State) (n : BitVec 5) (w : VWord) : (s.setV n w).full = s.full := by
  unfold State.setV; split <;> rfl
@[simp] theorem State.setV_poison (s : State) (n : BitVec 5) (w : VWord) : (s.setV n w).poison = s.poison := by
  unfold State.setV; split <;> rfl
@[simp] theorem State.setV_tags (s : State) (n : BitVec 5) (w : VWord) : (s.setV n w).tags = s.tags := by
  unfold State.setV; split <;> rfl
@[simp] theorem State.setV_holds (s : State) (n : BitVec 5) (w : VWord) : (s.setV n w).holds = s.holds := by
  unfold State.setV; split <;> rfl
@[simp] theorem State.setV_waiters (s : State) (n : BitVec 5) (w : VWord) : (s.setV n w).waiters = s.waiters := by
  unfold State.setV; split <;> rfl
@[simp] theorem State.setV_past (s : State) (n : BitVec 5) (w : VWord) : (s.setV n w).past = s.past := by
  unfold State.setV; split <;> rfl
@[simp] theorem State.setV_net (s : State) (n : BitVec 5) (w : VWord) : (s.setV n w).net = s.net := by
  unfold State.setV; split <;> rfl
@[simp] theorem State.setV_clock (s : State) (n : BitVec 5) (w : VWord) : (s.setV n w).clock = s.clock := by
  unfold State.setV; split <;> rfl
@[simp] theorem State.setV_nanos (s : State) (n : BitVec 5) (w : VWord) : (s.setV n w).nanos = s.nanos := by
  unfold State.setV; split <;> rfl
@[simp] theorem State.setV_free (s : State) (n : BitVec 5) (w : VWord) : (s.setV n w).free = s.free := by
  unfold State.setV; split <;> rfl
@[simp] theorem State.setV_cur (s : State) (n : BitVec 5) (w : VWord) : (s.setV n w).cur = s.cur := by
  unfold State.setV; split <;> rfl
@[simp] theorem State.setV_ctx (s : State) (n : BitVec 5) (w : VWord) : (s.setV n w).ctx = s.ctx := by
  unfold State.setV; split <;> rfl
@[simp] theorem State.setV_turns (s : State) (n : BitVec 5) (w : VWord) : (s.setV n w).turns = s.turns := by
  unfold State.setV; split <;> rfl
@[simp] theorem State.setV_cluster_at (s : State) (n : BitVec 5) (w : VWord) (j : Nat) : (s.setV n w).cluster j = s.cluster j := by
  unfold State.setV; split <;> rfl
@[simp] theorem State.setV_die_at (s : State) (n : BitVec 5) (w : VWord) (j : Nat) : (s.setV n w).die j = s.die j := by
  unfold State.setV; split <;> rfl
theorem State.setV_hart_ne (s : State) (n : BitVec 5) (w : VWord) (j : Nat) (h : j ≠ s.cur) : (s.setV n w).hart j = s.hart j := by
  unfold State.setV; split <;> simp [State.hart_modMe_ne, h]
@[simp] theorem State.setV_me_act (s : State) (n : BitVec 5) (w : VWord) : (s.setV n w).me.act = s.me.act := by
  unfold State.setV; split <;> simp
@[simp] theorem State.setV_me_halted (s : State) (n : BitVec 5) (w : VWord) : (s.setV n w).me.halted = s.me.halted := by
  unfold State.setV; split <;> simp
@[simp] theorem State.setV_me_traps (s : State) (n : BitVec 5) (w : VWord) : (s.setV n w).me.traps = s.me.traps := by
  unfold State.setV; split <;> simp
@[simp] theorem State.setV_me_sys (s : State) (n : BitVec 5) (w : VWord) : (s.setV n w).me.sys = s.me.sys := by
  unfold State.setV; split <;> simp
@[simp] theorem State.setV_me_mat (s : State) (n : BitVec 5) (w : VWord) : (s.setV n w).me.mat = s.me.mat := by
  unfold State.setV; split <;> simp
@[simp] theorem State.setV_me_tree (s : State) (n : BitVec 5) (w : VWord) : (s.setV n w).me.tree = s.me.tree := by
  unfold State.setV; split <;> simp
@[simp] theorem State.setV_me_p (s : State) (n : BitVec 5) (w : VWord) : (s.setV n w).me.p = s.me.p := by
  unfold State.setV; split <;> simp
@[simp] theorem State.setV_me_e (s : State) (n : BitVec 5) (w : VWord) : (s.setV n w).me.e = s.me.e := by
  unfold State.setV; split <;> simp
@[simp] theorem State.setV_me_tiles (s : State) (n : BitVec 5) (w : VWord) : (s.setV n w).me.tiles = s.me.tiles := by
  unfold State.setV; split <;> simp
@[simp] theorem State.setV_me_tables (s : State) (n : BitVec 5) (w : VWord) : (s.setV n w).me.tables = s.me.tables := by
  unfold State.setV; split <;> simp
@[simp] theorem State.setV_me_mc (s : State) (n : BitVec 5) (w : VWord) : (s.setV n w).me.mc = s.me.mc := by
  unfold State.setV; split <;> simp
@[simp] theorem State.setV_me_queues (s : State) (n : BitVec 5) (w : VWord) : (s.setV n w).me.queues = s.me.queues := by
  unfold State.setV; split <;> simp
@[simp] theorem State.setV_me_bells (s : State) (n : BitVec 5) (w : VWord) : (s.setV n w).me.bells = s.me.bells := by
  unfold State.setV; split <;> simp
@[simp] theorem State.setV_me_streams (s : State) (n : BitVec 5) (w : VWord) : (s.setV n w).me.streams = s.me.streams := by
  unfold State.setV; split <;> simp
@[simp] theorem State.setV_me_mem (s : State) (n : BitVec 5) (w : VWord) : (s.setV n w).me.mem = s.me.mem := by
  unfold State.setV; split <;> simp
@[simp] theorem State.setV_me_runs (s : State) (n : BitVec 5) (w : VWord) : (s.setV n w).me.runs = s.me.runs := by
  unfold State.setV; split <;> simp
@[simp] theorem State.setV_me_park (s : State) (n : BitVec 5) (w : VWord) : (s.setV n w).me.park = s.me.park := by
  unfold State.setV; split <;> simp
@[simp] theorem State.setV_me_hpark (s : State) (n : BitVec 5) (w : VWord) : (s.setV n w).me.hpark = s.me.hpark := by
  unfold State.setV; split <;> simp
@[simp] theorem State.setV_me_engine (s : State) (n : BitVec 5) (w : VWord) : (s.setV n w).me.engine = s.me.engine := by
  unfold State.setV; split <;> simp
@[simp] theorem State.setV_me_copy (s : State) (n : BitVec 5) (w : VWord) : (s.setV n w).me.copy = s.me.copy := by
  unfold State.setV; split <;> simp
@[simp] theorem State.setV_me_gang (s : State) (n : BitVec 5) (w : VWord) : (s.setV n w).me.gang = s.me.gang := by
  unfold State.setV; split <;> simp
@[simp] theorem State.setV_me_search (s : State) (n : BitVec 5) (w : VWord) : (s.setV n w).me.search = s.me.search := by
  unfold State.setV; split <;> simp
@[simp] theorem State.setV_me_theft (s : State) (n : BitVec 5) (w : VWord) : (s.setV n w).me.theft = s.me.theft := by
  unfold State.setV; split <;> simp
@[simp] theorem State.setV_me_chan (s : State) (n : BitVec 5) (w : VWord) : (s.setV n w).me.chan = s.me.chan := by
  unfold State.setV; split <;> simp
@[simp] theorem State.setV_me_task (s : State) (n : BitVec 5) (w : VWord) : (s.setV n w).me.task = s.me.task := by
  unfold State.setV; split <;> simp
@[simp] theorem State.setV_me_answer (s : State) (n : BitVec 5) (w : VWord) : (s.setV n w).me.answer = s.me.answer := by
  unfold State.setV; split <;> simp
@[simp] theorem State.setV_me_stopReq (s : State) (n : BitVec 5) (w : VWord) : (s.setV n w).me.stopReq = s.me.stopReq := by
  unfold State.setV; split <;> simp
@[simp] theorem State.setP_clusters (s : State) (n : BitVec 3) (w : Word) : (s.setP n w).clusters = s.clusters := by
  unfold State.setP; split <;> rfl
@[simp] theorem State.setP_dies (s : State) (n : BitVec 3) (w : Word) : (s.setP n w).dies = s.dies := by
  unfold State.setP; split <;> rfl
@[simp] theorem State.setP_dev (s : State) (n : BitVec 3) (w : Word) : (s.setP n w).dev = s.dev := by
  unfold State.setP; split <;> rfl
@[simp] theorem State.setP_board (s : State) (n : BitVec 3) (w : Word) : (s.setP n w).board = s.board := by
  unfold State.setP; split <;> rfl
@[simp] theorem State.setP_mem (s : State) (n : BitVec 3) (w : Word) : (s.setP n w).mem = s.mem := by
  unfold State.setP; split <;> rfl
@[simp] theorem State.setP_full (s : State) (n : BitVec 3) (w : Word) : (s.setP n w).full = s.full := by
  unfold State.setP; split <;> rfl
@[simp] theorem State.setP_poison (s : State) (n : BitVec 3) (w : Word) : (s.setP n w).poison = s.poison := by
  unfold State.setP; split <;> rfl
@[simp] theorem State.setP_tags (s : State) (n : BitVec 3) (w : Word) : (s.setP n w).tags = s.tags := by
  unfold State.setP; split <;> rfl
@[simp] theorem State.setP_holds (s : State) (n : BitVec 3) (w : Word) : (s.setP n w).holds = s.holds := by
  unfold State.setP; split <;> rfl
@[simp] theorem State.setP_waiters (s : State) (n : BitVec 3) (w : Word) : (s.setP n w).waiters = s.waiters := by
  unfold State.setP; split <;> rfl
@[simp] theorem State.setP_past (s : State) (n : BitVec 3) (w : Word) : (s.setP n w).past = s.past := by
  unfold State.setP; split <;> rfl
@[simp] theorem State.setP_net (s : State) (n : BitVec 3) (w : Word) : (s.setP n w).net = s.net := by
  unfold State.setP; split <;> rfl
@[simp] theorem State.setP_clock (s : State) (n : BitVec 3) (w : Word) : (s.setP n w).clock = s.clock := by
  unfold State.setP; split <;> rfl
@[simp] theorem State.setP_nanos (s : State) (n : BitVec 3) (w : Word) : (s.setP n w).nanos = s.nanos := by
  unfold State.setP; split <;> rfl
@[simp] theorem State.setP_free (s : State) (n : BitVec 3) (w : Word) : (s.setP n w).free = s.free := by
  unfold State.setP; split <;> rfl
@[simp] theorem State.setP_cur (s : State) (n : BitVec 3) (w : Word) : (s.setP n w).cur = s.cur := by
  unfold State.setP; split <;> rfl
@[simp] theorem State.setP_ctx (s : State) (n : BitVec 3) (w : Word) : (s.setP n w).ctx = s.ctx := by
  unfold State.setP; split <;> rfl
@[simp] theorem State.setP_turns (s : State) (n : BitVec 3) (w : Word) : (s.setP n w).turns = s.turns := by
  unfold State.setP; split <;> rfl
@[simp] theorem State.setP_cluster_at (s : State) (n : BitVec 3) (w : Word) (j : Nat) : (s.setP n w).cluster j = s.cluster j := by
  unfold State.setP; split <;> rfl
@[simp] theorem State.setP_die_at (s : State) (n : BitVec 3) (w : Word) (j : Nat) : (s.setP n w).die j = s.die j := by
  unfold State.setP; split <;> rfl
theorem State.setP_hart_ne (s : State) (n : BitVec 3) (w : Word) (j : Nat) (h : j ≠ s.cur) : (s.setP n w).hart j = s.hart j := by
  unfold State.setP; split
  · rfl
  · exact State.hart_modMe_ne _ _ _ h
@[simp] theorem State.setP_me_act (s : State) (n : BitVec 3) (w : Word) : (s.setP n w).me.act = s.me.act := by
  unfold State.setP; split
  · rfl
  · simp
@[simp] theorem State.setP_me_halted (s : State) (n : BitVec 3) (w : Word) : (s.setP n w).me.halted = s.me.halted := by
  unfold State.setP; split
  · rfl
  · simp
@[simp] theorem State.setP_me_main (s : State) (n : BitVec 3) (w : Word) : (s.setP n w).me.main = s.me.main := by
  unfold State.setP; split
  · rfl
  · simp
@[simp] theorem State.setP_me_handler (s : State) (n : BitVec 3) (w : Word) : (s.setP n w).me.handler = s.me.handler := by
  unfold State.setP; split
  · rfl
  · simp
@[simp] theorem State.setP_me_traps (s : State) (n : BitVec 3) (w : Word) : (s.setP n w).me.traps = s.me.traps := by
  unfold State.setP; split
  · rfl
  · simp
@[simp] theorem State.setP_me_sys (s : State) (n : BitVec 3) (w : Word) : (s.setP n w).me.sys = s.me.sys := by
  unfold State.setP; split
  · rfl
  · simp
@[simp] theorem State.setP_me_mat (s : State) (n : BitVec 3) (w : Word) : (s.setP n w).me.mat = s.me.mat := by
  unfold State.setP; split
  · rfl
  · simp
@[simp] theorem State.setP_me_tree (s : State) (n : BitVec 3) (w : Word) : (s.setP n w).me.tree = s.me.tree := by
  unfold State.setP; split
  · rfl
  · simp
@[simp] theorem State.setP_me_e (s : State) (n : BitVec 3) (w : Word) : (s.setP n w).me.e = s.me.e := by
  unfold State.setP; split
  · rfl
  · simp
@[simp] theorem State.setP_me_tiles (s : State) (n : BitVec 3) (w : Word) : (s.setP n w).me.tiles = s.me.tiles := by
  unfold State.setP; split
  · rfl
  · simp
@[simp] theorem State.setP_me_tables (s : State) (n : BitVec 3) (w : Word) : (s.setP n w).me.tables = s.me.tables := by
  unfold State.setP; split
  · rfl
  · simp
@[simp] theorem State.setP_me_mc (s : State) (n : BitVec 3) (w : Word) : (s.setP n w).me.mc = s.me.mc := by
  unfold State.setP; split
  · rfl
  · simp
@[simp] theorem State.setP_me_queues (s : State) (n : BitVec 3) (w : Word) : (s.setP n w).me.queues = s.me.queues := by
  unfold State.setP; split
  · rfl
  · simp
@[simp] theorem State.setP_me_bells (s : State) (n : BitVec 3) (w : Word) : (s.setP n w).me.bells = s.me.bells := by
  unfold State.setP; split
  · rfl
  · simp
@[simp] theorem State.setP_me_streams (s : State) (n : BitVec 3) (w : Word) : (s.setP n w).me.streams = s.me.streams := by
  unfold State.setP; split
  · rfl
  · simp
@[simp] theorem State.setP_me_mem (s : State) (n : BitVec 3) (w : Word) : (s.setP n w).me.mem = s.me.mem := by
  unfold State.setP; split
  · rfl
  · simp
@[simp] theorem State.setP_me_runs (s : State) (n : BitVec 3) (w : Word) : (s.setP n w).me.runs = s.me.runs := by
  unfold State.setP; split
  · rfl
  · simp
@[simp] theorem State.setP_me_park (s : State) (n : BitVec 3) (w : Word) : (s.setP n w).me.park = s.me.park := by
  unfold State.setP; split
  · rfl
  · simp
@[simp] theorem State.setP_me_hpark (s : State) (n : BitVec 3) (w : Word) : (s.setP n w).me.hpark = s.me.hpark := by
  unfold State.setP; split
  · rfl
  · simp
@[simp] theorem State.setP_me_engine (s : State) (n : BitVec 3) (w : Word) : (s.setP n w).me.engine = s.me.engine := by
  unfold State.setP; split
  · rfl
  · simp
@[simp] theorem State.setP_me_copy (s : State) (n : BitVec 3) (w : Word) : (s.setP n w).me.copy = s.me.copy := by
  unfold State.setP; split
  · rfl
  · simp
@[simp] theorem State.setP_me_gang (s : State) (n : BitVec 3) (w : Word) : (s.setP n w).me.gang = s.me.gang := by
  unfold State.setP; split
  · rfl
  · simp
@[simp] theorem State.setP_me_search (s : State) (n : BitVec 3) (w : Word) : (s.setP n w).me.search = s.me.search := by
  unfold State.setP; split
  · rfl
  · simp
@[simp] theorem State.setP_me_theft (s : State) (n : BitVec 3) (w : Word) : (s.setP n w).me.theft = s.me.theft := by
  unfold State.setP; split
  · rfl
  · simp
@[simp] theorem State.setP_me_chan (s : State) (n : BitVec 3) (w : Word) : (s.setP n w).me.chan = s.me.chan := by
  unfold State.setP; split
  · rfl
  · simp
@[simp] theorem State.setP_me_task (s : State) (n : BitVec 3) (w : Word) : (s.setP n w).me.task = s.me.task := by
  unfold State.setP; split
  · rfl
  · simp
@[simp] theorem State.setP_me_answer (s : State) (n : BitVec 3) (w : Word) : (s.setP n w).me.answer = s.me.answer := by
  unfold State.setP; split
  · rfl
  · simp
@[simp] theorem State.setP_me_stopReq (s : State) (n : BitVec 3) (w : Word) : (s.setP n w).me.stopReq = s.me.stopReq := by
  unfold State.setP; split
  · rfl
  · simp
@[simp] theorem State.setPc_clusters (s : State) (pc : Word) : (s.setPc pc).clusters = s.clusters := by
  unfold State.setPc; split <;> rfl
@[simp] theorem State.setPc_dies (s : State) (pc : Word) : (s.setPc pc).dies = s.dies := by
  unfold State.setPc; split <;> rfl
@[simp] theorem State.setPc_dev (s : State) (pc : Word) : (s.setPc pc).dev = s.dev := by
  unfold State.setPc; split <;> rfl
@[simp] theorem State.setPc_board (s : State) (pc : Word) : (s.setPc pc).board = s.board := by
  unfold State.setPc; split <;> rfl
@[simp] theorem State.setPc_mem (s : State) (pc : Word) : (s.setPc pc).mem = s.mem := by
  unfold State.setPc; split <;> rfl
@[simp] theorem State.setPc_full (s : State) (pc : Word) : (s.setPc pc).full = s.full := by
  unfold State.setPc; split <;> rfl
@[simp] theorem State.setPc_poison (s : State) (pc : Word) : (s.setPc pc).poison = s.poison := by
  unfold State.setPc; split <;> rfl
@[simp] theorem State.setPc_tags (s : State) (pc : Word) : (s.setPc pc).tags = s.tags := by
  unfold State.setPc; split <;> rfl
@[simp] theorem State.setPc_holds (s : State) (pc : Word) : (s.setPc pc).holds = s.holds := by
  unfold State.setPc; split <;> rfl
@[simp] theorem State.setPc_waiters (s : State) (pc : Word) : (s.setPc pc).waiters = s.waiters := by
  unfold State.setPc; split <;> rfl
@[simp] theorem State.setPc_past (s : State) (pc : Word) : (s.setPc pc).past = s.past := by
  unfold State.setPc; split <;> rfl
@[simp] theorem State.setPc_net (s : State) (pc : Word) : (s.setPc pc).net = s.net := by
  unfold State.setPc; split <;> rfl
@[simp] theorem State.setPc_clock (s : State) (pc : Word) : (s.setPc pc).clock = s.clock := by
  unfold State.setPc; split <;> rfl
@[simp] theorem State.setPc_nanos (s : State) (pc : Word) : (s.setPc pc).nanos = s.nanos := by
  unfold State.setPc; split <;> rfl
@[simp] theorem State.setPc_free (s : State) (pc : Word) : (s.setPc pc).free = s.free := by
  unfold State.setPc; split <;> rfl
@[simp] theorem State.setPc_cur (s : State) (pc : Word) : (s.setPc pc).cur = s.cur := by
  unfold State.setPc; split <;> rfl
@[simp] theorem State.setPc_ctx (s : State) (pc : Word) : (s.setPc pc).ctx = s.ctx := by
  unfold State.setPc; split <;> rfl
@[simp] theorem State.setPc_turns (s : State) (pc : Word) : (s.setPc pc).turns = s.turns := by
  unfold State.setPc; split <;> rfl
@[simp] theorem State.setPc_cluster_at (s : State) (pc : Word) (j : Nat) : (s.setPc pc).cluster j = s.cluster j := by
  unfold State.setPc; split <;> rfl
@[simp] theorem State.setPc_die_at (s : State) (pc : Word) (j : Nat) : (s.setPc pc).die j = s.die j := by
  unfold State.setPc; split <;> rfl
theorem State.setPc_hart_ne (s : State) (pc : Word) (j : Nat) (h : j ≠ s.cur) : (s.setPc pc).hart j = s.hart j := by
  unfold State.setPc; split <;> simp [State.hart_modMe_ne, h]
@[simp] theorem State.setPc_me_act (s : State) (pc : Word) : (s.setPc pc).me.act = s.me.act := by
  unfold State.setPc; split <;> simp
@[simp] theorem State.setPc_me_halted (s : State) (pc : Word) : (s.setPc pc).me.halted = s.me.halted := by
  unfold State.setPc; split <;> simp
@[simp] theorem State.setPc_me_traps (s : State) (pc : Word) : (s.setPc pc).me.traps = s.me.traps := by
  unfold State.setPc; split <;> simp
@[simp] theorem State.setPc_me_sys (s : State) (pc : Word) : (s.setPc pc).me.sys = s.me.sys := by
  unfold State.setPc; split <;> simp
@[simp] theorem State.setPc_me_mat (s : State) (pc : Word) : (s.setPc pc).me.mat = s.me.mat := by
  unfold State.setPc; split <;> simp
@[simp] theorem State.setPc_me_tree (s : State) (pc : Word) : (s.setPc pc).me.tree = s.me.tree := by
  unfold State.setPc; split <;> simp
@[simp] theorem State.setPc_me_p (s : State) (pc : Word) : (s.setPc pc).me.p = s.me.p := by
  unfold State.setPc; split <;> simp
@[simp] theorem State.setPc_me_e (s : State) (pc : Word) : (s.setPc pc).me.e = s.me.e := by
  unfold State.setPc; split <;> simp
@[simp] theorem State.setPc_me_tiles (s : State) (pc : Word) : (s.setPc pc).me.tiles = s.me.tiles := by
  unfold State.setPc; split <;> simp
@[simp] theorem State.setPc_me_tables (s : State) (pc : Word) : (s.setPc pc).me.tables = s.me.tables := by
  unfold State.setPc; split <;> simp
@[simp] theorem State.setPc_me_mc (s : State) (pc : Word) : (s.setPc pc).me.mc = s.me.mc := by
  unfold State.setPc; split <;> simp
@[simp] theorem State.setPc_me_queues (s : State) (pc : Word) : (s.setPc pc).me.queues = s.me.queues := by
  unfold State.setPc; split <;> simp
@[simp] theorem State.setPc_me_bells (s : State) (pc : Word) : (s.setPc pc).me.bells = s.me.bells := by
  unfold State.setPc; split <;> simp
@[simp] theorem State.setPc_me_streams (s : State) (pc : Word) : (s.setPc pc).me.streams = s.me.streams := by
  unfold State.setPc; split <;> simp
@[simp] theorem State.setPc_me_mem (s : State) (pc : Word) : (s.setPc pc).me.mem = s.me.mem := by
  unfold State.setPc; split <;> simp
@[simp] theorem State.setPc_me_runs (s : State) (pc : Word) : (s.setPc pc).me.runs = s.me.runs := by
  unfold State.setPc; split <;> simp
@[simp] theorem State.setPc_me_engine (s : State) (pc : Word) : (s.setPc pc).me.engine = s.me.engine := by
  unfold State.setPc; split <;> simp
@[simp] theorem State.setPc_me_copy (s : State) (pc : Word) : (s.setPc pc).me.copy = s.me.copy := by
  unfold State.setPc; split <;> simp
@[simp] theorem State.setPc_me_gang (s : State) (pc : Word) : (s.setPc pc).me.gang = s.me.gang := by
  unfold State.setPc; split <;> simp
@[simp] theorem State.setPc_me_search (s : State) (pc : Word) : (s.setPc pc).me.search = s.me.search := by
  unfold State.setPc; split <;> simp
@[simp] theorem State.setPc_me_theft (s : State) (pc : Word) : (s.setPc pc).me.theft = s.me.theft := by
  unfold State.setPc; split <;> simp
@[simp] theorem State.setPc_me_chan (s : State) (pc : Word) : (s.setPc pc).me.chan = s.me.chan := by
  unfold State.setPc; split <;> simp
@[simp] theorem State.setPc_me_task (s : State) (pc : Word) : (s.setPc pc).me.task = s.me.task := by
  unfold State.setPc; split <;> simp
@[simp] theorem State.setPc_me_answer (s : State) (pc : Word) : (s.setPc pc).me.answer = s.me.answer := by
  unfold State.setPc; split <;> simp
@[simp] theorem State.setPc_me_stopReq (s : State) (pc : Word) : (s.setPc pc).me.stopReq = s.me.stopReq := by
  unfold State.setPc; split <;> simp
@[simp] theorem State.countHead_clusters (s : State)  : (s.countHead).clusters = s.clusters := by
  unfold State.countHead; rfl
@[simp] theorem State.countHead_dies (s : State)  : (s.countHead).dies = s.dies := by
  unfold State.countHead; rfl
@[simp] theorem State.countHead_dev (s : State)  : (s.countHead).dev = s.dev := by
  unfold State.countHead; rfl
@[simp] theorem State.countHead_board (s : State)  : (s.countHead).board = s.board := by
  unfold State.countHead; rfl
@[simp] theorem State.countHead_mem (s : State)  : (s.countHead).mem = s.mem := by
  unfold State.countHead; rfl
@[simp] theorem State.countHead_full (s : State)  : (s.countHead).full = s.full := by
  unfold State.countHead; rfl
@[simp] theorem State.countHead_poison (s : State)  : (s.countHead).poison = s.poison := by
  unfold State.countHead; rfl
@[simp] theorem State.countHead_tags (s : State)  : (s.countHead).tags = s.tags := by
  unfold State.countHead; rfl
@[simp] theorem State.countHead_holds (s : State)  : (s.countHead).holds = s.holds := by
  unfold State.countHead; rfl
@[simp] theorem State.countHead_waiters (s : State)  : (s.countHead).waiters = s.waiters := by
  unfold State.countHead; rfl
@[simp] theorem State.countHead_past (s : State)  : (s.countHead).past = s.past := by
  unfold State.countHead; rfl
@[simp] theorem State.countHead_net (s : State)  : (s.countHead).net = s.net := by
  unfold State.countHead; rfl
@[simp] theorem State.countHead_clock (s : State)  : (s.countHead).clock = s.clock := by
  unfold State.countHead; rfl
@[simp] theorem State.countHead_nanos (s : State)  : (s.countHead).nanos = s.nanos := by
  unfold State.countHead; rfl
@[simp] theorem State.countHead_free (s : State)  : (s.countHead).free = s.free := by
  unfold State.countHead; rfl
@[simp] theorem State.countHead_cur (s : State)  : (s.countHead).cur = s.cur := by
  unfold State.countHead; rfl
@[simp] theorem State.countHead_ctx (s : State)  : (s.countHead).ctx = s.ctx := by
  unfold State.countHead; rfl
@[simp] theorem State.countHead_turns (s : State)  : (s.countHead).turns = s.turns := by
  unfold State.countHead; rfl
@[simp] theorem State.countHead_cluster_at (s : State)  (j : Nat) : (s.countHead).cluster j = s.cluster j := by
  unfold State.countHead; rfl
@[simp] theorem State.countHead_die_at (s : State)  (j : Nat) : (s.countHead).die j = s.die j := by
  unfold State.countHead; rfl
theorem State.countHead_hart_ne (s : State)  (j : Nat) (h : j ≠ s.cur) : (s.countHead).hart j = s.hart j := by
  unfold State.countHead; exact State.hart_modMe_ne _ _ _ h
@[simp] theorem State.countHead_me_act (s : State)  : (s.countHead).me.act = s.me.act := by
  unfold State.countHead; simp
@[simp] theorem State.countHead_me_halted (s : State)  : (s.countHead).me.halted = s.me.halted := by
  unfold State.countHead; simp
@[simp] theorem State.countHead_me_main (s : State)  : (s.countHead).me.main = s.me.main := by
  unfold State.countHead; simp
@[simp] theorem State.countHead_me_handler (s : State)  : (s.countHead).me.handler = s.me.handler := by
  unfold State.countHead; simp
@[simp] theorem State.countHead_me_traps (s : State)  : (s.countHead).me.traps = s.me.traps := by
  unfold State.countHead; simp
@[simp] theorem State.countHead_me_mat (s : State)  : (s.countHead).me.mat = s.me.mat := by
  unfold State.countHead; simp
@[simp] theorem State.countHead_me_tree (s : State)  : (s.countHead).me.tree = s.me.tree := by
  unfold State.countHead; simp
@[simp] theorem State.countHead_me_p (s : State)  : (s.countHead).me.p = s.me.p := by
  unfold State.countHead; simp
@[simp] theorem State.countHead_me_e (s : State)  : (s.countHead).me.e = s.me.e := by
  unfold State.countHead; simp
@[simp] theorem State.countHead_me_tiles (s : State)  : (s.countHead).me.tiles = s.me.tiles := by
  unfold State.countHead; simp
@[simp] theorem State.countHead_me_tables (s : State)  : (s.countHead).me.tables = s.me.tables := by
  unfold State.countHead; simp
@[simp] theorem State.countHead_me_mc (s : State)  : (s.countHead).me.mc = s.me.mc := by
  unfold State.countHead; simp
@[simp] theorem State.countHead_me_queues (s : State)  : (s.countHead).me.queues = s.me.queues := by
  unfold State.countHead; simp
@[simp] theorem State.countHead_me_bells (s : State)  : (s.countHead).me.bells = s.me.bells := by
  unfold State.countHead; simp
@[simp] theorem State.countHead_me_streams (s : State)  : (s.countHead).me.streams = s.me.streams := by
  unfold State.countHead; simp
@[simp] theorem State.countHead_me_mem (s : State)  : (s.countHead).me.mem = s.me.mem := by
  unfold State.countHead; simp
@[simp] theorem State.countHead_me_runs (s : State)  : (s.countHead).me.runs = s.me.runs := by
  unfold State.countHead; simp
@[simp] theorem State.countHead_me_park (s : State)  : (s.countHead).me.park = s.me.park := by
  unfold State.countHead; simp
@[simp] theorem State.countHead_me_hpark (s : State)  : (s.countHead).me.hpark = s.me.hpark := by
  unfold State.countHead; simp
@[simp] theorem State.countHead_me_engine (s : State)  : (s.countHead).me.engine = s.me.engine := by
  unfold State.countHead; simp
@[simp] theorem State.countHead_me_copy (s : State)  : (s.countHead).me.copy = s.me.copy := by
  unfold State.countHead; simp
@[simp] theorem State.countHead_me_gang (s : State)  : (s.countHead).me.gang = s.me.gang := by
  unfold State.countHead; simp
@[simp] theorem State.countHead_me_search (s : State)  : (s.countHead).me.search = s.me.search := by
  unfold State.countHead; simp
@[simp] theorem State.countHead_me_theft (s : State)  : (s.countHead).me.theft = s.me.theft := by
  unfold State.countHead; simp
@[simp] theorem State.countHead_me_chan (s : State)  : (s.countHead).me.chan = s.me.chan := by
  unfold State.countHead; simp
@[simp] theorem State.countHead_me_task (s : State)  : (s.countHead).me.task = s.me.task := by
  unfold State.countHead; simp
@[simp] theorem State.countHead_me_answer (s : State)  : (s.countHead).me.answer = s.me.answer := by
  unfold State.countHead; simp
@[simp] theorem State.countHead_me_stopReq (s : State)  : (s.countHead).me.stopReq = s.me.stopReq := by
  unfold State.countHead; simp
@[simp] theorem State.goto_clusters (s : State) (pc : Word) : (s.goto pc).clusters = s.clusters := by
  simp [State.goto]
@[simp] theorem State.goto_dies (s : State) (pc : Word) : (s.goto pc).dies = s.dies := by
  simp [State.goto]
@[simp] theorem State.goto_dev (s : State) (pc : Word) : (s.goto pc).dev = s.dev := by
  simp [State.goto]
@[simp] theorem State.goto_board (s : State) (pc : Word) : (s.goto pc).board = s.board := by
  simp [State.goto]
@[simp] theorem State.goto_mem (s : State) (pc : Word) : (s.goto pc).mem = s.mem := by
  simp [State.goto]
@[simp] theorem State.goto_full (s : State) (pc : Word) : (s.goto pc).full = s.full := by
  simp [State.goto]
@[simp] theorem State.goto_poison (s : State) (pc : Word) : (s.goto pc).poison = s.poison := by
  simp [State.goto]
@[simp] theorem State.goto_tags (s : State) (pc : Word) : (s.goto pc).tags = s.tags := by
  simp [State.goto]
@[simp] theorem State.goto_holds (s : State) (pc : Word) : (s.goto pc).holds = s.holds := by
  simp [State.goto]
@[simp] theorem State.goto_waiters (s : State) (pc : Word) : (s.goto pc).waiters = s.waiters := by
  simp [State.goto]
@[simp] theorem State.goto_past (s : State) (pc : Word) : (s.goto pc).past = s.past := by
  simp [State.goto]
@[simp] theorem State.goto_net (s : State) (pc : Word) : (s.goto pc).net = s.net := by
  simp [State.goto]
@[simp] theorem State.goto_clock (s : State) (pc : Word) : (s.goto pc).clock = s.clock := by
  simp [State.goto]
@[simp] theorem State.goto_nanos (s : State) (pc : Word) : (s.goto pc).nanos = s.nanos := by
  simp [State.goto]
@[simp] theorem State.goto_free (s : State) (pc : Word) : (s.goto pc).free = s.free := by
  simp [State.goto]
@[simp] theorem State.goto_cur (s : State) (pc : Word) : (s.goto pc).cur = s.cur := by
  simp [State.goto]
@[simp] theorem State.goto_ctx (s : State) (pc : Word) : (s.goto pc).ctx = s.ctx := by
  simp [State.goto]
@[simp] theorem State.goto_turns (s : State) (pc : Word) : (s.goto pc).turns = s.turns := by
  simp [State.goto]
@[simp] theorem State.goto_cluster_at (s : State) (pc : Word) (j : Nat) : (s.goto pc).cluster j = s.cluster j := by
  simp [State.goto]
@[simp] theorem State.goto_die_at (s : State) (pc : Word) (j : Nat) : (s.goto pc).die j = s.die j := by
  simp [State.goto]
theorem State.goto_hart_ne (s : State) (pc : Word) (j : Nat) (h : j ≠ s.cur) : (s.goto pc).hart j = s.hart j := by
  show (s.countHead.setPc pc).hart j = _
  rw [State.setPc_hart_ne _ _ _ (by simpa using h), State.countHead_hart_ne _ _ h]
@[simp] theorem State.goto_me_act (s : State) (pc : Word) : (s.goto pc).me.act = s.me.act := by
  simp [State.goto]
@[simp] theorem State.goto_me_halted (s : State) (pc : Word) : (s.goto pc).me.halted = s.me.halted := by
  simp [State.goto]
@[simp] theorem State.goto_me_traps (s : State) (pc : Word) : (s.goto pc).me.traps = s.me.traps := by
  simp [State.goto]
@[simp] theorem State.goto_me_mat (s : State) (pc : Word) : (s.goto pc).me.mat = s.me.mat := by
  simp [State.goto]
@[simp] theorem State.goto_me_tree (s : State) (pc : Word) : (s.goto pc).me.tree = s.me.tree := by
  simp [State.goto]
@[simp] theorem State.goto_me_p (s : State) (pc : Word) : (s.goto pc).me.p = s.me.p := by
  simp [State.goto]
@[simp] theorem State.goto_me_e (s : State) (pc : Word) : (s.goto pc).me.e = s.me.e := by
  simp [State.goto]
@[simp] theorem State.goto_me_tiles (s : State) (pc : Word) : (s.goto pc).me.tiles = s.me.tiles := by
  simp [State.goto]
@[simp] theorem State.goto_me_tables (s : State) (pc : Word) : (s.goto pc).me.tables = s.me.tables := by
  simp [State.goto]
@[simp] theorem State.goto_me_mc (s : State) (pc : Word) : (s.goto pc).me.mc = s.me.mc := by
  simp [State.goto]
@[simp] theorem State.goto_me_queues (s : State) (pc : Word) : (s.goto pc).me.queues = s.me.queues := by
  simp [State.goto]
@[simp] theorem State.goto_me_bells (s : State) (pc : Word) : (s.goto pc).me.bells = s.me.bells := by
  simp [State.goto]
@[simp] theorem State.goto_me_streams (s : State) (pc : Word) : (s.goto pc).me.streams = s.me.streams := by
  simp [State.goto]
@[simp] theorem State.goto_me_mem (s : State) (pc : Word) : (s.goto pc).me.mem = s.me.mem := by
  simp [State.goto]
@[simp] theorem State.goto_me_runs (s : State) (pc : Word) : (s.goto pc).me.runs = s.me.runs := by
  simp [State.goto]
@[simp] theorem State.goto_me_engine (s : State) (pc : Word) : (s.goto pc).me.engine = s.me.engine := by
  simp [State.goto]
@[simp] theorem State.goto_me_copy (s : State) (pc : Word) : (s.goto pc).me.copy = s.me.copy := by
  simp [State.goto]
@[simp] theorem State.goto_me_gang (s : State) (pc : Word) : (s.goto pc).me.gang = s.me.gang := by
  simp [State.goto]
@[simp] theorem State.goto_me_search (s : State) (pc : Word) : (s.goto pc).me.search = s.me.search := by
  simp [State.goto]
@[simp] theorem State.goto_me_theft (s : State) (pc : Word) : (s.goto pc).me.theft = s.me.theft := by
  simp [State.goto]
@[simp] theorem State.goto_me_chan (s : State) (pc : Word) : (s.goto pc).me.chan = s.me.chan := by
  simp [State.goto]
@[simp] theorem State.goto_me_task (s : State) (pc : Word) : (s.goto pc).me.task = s.me.task := by
  simp [State.goto]
@[simp] theorem State.goto_me_answer (s : State) (pc : Word) : (s.goto pc).me.answer = s.me.answer := by
  simp [State.goto]
@[simp] theorem State.goto_me_stopReq (s : State) (pc : Word) : (s.goto pc).me.stopReq = s.me.stopReq := by
  simp [State.goto]
@[simp] theorem State.raiseFlags_clusters (s : State) (f : BitVec 5) : (s.raiseFlags f).clusters = s.clusters := by
  unfold State.raiseFlags; rfl
@[simp] theorem State.raiseFlags_dies (s : State) (f : BitVec 5) : (s.raiseFlags f).dies = s.dies := by
  unfold State.raiseFlags; rfl
@[simp] theorem State.raiseFlags_dev (s : State) (f : BitVec 5) : (s.raiseFlags f).dev = s.dev := by
  unfold State.raiseFlags; rfl
@[simp] theorem State.raiseFlags_board (s : State) (f : BitVec 5) : (s.raiseFlags f).board = s.board := by
  unfold State.raiseFlags; rfl
@[simp] theorem State.raiseFlags_mem (s : State) (f : BitVec 5) : (s.raiseFlags f).mem = s.mem := by
  unfold State.raiseFlags; rfl
@[simp] theorem State.raiseFlags_full (s : State) (f : BitVec 5) : (s.raiseFlags f).full = s.full := by
  unfold State.raiseFlags; rfl
@[simp] theorem State.raiseFlags_poison (s : State) (f : BitVec 5) : (s.raiseFlags f).poison = s.poison := by
  unfold State.raiseFlags; rfl
@[simp] theorem State.raiseFlags_tags (s : State) (f : BitVec 5) : (s.raiseFlags f).tags = s.tags := by
  unfold State.raiseFlags; rfl
@[simp] theorem State.raiseFlags_holds (s : State) (f : BitVec 5) : (s.raiseFlags f).holds = s.holds := by
  unfold State.raiseFlags; rfl
@[simp] theorem State.raiseFlags_waiters (s : State) (f : BitVec 5) : (s.raiseFlags f).waiters = s.waiters := by
  unfold State.raiseFlags; rfl
@[simp] theorem State.raiseFlags_past (s : State) (f : BitVec 5) : (s.raiseFlags f).past = s.past := by
  unfold State.raiseFlags; rfl
@[simp] theorem State.raiseFlags_net (s : State) (f : BitVec 5) : (s.raiseFlags f).net = s.net := by
  unfold State.raiseFlags; rfl
@[simp] theorem State.raiseFlags_clock (s : State) (f : BitVec 5) : (s.raiseFlags f).clock = s.clock := by
  unfold State.raiseFlags; rfl
@[simp] theorem State.raiseFlags_nanos (s : State) (f : BitVec 5) : (s.raiseFlags f).nanos = s.nanos := by
  unfold State.raiseFlags; rfl
@[simp] theorem State.raiseFlags_free (s : State) (f : BitVec 5) : (s.raiseFlags f).free = s.free := by
  unfold State.raiseFlags; rfl
@[simp] theorem State.raiseFlags_cur (s : State) (f : BitVec 5) : (s.raiseFlags f).cur = s.cur := by
  unfold State.raiseFlags; rfl
@[simp] theorem State.raiseFlags_ctx (s : State) (f : BitVec 5) : (s.raiseFlags f).ctx = s.ctx := by
  unfold State.raiseFlags; rfl
@[simp] theorem State.raiseFlags_turns (s : State) (f : BitVec 5) : (s.raiseFlags f).turns = s.turns := by
  unfold State.raiseFlags; rfl
@[simp] theorem State.raiseFlags_cluster_at (s : State) (f : BitVec 5) (j : Nat) : (s.raiseFlags f).cluster j = s.cluster j := by
  unfold State.raiseFlags; rfl
@[simp] theorem State.raiseFlags_die_at (s : State) (f : BitVec 5) (j : Nat) : (s.raiseFlags f).die j = s.die j := by
  unfold State.raiseFlags; rfl
theorem State.raiseFlags_hart_ne (s : State) (f : BitVec 5) (j : Nat) (h : j ≠ s.cur) : (s.raiseFlags f).hart j = s.hart j := by
  unfold State.raiseFlags; exact State.hart_modMe_ne _ _ _ h
@[simp] theorem State.raiseFlags_me_act (s : State) (f : BitVec 5) : (s.raiseFlags f).me.act = s.me.act := by
  unfold State.raiseFlags; simp
@[simp] theorem State.raiseFlags_me_halted (s : State) (f : BitVec 5) : (s.raiseFlags f).me.halted = s.me.halted := by
  unfold State.raiseFlags; simp
@[simp] theorem State.raiseFlags_me_main (s : State) (f : BitVec 5) : (s.raiseFlags f).me.main = s.me.main := by
  unfold State.raiseFlags; simp
@[simp] theorem State.raiseFlags_me_handler (s : State) (f : BitVec 5) : (s.raiseFlags f).me.handler = s.me.handler := by
  unfold State.raiseFlags; simp
@[simp] theorem State.raiseFlags_me_traps (s : State) (f : BitVec 5) : (s.raiseFlags f).me.traps = s.me.traps := by
  unfold State.raiseFlags; simp
@[simp] theorem State.raiseFlags_me_mat (s : State) (f : BitVec 5) : (s.raiseFlags f).me.mat = s.me.mat := by
  unfold State.raiseFlags; simp
@[simp] theorem State.raiseFlags_me_tree (s : State) (f : BitVec 5) : (s.raiseFlags f).me.tree = s.me.tree := by
  unfold State.raiseFlags; simp
@[simp] theorem State.raiseFlags_me_p (s : State) (f : BitVec 5) : (s.raiseFlags f).me.p = s.me.p := by
  unfold State.raiseFlags; simp
@[simp] theorem State.raiseFlags_me_e (s : State) (f : BitVec 5) : (s.raiseFlags f).me.e = s.me.e := by
  unfold State.raiseFlags; simp
@[simp] theorem State.raiseFlags_me_tiles (s : State) (f : BitVec 5) : (s.raiseFlags f).me.tiles = s.me.tiles := by
  unfold State.raiseFlags; simp
@[simp] theorem State.raiseFlags_me_tables (s : State) (f : BitVec 5) : (s.raiseFlags f).me.tables = s.me.tables := by
  unfold State.raiseFlags; simp
@[simp] theorem State.raiseFlags_me_mc (s : State) (f : BitVec 5) : (s.raiseFlags f).me.mc = s.me.mc := by
  unfold State.raiseFlags; simp
@[simp] theorem State.raiseFlags_me_queues (s : State) (f : BitVec 5) : (s.raiseFlags f).me.queues = s.me.queues := by
  unfold State.raiseFlags; simp
@[simp] theorem State.raiseFlags_me_bells (s : State) (f : BitVec 5) : (s.raiseFlags f).me.bells = s.me.bells := by
  unfold State.raiseFlags; simp
@[simp] theorem State.raiseFlags_me_streams (s : State) (f : BitVec 5) : (s.raiseFlags f).me.streams = s.me.streams := by
  unfold State.raiseFlags; simp
@[simp] theorem State.raiseFlags_me_mem (s : State) (f : BitVec 5) : (s.raiseFlags f).me.mem = s.me.mem := by
  unfold State.raiseFlags; simp
@[simp] theorem State.raiseFlags_me_runs (s : State) (f : BitVec 5) : (s.raiseFlags f).me.runs = s.me.runs := by
  unfold State.raiseFlags; simp
@[simp] theorem State.raiseFlags_me_park (s : State) (f : BitVec 5) : (s.raiseFlags f).me.park = s.me.park := by
  unfold State.raiseFlags; simp
@[simp] theorem State.raiseFlags_me_hpark (s : State) (f : BitVec 5) : (s.raiseFlags f).me.hpark = s.me.hpark := by
  unfold State.raiseFlags; simp
@[simp] theorem State.raiseFlags_me_engine (s : State) (f : BitVec 5) : (s.raiseFlags f).me.engine = s.me.engine := by
  unfold State.raiseFlags; simp
@[simp] theorem State.raiseFlags_me_copy (s : State) (f : BitVec 5) : (s.raiseFlags f).me.copy = s.me.copy := by
  unfold State.raiseFlags; simp
@[simp] theorem State.raiseFlags_me_gang (s : State) (f : BitVec 5) : (s.raiseFlags f).me.gang = s.me.gang := by
  unfold State.raiseFlags; simp
@[simp] theorem State.raiseFlags_me_search (s : State) (f : BitVec 5) : (s.raiseFlags f).me.search = s.me.search := by
  unfold State.raiseFlags; simp
@[simp] theorem State.raiseFlags_me_theft (s : State) (f : BitVec 5) : (s.raiseFlags f).me.theft = s.me.theft := by
  unfold State.raiseFlags; simp
@[simp] theorem State.raiseFlags_me_chan (s : State) (f : BitVec 5) : (s.raiseFlags f).me.chan = s.me.chan := by
  unfold State.raiseFlags; simp
@[simp] theorem State.raiseFlags_me_task (s : State) (f : BitVec 5) : (s.raiseFlags f).me.task = s.me.task := by
  unfold State.raiseFlags; simp
@[simp] theorem State.raiseFlags_me_answer (s : State) (f : BitVec 5) : (s.raiseFlags f).me.answer = s.me.answer := by
  unfold State.raiseFlags; simp
@[simp] theorem State.raiseFlags_me_stopReq (s : State) (f : BitVec 5) : (s.raiseFlags f).me.stopReq = s.me.stopReq := by
  unfold State.raiseFlags; simp
@[simp] theorem State.pushStore_clusters (s : State) (op : StoreOp) (q : BitVec 8) (y : Bool) : (s.pushStore op q y).clusters = s.clusters := by
  unfold State.pushStore; rfl
@[simp] theorem State.pushStore_dies (s : State) (op : StoreOp) (q : BitVec 8) (y : Bool) : (s.pushStore op q y).dies = s.dies := by
  unfold State.pushStore; rfl
@[simp] theorem State.pushStore_dev (s : State) (op : StoreOp) (q : BitVec 8) (y : Bool) : (s.pushStore op q y).dev = s.dev := by
  unfold State.pushStore; rfl
@[simp] theorem State.pushStore_board (s : State) (op : StoreOp) (q : BitVec 8) (y : Bool) : (s.pushStore op q y).board = s.board := by
  unfold State.pushStore; rfl
@[simp] theorem State.pushStore_mem (s : State) (op : StoreOp) (q : BitVec 8) (y : Bool) : (s.pushStore op q y).mem = s.mem := by
  unfold State.pushStore; rfl
@[simp] theorem State.pushStore_full (s : State) (op : StoreOp) (q : BitVec 8) (y : Bool) : (s.pushStore op q y).full = s.full := by
  unfold State.pushStore; rfl
@[simp] theorem State.pushStore_poison (s : State) (op : StoreOp) (q : BitVec 8) (y : Bool) : (s.pushStore op q y).poison = s.poison := by
  unfold State.pushStore; rfl
@[simp] theorem State.pushStore_tags (s : State) (op : StoreOp) (q : BitVec 8) (y : Bool) : (s.pushStore op q y).tags = s.tags := by
  unfold State.pushStore; rfl
@[simp] theorem State.pushStore_holds (s : State) (op : StoreOp) (q : BitVec 8) (y : Bool) : (s.pushStore op q y).holds = s.holds := by
  unfold State.pushStore; rfl
@[simp] theorem State.pushStore_waiters (s : State) (op : StoreOp) (q : BitVec 8) (y : Bool) : (s.pushStore op q y).waiters = s.waiters := by
  unfold State.pushStore; rfl
@[simp] theorem State.pushStore_past (s : State) (op : StoreOp) (q : BitVec 8) (y : Bool) : (s.pushStore op q y).past = s.past := by
  unfold State.pushStore; rfl
@[simp] theorem State.pushStore_net (s : State) (op : StoreOp) (q : BitVec 8) (y : Bool) : (s.pushStore op q y).net = s.net := by
  unfold State.pushStore; rfl
@[simp] theorem State.pushStore_clock (s : State) (op : StoreOp) (q : BitVec 8) (y : Bool) : (s.pushStore op q y).clock = s.clock := by
  unfold State.pushStore; rfl
@[simp] theorem State.pushStore_nanos (s : State) (op : StoreOp) (q : BitVec 8) (y : Bool) : (s.pushStore op q y).nanos = s.nanos := by
  unfold State.pushStore; rfl
@[simp] theorem State.pushStore_free (s : State) (op : StoreOp) (q : BitVec 8) (y : Bool) : (s.pushStore op q y).free = s.free := by
  unfold State.pushStore; rfl
@[simp] theorem State.pushStore_cur (s : State) (op : StoreOp) (q : BitVec 8) (y : Bool) : (s.pushStore op q y).cur = s.cur := by
  unfold State.pushStore; rfl
@[simp] theorem State.pushStore_ctx (s : State) (op : StoreOp) (q : BitVec 8) (y : Bool) : (s.pushStore op q y).ctx = s.ctx := by
  unfold State.pushStore; rfl
@[simp] theorem State.pushStore_turns (s : State) (op : StoreOp) (q : BitVec 8) (y : Bool) : (s.pushStore op q y).turns = s.turns := by
  unfold State.pushStore; rfl
@[simp] theorem State.pushStore_cluster_at (s : State) (op : StoreOp) (q : BitVec 8) (y : Bool) (j : Nat) : (s.pushStore op q y).cluster j = s.cluster j := by
  unfold State.pushStore; rfl
@[simp] theorem State.pushStore_die_at (s : State) (op : StoreOp) (q : BitVec 8) (y : Bool) (j : Nat) : (s.pushStore op q y).die j = s.die j := by
  unfold State.pushStore; rfl
theorem State.pushStore_hart_ne (s : State) (op : StoreOp) (q : BitVec 8) (y : Bool) (j : Nat) (h : j ≠ s.cur) : (s.pushStore op q y).hart j = s.hart j := by
  unfold State.pushStore; exact State.hart_modMe_ne _ _ _ h
@[simp] theorem State.pushStore_me_act (s : State) (op : StoreOp) (q : BitVec 8) (y : Bool) : (s.pushStore op q y).me.act = s.me.act := by
  unfold State.pushStore; simp
@[simp] theorem State.pushStore_me_halted (s : State) (op : StoreOp) (q : BitVec 8) (y : Bool) : (s.pushStore op q y).me.halted = s.me.halted := by
  unfold State.pushStore; simp
@[simp] theorem State.pushStore_me_main (s : State) (op : StoreOp) (q : BitVec 8) (y : Bool) : (s.pushStore op q y).me.main = s.me.main := by
  unfold State.pushStore; simp
@[simp] theorem State.pushStore_me_handler (s : State) (op : StoreOp) (q : BitVec 8) (y : Bool) : (s.pushStore op q y).me.handler = s.me.handler := by
  unfold State.pushStore; simp
@[simp] theorem State.pushStore_me_traps (s : State) (op : StoreOp) (q : BitVec 8) (y : Bool) : (s.pushStore op q y).me.traps = s.me.traps := by
  unfold State.pushStore; simp
@[simp] theorem State.pushStore_me_sys (s : State) (op : StoreOp) (q : BitVec 8) (y : Bool) : (s.pushStore op q y).me.sys = s.me.sys := by
  unfold State.pushStore; simp
@[simp] theorem State.pushStore_me_mat (s : State) (op : StoreOp) (q : BitVec 8) (y : Bool) : (s.pushStore op q y).me.mat = s.me.mat := by
  unfold State.pushStore; simp
@[simp] theorem State.pushStore_me_tree (s : State) (op : StoreOp) (q : BitVec 8) (y : Bool) : (s.pushStore op q y).me.tree = s.me.tree := by
  unfold State.pushStore; simp
@[simp] theorem State.pushStore_me_p (s : State) (op : StoreOp) (q : BitVec 8) (y : Bool) : (s.pushStore op q y).me.p = s.me.p := by
  unfold State.pushStore; simp
@[simp] theorem State.pushStore_me_e (s : State) (op : StoreOp) (q : BitVec 8) (y : Bool) : (s.pushStore op q y).me.e = s.me.e := by
  unfold State.pushStore; simp
@[simp] theorem State.pushStore_me_tiles (s : State) (op : StoreOp) (q : BitVec 8) (y : Bool) : (s.pushStore op q y).me.tiles = s.me.tiles := by
  unfold State.pushStore; simp
@[simp] theorem State.pushStore_me_tables (s : State) (op : StoreOp) (q : BitVec 8) (y : Bool) : (s.pushStore op q y).me.tables = s.me.tables := by
  unfold State.pushStore; simp
@[simp] theorem State.pushStore_me_mc (s : State) (op : StoreOp) (q : BitVec 8) (y : Bool) : (s.pushStore op q y).me.mc = s.me.mc := by
  unfold State.pushStore; simp
@[simp] theorem State.pushStore_me_queues (s : State) (op : StoreOp) (q : BitVec 8) (y : Bool) : (s.pushStore op q y).me.queues = s.me.queues := by
  unfold State.pushStore; simp
@[simp] theorem State.pushStore_me_bells (s : State) (op : StoreOp) (q : BitVec 8) (y : Bool) : (s.pushStore op q y).me.bells = s.me.bells := by
  unfold State.pushStore; simp
@[simp] theorem State.pushStore_me_streams (s : State) (op : StoreOp) (q : BitVec 8) (y : Bool) : (s.pushStore op q y).me.streams = s.me.streams := by
  unfold State.pushStore; simp
@[simp] theorem State.pushStore_me_runs (s : State) (op : StoreOp) (q : BitVec 8) (y : Bool) : (s.pushStore op q y).me.runs = s.me.runs := by
  unfold State.pushStore; simp
@[simp] theorem State.pushStore_me_park (s : State) (op : StoreOp) (q : BitVec 8) (y : Bool) : (s.pushStore op q y).me.park = s.me.park := by
  unfold State.pushStore; simp
@[simp] theorem State.pushStore_me_hpark (s : State) (op : StoreOp) (q : BitVec 8) (y : Bool) : (s.pushStore op q y).me.hpark = s.me.hpark := by
  unfold State.pushStore; simp
@[simp] theorem State.pushStore_me_engine (s : State) (op : StoreOp) (q : BitVec 8) (y : Bool) : (s.pushStore op q y).me.engine = s.me.engine := by
  unfold State.pushStore; simp
@[simp] theorem State.pushStore_me_copy (s : State) (op : StoreOp) (q : BitVec 8) (y : Bool) : (s.pushStore op q y).me.copy = s.me.copy := by
  unfold State.pushStore; simp
@[simp] theorem State.pushStore_me_gang (s : State) (op : StoreOp) (q : BitVec 8) (y : Bool) : (s.pushStore op q y).me.gang = s.me.gang := by
  unfold State.pushStore; simp
@[simp] theorem State.pushStore_me_search (s : State) (op : StoreOp) (q : BitVec 8) (y : Bool) : (s.pushStore op q y).me.search = s.me.search := by
  unfold State.pushStore; simp
@[simp] theorem State.pushStore_me_theft (s : State) (op : StoreOp) (q : BitVec 8) (y : Bool) : (s.pushStore op q y).me.theft = s.me.theft := by
  unfold State.pushStore; simp
@[simp] theorem State.pushStore_me_chan (s : State) (op : StoreOp) (q : BitVec 8) (y : Bool) : (s.pushStore op q y).me.chan = s.me.chan := by
  unfold State.pushStore; simp
@[simp] theorem State.pushStore_me_task (s : State) (op : StoreOp) (q : BitVec 8) (y : Bool) : (s.pushStore op q y).me.task = s.me.task := by
  unfold State.pushStore; simp
@[simp] theorem State.pushStore_me_answer (s : State) (op : StoreOp) (q : BitVec 8) (y : Bool) : (s.pushStore op q y).me.answer = s.me.answer := by
  unfold State.pushStore; simp
@[simp] theorem State.pushStore_me_stopReq (s : State) (op : StoreOp) (q : BitVec 8) (y : Bool) : (s.pushStore op q y).me.stopReq = s.me.stopReq := by
  unfold State.pushStore; simp

/-- The executing context has x register n: the handler context sees x0 to x15 (R38). -/
def State.hasX (s : State) (n : BitVec 6) : Prop := s.ctx = .handler → n.toNat < 16

/-- The executing context has v register n: the handler context sees v0 to v7 (R38). -/
def State.hasV (s : State) (n : BitVec 5) : Prop := s.ctx = .handler → n.toNat < 8

/-- An x register after a write of one (R17, R38). -/
theorem State.x_setX (s : State) (d r : BitVec 6) (w : Word) (hv : s.hasX d) :
    (s.setX d w).x r = if r = 0 then 0 else if r = d then w else s.x r := by
  have hn : r ≠ d → d.toNat ≠ r.toNat := fun h e => h (BitVec.eq_of_toNat_eq e.symm)
  have hr := r.isLt
  simp only [State.hasX] at hv
  unfold State.setX State.x
  cases hc : s.ctx <;> simp only [hc] at hv ⊢ <;> by_cases h0 : r = 0 <;> by_cases hd : d = 0 <;> by_cases h : r = d <;>
    simp_all

/-- A v register after a write of one (R17, R38). -/
theorem State.v_setV (s : State) (d r : BitVec 5) (w : VWord) (hv : s.hasV d) :
    (s.setV d w).v r = if r = d then w else s.v r := by
  have hn : r ≠ d → d.toNat ≠ r.toNat := fun h e => h (BitVec.eq_of_toNat_eq e.symm)
  have hr := r.isLt
  simp only [State.hasV] at hv
  unfold State.setV State.v
  cases hc : s.ctx <;> simp only [hc] at hv ⊢ <;> by_cases h : r = d <;> simp_all

/-- A p register after a write of one: p0 reads all ones (R17). -/
theorem State.p_setP (s : State) (d r : BitVec 3) (w : Word) :
    (s.setP d w).p r = if r = 0 then BitVec.allOnes 64 else if r = d then w else s.p r := by
  have hn : r ≠ d → d.toNat ≠ r.toNat := fun h e => h (BitVec.eq_of_toNat_eq e.symm)
  have hr := r.isLt
  unfold State.setP State.p
  by_cases h0 : r = 0 <;> by_cases hd : d = 0 <;> by_cases h : r = d <;> simp_all

@[simp] theorem State.v_setX (s : State) (n : BitVec 6) (w : Word) (r : BitVec 5) : (s.setX n w).v r = s.v r := by
  unfold State.setX State.v; by_cases h0 : n = 0 <;> cases hc : s.ctx <;> simp_all
@[simp] theorem State.p_setX (s : State) (n : BitVec 6) (w : Word) (r : BitVec 3) : (s.setX n w).p r = s.p r := by
  unfold State.setX State.p; by_cases h0 : n = 0 <;> cases hc : s.ctx <;> simp_all
@[simp] theorem State.pc_setX (s : State) (n : BitVec 6) (w : Word) : (s.setX n w).pc = s.pc := by
  unfold State.setX State.pc; by_cases h0 : n = 0 <;> cases hc : s.ctx <;> simp_all
@[simp] theorem State.image_setX (s : State) (n : BitVec 6) (w : Word) : (s.setX n w).image = s.image := by
  unfold State.setX State.image; by_cases h0 : n = 0 <;> cases hc : s.ctx <;> simp_all
@[simp] theorem State.lineCount_setX (s : State) (n : BitVec 6) (w : Word) : (s.setX n w).lineCount = s.lineCount := by
  unfold State.lineCount; rw [State.image_setX]
@[simp] theorem State.lineFalls_setX (s : State) (n : BitVec 6) (w : Word) : (s.setX n w).lineFalls = s.lineFalls := by
  unfold State.lineFalls; rw [State.image_setX]
@[simp] theorem State.linkNext_setX (s : State) (n : BitVec 6) (w : Word) : (s.setX n w).linkNext = s.linkNext := by
  simp [State.linkNext]
@[simp] theorem State.prv_setX (s : State) (n : BitVec 6) (w : Word) : (s.setX n w).prv = s.prv := by
  unfold State.setX State.prv; by_cases h0 : n = 0 <;> cases hc : s.ctx <;> simp_all
@[simp] theorem State.x_setV (s : State) (n : BitVec 5) (w : VWord) (r : BitVec 6) : (s.setV n w).x r = s.x r := by
  unfold State.setV State.x; cases hc : s.ctx <;> simp_all
@[simp] theorem State.p_setV (s : State) (n : BitVec 5) (w : VWord) (r : BitVec 3) : (s.setV n w).p r = s.p r := by
  unfold State.setV State.p; cases hc : s.ctx <;> simp_all
@[simp] theorem State.pc_setV (s : State) (n : BitVec 5) (w : VWord) : (s.setV n w).pc = s.pc := by
  unfold State.setV State.pc; cases hc : s.ctx <;> simp_all
@[simp] theorem State.image_setV (s : State) (n : BitVec 5) (w : VWord) : (s.setV n w).image = s.image := by
  unfold State.setV State.image; cases hc : s.ctx <;> simp_all
@[simp] theorem State.lineCount_setV (s : State) (n : BitVec 5) (w : VWord) : (s.setV n w).lineCount = s.lineCount := by
  unfold State.lineCount; rw [State.image_setV]
@[simp] theorem State.lineFalls_setV (s : State) (n : BitVec 5) (w : VWord) : (s.setV n w).lineFalls = s.lineFalls := by
  unfold State.lineFalls; rw [State.image_setV]
@[simp] theorem State.linkNext_setV (s : State) (n : BitVec 5) (w : VWord) : (s.setV n w).linkNext = s.linkNext := by
  simp [State.linkNext]
@[simp] theorem State.prv_setV (s : State) (n : BitVec 5) (w : VWord) : (s.setV n w).prv = s.prv := by
  unfold State.setV State.prv; cases hc : s.ctx <;> simp_all
@[simp] theorem State.x_setP (s : State) (n : BitVec 3) (w : Word) (r : BitVec 6) : (s.setP n w).x r = s.x r := by
  unfold State.setP State.x; by_cases h0 : n = 0 <;> cases hc : s.ctx <;> simp_all
@[simp] theorem State.v_setP (s : State) (n : BitVec 3) (w : Word) (r : BitVec 5) : (s.setP n w).v r = s.v r := by
  unfold State.setP State.v; by_cases h0 : n = 0 <;> cases hc : s.ctx <;> simp_all
@[simp] theorem State.pc_setP (s : State) (n : BitVec 3) (w : Word) : (s.setP n w).pc = s.pc := by
  unfold State.setP State.pc; by_cases h0 : n = 0 <;> cases hc : s.ctx <;> simp_all
@[simp] theorem State.image_setP (s : State) (n : BitVec 3) (w : Word) : (s.setP n w).image = s.image := by
  unfold State.setP State.image; by_cases h0 : n = 0 <;> cases hc : s.ctx <;> simp_all
@[simp] theorem State.lineCount_setP (s : State) (n : BitVec 3) (w : Word) : (s.setP n w).lineCount = s.lineCount := by
  unfold State.lineCount; rw [State.image_setP]
@[simp] theorem State.lineFalls_setP (s : State) (n : BitVec 3) (w : Word) : (s.setP n w).lineFalls = s.lineFalls := by
  unfold State.lineFalls; rw [State.image_setP]
@[simp] theorem State.linkNext_setP (s : State) (n : BitVec 3) (w : Word) : (s.setP n w).linkNext = s.linkNext := by
  simp [State.linkNext]
@[simp] theorem State.prv_setP (s : State) (n : BitVec 3) (w : Word) : (s.setP n w).prv = s.prv := by
  unfold State.setP State.prv; by_cases h0 : n = 0 <;> cases hc : s.ctx <;> simp_all
@[simp] theorem State.x_setPc (s : State) (pc : Word) (r : BitVec 6) : (s.setPc pc).x r = s.x r := by
  unfold State.setPc State.x; cases hc : s.ctx <;> simp_all
@[simp] theorem State.v_setPc (s : State) (pc : Word) (r : BitVec 5) : (s.setPc pc).v r = s.v r := by
  unfold State.setPc State.v; cases hc : s.ctx <;> simp_all
@[simp] theorem State.p_setPc (s : State) (pc : Word) (r : BitVec 3) : (s.setPc pc).p r = s.p r := by
  unfold State.setPc State.p; cases hc : s.ctx <;> simp_all
@[simp] theorem State.x_countHead (s : State)  (r : BitVec 6) : (s.countHead).x r = s.x r := by
  unfold State.countHead State.x; cases hc : s.ctx <;> simp_all
@[simp] theorem State.v_countHead (s : State)  (r : BitVec 5) : (s.countHead).v r = s.v r := by
  unfold State.countHead State.v; cases hc : s.ctx <;> simp_all
@[simp] theorem State.p_countHead (s : State)  (r : BitVec 3) : (s.countHead).p r = s.p r := by
  unfold State.countHead State.p; cases hc : s.ctx <;> simp_all
@[simp] theorem State.pc_countHead (s : State)  : (s.countHead).pc = s.pc := by
  unfold State.countHead State.pc; cases hc : s.ctx <;> simp_all
@[simp] theorem State.image_countHead (s : State)  : (s.countHead).image = s.image := by
  unfold State.countHead State.image; cases hc : s.ctx <;> simp_all
@[simp] theorem State.lineCount_countHead (s : State)  : (s.countHead).lineCount = s.lineCount := by
  unfold State.lineCount; rw [State.image_countHead]
@[simp] theorem State.lineFalls_countHead (s : State)  : (s.countHead).lineFalls = s.lineFalls := by
  unfold State.lineFalls; rw [State.image_countHead]
@[simp] theorem State.linkNext_countHead (s : State)  : (s.countHead).linkNext = s.linkNext := by
  simp [State.linkNext]
@[simp] theorem State.prv_countHead (s : State)  : (s.countHead).prv = s.prv := by
  unfold State.countHead State.prv; cases hc : s.ctx <;> simp_all
@[simp] theorem State.x_raiseFlags (s : State) (f : BitVec 5) (r : BitVec 6) : (s.raiseFlags f).x r = s.x r := by
  unfold State.raiseFlags State.x; cases hc : s.ctx <;> simp_all
@[simp] theorem State.v_raiseFlags (s : State) (f : BitVec 5) (r : BitVec 5) : (s.raiseFlags f).v r = s.v r := by
  unfold State.raiseFlags State.v; cases hc : s.ctx <;> simp_all
@[simp] theorem State.p_raiseFlags (s : State) (f : BitVec 5) (r : BitVec 3) : (s.raiseFlags f).p r = s.p r := by
  unfold State.raiseFlags State.p; cases hc : s.ctx <;> simp_all
@[simp] theorem State.pc_raiseFlags (s : State) (f : BitVec 5) : (s.raiseFlags f).pc = s.pc := by
  unfold State.raiseFlags State.pc; cases hc : s.ctx <;> simp_all
@[simp] theorem State.image_raiseFlags (s : State) (f : BitVec 5) : (s.raiseFlags f).image = s.image := by
  unfold State.raiseFlags State.image; cases hc : s.ctx <;> simp_all
@[simp] theorem State.lineCount_raiseFlags (s : State) (f : BitVec 5) : (s.raiseFlags f).lineCount = s.lineCount := by
  unfold State.lineCount; rw [State.image_raiseFlags]
@[simp] theorem State.lineFalls_raiseFlags (s : State) (f : BitVec 5) : (s.raiseFlags f).lineFalls = s.lineFalls := by
  unfold State.lineFalls; rw [State.image_raiseFlags]
@[simp] theorem State.linkNext_raiseFlags (s : State) (f : BitVec 5) : (s.raiseFlags f).linkNext = s.linkNext := by
  simp [State.linkNext]
@[simp] theorem State.prv_raiseFlags (s : State) (f : BitVec 5) : (s.raiseFlags f).prv = s.prv := by
  unfold State.raiseFlags State.prv; cases hc : s.ctx <;> simp_all
@[simp] theorem State.x_pushStore (s : State) (op : StoreOp) (q : BitVec 8) (y : Bool) (r : BitVec 6) : (s.pushStore op q y).x r = s.x r := by
  unfold State.pushStore State.x; cases hc : s.ctx <;> simp_all
@[simp] theorem State.v_pushStore (s : State) (op : StoreOp) (q : BitVec 8) (y : Bool) (r : BitVec 5) : (s.pushStore op q y).v r = s.v r := by
  unfold State.pushStore State.v; cases hc : s.ctx <;> simp_all
@[simp] theorem State.p_pushStore (s : State) (op : StoreOp) (q : BitVec 8) (y : Bool) (r : BitVec 3) : (s.pushStore op q y).p r = s.p r := by
  unfold State.pushStore State.p; cases hc : s.ctx <;> simp_all
@[simp] theorem State.pc_pushStore (s : State) (op : StoreOp) (q : BitVec 8) (y : Bool) : (s.pushStore op q y).pc = s.pc := by
  unfold State.pushStore State.pc; cases hc : s.ctx <;> simp_all
@[simp] theorem State.image_pushStore (s : State) (op : StoreOp) (q : BitVec 8) (y : Bool) : (s.pushStore op q y).image = s.image := by
  unfold State.pushStore State.image; cases hc : s.ctx <;> simp_all
@[simp] theorem State.lineCount_pushStore (s : State) (op : StoreOp) (q : BitVec 8) (y : Bool) : (s.pushStore op q y).lineCount = s.lineCount := by
  unfold State.lineCount; rw [State.image_pushStore]
@[simp] theorem State.lineFalls_pushStore (s : State) (op : StoreOp) (q : BitVec 8) (y : Bool) : (s.pushStore op q y).lineFalls = s.lineFalls := by
  unfold State.lineFalls; rw [State.image_pushStore]
@[simp] theorem State.linkNext_pushStore (s : State) (op : StoreOp) (q : BitVec 8) (y : Bool) : (s.pushStore op q y).linkNext = s.linkNext := by
  simp [State.linkNext]
@[simp] theorem State.prv_pushStore (s : State) (op : StoreOp) (q : BitVec 8) (y : Bool) : (s.pushStore op q y).prv = s.prv := by
  unfold State.pushStore State.prv; cases hc : s.ctx <;> simp_all
@[simp] theorem State.pc_setPc (s : State) (pc : Word) : (s.setPc pc).pc = pc := by
  unfold State.setPc State.pc; cases hc : s.ctx <;> simp_all
@[simp] theorem State.x_goto (s : State) (pc : Word) (r : BitVec 6) : (s.goto pc).x r = s.x r := by
  simp [State.goto]
@[simp] theorem State.v_goto (s : State) (pc : Word) (r : BitVec 5) : (s.goto pc).v r = s.v r := by
  simp [State.goto]
@[simp] theorem State.p_goto (s : State) (pc : Word) (r : BitVec 3) : (s.goto pc).p r = s.p r := by
  simp [State.goto]
@[simp] theorem State.pc_goto (s : State) (pc : Word) : (s.goto pc).pc = pc := by
  simp [State.goto]
@[simp] theorem State.goto_me_sys (s : State) (pc : Word) :
    (s.goto pc).me.sys = { s.me.sys with instret := s.me.sys.instret + 1 } := by
  simp [State.goto, State.countHead]
@[simp] theorem State.raiseFlags_me_sys (s : State) (f : BitVec 5) :
    (s.raiseFlags f).me.sys = { s.me.sys with fflags := s.me.sys.fflags ||| f.setWidth 64 } := by
  simp [State.raiseFlags]
@[simp] theorem State.countHead_me_sys (s : State) :
    s.countHead.me.sys = { s.me.sys with instret := s.me.sys.instret + 1 } := by
  simp [State.countHead]

end Sys2Proof.Machine
end

