-- ==== Sys2Proof/Laws/Memory.lean ====
section
/-! SUPPORT. Laws/Memory.lean: memory read after a write, and the canonical form that every write keeps. -/

namespace Sys2Proof.Machine

/-! ## The canonical form -/

theorem memWfFrom_mono {b c : Nat} {m : List Host.Cell} (h : b ≤ c) (w : memWfFrom c m = true) : memWfFrom b m = true := by
  cases m with
  | nil => rfl
  | cons e r =>
    obtain ⟨a, v⟩ := e
    simp only [memWfFrom, Bool.and_eq_true, decide_eq_true_eq] at w ⊢
    exact ⟨⟨by omega, w.1.2⟩, w.2⟩

/-- Below the bound nothing is listed. -/
theorem memGet_below {b : Nat} {m : List Host.Cell} (w : memWfFrom b m = true) {a : Nat} (h : a < b) :
    memGet m a = emptyByte := by
  induction m generalizing b with
  | nil => rfl
  | cons e r ih =>
    obtain ⟨c, v⟩ := e
    simp only [memWfFrom, Bool.and_eq_true, decide_eq_true_eq] at w
    have : c ≠ a := by omega
    simp only [memGet, this, if_false]
    exact ih w.2 (by omega)

theorem memWfFrom_memDel {b : Nat} {m : List Host.Cell} (a : Nat) (w : memWfFrom b m = true) :
    memWfFrom b (memDel m a) = true := by
  induction m generalizing b with
  | nil => rfl
  | cons e r ih =>
    obtain ⟨c, v⟩ := e
    simp only [memWfFrom, Bool.and_eq_true, decide_eq_true_eq] at w
    simp only [memDel]
    split
    · exact memWfFrom_mono (by omega) w.2
    · simp only [memWfFrom, Bool.and_eq_true, decide_eq_true_eq]
      exact ⟨w.1, ih w.2⟩

theorem memWfFrom_memIns {b : Nat} {m : List Host.Cell} {a : Nat} {v : Byte} (hb : b ≤ a) (hv : v ≠ emptyByte)
    (w : memWfFrom b m = true) : memWfFrom b (memIns m a v) = true := by
  induction m generalizing b with
  | nil => simp [memIns, memWfFrom, hb, hv]
  | cons e r ih =>
    obtain ⟨c, u⟩ := e
    simp only [memWfFrom, Bool.and_eq_true, decide_eq_true_eq] at w
    simp only [memIns]
    split
    · simp only [memWfFrom, Bool.and_eq_true, decide_eq_true_eq, bne_iff_ne, ne_eq] at w ⊢
      exact ⟨⟨hb, hv⟩, ⟨by omega, w.1.2⟩, w.2⟩
    · split
      · subst_vars
        simp only [memWfFrom, Bool.and_eq_true, decide_eq_true_eq, bne_iff_ne, ne_eq] at w ⊢
        exact ⟨⟨hb, hv⟩, w.2⟩
      · simp only [memWfFrom, Bool.and_eq_true, decide_eq_true_eq] at w ⊢
        exact ⟨w.1, ih (by omega) w.2⟩

/-- A write of one byte keeps the canonical form. -/
theorem Memory.wf_memPut {m : List Host.Cell} (a : Nat) (v : Byte) (w : Memory.wf m = true) :
    Memory.wf (memPut m a v) = true := by
  unfold memPut
  split
  · exact memWfFrom_memDel a w
  · exact memWfFrom_memIns (Nat.zero_le a) ‹_› w

/-- A write of bytes keeps the canonical form. -/
theorem Memory.wf_memPutList (l : List Byte) {m : List Host.Cell} (a : Nat) (w : Memory.wf m = true) :
    Memory.wf (memPutList m a l) = true := by
  induction l generalizing m a with
  | nil => exact w
  | cons v r ih => exact ih (a + 1) (Memory.wf_memPut a v w)

/-- Dropping bytes keeps the canonical form. -/
theorem memWfFrom_filter {b : Nat} {m : List Host.Cell} (p : Host.Cell → Bool) (w : memWfFrom b m = true) :
    memWfFrom b (m.filter p) = true := by
  induction m generalizing b with
  | nil => rfl
  | cons e r ih =>
    obtain ⟨c, v⟩ := e
    simp only [memWfFrom, Bool.and_eq_true, decide_eq_true_eq] at w
    rw [List.filter_cons]
    split
    · simp only [memWfFrom, Bool.and_eq_true, decide_eq_true_eq]
      exact ⟨w.1, ih w.2⟩
    · exact memWfFrom_mono (by omega) (ih w.2)

theorem Memory.wf_filter {m : List Host.Cell} (p : Host.Cell → Bool) (w : Memory.wf m = true) :
    Memory.wf (m.filter p) = true := memWfFrom_filter p w

/-- Memory after reset is in its canonical form. -/
@[simp] theorem Memory.wf_nil : Memory.wf [] = true := rfl

/-! ## Reading after writing -/

theorem memGet_memDel {b : Nat} {m : List Host.Cell} (w : memWfFrom b m = true) (a c : Nat) :
    memGet (memDel m a) c = if c = a then emptyByte else memGet m c := by
  induction m generalizing b with
  | nil => simp [memDel, memGet]
  | cons e r ih =>
    obtain ⟨d, v⟩ := e
    simp only [memWfFrom, Bool.and_eq_true, decide_eq_true_eq] at w
    by_cases h : d = a
    · subst h
      simp only [memDel, if_true]
      by_cases h2 : c = d
      · subst h2
        simpa using memGet_below w.2 (Nat.lt_succ_self c)
      · simp [memGet, h2, Ne.symm h2]
    · simp only [memDel, h, if_false, memGet]
      by_cases h2 : d = c
      · subst h2; simp [h]
      · simp [h2, ih w.2]

theorem memGet_memIns (m : List Host.Cell) (a c : Nat) (v : Byte) :
    memGet (memIns m a v) c = if c = a then v else memGet m c := by
  induction m with
  | nil => simp [memIns, memGet, eq_comm]
  | cons e r ih =>
    obtain ⟨d, u⟩ := e
    by_cases h : c = a
    · subst h
      by_cases h1 : c < d
      · simp [memIns, memGet, h1]
      · by_cases h2 : d = c
        · simp [memIns, memGet, h2]
        · simp [memIns, memGet, h1, h2, ih]
    · by_cases h1 : a < d
      · simp [memIns, memGet, h1, h, Ne.symm h]
      · by_cases h2 : d = a
        · subst h2; simp [memIns, memGet, h, Ne.symm h]
        · simp [memIns, memGet, h1, h2, ih, h]

/-- A byte after a write of one: the write is read, and every other byte is as before. -/
theorem memGet_memPut {m : List Host.Cell} (w : Memory.wf m = true) (a c : Nat) (v : Byte) :
    memGet (memPut m a v) c = if c = a then v else memGet m c := by
  unfold memPut
  split
  · subst_vars; exact memGet_memDel w a c
  · exact memGet_memIns m a c v

/-- A byte after a write of bytes from a on. -/
theorem memGet_memPutList (l : List Byte) {m : List Host.Cell} (w : Memory.wf m = true) (a c : Nat) :
    memGet (memPutList m a l) c = if h : a ≤ c ∧ c - a < l.length then l[c - a]'h.2 else memGet m c := by
  induction l generalizing m a with
  | nil => simp [memPutList]
  | cons v r ih =>
    rw [memPutList, ih (Memory.wf_memPut a v w), memGet_memPut w]
    by_cases h : c = a
    · subst h
      simp
    · by_cases h2 : a < c
      · have e : c - a = (c - (a + 1)) + 1 := by omega
        simp only [h, if_false, e, List.length_cons]
        by_cases h3 : c - (a + 1) < r.length
        · rw [dif_pos ⟨by omega, h3⟩, dif_pos ⟨by omega, by omega⟩]
          rfl
        · rw [dif_neg (by omega), dif_neg (by omega)]
      · rw [dif_neg (by omega), dif_neg (by omega), if_neg h]

/-- Bytes outside those written are as before. -/
theorem memGet_memPutList_out (l : List Byte) {m : List Host.Cell} (w : Memory.wf m = true) (a c : Nat)
    (h : c < a ∨ a + l.length ≤ c) : memGet (memPutList m a l) c = memGet m c := by
  rw [memGet_memPutList l w, dif_neg (by omega)]

theorem bytesOf_length (v n : Nat) : (bytesOf v n).length = n := by
  induction n generalizing v with
  | zero => rfl
  | succ n ih => simp [bytesOf, ih]

/-- The number that the low n bytes of a number hold is the number, reduced (R7). -/
theorem natOf_bytesOf (v n : Nat) : natOf (bytesOf v n) = v % 256 ^ n := by
  induction n generalizing v with
  | zero => simp [bytesOf, natOf, Nat.mod_one]
  | succ n ih =>
    have e : (BitVec.ofNat 8 v).toNat = v % 256 := by simp
    rw [bytesOf, natOf, ih, e, pow_succ', Nat.mod_mul]

/-- A number written as n bytes is read as the number, reduced (R7). -/
theorem memNat_memPutList_bytesOf (n : Nat) {m : List Host.Cell} (w : Memory.wf m = true) (a v : Nat) :
    memNat (memPutList m a (bytesOf v n)) a n = v % 256 ^ n := by
  have key : ∀ (k : Nat) (m : List Host.Cell) (a : Nat) (l : List Byte),
      (∀ i (h : i < l.length), memGet m (a + i) = l[i]) → l.length = k → memNat m a k = natOf l := by
    intro k
    induction k with
    | zero => intro m a l _ hl; cases l <;> simp_all [memNat, natOf]
    | succ k ih =>
      intro m a l h hl
      cases l with
      | nil => simp at hl
      | cons b r =>
        simp only [memNat, natOf]
        have h0 := h 0 (by simp)
        simp only [Nat.add_zero, List.getElem_cons_zero] at h0
        rw [h0, ih m (a + 1) r (fun i hi => ?_) (by simpa using hl)]
        have := h (i + 1) (by simpa using hi)
        simpa [Nat.add_assoc, Nat.add_comm 1 i] using this
  rw [key n _ a (bytesOf v n) (fun i hi => ?_) (bytesOf_length v n), natOf_bytesOf]
  rw [memGet_memPutList _ w, dif_pos ⟨by omega, by simpa using hi⟩]
  simp

end Sys2Proof.Machine
end

