-- ==== Sys2Proof/Laws/Ends.lean ====
section
/-! SUPPORT. Laws/Ends.lean: how a meaning ends, and what the updates of one head leave as it was. -/

namespace Sys2Proof.Machine

/-! ## Acceptance and the end of a meaning -/

/-- An accepted head ends as its meaning does. -/
theorem runHead_ok {a : Accept} {head : Nat} {xs : List (BitVec 6)} {vs : List (BitVec 5)} {pred : BitVec 3} {m : M Unit}
    {s : State} (ha : a.ok s = true) (hv : s.visible xs vs pred = true) :
    runHead a head xs vs pred m s = finish (m.run s) := by
  simp [runHead, ha, hv]

/-- A head that is not accepted raises ILLEGAL (R210). -/
theorem runHead_illegal {a : Accept} {head : Nat} {xs : List (BitVec 6)} {vs : List (BitVec 5)} {pred : BitVec 3}
    {m : M Unit} {s : State} (h : (a.ok s && s.visible xs vs pred) = false) :
    runHead a head xs vs pred m s = .next (s.takeTrap (faultCause 0x03 0) s.pc (BitVec.ofNat 64 head)) := by
  simp [runHead, h]

/-- A meaning is never a fault or a refusal: it completes, traps or waits. -/
theorem runHead_next (a : Accept) (head : Nat) (xs : List (BitVec 6)) (vs : List (BitVec 5)) (pred : BitVec 3)
    (m : M Unit) (s : State) : ∃ t, runHead a head xs vs pred m s = .next t := by
  unfold runHead
  split
  · unfold finish
    split <;> exact ⟨_, rfl⟩
  · exact ⟨_, rfl⟩

/-- A change of the state alone completes. -/
@[simp] theorem finish_modify (f : State → State) (s : State) :
    finish ((modify f : M Unit).run s) = .next (f s) := rfl

/-- A head with a successor completes there (R201). -/
theorem State.retire_flows {s : State} (h : s.flows) : s.retire = s.goto s.linkNext := by
  unfold State.retire
  rw [if_neg]
  rintro ⟨h1, h2⟩
  rcases h with h | h
  · omega
  · simp [h2] at h

/-- A head without a successor takes LINE_FORMAT at `link_next` (R201). -/
theorem State.retire_stuck {s : State} (h : ¬ s.flows) :
    s.retire = s.countHead.takeTrap (faultCause 0x02 0) s.linkNext (lineOfPc s.pc) := by
  unfold State.retire
  rw [if_pos]
  simp only [State.flows, not_or, not_lt, Bool.not_eq_true] at h
  exact h

@[simp] theorem State.flows_setX (s : State) (d : BitVec 6) (w : Word) : (s.setX d w).flows ↔ s.flows := by
  simp [State.flows]

@[simp] theorem State.flows_setV (s : State) (d : BitVec 5) (w : VWord) : (s.setV d w).flows ↔ s.flows := by
  simp [State.flows]

@[simp] theorem State.flows_setP (s : State) (d : BitVec 3) (w : Word) : (s.setP d w).flows ↔ s.flows := by
  simp [State.flows]

@[simp] theorem State.flows_raiseFlags (s : State) (f : BitVec 5) : (s.raiseFlags f).flows ↔ s.flows := by
  simp [State.flows]

@[simp] theorem State.flows_pushStore (s : State) (op : StoreOp) (q : BitVec 8) (y : Bool) :
    (s.pushStore op q y).flows ↔ s.flows := by
  simp [State.flows]

/-- Every register that a list names is one of the executing context (R38). -/
theorem State.hasX_of_visible {s : State} {xs : List (BitVec 6)} {vs : List (BitVec 5)} {pred : BitVec 3}
    (h : s.visible xs vs pred = true) {d : BitVec 6} (hd : d ∈ xs) : s.hasX d := by
  intro hc
  simp only [State.visible, hc, Bool.and_eq_true, List.all_eq_true, decide_eq_true_eq] at h
  exact h.1.1 d hd

theorem State.hasV_of_visible {s : State} {xs : List (BitVec 6)} {vs : List (BitVec 5)} {pred : BitVec 3}
    (h : s.visible xs vs pred = true) {d : BitVec 5} (hd : d ∈ vs) : s.hasV d := by
  intro hc
  simp only [State.visible, hc, Bool.and_eq_true, List.all_eq_true, decide_eq_true_eq] at h
  exact h.1.2 d hd

/-- Writing one x register retires with it written (R222). -/
theorem runHead_writeX {a : Accept} {head : Nat} {xs : List (BitVec 6)} {d : BitVec 6} {f : State → Word} {s : State}
    (ha : a.ok s = true) (hv : s.visible xs [] 0 = true) :
    runHead a head xs [] 0 (writeX d f) s = .next (s.setX d (f s)).retire := by
  rw [runHead_ok ha hv]
  simp only [writeX, finish_modify]

/-- Writing one x register with flags retires with both (R223). -/
theorem runHead_writeF {a : Accept} {head : Nat} {xs : List (BitVec 6)} {d : BitVec 6} {f : State → FRes} {s : State}
    (ha : a.ok s = true) (hv : s.visible xs [] 0 = true) :
    runHead a head xs [] 0 (writeF d f) s = .next ((s.setX d (BitVec.ofNat 64 (f s).1)).raiseFlags (f s).2).retire := by
  rw [runHead_ok ha hv]
  simp only [writeF, finish_modify]

/-! ## Frames -/

theorem SameBut.refl (s : State) : SameBut s s [] [] [] 0 := by
  constructor <;> simp

/-- Frames compose. -/
theorem SameBut.trans {s t u : State} {xs xs' : List (BitVec 6)} {vs vs' : List (BitVec 5)} {ps ps' : List (BitVec 3)}
    {f f' : BitVec 5} (h : SameBut s t xs vs ps f) (k : SameBut t u xs' vs' ps' f') :
    SameBut s u (xs ++ xs') (vs ++ vs') (ps ++ ps') (f ||| f') where
  x r hr := by simp only [List.mem_append, not_or] at hr; rw [k.x r hr.2, h.x r hr.1]
  v r hr := by simp only [List.mem_append, not_or] at hr; rw [k.v r hr.2, h.v r hr.1]
  p r hr := by simp only [List.mem_append, not_or] at hr; rw [k.p r hr.2, h.p r hr.1]
  fflags := by
    rw [k.fflags, h.fflags]
    ext i hi
    simp [Bool.or_assoc]
  sys := by rw [k.sys, h.sys]
  traps := by rw [k.traps, h.traps]
  mainCtx c := by rw [k.mainCtx (by rw [h.who.2.1]; exact c), h.mainCtx c]
  handlerCtx c := by rw [k.handlerCtx (by rw [h.who.2.1]; exact c), h.handlerCtx c]
  mat := by rw [k.mat, h.mat]
  tree := by rw [k.tree, h.tree]
  e := by rw [k.e, h.e]
  tiles := by rw [k.tiles, h.tiles]
  tables := by rw [k.tables, h.tables]
  mc := by rw [k.mc, h.mc]
  queues := by rw [k.queues, h.queues]
  bells := by rw [k.bells, h.bells]
  streams := by rw [k.streams, h.streams]
  memIf := by rw [k.memIf, h.memIf]
  runs := by rw [k.runs, h.runs]
  engine := by rw [k.engine, h.engine]
  copy := by rw [k.copy, h.copy]
  gang := by rw [k.gang, h.gang]
  search := by rw [k.search, h.search]
  theft := by rw [k.theft, h.theft]
  chan := by rw [k.chan, h.chan]
  task := by rw [k.task, h.task]
  act := ⟨by rw [k.act.1, h.act.1], by rw [k.act.2, h.act.2]⟩
  others j n := by rw [k.others j (by rw [h.who.1]; exact n), h.others j n]
  clusters j := by rw [k.clusters, h.clusters]
  dies j := by rw [k.dies, h.dies]
  device := ⟨by rw [k.device.1, h.device.1], by rw [k.device.2, h.device.2]⟩
  bytes a := by rw [k.bytes, h.bytes]
  full := by rw [k.full, h.full]
  poison := by rw [k.poison, h.poison]
  tags := ⟨by rw [k.tags.1, h.tags.1], by rw [k.tags.2.1, h.tags.2.1], by rw [k.tags.2.2, h.tags.2.2]⟩
  past := by rw [k.past, h.past]
  net := by rw [k.net, h.net]
  time := ⟨by rw [k.time.1, h.time.1], by rw [k.time.2, h.time.2]⟩
  who := ⟨by rw [k.who.1, h.who.1], by rw [k.who.2.1, h.who.2.1], by rw [k.who.2.2, h.who.2.2]⟩

/-- A frame with more left free. -/
theorem SameBut.mono {s t : State} {xs xs' : List (BitVec 6)} {vs vs' : List (BitVec 5)} {ps ps' : List (BitVec 3)}
    {f : BitVec 5} (h : SameBut s t xs vs ps f) (hx : xs ⊆ xs') (hv : vs ⊆ vs') (hp : ps ⊆ ps') :
    SameBut s t xs' vs' ps' f :=
  { h with
    x := fun r n => h.x r (fun m => n (hx m))
    v := fun r n => h.v r (fun m => n (hv m))
    p := fun r n => h.p r (fun m => n (hp m)) }

/-- Writing an x register changes it alone. -/
theorem SameBut.setX (s : State) (d : BitVec 6) (w : Word) (hv : s.hasX d) : SameBut s (s.setX d w) [d] [] [] 0 := by
  constructor
  case x =>
    intro r hr
    rw [State.x_setX s d r w hv]
    simp only [List.mem_singleton] at hr
    by_cases h0 : r = 0
    · simp [h0, State.x]
    · simp [hr]; exact fun h => absurd h h0
  case mainCtx => intro c; simp only [State.setX, c]; split <;> simp
  case handlerCtx => intro c; simp only [State.setX, c]; split <;> simp
  case others => intro h n; exact State.setX_hart_ne _ _ _ _ n
  all_goals simp

/-- Writing a v register changes it alone. -/
theorem SameBut.setV (s : State) (d : BitVec 5) (w : VWord) (hv : s.hasV d) : SameBut s (s.setV d w) [] [d] [] 0 := by
  constructor
  case v =>
    intro r hr
    rw [State.v_setV s d r w hv]
    simp only [List.mem_singleton] at hr
    simp [hr]
  case mainCtx => intro c; simp [State.setV, c]
  case handlerCtx => intro c; simp [State.setV, c]
  case others => intro h n; exact State.setV_hart_ne _ _ _ _ n
  all_goals simp

/-- Writing a p register changes it alone. -/
theorem SameBut.setP (s : State) (d : BitVec 3) (w : Word) : SameBut s (s.setP d w) [] [] [d] 0 := by
  constructor
  case p =>
    intro r hr
    rw [State.p_setP s d r w]
    simp only [List.mem_singleton] at hr
    by_cases h0 : r = 0
    · simp [h0, State.p]
    · simp [hr]; exact fun h => absurd h h0
  case mainCtx => intro c; simp
  case handlerCtx => intro c; simp
  case others => intro h n; exact State.setP_hart_ne _ _ _ _ n
  all_goals simp

/-- Raising flags changes cr.fflags alone. -/
theorem SameBut.raiseFlags (s : State) (f : BitVec 5) : SameBut s (s.raiseFlags f) [] [] [] f := by
  constructor
  case others => intro h n; exact State.raiseFlags_hart_ne _ _ _ n
  all_goals simp

/-- Completing a head changes the PC and the count of heads alone. -/
theorem SameBut.goto (s : State) (pc : Word) : SameBut s (s.goto pc) [] [] [] 0 := by
  constructor
  case mainCtx => intro c; simp [State.goto, State.setPc, c, State.countHead]
  case handlerCtx => intro c; simp [State.goto, State.setPc, c, State.countHead]
  case others => intro h n; exact State.goto_hart_ne _ _ _ n
  all_goals simp

/-- Counting a head changes the count of heads alone. -/
theorem SameBut.countHead (s : State) : SameBut s s.countHead [] [] [] 0 := by
  constructor
  case sys => simp [State.countHead]
  case others => intro h n; exact State.countHead_hart_ne _ _ n
  all_goals simp

/-- One x register with flags. -/
theorem SameBut.setX_flags (s : State) (d : BitVec 6) (w : Word) (hv : s.hasX d) (f : BitVec 5) :
    SameBut s ((s.setX d w).raiseFlags f) [d] [] [] f := by
  simpa using (SameBut.setX s d w hv).trans (SameBut.raiseFlags _ f)

/-- One v register with flags. -/
theorem SameBut.setV_flags (s : State) (d : BitVec 5) (w : VWord) (hv : s.hasV d) (f : BitVec 5) :
    SameBut s ((s.setV d w).raiseFlags f) [] [d] [] f := by
  simpa using (SameBut.setV s d w hv).trans (SameBut.raiseFlags _ f)

/-! ## Sequencing the parts of a meaning -/

/-- A part that succeeds hands its result and state on. -/
theorem bind_ok {α β : Type} {m : M α} {f : α → M β} {s t : State} {a : α} (h : m.run s = (.ok a, t)) :
    (m >>= f).run s = (f a).run t := by
  simp only [ExceptT.run, bind, ExceptT.bind, ExceptT.mk, StateT.bind] at h ⊢
  rw [h]
  rfl

/-- A part that stops ends the whole. -/
theorem bind_error {α β : Type} {m : M α} {f : α → M β} {s t : State} {e : Stop} (h : m.run s = (.error e, t)) :
    (m >>= f).run s = (.error e, t) := by
  simp only [ExceptT.run, bind, ExceptT.bind, ExceptT.mk, StateT.bind] at h ⊢
  rw [h]
  rfl

/-- Reading the state. -/
theorem bind_get {β : Type} {f : State → M β} {s : State} : ((get : M State) >>= f).run s = (f s).run s := bind_ok rfl

/-- Changing the state. -/
theorem bind_modify {β : Type} {g : State → State} {f : PUnit → M β} {s : State} :
    ((modify g : M PUnit) >>= f).run s = (f ⟨⟩).run (g s) := bind_ok rfl

theorem run_pure {α : Type} (a : α) (s : State) : (pure a : M α).run s = (.ok a, s) := rfl

theorem run_throw {α : Type} (e : Stop) (s : State) : (throw e : M α).run s = (.error e, s) := rfl

/-! ## How a head ends -/

/-- A meaning that ends by retiring a state b ends as a head does, and what it has left is b with the head counted, at its
successor or, without one, where it stands (R201). -/
theorem headEnds_of_retire {i : Instr} {s u b : State} (he : exec i s = .next b.retire) (hf : b.flows ↔ u.flows)
    (hl : b.linkNext = u.linkNext) (hp : b.pc = u.pc) (hc : b.me.sys.instret = u.me.sys.instret) :
    ∃ t, HeadEnds i s u t ∧ (t = b.goto b.linkNext ∨ t = b.countHead) := by
  by_cases h : u.flows
  · rw [State.retire_flows (hf.2 h)] at he
    exact ⟨_, ⟨by simp [hc], fun _ => ⟨he, by simp [hl]⟩, fun n => absurd h n⟩, .inl rfl⟩
  · rw [State.retire_stuck (fun n => h (hf.1 n)), hl, hp] at he
    exact ⟨_, ⟨by simp [State.countHead, hc], fun n => absurd n h, fun _ => he⟩, .inr rfl⟩

/-- Whatever a head left in b, it leaves the same when it has ended. -/
theorem SameBut.ended {base b t : State} {xs : List (BitVec 6)} {vs : List (BitVec 5)} {ps : List (BitVec 3)} {fl : BitVec 5}
    (h : SameBut base b xs vs ps fl) (ht : t = b.goto b.linkNext ∨ t = b.countHead) : SameBut base t xs vs ps fl := by
  rcases ht with rfl | rfl
  · simpa using h.trans (SameBut.goto _ _)
  · simpa using h.trans (SameBut.countHead _)

/-! ## One register written -/

theorem writesX_of {a : Accept} {i : Instr} {xs : List (BitVec 6)} {d : BitVec 6} {f g : State → Word} {head : Nat}
    (he : ∀ s, exec i s = runHead a head xs [] 0 (writeX d g) s) (hd : ∀ s, a.ok s = true → s.visible xs [] 0 = true → s.hasX d)
    (hfg : wellFormed i = true → ∀ s, g s = f s) : WritesX a i xs d f := by
  intro s h
  have hx := hd s h.accepts h.sees
  obtain ⟨t, ht, hb⟩ := headEnds_of_retire (u := s) ((he s).trans (runHead_writeX h.accepts h.sees)) (by simp) (by simp)
    (by simp) (by simp)
  refine ⟨t, ht, ?_, (SameBut.setX s d _ hx).ended hb⟩
  rcases hb with rfl | rfl <;> simp [State.x_setX _ _ _ _ hx, hfg h.wf]

theorem writesXSuch_of {a : Accept} {i : Instr} {xs : List (BitVec 6)} {d : BitVec 6} {P : State → Word → Prop}
    {g : State → Word} {head : Nat} (he : ∀ s, exec i s = runHead a head xs [] 0 (writeX d g) s)
    (hd : ∀ s, a.ok s = true → s.visible xs [] 0 = true → s.hasX d) (hfg : wellFormed i = true → ∀ s, P s (g s)) :
    WritesXSuch a i xs d P := by
  intro s h
  have hx := hd s h.accepts h.sees
  obtain ⟨t, ht, hb⟩ := headEnds_of_retire (u := s) ((he s).trans (runHead_writeX h.accepts h.sees)) (by simp) (by simp)
    (by simp) (by simp)
  refine ⟨t, g s, ht, hfg h.wf s, ?_, (SameBut.setX s d _ hx).ended hb⟩
  rcases hb with rfl | rfl <;> simp [State.x_setX _ _ _ _ hx]

theorem writesXFlags_of {a : Accept} {i : Instr} {xs : List (BitVec 6)} {d : BitVec 6} {f : State → Word}
    {fl : State → BitVec 5} {g : State → FRes} {head : Nat} (he : ∀ s, exec i s = runHead a head xs [] 0 (writeF d g) s)
    (hd : d ∈ xs) (hfg : ∀ s, BitVec.ofNat 64 (g s).1 = f s ∧ (g s).2 = fl s) : WritesXFlags a i xs d f fl := by
  intro s h
  have hx := State.hasX_of_visible h.sees hd
  obtain ⟨t, ht, hb⟩ := headEnds_of_retire (u := s) ((he s).trans (runHead_writeF h.accepts h.sees)) (by simp) (by simp)
    (by simp) (by simp)
  refine ⟨t, ht, ?_, (hfg s).2 ▸ (SameBut.setX_flags s d _ hx _).ended hb⟩
  rcases hb with rfl | rfl <;> simp [State.x_setX _ _ _ _ hx, (hfg s).1]

/-- A meaning that ends by retiring a state with the frame of base ends as a head does. -/
theorem endsAs_of_retire {i : Instr} {s u b base : State} {xs : List (BitVec 6)} {vs : List (BitVec 5)}
    {ps : List (BitVec 3)} {fl : BitVec 5} {P : State → Prop} (he : exec i s = .next b.retire) (hf : b.flows ↔ u.flows)
    (hl : b.linkNext = u.linkNext) (hp : b.pc = u.pc) (hc : b.me.sys.instret = u.me.sys.instret)
    (hP : P (b.goto b.linkNext) ∧ P b.countHead) (hs : SameBut base b xs vs ps fl) : EndsAs i s u base xs vs ps fl P := by
  obtain ⟨t, ht, hb⟩ := headEnds_of_retire he hf hl hp hc
  exact ⟨t, ht, by rcases hb with rfl | rfl; exacts [hP.1, hP.2], hs.ended hb⟩

end Sys2Proof.Machine
end

