-- ==== Sys2Proof/Laws/Vector.lean ====
section
/-! SUPPORT. Laws/Vector.lean: elements of vector registers, and what a vector instruction does when none of its
registers is in stream mode. -/

namespace Sys2Proof.Machine

/-- The number that vbuild packs, and any element of it. -/
theorem packed_elem (w : Nat) (f : Nat → Nat) : ∀ (l : List Nat) (k : Nat),
    (l.foldr (fun i acc => acc * 2 ^ w + f i % 2 ^ w) 0) / 2 ^ (w * k) % 2 ^ w =
      match l[k]? with
      | some i => f i % 2 ^ w
      | none => 0
  | [], k => by simp
  | i :: l, 0 => by simp [Nat.add_mod]
  | i :: l, k + 1 => by
    have h : w * (k + 1) = w + w * k := by ring
    rw [List.foldr_cons, h, Nat.pow_add, ← Nat.div_div_eq_div_mul, Nat.mul_comm _ (2 ^ w),
      Nat.mul_add_div (by positivity), Nat.div_eq_of_lt (Nat.mod_lt _ (by positivity)), Nat.add_zero, packed_elem w f l k]
    simp

theorem packed_lt (w : Nat) (f : Nat → Nat) : ∀ l : List Nat,
    l.foldr (fun i acc => acc * 2 ^ w + f i % 2 ^ w) 0 < 2 ^ (w * l.length)
  | [] => by simp
  | i :: l => by
    have h := packed_lt w f l
    have hm : f i % 2 ^ w < 2 ^ w := Nat.mod_lt _ (by positivity)
    rw [List.foldr_cons, List.length_cons, Nat.mul_add, Nat.mul_one, Nat.pow_add]
    exact lt_of_lt_of_le (b := (l.foldr (fun i acc => acc * 2 ^ w + f i % 2 ^ w) 0 + 1) * 2 ^ w)
      (by rw [Nat.add_mul]; omega) (Nat.mul_le_mul_right _ h)

/-- An element of a register built from elements (R302). -/
theorem velem_vbuild {w n k : Nat} (f : Nat → Nat) (hn : w * n ≤ 512) (hk : k < n) :
    velem (vbuild w n f) w k = f k % 2 ^ w := by
  have hl := packed_lt w f (List.range n)
  have h512 : 2 ^ (w * n) ≤ 2 ^ 512 := Nat.pow_le_pow_right (by omega) hn
  rw [List.length_range] at hl
  unfold velem vbuild
  rw [BitVec.toNat_ofNat, Nat.mod_eq_of_lt (lt_of_lt_of_le hl h512), packed_elem]
  simp [hk]

theorem velem_lt (v : VWord) (w k : Nat) : velem v w k < 2 ^ w := Nat.mod_lt _ (by positivity)

@[simp] theorem velem_mod (v : VWord) (w k : Nat) : velem v w k % 2 ^ w = velem v w k :=
  Nat.mod_eq_of_lt (velem_lt v w k)

theorem fmtBits_pos (t : BitVec 4) : 0 < fmtBits t := by unfold fmtBits; split <;> omega

theorem fmtBits_elemCount (t : BitVec 4) : fmtBits t * elemCount t = 512 := by
  unfold elemCount fmtBits; split <;> rfl

theorem lt_elemCount {t : BitVec 4} {k : Nat} : k < elemCount t ↔ k * fmtBits t < 512 := by
  have h := fmtBits_elemCount t
  have hp := fmtBits_pos t
  constructor
  · intro hk
    calc _ < elemCount t * fmtBits t := Nat.mul_lt_mul_of_pos_right hk hp
      _ = 512 := by rw [Nat.mul_comm]; exact h
  · intro hk
    rw [← h, Nat.mul_comm (fmtBits t)] at hk
    exact Nat.lt_of_mul_lt_mul_right hk

/-- A bit of flags gathered over the active elements. -/
theorem flags_fold (act : Nat → Bool) (f : Nat → Flags) (j : Nat) : ∀ (l : List Nat) (z : Flags),
    (l.foldl (fun fl i => if act i then fl ||| f i else fl) z).getLsbD j = true ↔
      z.getLsbD j = true ∨ ∃ k ∈ l, act k = true ∧ (f k).getLsbD j = true
  | [], z => by simp
  | i :: l, z => by
    rw [List.foldl_cons, flags_fold act f j l]
    by_cases h : act i = true
    · simp [h, or_assoc]
    · simp [h]

/-! ## Sources that are not streams -/

theorem readSource_plain {s : State} {n : BitVec 5} (h : s.streamSlot n = none) :
    (readSource n).run s = (.ok (s.v n), s) := by
  unfold readSource
  rw [bind_get]
  simp only [h]
  rfl

theorem State.popSource_plain {s : State} {n : BitVec 5} (h : s.streamSlot n = none) : s.popSource n = s := by
  simp [State.popSource, h]

theorem State.popAll_plain {s : State} : ∀ {l : List (BitVec 5)}, s.plainV l → l.foldl State.popSource s = s
  | [], _ => rfl
  | n :: l, h => by
    rw [List.foldl_cons, State.popSource_plain (h n (by simp))]
    exact State.popAll_plain fun m hm => h m (by simp [hm])

theorem readAll_plain {s : State} : ∀ {l : List (BitVec 5)}, s.plainV l →
    (l.mapM fun n => (do let v ← readSource n; pure (n, v) : M (BitVec 5 × VWord))).run s =
      (.ok (l.map fun n => (n, s.v n)), s)
  | [], _ => rfl
  | n :: l, h => by
    have h1 : (do let v ← readSource n; pure (n, v) : M (BitVec 5 × VWord)).run s = (.ok (n, s.v n), s) :=
      bind_ok (readSource_plain (h n (by simp)))
    rw [List.mapM_cons, bind_ok h1, bind_ok (readAll_plain fun m hm => h m (by simp [hm])), run_pure]
    rfl

theorem find_read (f : BitVec 5 → VWord) (n : BitVec 5) : ∀ l : List (BitVec 5), n ∈ l →
    (l.map fun n => (n, f n)).find? (fun p => p.1 == n) = some (n, f n)
  | [], h => by simp at h
  | m :: l, h => by
    by_cases hm : m = n
    · simp [hm]
    · have hl : n ∈ l := by simpa [Ne.symm hm] using h
      rw [List.map_cons, List.find?_cons_of_neg (by simpa using hm), find_read f n l hl]

theorem read_plain (s : State) (l : List (BitVec 5)) :
    (fun n => (((l.map fun n => (n, s.v n)).find? (fun p => p.1 == n)).map (·.2)).getD (s.v n)) = s.v := by
  funext n
  by_cases h : n ∈ l
  · rw [find_read s.v n l h]; rfl
  · have : (l.map fun n => (n, s.v n)).find? (fun p => p.1 == n) = none := by simp; intro a ha hb; exact h (hb ▸ ha)
    rw [this]; rfl

/-- With no named register in stream mode a vector instruction makes its effect from the registers and completes
(R303, R306). -/
theorem vectorM_plain {s : State} {ds srcs : List (BitVec 5)} {f : (BitVec 5 → VWord) → State → State}
    (hd : s.plainV ds) (hs : s.plainV srcs) : (vectorM ds srcs f).run s = (.ok (), (f s.v s).retire) := by
  have h0 : (noStreamM ds).run s = (.ok (), s) := by
    have : (ds.any fun d => (s.streamSlot d).isSome) = false := by
      simp only [List.any_eq_false, Bool.not_eq_true]
      intro d hm; simp [hd d hm]
    unfold noStreamM
    rw [bind_get, this]
    rfl
  have h2 : srcs.dedup.foldl State.popSource s = s := State.popAll_plain fun m hm => hs m (by simpa using hm)
  unfold vectorM
  rw [bind_ok h0, bind_ok (readAll_plain hs)]
  show (Except.ok (), _) = _
  simp only [h2, read_plain]

/-! ## Element-wise instructions -/

/-- A vector instruction whose effect is one register write with flags. -/
theorem writesV_of {i : Instr} {opc tsz : Nat} {xs : List (BitVec 6)} {vs : List (BitVec 5)} {d : BitVec 5}
    {pred : BitVec 3} {w : Nat} {f : State → Nat → Nat} {fl : State → Nat → Prop} {m : M Unit}
    {g : State → VWord} {h : State → Flags} {vs' : List (BitVec 5)}
    (he : ∀ s, exec i s = vecHead opc tsz d vs' xs pred m s) (hvs : vs' = vs)
    (hm : ∀ s, s.plainV (d :: vs) → m.run s = (.ok (), ((s.setV d (g s)).raiseFlags (h s)).retire))
    (hg : wellFormed i = true → ∀ s k, k * w < 512 → velem (g s) w k = f s k)
    (hf : wellFormed i = true → ∀ s j, j < 5 → ((h s).getLsbD j = true ↔ fl s j)) : WritesV i xs vs d pred w f fl := by
  subst hvs
  intro s hr hp
  have hv := State.hasV_of_visible hr.sees (d := d) (by simp)
  have hx : exec i s = .next ((s.setV d (g s)).raiseFlags (h s)).retire := by
    rw [he, vecHead, runHead_ok hr.accepts hr.sees, hm s hp, finish]
  obtain ⟨t, ht, hb⟩ := headEnds_of_retire (u := s) hx (by simp) (by simp) (by simp) (by simp)
  refine ⟨t, h s, ht, (SameBut.setV_flags s d _ hv _).ended hb, fun k hk => ?_, fun j hj => hf hr.wf s j hj⟩
  rcases hb with rfl | rfl <;> simp [State.v_setV _ _ _ _ hv, hg hr.wf s k hk]

/-- An element-wise meaning does what `Elementwise` says. -/
theorem elementwise_of {i : Instr} {opc tsz : Nat} {xs : List (BitVec 6)} {vs : List (BitVec 5)} {d : BitVec 5}
    {t : BitVec 4} {pred : BitVec 3} {f : (BitVec 5 → VWord) → State → Nat → FRes} {op : State → Nat → FRes}
    (he : ∀ s, exec i s = vecHead opc tsz d vs xs pred (elementwise d t pred vs f) s)
    (ho : wellFormed i = true → ∀ s k, (f s.v s k).1 % 2 ^ fmtBits t = (op s k).1 % 2 ^ fmtBits t ∧
      (f s.v s k).2 = (op s k).2) : Elementwise i xs vs d t pred op := by
  refine writesV_of (m := elementwise d t pred vs f)
    (g := fun s => (mapActive (fmtBits t) (elemCount t) (s.active pred) (s.v d) (f s.v s)).1)
    (h := fun s => (mapActive (fmtBits t) (elemCount t) (s.active pred) (s.v d) (f s.v s)).2) he rfl ?_ ?_ ?_
  · intro s hp
    exact vectorM_plain (fun n hn => hp n (by simp at hn; simp [hn])) fun n hn => hp n (by simp [hn])
  · intro hwf s k hk
    have hk' := lt_elemCount.2 hk
    simp only [mapActive]
    rw [velem_vbuild _ (le_of_eq (fmtBits_elemCount t)) hk']
    split
    · exact (ho hwf s k).1
    · exact velem_mod _ _ _
  · intro hwf s j _
    simp only [mapActive, flags_fold]
    simp [(ho hwf s _).2]

end Sys2Proof.Machine
end

