-- ==== Sys2Proof/Tests/Slice0.lean ====
section
/-! SUPPORT. Tests/Slice0.lean: ill-formed terms that WellFormed refuses, the spec's own encodings through the decoder,
small one-step tests, and for each statement of Obligations.lean states and operands that meet its hypotheses. Expected
values come from the spec's worked examples or from its rules by hand; the source stands in each comment. -/

namespace Sys2Proof.Machine

set_option Elab.async false

/-! ## Helpers -/

/-- The outcome is a next state of which p holds. -/
def nextIs (o : Host.Outcome State Fault Refusal) (p : State → Bool) : Bool :=
  match o with
  | .next t => p t
  | _ => false

/-- A part of a meaning succeeds, with a result and a state of which p holds. -/
def givesSuch {α : Type} (m : M α) (s : State) (p : α → State → Bool) : Bool :=
  match m.run s with
  | (.ok a, t) => p a t
  | _ => false

theorem gives_of {α : Type} {m : M α} {s : State} {p : α → State → Bool} (h : givesSuch m s p = true) :
    ∃ a t, Gives m s a t ∧ p a t = true := by
  unfold givesSuch at h
  split at h
  · exact ⟨_, _, ‹_›, h⟩
  · cases h

theorem accepted_of {a : Accept} {i : Instr} {xs : List (BitVec 6)} {vs : List (BitVec 5)} {pred : BitVec 3} {s : State}
    (h : (wellFormed i && a.ok s && s.visible xs vs pred) = true) : Accepted a i xs vs pred s := by
  simp only [Bool.and_eq_true] at h
  exact ⟨h.1.1, h.1.2, h.2⟩

theorem ready_of {a : Accept} {i : Instr} {xs : List (BitVec 6)} {vs : List (BitVec 5)} {pred : BitVec 3} {s : State}
    (h : (wellFormed i && a.ok s && s.visible xs vs pred) = true)
    (f : (decide (headIndex s.pc < s.lineCount) || s.lineFalls) = true) : Ready a i xs vs pred s := by
  refine { accepted_of h with flows := ?_ }
  simpa [State.flows] using f

/-- Compute core 0 in machine mode, its PC at head 1 of a line of its TCM. -/
def core0 : State := State.reset.placeCore

/-- The same hart at head 3 of a line image with three heads that does not flow on. -/
def lastHead : State :=
  (core0.setPc (core0.pc + 4)).setImage ⟨lineOfPc core0.pc, BitVec.ofNat 512 0x1800⟩

/-- The handler context of core 0, in a drain run. -/
def handler0 : State :=
  { core0.modHart 0 fun h => { h with handler := { h.handler with
      run := some ⟨.drain 0, 0x2002, 0, 0, 0, 0⟩, pc := 0x2002 } } with ctx := .handler }

/-- Core 0's handler context in a scope-miss run, with its fence made or not. -/
def missRun (fenced : Bool) : State :=
  { core0.modHart 0 fun h => { h with handler := { h.handler with
      run := some ⟨.scopeMiss 0x40 2, 0x2002, 0, 0, 0, 0⟩, pc := 0x2002, fenced := fenced } } with ctx := .handler }

/-- Loader 0, running at the first head of its store. -/
def loader0 : State :=
  { State.reset.modHart 4096 fun h => { h with act := .running, main := { h.main with pc := 2 } } with cur := 4096 }

/-- The state with cr.status of the executing hart set. -/
def withStatus (s : State) (v : Word) : State := s.modMe fun h => { h with traps := { h.traps with status := v } }

/-- The same state in user mode, with a supervisor trap handler at head 1 of the line 0x4000. -/
def asUser (s : State) : State :=
  s.modMe fun h => { h with traps := { h.traps with status := 0, sup := { h.traps.sup with tvec := 0x4003 } } }

/-- The state with bytes in memory. -/
def withBytes (s : State) (a : Nat) (l : List Byte) : State := { s with mem := memPutList s.mem a l }

/-! ## WellFormed refuses an ill-formed term for each check -/

theorem test_bitfield_past_the_word_refused : wellFormed (.bfxu 1 31 33 2) = false := by decide
theorem test_bitfield_to_the_top_accepted : wellFormed (.bfi 1 31 32 2) = true := by decide
theorem test_fcvt_same_format_refused : wellFormed (.fcvt 1 0 3 3 2) = false := by decide
theorem test_fcvt_truncation_to_float_refused : wellFormed (.fcvt 1 1 0 5 2) = false := by decide
theorem test_target_head_zero_refused : wellFormed (.j 0x0020) = false := by decide
theorem test_branch_condition_reserved : wellFormed (.bc 1 1 8 2) = false := by decide
theorem test_loop_on_x0_refused : wellFormed (.loop 0 1) = false := by decide
theorem test_fence_plain_refused : wellFormed (.fence 0) = false := by decide
theorem test_tlbi_scope_zero_refused : wellFormed (.tlbiVa 0 1) = false := by decide
theorem test_tlbi_scope_five_refused : wellFormed (.tlbiAll 5) = false := by decide
theorem test_vadd_float_format_refused : wellFormed (.vadd 0 1 0 0 1 2) = false := by decide
theorem test_vector_field_c_past_v31_refused : wellFormed (.vadd 0 0 5 0 32 2) = false := by decide
theorem test_vfadd_integer_format_refused : wellFormed (.vfadd 0 1 5 0 1 2) = false := by decide
theorem test_vcmp_unsigned_on_float_refused : wellFormed (.vcmp 1 1 4 0 0 1 2) = false := by decide
theorem test_vsel_four_bit_format_refused : wellFormed (.vsel 0 1 12 0 1 2) = false := by decide
theorem test_vbcast_index_past_end_refused : wellFormed (.vbcastElement 0 5 0 16 1) = false := by decide
theorem test_vred_and_on_float_refused : wellFormed (.vred 1 3 0 0 2) = false := by decide
theorem test_vscan_reserved_operation_refused : wellFormed (.vscan 1 3 0 0 2) = false := by decide
theorem test_vtopk_shared_group_refused : wellFormed (.vtopk 4 0 0 0 0 0 1 2 4 8) = false := by decide
theorem test_vcvt_part_past_ratio_refused : wellFormed (.vcvt 0 0 0 0 2 0 0 1 1) = false := by decide
theorem test_venc_to_float_refused : wellFormed (.venc 0 0 0 0 0 1 0 1) = false := by decide
theorem test_vdec_from_float_refused : wellFormed (.vdec 0 0 0 0 1 1) = false := by decide
theorem test_estimate_fp64_refused : wellFormed (.vrcpe 0 3 0 1) = false := by decide
theorem test_load_release_refused : wellFormed (.ldD 1 0 2 0x80) = false := by decide
theorem test_scope_seven_refused : wellFormed (.ldD 1 0 2 0x38) = false := by decide
theorem test_store_acquire_refused : wellFormed (.stD 1 0 2 0x40) = false := by decide
theorem test_pc_relative_with_base_refused : wellFormed (.ldDLong 1 1 0 2 0) = false := by decide
theorem test_update_acquire_refused : wellFormed (.upd 1 0 2 0x40) = false := by decide
theorem test_updv_half_format_refused : wellFormed (.updv 1 1 0 2 3 0) = false := by decide
theorem test_pref_ordered_refused : wellFormed (.pref 0 1 0x40) = false := by decide
theorem test_unit_stride_with_register_refused : wellFormed (.vld 0 1 0 0 5 2 0) = false := by decide
theorem test_strided_four_bit_refused : wellFormed (.vld 0 1 1 0 12 2 0) = false := by decide
theorem test_queue_width_without_v_refused : wellFormed (.qrd 1 2 0 0) = false := by decide
theorem test_queue_vector_past_v31_refused : wellFormed (.qwr 32 2 1 0) = false := by decide
theorem test_copy_both_queues_refused : wellFormed (.copy 1 1 0 1 0) = false := by decide
theorem test_gather_unused_queue_refused : wellFormed (.gather 1 0 1) = false := by decide
theorem test_pitch_code_refused : wellFormed (.tmma 1 14 0 0 0) = false := by decide
theorem test_unused_counter_refused : wellFormed (.pload 0 1 2 3) = false := by decide
theorem test_drain_unused_handler_refused : wellFormed (.tdrain 1 0 0 0 1 2 3 4) = false := by decide
theorem test_screen_k_past_256_refused : wellFormed (.ascreenLong 257 1 0 0 0 0 1) = false := by decide
theorem test_trailed_store_acquire_refused : wellFormed (.sttW 1 0 2 0x40) = false := by decide

/-! ## The spec's own encodings (R196 to R210 and the examples of chapters 17 to 31) -/

theorem test_decode_bc_line_format : decodeLine 0 1 = .error .lineFormat := by decide +kernel
theorem test_decode_scalar :
    decode ⟨0x0C85, 0x1234_5678⟩ = .ok (.li32 5 0x1234_5678) ∧ decode ⟨0x0C46, 0xFFFE⟩ = .ok (.li 6 0xFFFE) ∧
    decode ⟨0x0D09, 0x8001_0033_FFFF_0000⟩ = .ok (.li64 9 0x8001_0033_FFFF_0000) ∧
    decode ⟨0x089E, 0x0000_401E⟩ = .ok (.addi 30 0x100 30) ∧ decode ⟨0x189C, 0x0005_F01C⟩ = .ok (.bfxu 28 31 0 28) := by
  decide +kernel
theorem test_decode_float :
    decode ⟨0x329C, 0x001D_C7DE⟩ = .ok (.fnmsub 28 1 28 31 30) ∧ decode ⟨0x309C, 0x0001_379C⟩ = .ok (.fdiv 28 1 30 28) := by
  decide +kernel
theorem test_decode_control :
    decode ⟨0x4240, 0x0001⟩ = .ok (.j 1) ∧ decode ⟨0x4240, 0xFFE1⟩ = .ok (.j 0xFFE1) ∧ decode ⟨0x4800, 0⟩ = .ok .ret := by
  decide +kernel
theorem test_decode_system :
    decode ⟨0x5040, 0x4000⟩ = .ok .eret ∧ decode ⟨0x5284, 0⟩ = .ok (.crr 4 0) ∧ decode ⟨0x529C, 0x440⟩ = .ok (.crr 28 0x011) ∧
    decode ⟨0x5280, 0x0004_0E8C⟩ = .ok (.crw 0 0x03A 12) ∧ decode ⟨0x5440, 0x00D0⟩ = .ok (.fence 0xD0) ∧
    decode ⟨0x544B, 0x0300⟩ = .ok (.sleep 11) ∧ decode ⟨0x5840, 0x0040⟩ = .ok .taskend ∧
    decode ⟨0x5884, 0x0185⟩ = .ok (.enq 4 0 6 5) ∧ decode ⟨0x5C89, 0x0001_0007⟩ = .ok (.waitc 9 0 0 7) := by decide +kernel
theorem test_decode_vector :
    decode ⟨0x6682, 0x0811_4340⟩ = .ok (.vcmp 2 1 4 5 0 26 0) ∧ decode ⟨0x6681, 0x0805_5002⟩ = .ok (.vcmp 1 1 1 5 2 0 2) ∧
    decode ⟨0x7681, 0x0001_4801⟩ = .ok (.vcompress 1 5 1 1) ∧ decode ⟨0x825A, 0x0001⟩ = .ok (.pcnt 26 0 1) := by
  decide +kernel
theorem test_decode_memory :
    decode ⟨0xA085, 0x0021_845B⟩ = .ok (.ldD 5 16 4 0x5B) ∧ decode ⟨0xA0A3, 0x0001_A258⟩ = .ok (.ldD 35 0 34 0x58) ∧
    decode ⟨0xA099, 0x0001_4600⟩ = .ok (.ldWu 25 0 6 0) ∧ decode ⟨0xA293, 0xDF00⟩ = .ok (.stD 19 0 31 0) ∧
    decode ⟨0xA29E, 0x0010_DD00⟩ = .ok (.stD 30 8 29 0) ∧ decode ⟨0xA89F, 0x0950⟩ = .ok (.ldf 31 0 9 0x50) ∧
    decode ⟨0xA880, 0xD500⟩ = .ok (.clre 0 21 0) := by decide +kernel
theorem test_decode_sync :
    decode ⟨0xC040, 0x0001⟩ = .ok (.barr 1) ∧ decode ⟨0xC085, 0x0000_0585⟩ = .ok (.bwait 5 22 1) ∧
    decode ⟨0xC240, 0x0049⟩ = .ok (.rollw 0 1 9) ∧ decode ⟨0xC480, 0xA006_8700⟩ = .ok (.amoFadd 0 1 26 7 0) ∧
    decode ⟨0xC488, 0x61F7_8700⟩ = .ok (.amoCas 8 1 31 30 7 0) ∧ decode ⟨0xC69F, 0x0700⟩ = .ok (.upd 31 0 7 0) ∧
    decode ⟨0xC689, 0x0006_0898⟩ = .ok (.upd 9 24 8 0x98) ∧ decode ⟨0xCC85, 0x0149⟩ = .ok (.regionSet 5 5 9) := by
  decide +kernel
theorem test_decode_matrix :
    decode ⟨0xD080, 0x0890_0800⟩ = .ok (.tload 0 2 9 8 0) ∧ decode ⟨0xD294, 0x4000_A209⟩ = .ok (.tmmaP 20 0 0 0 0 10 8 9) ∧
    decode ⟨0xD480, 0x034C⟩ = .ok (.pload 0 0 13 12) ∧ decode ⟨0xD480, 0x0001_0000⟩ = .ok .pswap ∧
    decode ⟨0xD640, 0x0002⟩ = .ok (.gbind 2) ∧ decode ⟨0xD896, 0x0F00_950B⟩ = .ok (.tdrain 22 0 15 0 0 9 20 11) ∧
    decode ⟨0xDA80, 0x4889⟩ = .ok (.tblld 1 0x22 9) ∧ decode ⟨0xDA80, 0x0001_0000⟩ = .ok .quiz := by decide +kernel
theorem test_decode_tree :
    decode ⟨0xDC86, 0x0144⟩ = .ok (.treemul 6 5 4) ∧ decode ⟨0xDC80, 0xC000_0000⟩ = .ok .tresume ∧
    decode ⟨0xDE80, 0x0009⟩ = .ok (.contract 9) := by decide +kernel
theorem test_decode_search :
    decode ⟨0xE680, 0x000A⟩ = .ok (.sframe 10) ∧ decode ⟨0xE680, 0x0040⟩ = .ok .searchend ∧
    decode ⟨0xE084, 0x0185⟩ = .ok (.tryPush 4 6 5) ∧ decode ⟨0xE040, 0x4000⟩ = .ok .fail ∧
    decode ⟨0xE040, 0x8005⟩ = .ok (.cut 5) ∧ decode ⟨0xE045, 0xC000⟩ = .ok (.mark 5) ∧
    decode ⟨0xE28D, 0xD400⟩ = .ok (.sttD 13 0 20 0) ∧ decode ⟨0xE445, 0x0009⟩ = .ok (.steal 5 9) := by decide +kernel
theorem test_decode_engines :
    decode ⟨0xE880, 0x028C⟩ = .ok (.asumm 1 2 12) ∧ decode ⟨0xEA80, 0x02CB⟩ = .ok (.ascreen 1 3 11) ∧
    decode ⟨0xEB40, 0x2ECC_0000_02CB⟩ = .ok (.ascreenLong 46 1 1 12 1 3 11) ∧ decode ⟨0xEC84, 0x1240⟩ = .ok (.xsend 4 1 9) ∧
    decode ⟨0xEE40, 0x2007⟩ = .ok (.xctlCon 2 7) ∧ decode ⟨0xFE00, 0⟩ = .ok .nop := by decide +kernel
theorem test_head_of_zeros_is_no_instruction : decode ⟨0, 0⟩ = .error .reservedEncoding := by decide +kernel
theorem test_table_word_reaches_the_decoder : decodeTableWord 48 0x401E_089E = some (.addi 30 0x100 30) := by decide +kernel

/-! ## One step each -/

/-- Core 0 with two operands in x1 and x2. -/
def withXs (a b : Word) : State := (core0.setX 1 a).setX 2 b

theorem test_reset_line_then_add_runs :
    nextIs (step ((core0.setX 30 1).withFetchWord 48 0x401E_089E)) (fun t => t.x 30 == 0x101) = true := by decide +kernel
theorem test_add_wraps : nextIs (exec (.add 3 2 1) (withXs 0xFFFF_FFFF_FFFF_FFFF 2)) (fun t => t.x 3 == 1) = true := by
  decide +kernel
theorem test_add_to_x0_discards : nextIs (exec (.add 0 2 1) (withXs 1 2)) (fun t => t.x 0 == 0 && t.pc == core0.pc + 2) = true := by
  decide +kernel
theorem test_sub_source_is_destination : nextIs (exec (.sub 1 2 1) (withXs 1 2)) (fun t => t.x 1 == 0xFFFF_FFFF_FFFF_FFFF) = true := by
  decide +kernel
theorem test_sra_counts_modulo_64 :
    nextIs (exec (.sra 3 2 1) (withXs 0x8000_0000_0000_0000 65)) (fun t => t.x 3 == 0xC000_0000_0000_0000) = true := by decide +kernel
theorem test_mulhsu_signs :
    nextIs (exec (.mulhsu 3 2 1) (withXs 0xFFFF_FFFF_FFFF_FFFF 2)) (fun t => t.x 3 == 0xFFFF_FFFF_FFFF_FFFF) = true := by
  decide +kernel
/-- R231: division by zero writes 0. -/
theorem test_div_by_zero : nextIs (exec (.div 3 2 1) ((withXs 7 0).setX 3 5)) (fun t => t.x 3 == 0) = true := by
  decide +kernel
theorem test_div_most_negative_by_minus_one :
    nextIs (exec (.div 3 2 1) (withXs 0x8000_0000_0000_0000 0xFFFF_FFFF_FFFF_FFFF)) (fun t => t.x 3 == 0x8000_0000_0000_0000) = true := by
  decide +kernel
theorem test_bfxs_extends : nextIs (exec (.bfxs 3 3 4 1) (withXs 0x80 0)) (fun t => t.x 3 == 0xFFFF_FFFF_FFFF_FFF8) = true := by
  decide +kernel
/-- 1.5 / 0 in FP64: infinity, with DZ. -/
theorem test_fdiv_by_zero :
    nextIs (exec (.fdiv 3 1 2 1) (withXs 0x3FF8_0000_0000_0000 0)) (fun t => t.x 3 == 0x7FF0_0000_0000_0000 && t.me.sys.fflags == 8) = true := by
  decide +kernel
/-- 2^24 + 1 in FP32 is a tie, and goes to the even 2^24. -/
theorem test_fadd_tie_to_even :
    nextIs (exec (.fadd 3 0 2 1) (withXs 0x4B80_0000 0x3F80_0000)) (fun t => t.x 3 == 0x4B80_0000 && t.me.sys.fflags == 1) = true := by
  decide +kernel
theorem test_call_links_and_jumps :
    nextIs (exec (.call 0x0021) core0) (fun t => t.pc == core0.pc + 64 && t.x 1 == core0.pc + 2) = true := by decide +kernel
theorem test_loop_falls_out :
    nextIs (exec (.loop 1 1) (withXs 1 0)) (fun t => t.x 1 == 0 && t.pc == core0.pc + 2) = true := by decide +kernel
/-- R201: head 3 of a line of three with F = 0 completes, and LINE_FORMAT follows. -/
theorem test_end_of_line_without_fall_through :
    nextIs (exec .nop (asUser lastHead)) (fun t =>
      t.me.traps.sup.cause == 2 && t.me.traps.sup.epc == core0.pc + 64 && t.me.traps.sup.tval == lineOfPc core0.pc) = true := by
  decide +kernel
theorem test_trap_enters_machine_mode :
    nextIs (exec (.trap 9) (core0.modMe fun h => { h with traps := { h.traps with mach := { h.traps.mach with tvec := 0x4003 } } }))
      (fun t => t.pc == 0x4002 && t.me.traps.mach.cause == 4 && t.me.traps.mach.tval == 9 && t.me.traps.mach.epc == core0.pc + 2 &&
        t.me.traps.status == 0x8802) = true := by decide +kernel
theorem test_crw_of_status_keeps_privilege :
    nextIs (exec (.crw 3 0x010 1) (withXs 0x60 0)) (fun t => t.me.traps.status == 0x62 && t.x 3 == 2) = true := by decide +kernel
theorem test_user_read_of_machine_register_is_illegal :
    nextIs (exec (.crr 3 0x015) (asUser core0)) (fun t => t.me.traps.sup.cause == 3 && t.me.traps.sup.tval == 0x5283) = true := by
  decide +kernel
/-- R311: elements wrap in their own width. -/
theorem test_vadd_bytes_wrap :
    nextIs (exec (.vadd 3 0 4 0 2 1) ((core0.setV 1 0x01FF).setV 2 0x0101)) (fun t => t.v 3 == 0x0200) = true := by decide +kernel
theorem test_vadd_masked_element_stays :
    nextIs (exec (.vadd 3 0 5 1 2 1) ((((core0.setV 1 1).setV 2 1).setV 3 (0x5 <<< 32)).setP 1 1)) (fun t => t.v 3 == 0x5 <<< 32 + 2) = true := by
  decide +kernel
theorem test_vcompress_packs :
    nextIs (exec (.vcompress 3 5 1 1) ((core0.setV 1 0x0000_0003_0000_0002_0000_0001).setP 1 5))
      (fun t => t.v 3 == 0x0000_0003_0000_0001) = true := by decide +kernel
theorem test_pnot_of_p0_is_zero : nextIs (exec (.pnot 1 0) core0) (fun t => t.p 1 == 0) = true := by decide +kernel
/-- A store waits in the buffer; the load behind it reads it (R40, R92). -/
theorem test_load_sees_buffered_store :
    nextIs (exec (.stW 2 0 1 0) (withXs (core0.tcmVa 0 0x2000) 0x1_8000_0007)) (fun t =>
      nextIs (exec (.ldW 3 0 1 0) t) (fun u => u.x 3 == 0xFFFF_FFFF_8000_0007)) = true := by decide +kernel
theorem test_load_sign_extends_byte :
    nextIs (exec (.ldB 3 1 1 0) (withBytes (withXs (core0.tcmVa 0 0x2000) 0) (tcmHome 0 0x2000) [0x11, 0x80]))
      (fun t => t.x 3 == 0xFFFF_FFFF_FFFF_FF80) = true := by decide +kernel
theorem test_misaligned_load_traps :
    nextIs (exec (.ldD 3 4 1 0) (asUser (withXs (core0.tcmVa 0 0x2000) 0)))
      (fun t => t.me.traps.sup.cause == 8 && t.me.traps.sup.tval == core0.tcmVa 0 0x2004) = true := by decide +kernel
theorem test_store_retires :
    nextIs (exec (.stD 2 0 1 0) (withXs (core0.tcmVa 0 0x2000) 0x55)) (fun t =>
      nextIs (exec (.storeBufferRetire 0 0) t) (fun u => memNat u.mem (tcmHome 0 0x2000) 8 == 0x55 && u.me.mem.sb == [])) = true := by
  decide +kernel
theorem test_ldf_of_empty_word_waits :
    nextIs (exec (.ldf 3 0 1 0) (withXs (core0.padVa 0 0x1000) 0)) (fun t => t.pc == core0.pc && t.me.park.isSome) = true := by
  decide +kernel
/-- The reset qctl names the loader as consumer: OPERAND comes before QUEUE_DISABLED (R49, R183). -/
theorem test_read_by_another_hart_traps :
    nextIs (exec (.qrd 3 0 0 1) (asUser core0)) (fun t => t.me.traps.sup.cause == 5 && t.me.traps.sup.tval == 0) = true := by decide +kernel
theorem test_tzero_tags_the_tile :
    nextIs (exec (.tzero ⟨0, 0⟩ 3) (core0.modMe fun h => { h with mat := { h.mat with afmt := 2 } })) (fun t => (t.tile 3).tag == 2) = true := by
  decide +kernel
theorem test_pswap_enters_the_queue : nextIs (exec .pswap core0) (fun t => t.me.engine.queue.length == 1) = true := by decide +kernel
theorem test_bell_arrival_is_sent :
    nextIs (exec (.rollw 3 1 1) (withXs 0x8001_0033_FFFF_0000 0)) (fun t => t.x 3 == 0 &&
      nextIs (exec (.crr 4 0x041) t) (fun u => u.x 4 == 0x8001_0033_FFFF_0000)) = true := by decide +kernel
theorem test_event_turn_runs_no_encoded_instruction :
    nextIs (step { core0 with turns := [⟨.event (.li 3 7), 0, 0⟩] }) (fun t => t.x 3 == 0) = true := by decide +kernel
theorem test_event_not_enabled_changes_nothing :
    nextIs (exec (.chunkRetirement 5) core0) (fun t => t == core0) = true := by decide +kernel
theorem test_device_reset_keeps_dram :
    nextIs (exec .deviceReset (withBytes (withBytes core0 0x1000 [7]) (tcmHome 0 0x10) [9]))
      (fun t => memGet t.mem 0x1000 == 7 && memGet t.mem (tcmHome 0 0x10) == 0 && t.cur == 12288) = true := by decide +kernel
theorem test_power_cap_out_of_range_ignored :
    nextIs (exec (.smbusWritePowerCap 2901 (packetError ([0x94, 0x10] ++ bytesOf 2901 2))) core0) (fun t => t.board.capNext == 2400) = true := by decide +kernel

/-! ## Witnesses: states and operands that meet the hypotheses of the statements -/

/-- Core 0 executes normally every well-formed head that a compute core's main context accepts. -/
theorem ready_core0 {a : Accept} {i : Instr} (xs : List (BitVec 6)) (vs : List (BitVec 5)) (pred : BitVec 3)
    (w : wellFormed i = true) (m : a.main = true) : Ready a i xs vs pred core0 := by
  refine ready_of ?_ (by decide +kernel)
  rw [w, show a.ok core0 = a.main from rfl, m, show core0.visible xs vs pred = true from rfl]
  rfl

/-- So does core 0 with any values in x1 and x2. -/
theorem accepted_withXs {a : Accept} {i : Instr} (v w : Word) (xs : List (BitVec 6)) (vs : List (BitVec 5)) (pred : BitVec 3)
    (h : wellFormed i = true) (m : a.main = true) : Accepted a i xs vs pred (withXs v w) :=
  ⟨h, by
    have h1 : (withXs v w).cur = core0.cur := by simp [withXs]
    have h2 : (withXs v w).ctx = core0.ctx := by simp [withXs]
    unfold Accept.ok
    rw [h1, h2]
    exact m, by
    have h2 : (withXs v w).ctx = core0.ctx := by simp [withXs]
    unfold State.visible
    rw [h2]
    rfl⟩

theorem witness_EncodeDecodeRoundTrip :
    wellFormed (.bfxu 63 31 32 63) = true ∧ encode (.bfxu 63 31 32 63) = some ⟨0x18BF, 0x0005_F83F⟩ ∧
    decode ⟨0x18BF, 0x0005_F83F⟩ = .ok (.bfxu 63 31 32 63) ∧
    wellFormed (.addi 0 0x3FF_FFFF 63) = true ∧ encode (.addi 0 0x3FF_FFFF 63) = some ⟨0x0880, 0xFFFF_FFFF⟩ ∧
    decode ⟨0x0880, 0xFFFF_FFFF⟩ = .ok (.addi 0 0x3FF_FFFF 63) := by decide +kernel

theorem witness_IntegerArithmeticAndLogic :
    Ready acceptAll (.add 0 63 0) [0, 63, 0] [] 0 core0 ∧ Ready acceptAll (.sltiLong 63 0xFFF_FFFF_FFFF_FFFF 0) [63, 0] [] 0 core0 ∧
    Ready acceptAll (.sel 1 2 3 4) [1, 2, 3, 4] [] 0 core0 :=
  ⟨ready_core0 _ _ _ rfl rfl, ready_core0 _ _ _ rfl rfl, ready_core0 _ _ _ rfl rfl⟩

theorem witness_ShiftsRotatesMultiplyDivide :
    Ready acceptAll (.rori 1 63 2) [1, 2] [] 0 core0 ∧ Ready acceptAll (.remu 0 0 0) [0, 0, 0] [] 0 core0 :=
  ⟨ready_core0 _ _ _ rfl rfl, ready_core0 _ _ _ rfl rfl⟩

/-- A field that ends at bit 63 is the boundary of the bit-field instructions. -/
theorem witness_BitCountsFieldsAndAddresses :
    Ready acceptAll (.bfxs 1 63 0 2) [1, 2] [] 0 core0 ∧ Ready acceptAll (.bfi 1 0 63 2) [1, 2] [] 0 core0 ∧
    Ready acceptAll (.clz 1 2) [1, 2] [] 0 core0 :=
  ⟨ready_core0 _ _ _ rfl rfl, ready_core0 _ _ _ rfl rfl, ready_core0 _ _ _ rfl rfl⟩

/-- Of operands: both NaNs, an infinity, both zeros, and 2.5, which lies half-way between the integers 2 and 3. -/
theorem witness_ScalarFloatResults :
    Ready acceptCompute (.fmadd 1 1 2 3 4) [1, 2, 3, 4] [] 0 core0 ∧ Ready acceptCompute (.fcvt 1 1 6 3 2) [1, 2] [] 0 core0 ∧
    fdecode fp32 0x7F80_0001 = .nan true ∧ fdecode fp32 0x7FC0_0000 = .nan false ∧ fdecode fp16 0xFC00 = .inf true ∧
    fdecode fp32 0x8000_0000 = .fin true 0 (-149) ∧ fsign fp32 0x8000_0000 = true ∧ fsign fp32 0 = false ∧
    fdecode fp32 0x4020_0000 = .fin false 0xA0_0000 (-22) ∧
    |((2 : Int) : ℝ) - (1 * ((0xA0_0000 : Nat) : ℝ) * (2 : ℝ) ^ (-22 : Int))| = 1 / 2 :=
  ⟨ready_core0 _ _ _ rfl rfl, ready_core0 _ _ _ rfl rfl, by decide +kernel, by decide +kernel, by decide +kernel, by decide +kernel,
    by decide +kernel, by decide +kernel, by decide +kernel, by norm_num⟩

/-- Finite operands at the edges: the largest, the smallest and an exactly zero sum. -/
theorem witness_RoundingIsNearestEven :
    fdecode fp32 0x7F7F_FFFF = .fin false 0xFF_FFFF 104 ∧ fdecode fp32 0x8000_0001 = .fin true 1 (-149) ∧
    fdecode fp64 0x3FF0_0000_0000_0000 = .fin false 0x10_0000_0000_0000 (-52) ∧
    fdecode fp16 0x3C00 = .fin false 0x400 (-10) ∧ fdecode bf16 0x3F80 = .fin false 0x80 (-7) := by decide +kernel

theorem witness_ControlTransfersGoWhereTheRulesSay :
    Ready acceptAll (.bc 1 0x0021 7 2) [1, 2] [] 0 (withXs 0 0) ∧ Accepted acceptAll (.bcLong 1 0xFFFF_FFE1 0 2) [1, 2] [] 0 (withXs 3 3) ∧
    (withXs 3 3).x 1 = (withXs 3 3).x 2 ∧ Accepted acceptAll (.call 1) [] [] 0 core0 ∧
    Accepted acceptAll (.loop 1 0x001F) [1] [] 0 (withXs 0 0) ∧ (withXs 0 0).x 1 - 1 ≠ 0 ∧
    Accepted acceptAll .ret [] [] 0 lastHead :=
  ⟨ready_of rfl (by decide +kernel), accepted_withXs _ _ _ _ _ rfl rfl, rfl, ⟨rfl, rfl, rfl⟩, accepted_withXs _ _ _ _ _ rfl rfl,
    by decide +kernel, ⟨rfl, rfl, rfl⟩⟩

/-- Head 1 of 3, head 3 of 3 with F = 0, and head 3 of 3 with F = 1. -/
theorem witness_SequentialFlow :
    (∃ im, lastHead.image = some im ∧ Accepted acceptAll .nop [] [] 0 lastHead ∧ lineN im.bytes ≤ headIndex lastHead.pc ∧
      lineF im.bytes = false) ∧
    (∃ im, (lastHead.setPc core0.pc).image = some im ∧ headIndex core0.pc < lineN im.bytes) ∧
    (let s := lastHead.setImage ⟨lineOfPc core0.pc, BitVec.ofNat 512 0x1C00⟩
     ∃ im, s.image = some im ∧ lineN im.bytes ≤ headIndex s.pc ∧ lineF im.bytes = true) :=
  ⟨⟨_, rfl, ⟨rfl, rfl, rfl⟩, by decide +kernel⟩, ⟨_, rfl, by decide +kernel⟩, ⟨_, rfl, by decide +kernel⟩⟩

/-- Both levels: from user and supervisor mode, and from supervisor mode with SIT 1 (MIT 0 and 1), and a service core. -/
theorem witness_TrapEntryOnComputeAndServiceCores :
    (let s := asUser core0
     s.ctx = .main ∧ kindOf s.cur = 0 ∧ bits s.me.traps.status 1 0 = 0 ∧ headIndex s.me.traps.sup.tvec ≠ 0) ∧
    (let s := (withStatus core0 0x401).modMe fun h => { h with traps := { h.traps with mach := { h.traps.mach with tvec := 0x3E } } }
     bits s.me.traps.status 1 0 = 1 ∧ bit s.me.traps.status 10 = true ∧ bit s.me.traps.status 11 = false ∧
     headIndex s.me.traps.mach.tvec ≠ 0) ∧
    (let s := (withStatus core0 0xC01).modMe fun h => { h with traps := { h.traps with mach := { h.traps.mach with tvec := 0x3E } } }
     bits s.me.traps.status 1 0 = 1 ∧ bit s.me.traps.status 10 = true ∧ bit s.me.traps.status 11 = true ∧
     trapLevel (kindOf s.cur) s.me.traps.status = some 2 ∧ headIndex s.me.traps.mach.tvec ≠ 0) ∧
    kindOf State.reset.cur = 3 ∧ State.reset.ctx = .main := by decide +kernel

/-- A double trap without a level (MIT 1) and one without a vector; a loader's trap; a handler's trap. -/
theorem witness_TrapsThatStopOrEndARun :
    trapLevel (kindOf core0.cur) (withStatus core0 0x802).me.traps.status = none ∧ core0.fencedCore core0.cur = false ∧
    (∃ level, trapLevel (kindOf core0.cur) core0.me.traps.status = some level ∧ headIndex (core0.me.traps.vector level) = 0) ∧
    (hartExists loader0.cur = true ∧ kindOf loader0.cur = 1 ∧ loader0.ctx = .main) ∧ handler0.ctx = .handler ∧
    (let s := { missRun false with holds := [(0x40, ⟨0, 1, 2, false, true, false, none⟩)] }
     s.ctx = .handler ∧ s.me.handler.run = some ⟨.scopeMiss 0x40 2, 0x2002, 0, 0, 0, 0⟩ ∧
       tget s.holds 0x40 = some ⟨0, 1, 2, false, true, false, none⟩ ∧ s.cur = 0) := by
  refine ⟨by decide +kernel, by decide +kernel, ⟨2, by decide +kernel⟩, by decide +kernel, rfl, by decide +kernel⟩

theorem witness_TrapAndReturns :
    (core0.ctx = .main ∧ core0.prv = 2 ∧ bits core0.me.traps.status 15 14 ≠ 3) ∧
    ((withStatus core0 1).prv = 1 ∧ (withStatus core0 0).prv = 0 ∧ bits (withStatus core0 0xC002).me.traps.status 15 14 = 3) ∧
    (core0.modMe fun h => { h with sys := { h.sys with uhandler := 0x4003 } }).onCore ∧
    bit (core0.modMe fun h => { h with sys := { h.sys with uhandler := 0x4003 } }).me.sys.uhandler 0 = true ∧
    core0.onCore ∧ bit core0.me.sys.uhandler 0 = false ∧ kindOf handler0.cur = 0 ∧ handler0.ctx = .handler := by
  unfold State.onCore
  decide +kernel

/-- A readable and writable register, a guarded one in the handler context, and CRS with a zero and a nonzero operand. -/
theorem witness_ControlRegisterAccess :
    (∃ r, crRule 0x014 = some r ∧ r.holds (kindOf core0.cur) = true ∧ r.read ≤ core0.prv ∧ ∃ w, r.write = some w ∧ w ≤ core0.prv) ∧
    Ready acceptAll (.crw 1 0x014 2) [1, 2] [] 0 (withXs 0 0x4002) ∧ Ready acceptAll (.crs 1 0x014 2) [1, 2] [] 0 core0 ∧
    core0.x 2 = 0 ∧ (withXs 0 0x4002).x 2 ≠ 0 ∧ (core0.crWrite core0.cur 2 0x014 0x4002).isSome = true ∧
    (core0.crWrite core0.cur 1 0x060 0xFFF).isSome = true ∧
    (handler0.ctx = .handler ∧ Accepted acceptAll (.crs 1 0x014 2) [1, 2] [] 0 handler0) ∧
    (core0.flows ∧ Accepted acceptAll (.crr 1 0x014) [1] [] 0 core0 ∧ Accepted acceptAll (.crc 1 0x014 2) [1, 2] [] 0 core0) ∧
    kindOf core0.cur = 0 :=
  ⟨⟨_, rfl, by decide +kernel, by decide +kernel, ⟨_, rfl, by decide +kernel⟩⟩, ready_of rfl (by decide +kernel),
    ready_core0 _ _ _ rfl rfl, by decide +kernel, by decide +kernel, by decide +kernel, by decide +kernel,
    ⟨rfl, accepted_of (by decide +kernel)⟩, ⟨(ready_core0 (a := acceptAll) (i := .nop) [] [] 0 rfl rfl).flows, ⟨rfl, rfl, rfl⟩, ⟨rfl, rfl, rfl⟩⟩, by decide +kernel⟩

/-- A number outside the table, a register below its privilege and a read-only register. -/
theorem witness_ControlRegisterPrivilege :
    crRule 0xFFF = none ∧ (∃ r, crRule 0x014 = some r ∧ (withStatus core0 0).prv < r.read) ∧
    (∃ r, crRule 0x000 = some r ∧ r.write = none) ∧ Accepted acceptAll (.crr 1 0xFFF) [1] [] 0 core0 ∧
    Accepted acceptAll (.crs 1 0 2) [1, 2] [] 0 (withXs 0 1) ∧ (withXs 0 1).x 2 ≠ 0 ∧
    (kindOf loader0.cur ≠ 0 ∧ Accepted acceptAll (.crw 1 0x4F 2) [1, 2] [] 0 loader0) :=
  ⟨rfl, ⟨_, rfl, by decide +kernel⟩, ⟨_, rfl, rfl⟩, ⟨rfl, rfl, rfl⟩, accepted_withXs _ _ _ _ _ rfl rfl, by decide +kernel,
    ⟨by decide +kernel, accepted_of (by decide +kernel)⟩⟩

/-- Each kind and context in turn. -/
theorem witness_HeadsNotAcceptedAreIllegal :
    (kindOf handler0.cur = 0 ∧ handler0.ctx = .handler) ∧ kindOf loader0.cur = 1 ∧
    kindOf ({ loader0 with cur := 8192 + 4095 } : State).cur = 2 ∧ kindOf State.reset.cur = 3 := by decide +kernel

theorem witness_MemoryFormKeptByEveryStep :
    (withBytes core0 0 [1, 2]).MemOk ∧ nextIs (step ((withBytes core0 0 [1, 2]).withFetchWord 48 0x401E_089E)) (fun _ => true) = true :=
  ⟨⟨by decide +kernel, by intro e h; cases h⟩, by decide +kernel⟩

/-- A held image, a fetch, a line of zeros, a hart that cannot run, a run that has ended, an interrupt and an event turn. -/
theorem witness_StepRunsDecodedInstruction :
    (core0.turns = [] ∧ hartExists core0.cur = true ∧ core0.canRun core0.cur = true ∧ core0.me.stopReq = false ∧
      core0.interruptFor core0.cur = none ∧ core0.userEventFor core0.cur = none) ∧
    (∃ im, lastHead.image = some im ∧ im.addr = lineOfPc lastHead.pc ∧ decodeLine im.bytes (headIndex lastHead.pc) = .error .reservedEncoding) ∧
    (∃ im u, Gives (fetchImage (lineOfPc core0.pc)) core0 im u ∧
      (decide (decodeLine im.bytes (headIndex core0.pc) = .error .lineFormat)) = true) ∧
    handler0.me.handler.run.isSome = true ∧ (core0.modMe fun h => { h with halted := true }).canRun 0 = false ∧
    (((withStatus core0 0x82).modMe fun h =>
      { h with traps := { h.traps with pend := { h.traps.pend with service := some 7 } } }).interruptFor 0).isSome = true ∧
    encode (.chunkRetirement 0) = none ∧ (encode (.li 3 7)).isSome = true := by
  refine ⟨by decide +kernel, ⟨_, rfl, by decide +kernel⟩, gives_of (by decide +kernel), by decide +kernel, by decide +kernel,
    by decide +kernel, by decide +kernel, by decide +kernel⟩

/-- No register of core 0 is in stream mode. -/
theorem plain_core0 (vs : List (BitVec 5)) : core0.plainV vs := by
  have h : ∀ n : BitVec 5, core0.streamSlot n = none := by decide +kernel
  exact fun n _ => h n

/-- A successor for the head exists, as a test of it. -/
def flowsIn (s : State) : Bool := decide (headIndex s.pc < s.lineCount) || s.lineFalls

/-- A store waits in the buffer of core 0, so that its accesses are not all performed. -/
def storing : State := core0.pushStore (.fence 2 false) 0 false

/-- Core 0 waits for a reason since cycle 0, with a limit that has passed. -/
def waited (why : Why) : State := core0.modMe fun h => { h with park := some ⟨why, 0, some 0, none⟩ }

theorem witness_FencesAndWaits :
    Ready acceptAll (.fence 0x50) [] [] 0 core0 ∧ qualOrd 0x50 = 1 ∧ Ready acceptAll (.fence 0x90) [] [] 0 core0 ∧ qualOrd 0x90 = 2 ∧
    Ready acceptAll (.fence 0xF0) [] [] 0 core0 ∧ qualOrd 0xF0 = 3 ∧ core0.drained core0.cur (qualScope 0xF0) = true ∧
    storing.drained storing.cur (qualScope 0xD0) = false ∧ core0.me.mem.sb = [] ∧ storing.me.mem.sb ≠ [] ∧
    core0.parkedAs .pause = none ∧ (∃ p, (waited .pause).parkedAs .pause = some p ∧ (waited .pause).parkOver p = true) ∧
    core0.me.anyPending = false ∧ (∃ p, (waited .sleep).parkedAs .sleep = some p ∧ (waited .sleep).parkOver p = true) ∧
    (Accepted acceptAll (.fence 0xF0) [] [] 0 (missRun false) ∧ (missRun false).drained 0 3 = true ∧ (missRun false).ctx = .handler ∧
      (missRun false).me.handler.run = some ⟨.scopeMiss 0x40 2, 0x2002, 0, 0, 0, 0⟩) ∧
    Ready acceptAll .fenceI [] [] 0 core0 ∧ Accepted acceptAll .fenceI [] [] 0 lastHead ∧ lastHead.me.mem.sb = [] ∧ ¬ lastHead.flows :=
  ⟨ready_core0 _ _ _ rfl rfl, rfl, ready_core0 _ _ _ rfl rfl, rfl, ready_core0 _ _ _ rfl rfl, rfl, by decide +kernel,
    by decide +kernel, by decide +kernel, by decide +kernel, by decide +kernel, ⟨⟨.pause, 0, some 0, none⟩, by decide +kernel, by decide +kernel⟩,
    by decide +kernel, ⟨⟨.sleep, 0, some 0, none⟩, by decide +kernel, by decide +kernel⟩,
    ⟨accepted_of (by decide +kernel), by decide +kernel⟩, ready_core0 _ _ _ rfl rfl, ⟨rfl, rfl, rfl⟩, by decide +kernel,
    by unfold State.flows; decide +kernel⟩

/-- A table of four nodes for address 0: read, write, user, accessed and dirty, at page 0x50000. -/
def paged : State :=
  withBytes (withBytes (withBytes (withBytes core0 0x10000 (bytesOf 0x20001 8)) 0x20000 (bytesOf 0x30001 8))
    0x30000 (bytesOf 0x40001 8)) 0x40000 (bytesOf 0x500D7 8)

/-- The same with the root set. -/
def rooted : State := paged.modMe fun h => { h with sys := { h.sys with ptbase := 0x10000 } }

theorem witness_TranslationAndItsInvalidation :
    Ready ⟨true, true, false, true⟩ (.tlbiVa 4 1) [1] [] 0 core0 ∧ Ready ⟨true, true, false, true⟩ (.tlbiRng 1 1 2) [1, 2] [] 0 core0 ∧
    kindOf core0.cur = 0 ∧ core0.prv ≠ 0 ∧ core0.me.mem.sb = [] ∧ (withStatus core0 0).prv = 0 ∧ storing.me.mem.sb ≠ [] ∧
    (let e (a : Nat) := BitVec.ofNat 64 (memNat paged.mem a 8)
     e 0x10000 = 0x20001 ∧ e 0x20000 = 0x30001 ∧ e 0x30000 = 0x40001 ∧ e 0x40000 = 0x500D7 ∧
     tlbHit (paged.hart 0).mem.tlb 0x10000 0 = none ∧ tlbHit (paged.cluster 0).tlb 0x10000 0 = none ∧
     tlbHit (paged.die 0).tlb 0x10000 0 = none ∧ paged.poison = [] ∧ paged.tags = [] ∧ paged.holds = [] ∧ paged.waiters = []) ∧
    bit (BitVec.ofNat 64 (memNat core0.mem 0x10000 8)) 0 = false ∧
    Accepted ⟨true, true, false, true⟩ (.tlbiRng 1 1 2) [1, 2] [] 0 storing ∧ storing.prv ≠ 0 ∧
    Accepted ⟨true, true, false, true⟩ (.tlbiAll 4) [] [] 0 (withStatus core0 0) ∧
    (∀ a, paged.inSpill a = false) ∧ (∀ d, (paged.die d).gutter = []) ∧ (hartExists 0 = true ∧ rooted.rootOf 0 = 0x10000) ∧
    (withXs 0 0).x 1 = 0 ∧ (withXs 0x10000 0).x 1 ≠ 0 := by
  refine ⟨ready_core0 _ _ _ rfl rfl, ready_core0 _ _ _ rfl rfl, ?_, ?_, ?_, ?_, ?_, ?_, ?_, accepted_of (by decide +kernel), ?_,
    accepted_of (by decide +kernel), fun a => by simp [State.inSpill, show paged.dies = [] from rfl], fun d => rfl, ?_, ?_, ?_⟩ <;>
    decide +kernel

/-- Targets 4,095 and 4,096; no message and the sixteenth outstanding; a counter at and below its threshold. -/
theorem witness_MessagesAndCounters :
    Accepted acceptAll (.msg 63 3 1 1 2) [1, 2] [] 0 (withXs (core0.padVa 0 0) 0xFFF) ∧
    (∃ data u, Gives (loadBytes ((withXs (core0.padVa 0 0) 0xFFF).x 1) 64) (withXs (core0.padVa 0 0) 0xFFF) data u ∧
      (flowsIn u && decide (data.length = 64)) = true) ∧
    4096 ≤ ((withXs 0 0x1000).x 2).toNat ∧ core0.msgsOut core0.cur < 16 ∧
    16 ≤ ({ core0 with net := List.replicate 16 (.msg 0 1 0 [] 0 0) } : State).msgsOut 0 ∧
    0 ≤ (core0.counter core0.cur 7 - ((withXs 0 0).x 2).setWidth 32).toInt ∧
    (core0.counter core0.cur 7 - ((withXs 0 1).x 2).setWidth 32).toInt < 0 ∧
    (∃ p, (waited .counter).parkedAs .counter = some p ∧ (waited .counter).parkOver p = true) :=
  ⟨accepted_withXs _ _ _ _ _ rfl rfl, gives_of (by decide +kernel), by decide +kernel, by decide +kernel, by decide +kernel,
    by decide +kernel, by decide +kernel, ⟨⟨.counter, 0, some 0, none⟩, by decide +kernel, by decide +kernel⟩⟩

/-- A drain run whose row goes to a unit that core 1 has tagged and that is held. -/
def drainHeld : State :=
  { handler0.modHart 0 fun h => { h with engine := { h.engine with
      run := some (core0.sample (.drain 0 64 1 false (some 0x2002) 0 0 64 [[⟨0x40, 64, 0x40, false⟩]]) none, 0) } } with
    tags := [(0x40, ⟨1, 0, false, false⟩)], holds := [(0x40, ⟨1, 0, 1, false, true, false, none⟩)] }

theorem witness_HandlerContextControl :
    Ready acceptMain .hctlHold [] [] 0 core0 ∧ core0.prv ≠ 0 ∧ core0.me.handler.run = none ∧
    ({ handler0 with ctx := .main } : State).me.handler.run ≠ none ∧ (withStatus core0 0).prv = 0 ∧
    (∃ r, (missRun true).me.handler.run = some r ∧ r.kind = .scopeMiss 0x40 2 ∧ (missRun true).me.handler.fenced = true) ∧
    (missRun false).drained 0 2 = true ∧ ((missRun false).pushStore (.fence 2 false) 0 false).drained 0 2 = false ∧
    (∃ r, handler0.me.handler.run = some r ∧ r.kind = .drain 0) ∧ handler0.me.mem.sb = [] ∧
    (handler0.spansWait 0 (handler0.rowSpans 0 0)).1 = false ∧
    (drainHeld.me.mem.sb = [] ∧ (drainHeld.spansWait 0 (drainHeld.rowSpans 0 0)).1 = true) :=
  ⟨ready_core0 _ _ _ rfl rfl, by decide +kernel, by decide +kernel, by decide +kernel, by decide +kernel,
    ⟨⟨.scopeMiss 0x40 2, 0x2002, 0, 0, 0, 0⟩, by decide +kernel⟩, by decide +kernel, by decide +kernel,
    ⟨⟨.drain 0, 0x2002, 0, 0, 0, 0⟩, by decide +kernel⟩, by decide +kernel, by decide +kernel, by decide +kernel⟩

/-- A record at the start of the scratchpad: entry at head 1, and the same with head index 0. -/
def recordAt (entry : Nat) : State :=
  withBytes (withXs (core0.tcmVa 0 0x1000) (core0.padVa 0 0)) (padHome 0 0) (bytesOf entry 8)

/-- The dispatcher of cluster 0 with 1,024 records in its SRAM. -/
def crowded : State :=
  core0.modDisp 0 fun d => { d with tasks := List.replicate 1024 ⟨⟨0x4002, 0, 0, 0⟩, 1, some 0, 0, none, none⟩ }

theorem witness_TaskInstructions :
    Accepted ⟨true, true, false, false⟩ (.spawn 3 2) [3, 2] [] 0 (recordAt 0x4002) ∧ ((recordAt 0x4002).x 2).toNat % 32 = 0 ∧
    (∃ r u, Gives (recordM ((recordAt 0x4002).x 2)) (recordAt 0x4002) r u ∧
      (flowsIn u && u.drained u.cur 4 && !recordBad r && decide (u.repliesDue u.cur < 64)) = true) ∧
    (∃ r u, Gives (recordM ((recordAt 0x4000).x 2)) (recordAt 0x4000) r u ∧ recordBad r = true) ∧
    ((withXs 0 16).x 2).toNat % 32 ≠ 0 ∧
    (∃ home u, Gives (statusM ((recordAt 0x4002).x 1)) (recordAt 0x4002) home u ∧ (home == tcmHome 0 0x1000) = true) ∧
    (∃ l u, Gives (patchM 0) core0 l u ∧ flowsIn u = true) ∧
    (loader0.ctx = .main ∧ hartExists loader0.cur = true ∧ (withStatus loader0 0).prv ≠ 2) ∧
    ((crowded.cluster 0).disp.room 0 = none ∧ (core0.cluster 0).disp.room 0 = some none ∧ core0.queuePlace 0 0 = (0, 0) ∧
      ((core0.cluster 0).disp.queue 0).isSome = true) ∧
    (Accepted ⟨true, true, false, true⟩ (.enq 4 0 1 2) [4, 1, 2] [] 0 (withXs 4 0) ∧ ((withXs 4 0).x 1).toNat % 8 ≠ 0 ∧
      (core0.windowOf 0 (core0.padVa 0 0).toNat).1 ≠ .tcm ∧ kindOf State.reset.cur = 3 ∧ State.reset.rootOf 12288 = 0) ∧
    (let s := (withStatus core0 1).modMe fun h => { h with runs := { h.runs with fifo := [⟨.scopeMiss 0x40 2, 0x2002, 0, 0, 0, 0⟩] } }
     let t := { s with holds := [(0x40, ⟨0, 1, 2, false, true, false, none⟩)] }
     t.me.runs.fifo.length = 1 ∧ tget t.holds 0x40 = some ⟨0, 1, 2, false, true, false, none⟩ ∧ t.cur = 0) ∧
    (core0.onCore ∧ core0.prv = 2 ∧ (withStatus core0 0).prv = 0 ∧ (withStatus core0 1).prv = 1) := by
  refine ⟨accepted_of (by decide +kernel), by decide +kernel, gives_of (by decide +kernel), gives_of (by decide +kernel),
    by decide +kernel, gives_of (by decide +kernel), gives_of (by decide +kernel), by decide +kernel, by decide +kernel,
    ⟨accepted_of (by decide +kernel), by decide +kernel⟩, by decide +kernel, ?_⟩
  unfold State.onCore
  decide +kernel

theorem witness_VectorIntegerElements :
    Ready acceptCompute (.vadd 31 0 4 7 31 31) [] [31, 31, 31] 7 core0 ∧ core0.plainV [31, 31, 31] ∧
    Ready acceptCompute (.vsra 1 1 6 0 63 2) (xsOfC 1 63) [1, 2] 0 core0 ∧ Ready acceptCompute (.vliQ 3 0) [] [3] 0 core0 :=
  ⟨ready_core0 _ _ _ rfl rfl, plain_core0 _, ready_core0 _ _ _ rfl rfl, ready_core0 _ _ _ rfl rfl⟩

theorem witness_VectorFloatElements :
    Ready acceptCompute (.vfadd 1 0 3 0 31 2) [] [1, 2, 31] 0 core0 ∧ core0.plainV [1, 2, 31] ∧
    Ready acceptCompute (.vfma 1 1 3 0 0 4 2) [4] [1, 2, 3] 0 core0 ∧ Ready acceptCompute (.vexpe 1 2 0 2) [] [1, 2] 0 core0 :=
  ⟨ready_core0 _ _ _ rfl rfl, plain_core0 _, ready_core0 _ _ _ rfl rfl, ready_core0 _ _ _ rfl rfl⟩

/-- The last element of each width is the boundary of an element index. -/
theorem witness_VectorRearrangement :
    Ready acceptCompute (.vmovx 1 4 63 2) [1] [2] 0 core0 ∧ Ready acceptCompute (.vmovv 1 6 7 2) [2] [1] 0 core0 ∧
    Ready acceptCompute (.vbcastElement 1 5 0 15 2) [] [1, 2] 0 core0 ∧ Ready acceptCompute (.vslide 1 1 2 11 0 3 4) [3] [1, 4, 2] 0 core0 ∧
    core0.plainV [1, 2, 4] :=
  ⟨ready_core0 _ _ _ rfl rfl, ready_core0 _ _ _ rfl rfl, ready_core0 _ _ _ rfl rfl, ready_core0 _ _ _ rfl rfl, plain_core0 _⟩

theorem witness_VectorReductionsAndScans :
    Ready acceptCompute (.vred 1 5 6 1 2) [1] [2] 1 core0 ∧ Ready acceptCompute (.vscanx 1 2 3 0 2) [] [1, 2] 0 core0 ∧
    core0.plainV [2] :=
  ⟨ready_core0 _ _ _ rfl rfl, ready_core0 _ _ _ rfl rfl, plain_core0 _⟩

theorem witness_VectorCompareAndPredicates :
    Ready ⟨true, false, false, true⟩ (.vcmp 7 0 6 3 0 31 2) [] [] 0 core0 ∧ core0.plainV [2, 31] ∧
    Ready ⟨true, false, false, true⟩ (.pnot 0 7) [] [] 0 core0 ∧ Ready ⟨true, false, false, true⟩ (.pfirst 1 0 7) [1] [] 0 core0 :=
  ⟨ready_core0 _ _ _ rfl rfl, plain_core0 _, ready_core0 _ _ _ rfl rfl, ready_core0 _ _ _ rfl rfl⟩

/-- K of 0, 64 and 65. -/
theorem witness_TopKSelection :
    Ready ⟨true, false, false, true⟩ (.vtopk 28 1 1 0 7 7 1 2 24 0) [1, 2] [0, 28, 29, 30, 31, 24, 25, 26, 27] 0 core0 ∧
    core0.plainV [0, 28, 29, 30, 31, 24, 25, 26, 27] ∧ ((withXs 0 64).x 2).toNat = 64 ∧ 64 < ((withXs 0 65).x 2).toNat ∧
    (core0.x 2).toNat = 0 :=
  ⟨ready_core0 _ _ _ rfl rfl, plain_core0 _, by decide +kernel, by decide +kernel, by decide +kernel⟩

theorem witness_VectorConversions :
    Ready acceptCompute (.vcvt 1 0 0 1 3 0 4 0 2) [] [1, 2] 0 core0 ∧ core0.plainV [1, 2] ∧
    Ready ⟨true, false, false, true⟩ (.vcvt 1 7 1 0 1 0 2 0 2) [] [1, 2] 0 core0 ∧
    Ready acceptCompute (.venc 1 0 0 3 0 8 0 2) [] [1, 2] 0 core0 ∧ Ready acceptCompute (.vdec 1 3 0 0 11 2) [] [1, 2] 0 core0 ∧
    core0.me.engine.tablePending 0 = false ∧ (core0.me.tables[(0 : Nat)]?).getD none = none :=
  ⟨ready_core0 _ _ _ rfl rfl, plain_core0 _, ready_core0 _ _ _ rfl rfl, ready_core0 _ _ _ rfl rfl, ready_core0 _ _ _ rfl rfl,
    by decide +kernel, by decide +kernel⟩

/-- Core 0 with a TCM address in x1 and a value in x2. -/
def atTcm (off : Nat) (v : Word) : State := withXs (core0.tcmVa 0 off) v

/-- Core 0 with a scratchpad address in x1 and a value in x2. -/
def atPad (off : Nat) (v : Word) : State := withXs (core0.padVa 0 off) v

theorem local_of {s : State} {va : Word} {n home o : Nat}
    (w : (windowCheck s s.cur va.toNat n = .ok (.tcm, o) ∧ home = tcmHome (coreOf s.cur) o) ∨
      (windowCheck s s.cur va.toNat n = .ok (.pad, o) ∧ home = padHome (clusterOf s.cur) o))
    (b : s.me.mem.sb = []) (h : s.holds = []) (q : s.waiters = []) (p : s.poison = []) (e : s.engineAt home n = false := by decide +kernel)
    (f : s.seenBytes = [] := by decide +kernel) (g : s.registrarMine = false := by decide +kernel) : LocalAt s va n home := by
  refine ⟨⟨o, w⟩, b, fun x _ _ => ?_, ?_, e, f, g⟩
  · simp [State.mustWait, State.waitersAt, h, q, tget]
  · simp [State.poisonIn, p]

/-- The last aligned word of the TCM, an odd byte of it, and a misaligned address. -/
theorem witness_ScalarLoads :
    Ready acceptAll (.ldD 3 0x7FF8 1 0) [3, 1] [] 0 (atTcm 0x8000 0) ∧
    LocalAt (atTcm 0x8000 0) ((atTcm 0x8000 0).x 1 + (0x7FF8 : BitVec 15).signExtend 64) 8 (tcmHome 0 0x7FF8) ∧
    LocalAt (atPad 3 0) ((atPad 3 0).x 1) 1 (padHome 0 3) ∧
    (∃ p u, Gives (sentPlaceM (myPlace .load ((atTcm 0 0).x 1) 8)) (atTcm 0 0) p u ∧
      givesSuch (loadAt p 8 0x40 ((atTcm 0 0).x 1)) u (fun _ w => flowsIn w) = true) ∧
    ((atTcm 4 0).x 1).toNat % 8 ≠ 0 :=
  ⟨ready_of (by decide +kernel) (by decide +kernel),
    local_of (o := 0x7FF8) (.inl (by decide +kernel)) (by decide +kernel) rfl rfl rfl,
    local_of (o := 3) (.inr (by decide +kernel)) (by decide +kernel) rfl rfl rfl, gives_of (by decide +kernel), by decide +kernel⟩

/-- The last double before the thatcher's stack; an ordered store; a misaligned one; STT outside the TCM. -/
theorem witness_ScalarStores :
    Ready acceptAll (.stD 2 0 1 0) [2, 1] [] 0 (atPad 0xF_BFF8 7) ∧
    LocalAt (atPad 0xF_BFF8 7) ((atPad 0xF_BFF8 7).x 1) 8 (padHome 0 0xF_BFF8) ∧ outsideStack (padHome 0 0xF_BFF8) 8 ∧
    (atPad 0xF_BFF8 7).mySearch = none ∧ ((atTcm 0 7).windowOf 0 ((atTcm 0 7).x 1).toNat).1 = .tcm ∧
    (∃ p u, Gives (myPlace .store ((atTcm 0 7).x 1) 8) (atTcm 0 7) p u ∧
      (givesSuch (storeCheck p 8 ((atTcm 0 7).x 1)) u (fun _ v => givesSuch (drainM 2) v fun _ v =>
        givesSuch (meetTag p.home p.sync false) v fun _ y => givesSuch (trailStore p.home false true) y fun _ z =>
          givesSuch (meetCells (cellsAt p.home (bytesOf 7 8)) p.sync) z fun _ w => flowsIn w)) = true) ∧
    ((atTcm 2 7).x 1).toNat % 4 ≠ 0 ∧ ((atPad 0 7).windowOf 0 ((atPad 0 7).x 1).toNat).1 ≠ .tcm :=
  ⟨ready_of (by decide +kernel) (by decide +kernel),
    local_of (o := 0xF_BFF8) (.inr (by decide +kernel)) (by decide +kernel) rfl rfl rfl, by unfold outsideStack; decide +kernel,
    by decide +kernel, by decide +kernel, gives_of (by decide +kernel), by decide +kernel, by decide +kernel⟩

/-- Core 0 with one buffered store of two bytes at a home. -/
def buffered (home : Nat) : State := core0.pushCells (cellsAt home [1, 2]) 0 false

theorem witness_StoreRetirement :
    Memory.wf (buffered 0x1006).mem = true ∧ (∃ e, ((buffered 0x1006).hart 0).mem.sb[0]? = some e ∧ e.op = .write (cellsAt 0x1006 [1, 2]) ∧
      e.qual.toNat < 128 ∧ (buffered 0x1006).entryReady 0 0 e = true ∧ (buffered 0x1006).entryWaits 0 e = (false, buffered 0x1006)) ∧
    (buffered 0x1006).inSpill 0x1006 = false ∧
    homeOf 0x1006 = .dram ∧ homeOf (tcmHome 0 6) = .tcm ∧ homeOf (padHome 0 6) = .pad ∧
    ((buffered 0x1006).die (homeDie 0x1006)).gutter = [] ∧ ((buffered 0x1006).hart 0).search = none ∧
    inHartWindow (tcmHome 0 6) = false ∧ waitsForUpdate (tcmHome 0 6) 2 (buffered (tcmHome 0 6)).me.mem.sb = false := by
  refine ⟨by decide +kernel, ⟨_, rfl, by decide +kernel⟩, ?_⟩
  decide +kernel

/-- The last whole line before the stack, a masked strided form, an odd 4-bit offset, and a misaligned base. -/
theorem witness_VectorLoadsAndStores :
    Ready acceptCompute (.vst 3 0 0 1 5 1 0) [1] [3] 1 (atPad 0xF_BFC0 0) ∧ (atPad 0xF_BFC0 0).streamSlot 3 = none ∧
    LocalAt (atPad 0xF_BFC0 0) ((atPad 0xF_BFC0 0).x 1) 64 (padHome 0 0xF_BFC0) ∧ outsideStack (padHome 0 0xF_BFC0) 64 ∧
    (∃ a u, Gives (vectorBase 6 1 0) (atTcm 0 16) a u ∧ givesSuch (vectorPlaces .load 6
      (vectorElems (atTcm 0 16) 6 0 1 2 a)) u (fun l _ => l.length == 8) = true) ∧
    Accepted acceptCompute (.vldLong 3 1 0 0 0 12 1 0) [1] [3] 0 (atTcm 0 0) ∧ (1 : BitVec 32).getLsbD 0 = true ∧
    ((atTcm 2 0).x 1).toNat % 4 ≠ 0 ∧ ((atTcm 2 0).x 1).toNat + 64 ≤ 2 ^ 64 ∧
    (∃ places u, Gives (vectorPlaces .store 5 (vectorElems (atTcm 0 16) 5 0 0 2 ((atTcm 0 16).x 1))) (atTcm 0 16) places u ∧
      (let cells (b : Bool) := vectorCells 5 (u.v 3) (places.filter fun e => e.2.sync == b)
       givesSuch (drainM 2) u fun _ y => givesSuch (meetCells (cells false) false) y fun _ z => givesSuch (meetCells (cells true) true) z
         fun _ w => givesSuch (storeCells (cells false) 0xD0 false) w fun _ v => givesSuch (storeCells (cells true) 0xD0 true) v
           fun _ x => flowsIn x && places.length == 16) = true) :=
  ⟨ready_of (by decide +kernel) (by decide +kernel), by decide +kernel,
    local_of (o := 0xF_BFC0) (.inr (by decide +kernel)) (by decide +kernel) rfl rfl rfl, by unfold outsideStack; decide +kernel,
    gives_of (by decide +kernel), accepted_of (by decide +kernel), by decide, by decide +kernel, by decide +kernel,
    gives_of (by decide +kernel)⟩

/-- Core 0 waits at a word's full-empty bit, and has received the value 5 there. -/
def filled : State := (atPad 0x1000 7).modMe fun h => { h with park := some ⟨.fullEmpty (padHome 0 0x1000) true false, 0, none, some 5⟩ }

theorem witness_FullEmptyAccess :
    Ready ⟨true, true, true, false⟩ (.ste 2 0 1 0) [2, 1] [] 0 (atPad 0x1000 7) ∧
    LocalAt (atPad 0x1000 7) ((atPad 0x1000 7).x 1) 8 (padHome 0 0x1000) ∧ (atPad 0x1000 7).isFull (padHome 0 0x1000) = false ∧
    ((atPad 0x1000 7).setFull (padHome 0 0x1000) true).isFull (padHome 0 0x1000) = true ∧
    outsideStack (padHome 0 0x1000) 8 ∧ Memory.wf (atPad 0x1000 7).mem = true ∧ ((atPad 4 0).x 1).toNat % 8 ≠ 0 ∧
    (LocalAt filled (filled.x 1) 8 (padHome 0 0x1000) ∧ filled.parkValue = some 5 ∧
      (atPad 0x1000 7).parkValue = none ∧ (atPad 0x1000 7).mySearch = none) ∧
    (∃ o, windowCheck core0 0 (core0.padVa 0 0 - 0x180_0000).toNat 8 = .ok (.loft, o)) :=
  ⟨ready_of (by decide +kernel) (by decide +kernel),
    local_of (o := 0x1000) (.inr (by decide +kernel)) (by decide +kernel) rfl rfl rfl, by decide +kernel, by decide +kernel,
    by unfold outsideStack; decide +kernel, by decide +kernel, by decide +kernel,
    ⟨local_of (o := 0x1000) (.inr (by decide +kernel)) (by decide +kernel) rfl rfl rfl, by decide +kernel⟩, ⟨0, by decide +kernel⟩⟩

/-- Core 0 with a cluster whose eaves buffer holds dirty block 7 and whose decode-ahead place of core 0 stands at it. -/
def eaves7 : State := (core0.modStream 0 0 fun z => { z with en := true }).modCluster 0 fun c => { c with loft := { c.loft with eaves := [(7, true, 0, 0)], places := [(.stream 0 0, 7, 0)], waiting := [(.stream 0 0, 9, 0), (.stream 0 1, 8, 0)] } }

theorem witness_CacheMaintenance :
    Ready acceptAll (.pref 0 1 0) [1] [] 0 (atTcm 0 0) ∧ Ready acceptAll (.flush 0 1 0) [1] [] 0 (atTcm 0 0) ∧
    LocalAt (atTcm 0 0) ((atTcm 0 0).x 1 + (0 : BitVec 16).signExtend 64) 1 (tcmHome 0 0) ∧
    (∃ e u, (myPlace .load 0xFFFF_0000_0000_0000 1).run core0 = (.error e, u)) ∧
    (∃ e, (eaves7.cluster 0).loft.eaves.find? (fun x => x.1 == 7) = some e ∧ e.2.1 = true ∧ eaves7.evictable (loftHome 0 (256 * 7)) = true) ∧
    Memory.wf eaves7.mem = true ∧ ((eaves7.die 0).l2.length ≤ 12 ∧ readerOf 0 0 = .stream 0 0 ∧
      ∀ pl ∈ (core0.cluster 0).loft.places, pl.1 = readerOf 0 0 → 71 < pl.2.1) ∧
    (eaves7.cluster 0).loft.places[0]? = some (.stream 0 0, 7, 0) ∧ eaves7.readerLives (.stream 0 0) = true ∧
    (eaves7.cluster 0).loft.waiting.filter (fun p => eaves7.readerLives p.1) = [(.stream 0 0, 9, 0)] ∧
    4096 ≤ ({ eaves7 with clock := 4096 } : State).clock ∧ protectedHome 0 = true :=
  ⟨ready_of (by decide +kernel) (by decide +kernel), ready_of (by decide +kernel) (by decide +kernel),
    local_of (o := 0) (.inl (by decide +kernel)) (by decide +kernel) rfl rfl rfl, ⟨_, _, rfl⟩,
    ⟨(7, true, 0, 0), by decide +kernel⟩, by decide +kernel, by decide +kernel, by decide +kernel, by decide +kernel, by decide +kernel, by decide +kernel,
    by decide +kernel⟩

/-- Core 0 with a queue-control word for q0 and its oldest element at place 0: producer and consumer are the core, four
elements of 4 bytes. -/
def queued (count : Nat) (en : Bool) : State :=
  (withXs 0 7).setQctl 0 0 (BitVec.ofNat 64 ((if en then 2 ^ 63 else 0) + count * 2 ^ 36 + 5 * 2 ^ 32 + 2 * 2 ^ 28 + 0x40)) 0

/-- A buffered element of queue 0. -/
def queueing : State := (queued 1 true).pushStore (.queue 0 [7, 0, 0, 0] (core0.queueRing 0 0).1 16) 0 false

/-- Queue 0 with no element, its loader blocked on it. -/
def blockedLoader : State := (queued 0 true).modHart 4096 fun h => { h with park := some ⟨.queue 0, 0, none, none⟩ }

/-- Counts of 0, 1, 3 and 4 of 4; a disabled queue; the retirement of a buffered element; and an enabled queue to be set. -/
theorem witness_QueueAccess :
    (let s := queued 1 true
     bits (s.qctl 0 0) 35 34 = queueCode s.cur ∧ bits (s.qctl 0 0) 33 32 = queueCode s.cur ∧ queueSize (s.qctl 0 0) = 4 ∧
     bit (s.qctl 0 0) 63 = true ∧ bits (s.qctl 0 0) 48 36 = 1 ∧ s.me.answer = none ∧ s.ctx = .main ∧ s.tags = [] ∧
     (unitsOver 8 (padHome 0 (s.queueOffset 0 0 0)) 4).all (fun u => !s.mustWait 0 (8 * u) none) = true ∧
     s.poisonIn (padHome 0 (s.queueOffset 0 0 0)) 4 = none ∧ s.queueStack 0 0 1 = none) ∧
    Accepted ⟨true, false, true, false⟩ (.qrd 31 3 1 0) [] [] 0 (queued 1 true) ∧ Accepted ⟨true, false, true, false⟩ (.qwr 5 0 0 0) [] [] 0 (queued 3 true) ∧
    (queueCount ((queued 3 true).qctl 0 0) + (queued 3 true).queuePending 0 0 < queueDepth ((queued 3 true).qctl 0 0)) ∧
    (queueDepth ((queued 4 true).qctl 0 0) ≤ queueCount ((queued 4 true).qctl 0 0) + (queued 4 true).queuePending 0 0) ∧
    bits ((queued 0 true).qctl 0 0) 48 36 = 0 ∧ bit ((queued 0 false).qctl 0 0) 63 = false ∧
    bits (core0.qctl 0 1) 35 34 ≠ queueCode core0.cur ∧
    (∃ e, queueing.me.mem.sb[0]? = some e ∧ e.op = .queue 0 [7, 0, 0, 0] (core0.queueRing 0 0).1 16 ∧ e.qual = 0 ∧ queueing.entryReady 0 0 e = true ∧
      queueing.entryWaits 0 e = (false, queueing)) ∧
    queueRangeOk 0x8000_0005_2000_0040 = true ∧ queueCount ((queued 1 true).qctl 0 0) ≠ 0 ∧
    (queueCount (blockedLoader.qctl 0 0) = 0 ∧ blockedLoader.queuePending 0 0 = 0 ∧ bit (blockedLoader.qctl 0 0) 63 = true ∧
      (blockedLoader.hart 4096).park = some ⟨.queue 0, 0, none, none⟩) := by
  refine ⟨?_, accepted_of (by decide +kernel), accepted_of (by decide +kernel), ?_, ?_, ?_, ?_, ?_, ⟨_, rfl, ?_⟩, ?_, ?_, ?_⟩ <;> decide +kernel

/-- Slot 0 of core 0 bound to v24, with strips held or a base address. -/
def streaming (held : List VWord) (left : Nat) (base : Word) : State :=
  core0.modStream 0 0 fun z => { z with en := true, held := held, left := left, base := base, c0 := 2, c1 := 1, c2 := 1, s0 := 64 }

/-- A stream descriptor in the scratchpad: its base, and two strips 64 bytes apart. -/
def strmBlock : State :=
  withBytes (atPad 0x1000 0) (padHome 0 0x1000) (bytesOf 0x8000 8 ++ bytesOf 64 8 ++ bytesOf 0 16 ++ bytesOf 0x1_0000_0002 8 ++ bytesOf 1 8)

theorem witness_Streams :
    Accepted acceptMain (.strm 24 0 1) [1] [] 0 strmBlock ∧ (strmBlock.x 1).toNat % 16 = 0 ∧ (strmBlock.stream 0 0).en = false ∧
    strmBlock.streamSlot 24 = none ∧
    (∃ ws u, Gives (loadWords (strmBlock.x 1) 6) strmBlock ws u ∧
      (decide (ws = [0x8000, 64, 0, 0, 0x1_0000_0002, 1]) && flowsIn u && plainQual 0 && !scopeBad 0 && scopeBad 0x38 && u.cur == 0) = true) ∧
    ((atPad 8 0).x 1).toNat % 16 ≠ 0 ∧ Ready acceptMain (.strmoff 3) [] [] 0 core0 ∧
    (let z := (streaming [1, 2, 3] 2 4).stream 0 0
     z.en = true ∧ z.flt = false ∧ z.held.length < 4 ∧ z.next < z.c0 * z.c1 * z.c2 ∧ core0.storesBefore 0 z.after = true ∧ z.base.toNat % 8 ≠ 0) ∧
    (∃ l u, Gives (spansOf 0 0 2 .load (core0.padVa 0 0).toNat 64 false) core0 l u ∧ ((u.poisonSpans l).isNone &&
      (u.spansWait 0 l).1 == false && (u.readSpansAs ⟨0, 0, some (.stream 0 0)⟩ l).2.stream 0 0 == u.stream 0 0) = true) ∧
    (Accepted acceptCompute (.vadd 3 0 5 0 24 24) [] [3, 24] 0 (streaming [1] 1 0) ∧ ((streaming [1] 1 0).stream 0 0).held = [1]) ∧
    (streaming [1] 1 0).streamSlot 24 = some 0 ∧ (streaming [1] 1 0).streamSlot 3 = none ∧ ((streaming [] 1 0).stream 0 0).fault = none :=
  ⟨accepted_of (by decide +kernel), by decide +kernel, by decide +kernel, by decide +kernel, gives_of (by decide +kernel),
    by decide +kernel, ready_core0 _ _ _ rfl rfl, by decide +kernel, gives_of (by decide +kernel),
    ⟨accepted_of (by decide +kernel), by decide +kernel⟩, by decide +kernel, by decide +kernel, by decide +kernel⟩

/-- A transfer block of eight words in the scratchpad, x1 at it, and a state's queues. -/
def copyBlock (s : State) (l : List Nat) : State :=
  withBytes (s.setX 1 (core0.padVa 0 0x1000)) (padHome 0 0x1000) (l.flatMap fun w => bytesOf w 8)

/-- A scratchpad offset as a virtual address. -/
def padAt (off : Nat) : Nat := (core0.padVa 0 off).toNat

/-- The block of core 0 can be read as these words, its sides and ranges check, and there is room for its command. -/
def commits (s : State) (l : List Nat) (qs qd : Option (BitVec 3)) (rs : List XRange) : Bool :=
  givesSuch (loadWords ((copyBlock s l).x 1) 8) (copyBlock s l) fun ws u => decide (ws.map (·.toNat) = l) && u.cur == 0 &&
    u.queueSideOk qs false 64 && u.queueSideOk qd true 64 && givesSuch (rangesM true true rs) u fun p w =>
      decide (p.length = rs.length ∧ w.cur = 0 ∧ w.me.copy.queue.length < 2) && flowsIn w && [qs, qd].all fun q => match q with
        | some k => bit (w.qctl 0 k) 63 && (w.queueStack 0 k (64 / queueSize (w.qctl 0 k))).isNone
        | none => true

/-- A transfer of core 0 between two ends. -/
def xferOf (a b : XferEnd) (len : Nat) (int : Bool) : Xfer :=
  ⟨0, .copy a b len, 0, int, if int then 0x2002 else 0, none, 0, 0, [], [], false, false, false, 0, 0⟩

/-- Ten bytes of core 0's TCM in two pieces, and as many of the scratchpad. -/
def fromTcm : Spans := [⟨0, 6, tcmHome 0 0, false⟩, ⟨6, 4, tcmHome 0 0x100, false⟩]
def toPad : Spans := [⟨0, 3, padHome 0 5, false⟩, ⟨3, 7, padHome 0 0x40, false⟩]
def transfer : Xfer := xferOf (.memory fromTcm) (.memory toPad) 10 true

/-- Core 0 with n transfers in its queue. -/
def copying (n : Nat) : State :=
  core0.modMe fun h => { h with copy := { h.copy with queue := List.replicate n transfer } }

/-- A transfer under way. -/
def moving (s : State) (x : Xfer) : State := s.modMe fun h => { h with copy := { h.copy with active := [x] } }

/-- Between memories, from and to a queue, and between queues; a gather; a PUTS; a disabled queue; LEN 0 and a reserved scope. -/
theorem witness_CopyCommands :
    (let l := [padAt 0x2000, padAt 0x3000, 64, 0, 0, 0, 0, 0]
     Accepted acceptAll (.copy 1 0 0 0 0) [1] [] 0 (copyBlock core0 l) ∧ ((copyBlock core0 l).x 1).toNat % 64 = 0 ∧
     commits core0 l none none [⟨.load, 0, 0, padAt 0x2000, 64⟩, ⟨.store, 0, 0, padAt 0x3000, 64⟩] = true ∧
     targetEndOk 0 0 (padAt 0x2000) 64 = true ∧ plainQual 0 = true ∧ scopeBad 0 = false ∧ handlerOk false 0 = true ∧
     commits (core0.setRoll 0 3 0x8000_0000_0000_0000) l none none [⟨.load, 0, 0, padAt 0x2000, 64⟩, ⟨.store, 0, 0, padAt 0x3000, 64⟩] = true) ∧
    commits (queued 1 true) [0, padAt 0x3000, 64, 0, 0, 0, 0, 0] (some 0) none [⟨.store, 0, 0, padAt 0x3000, 64⟩] = true ∧
    commits (queued 1 true) [padAt 0x2000, 0, 64, 0, 0, 0, 0, 0] none (some 0) [⟨.load, 0, 0, padAt 0x2000, 64⟩] = true ∧
    commits (queued 1 true) [0, 0, 64, 0, 0, 0, 0, 0] (some 0) (some 0) [] = true ∧ bit ((queued 1 false).qctl 0 0) 63 = false ∧
    (let l := [padAt 0x2000, padAt 0x3000, 64, 0, 0, padAt 0x4000, 2, 0]
     Accepted ⟨true, false, false, true⟩ (.gather 1 0 0) [1] [] 0 (copyBlock core0 l) ∧
     givesSuch (loadWords ((copyBlock core0 l).x 1) 8) (copyBlock core0 l) (fun ws u => decide (ws.map (·.toNat) = l) && u.cur == 0 &&
       givesSuch (indexListM ((ws[5]?).getD 0) 2 0) u fun idx y => decide (idx = [0, 0]) &&
         givesSuch (rangesM true true [⟨.load, 0, 0, padAt 0x2000, 64⟩, ⟨.load, 0, 0, padAt 0x2000, 64⟩, ⟨.store, 0, 0, padAt 0x3000, 128⟩]) y
           fun p w => p.length == 3 && w.cur == 0 && w.me.copy.queue.isEmpty) = true) ∧
    (let l := [padAt 0x2000, padAt 0x3000, 0, 0x3800, 0, 0, 0, 0]
     givesSuch (loadWords ((copyBlock core0 l).x 1) 8) (copyBlock core0 l) (fun ws _ => decide (ws.map (·.toNat) = l)) = true ∧
       scopeBad 0x38 = true) ∧
    2 ≤ (copying 2).me.copy.queue.length ∧ ((atPad 32 0).x 1).toNat % 64 ≠ 0 ∧ bit ((core0.setRoll 0 3 0x8000_0000_0000_0000).roll 0 3) 63 = true ∧
    core0.xferWaits (fun _ => true) = false ∧ (copying 1).xferWaits (fun _ => true) = true ∧
    (copying 1).xferWaits (fun x => x.xid == ((copying 1).x 1).setWidth 16) = true := by
  refine ⟨⟨accepted_of (by decide +kernel), ?_⟩, ?_, ?_, ?_, ?_, ⟨accepted_of (by decide +kernel), ?_⟩, ?_, ?_, ?_, ?_, ?_, ?_, ?_⟩ <;>
    decide +kernel

/-- A layout copy of sixteen FP32 elements: its request in the scratchpad. -/
def copylBlock : State :=
  let layout (off : Nat) : List Byte :=
    bytesOf (core0.padVa 0 off).toNat 8 ++ bytesOf (2 ^ 35) 8 ++ bytesOf 16 8 ++ bytesOf 0 16 ++ bytesOf 32 8 ++ bytesOf 0 32
  withBytes (atPad 0x1000 0) (padHome 0 0x1000) (bytesOf 0 16 ++ layout 0x2000 ++ layout 0x3000)

/-- Nothing is in the way of a transfer at a state with no die, tag, hold or poison. -/
theorem calm_of {s : State} (d : s.dies = []) :
    (∀ e, (s.die e).gutter = [] ∧ (s.die e).registrar = []) ∧ ∀ a, s.inSpill a = false := by
  refine ⟨fun e => ?_, fun a => by simp [State.inSpill, d]⟩
  simp [State.die, d, tget, Die.reset]

/-- Queue 1 of core 0 with an element of 4 bytes and room for three, and another place than queue 0. -/
def twoQueues : State :=
  (queued 1 true).setQctl 0 1 (BitVec.ofNat 64 (2 ^ 63 + 2 ^ 36 + 5 * 2 ^ 32 + 2 * 2 ^ 28 + 0x80)) 0

/-- A COPYL of three FP32 elements a row apart, over words of TCM. -/
def layoutAt (off : Nat) : Layout :=
  ⟨BitVec.ofNat 64 off, 0, 0, 0, 0, [3], [64], [⟨off, 64, tcmHome 0 off, false⟩]⟩

/-- Two pieces with an event due and its FIFO full or not; from, to and between queues; a layout copy. -/
theorem witness_TransfersMoveBytes :
    (let s := moving core0 transfer
     Memory.wf s.mem = true ∧ s.poison = [] ∧ s.tags = [] ∧ s.holds = [] ∧ s.waiters = [] ∧ s.dies = [] ∧
     (s.hart 0).copy.active[0]? = some transfer ∧ s.storesBefore 0 transfer.after = true ∧ (∀ j : Fin 10, homeOf ((((partSpans toPad j.val 1).head?).map (·.home)).getD 0) ≠ .loft) ∧
     (s.hart 0).copy.events.length < 8 ∧
     8 ≤ (s.modMe fun h => { h with copy := { h.copy with events := List.replicate 8 ⟨0, 0x2002⟩ } }).me.copy.events.length ∧
     (toPad.map (·.len)).sum = 10 ∧ (fromTcm.map (·.len)).sum = 10 ∧ wordCuts toPad 0 ≠ [] ∧ ascends toPad = true ∧
     (let at_ (l : Spans) (j : Nat) : Nat := (((partSpans l j 1).head?).map (·.home)).getD 0
      ∀ i j : Fin 10, (at_ toPad i.val = at_ toPad j.val → i = j) ∧ at_ fromTcm i.val ≠ at_ toPad j.val)) ∧
    (let s := moving twoQueues (xferOf (.queue 0) (.memory toPad) 10 false)
     s.dies = [] ∧ queueCount (s.qctl 0 0) ≠ 0 ∧ queueSize (s.qctl 0 0) = 4 ∧ (0, 3) ∈ wordCuts toPad 0) ∧
    (let s := moving twoQueues (xferOf (.memory fromTcm) (.queue 0) 8 false)
     s.dies = [] ∧ s.queueRoom 0 0 = true ∧ (∀ j : Fin 10, homeOf ((((partSpans fromTcm j.val 1).head?).map (·.home)).getD 0) ≠ .loft) ∧ (fromTcm.map (·.len)).sum = 10) ∧
    (let s := moving twoQueues (xferOf (.queue 0) (.queue 1) 4 true)
     queueCount (s.qctl 0 0) ≠ 0 ∧ s.queueRoom 0 1 = true ∧ (0 : BitVec 3) ≠ 1) ∧
    (let x := { transfer with op := .copyl (layoutAt 0x100) (layoutAt 0x200) }
     (∀ p ∈ (layoutAt 0x100).spans ++ (layoutAt 0x200).spans, ∀ j : Fin 64, homeOf (p.home + j.val) ≠ .loft) ∧ (moving core0 x).dies = [] ∧ ((List.range 3).flatMap fun j => ((layoutAt 0x200).cells j 0).map fun c => wordAt c.addr).dedup ≠ []) ∧
    (∃ ws u, Gives (loadWords (copylBlock.x 1) 22) copylBlock ws u ∧
      (match readLayout ((ws.drop 2).take 10), readLayout ((ws.drop 12).take 10) with
       | some (a, i), some (b, j) => a.ok && b.ok && decide (a.fmt = b.fmt ∧ a.count = b.count) &&
         givesSuch (identityM a.fmt i (copylBlock.x 1)) u (fun _ v => givesSuch (identityM b.fmt j (copylBlock.x 1)) v fun _ w =>
           givesSuch (layoutWindowM a) w fun _ y => givesSuch (layoutWindowM b) y fun _ z =>
             givesSuch (rangesM true false (a.ranges .load ++ b.ranges .store)) z fun p w' => flowsIn w' && w'.cur == 0 &&
               ({ b with spans := (p.drop (a.ranges .load).length).flatten } : Layout).stackByte.isNone && decide (w'.copylCount 0 < 32))
       | _, _ => false) = true) ∧
    ((atPad 8 0).x 1).toNat % 16 ≠ 0 ∧
    (let s := core0.modCluster 0 fun k => { k with copyl := [transfer] }
     (coreTurn 0 (s.cluster 0).copylTurn).find? (fun c => (s.cluster 0).copyl.any fun y => y.hart == c) = some 0) := by
  refine ⟨?_, ?_, ?_, ?_, ?_, gives_of ?_, ?_, ?_⟩ <;> decide +kernel

/-- Core 0 with a roll register for b1: alone in its class, with counts of arrivals and releases. -/
def belled (arr done : Nat) : State :=
  (withXs 0x8001_0000_0001_0000 0).setRoll 0 1 (BitVec.ofNat 64 (0x8001_0000_0001_0000 + arr * 256 + done))

/-- Between phases, the count's wrap at 255, within a phase, and a context that is off. -/
theorem witness_BellBarriers :
    Ready acceptMain (.rollw 3 1 1) [3, 1] [] 0 (belled 0 0) ∧ rollArr ((belled 255 255).roll 0 1) = rollDone ((belled 255 255).roll 0 1) ∧
    bit ((belled 255 255).roll 0 1) 63 = true ∧ (bits ((belled 0 0).x 1) 47 44 + bits ((belled 0 0).x 1) 39 36 ≤ 15 ∧
      describes ((belled 0 0).x 1) (belled 0 0).cur = true) ∧
    rollArr ((belled 1 0).roll 0 1) ≠ rollDone ((belled 1 0).roll 0 1) ∧ (belled 1 0).parkedAs .bell = none ∧
    (∃ p, ((belled 1 0).modMe fun h => { h with park := some ⟨.bell, 0, some 0, none⟩ }).parkedAs .bell = some p) ∧
    bit (core0.roll 0 1) 63 = false ∧
    (let s := { belled 1 0 with net := [.arrival 0 1 1 0] }
     let v := s.roll 0 1
     s.performedBelow 0 0 = true ∧ (rollScope v).toNat < 5 ∧ bit v 63 = true ∧ s.fencedCore 0 = false ∧ describes v 0 = true ∧
       described v = [0] ∧ s.updatesOut 0 1 v = false ∧ s.putsOut 0 1 v = false) ∧
    rollScope ((belled 1 0).roll 0 1) ≠ 5 ∧ (belled 1 0).isMember 1 ((belled 1 0).roll 0 1) 0 = true :=
  ⟨ready_of (by decide +kernel) (by decide +kernel), by decide +kernel, by decide +kernel, by decide +kernel, by decide +kernel,
    by decide +kernel, ⟨⟨.bell, 0, some 0, none⟩, by decide +kernel⟩, by decide +kernel, by decide +kernel, by decide +kernel, by decide +kernel⟩

/-- BARRIER_RELEASE is enabled for a class of one whose arrival has been made and has reached the network. -/
theorem witness_barrier_can_complete :
    nextIs (exec (.barr 1) (belled 0 0)) (fun t => nextIs (exec (.barrierArrivalSignal 0) t) fun u => u.canComplete 0 1) = true := by
  decide +kernel

/-- The page of `paged` as a sync-class page, with the root set and core 0 in user mode. -/
def synced : State :=
  (withBytes paged 0x40000 (bytesOf 0x500F7 8)).modMe fun h => { h with sys := { h.sys with ptbase := 0x10000 }, traps := { h.traps with status := 0 } }

/-- Two requests at the registrar of die 0, of cores 1 and 0, to different words; core 0 waits for the second. -/
def asked (op : RegOp) : State :=
  let r : RegRequest := ⟨0, 1, op, 0⟩
  (core0.modDie 0 fun d => { d with registrar := [⟨1, 1, .load 0x50010 8, 0⟩, r] }).modMe fun h => { h with mem := { h.mem with regWait := some r } }

theorem witness_RegistrarAtomics :
    (∃ p u, Gives (globalPlace (synced.x 1) 8) synced p u ∧ (p.sync && u.me.mem.sb.isEmpty && !u.registrarBusy &&
      (u.die (homeDie p.home)).registrar.isEmpty && u.me.mem.replies.isEmpty && flowsIn u && u.cur == 0 &&
      (u.poisonIn p.home 8).isNone && !u.mustWait u.cur (unitOf p.home true) none && Memory.wf u.mem) = true) ∧
    (∃ p u, Gives (globalPlace (core0.x 1) 4) (synced.modMe fun h => { h with sys := { h.sys with ptbase := 0x10000 } }) p u ∧ p.sync = true) ∧
    (∃ p u, Gives (globalPlace (rooted.x 1) 8) rooted p u ∧ (!p.sync) = true) ∧
    Accepted acceptAll (.amoCas 3 1 2 4 1 0) [3, 2, 4, 1] [] 0 synced ∧ synced.registrarMine = false ∧
    (let s := (withXs 8 0).modMe fun h => { h with mem := { h.mem with regReply := some (.value 9) } }
     s.me.mem.regCtx = s.ctx ∧ s.me.mem.regReply = some (.value 9) ∧ (s.x 1).toNat % 8 = 0) ∧ ((withXs 4 0).x 1).toNat % 8 ≠ 0 ∧
    (∀ op ∈ ([.load 0x50004 4, .swap 0x50008 8 1, .cas 0x50000 8 0 7, .cas 0x50000 8 1 7, .fadd 0x5000C 4 1] : List RegOp),
      let s := asked op
      Memory.wf s.mem = true ∧ (s.die 0).registrar[1]? = some ⟨0, 1, op, 0⟩ ∧ (s.hart 0).mem.regWait = some ⟨0, 1, op, 0⟩ ∧
        (s.hart 0).mem.replies = [] ∧ (∀ e ∈ (s.die 0).registrar.take 1, wordAt e.op.place.1 ≠ wordAt op.place.1) ∧
        s.poisonIn op.place.1 op.place.2 = none ∧ op.place.2 ≤ 8 ∧
        ({ s with poison := [wordAt op.place.1] }.poisonIn op.place.1 op.place.2).isSome = true ∧
        (s.modMe fun h => { h with mem := { h.mem with replies := [(1, .value 9)] } }).me.mem.replies.find? (fun e => e.1 == 1) = some (1, .value 9)) := by
  refine ⟨gives_of (by decide +kernel), gives_of (by decide +kernel), gives_of (by decide +kernel), accepted_of (by decide +kernel), ?_, ?_, ?_, ?_⟩ <;>
    decide +kernel

/-- Region 5 of die 0: sums of 32-bit integers over 64 bytes at 0x50000. -/
def region5 : Region := ⟨true, 0x50000, 64, 0x60000, 0x1000, false, 0, 0⟩

/-- A REGION.SET block in the scratchpad: sums over 64 bytes at 0, whose page stands at 0x50000. -/
def regionBlock : State :=
  withBytes ((rooted.setX 1 (core0.padVa 0 0x1000)).setX 2 0) (padHome 0 0x1000) (bytesOf 0 8 ++ bytesOf 64 8 ++ bytesOf 0 16)

/-- A die with n entries of an ordered float region in the bins of one slice. -/
def binned (n : Nat) : Die :=
  { Die.reset with regions := [(5, { region5 with op := 2, ordered := true })], gutter := List.replicate n ⟨5, 0x50000, 4, 1, 0, 0, 0⟩ }

theorem binned_full (n : Nat) (h : 0 < n) : (binned n).binsUsed (sliceOf 0x50000) = n ∧
    (binned n).gutter.find? (fun g => g.run == 0 && sliceOf g.addr == sliceOf 0x50000) = some ⟨5, 0x50000, 4, 1, 0, 0, 0⟩ ∧
    ∀ k, k ≤ 256 → (binned n).spillRoom 5 region5 k = true ∧
      (1 ≤ k → (binned n).spillRoom 5 { region5 with splen := 0 } k = false) := by
  have keep : ({ region5 with op := 2, ordered := true } : Region).keeps = true := rfl
  have g : (binned n).gutter = List.replicate n ⟨5, 0x50000, 4, 1, 0, 0, 0⟩ := rfl
  refine ⟨?_, ?_, fun k m => ⟨?_, fun l => ?_⟩⟩
  · unfold Die.binsUsed
    rw [show (binned n).regions = [(5, { region5 with op := 2, ordered := true })] from rfl, g]
    simp only [List.map_cons, List.map_nil, List.sum_cons, List.sum_nil]
    rw [List.filter_replicate_of_pos (by decide +kernel)]
    unfold Region.entries
    rw [if_pos keep]
    simp
  · cases n with
    | zero => omega
    | succ n => simp [binned, List.replicate_succ]
  · simp [Die.spillRoom, Region.entries, g, region5]
    omega
  · simp [Die.spillRoom, Region.entries, g]
    omega

theorem binned_over : 49152 < (binned 49153).binsUsed (sliceOf 0x50000) := by
  rw [(binned_full 49153 (by omega)).1]; omega

/-- `paged` in user mode with region 5 set, an answer waiting or not, and x1 naming a die. -/
def regioned : State :=
  ((withBytes (withXs 3 0) 0 []).modDie 0 fun d => { d with regions := [(5, region5)] }).modMe fun h => { h with answer := none }

theorem witness_UpdateRegions :
    Ready ⟨true, false, false, true⟩ (.regionRd 3 63 1) [3, 1] [] 0 regioned ∧ (regioned.x 1).toNat < 4 ∧
    4 ≤ ((withXs 4 0).x 1).toNat ∧ regioned.regionBusy = false ∧ regioned.drained 0 4 = true ∧
    (regioned.modMe fun h => { h with answer := some (.value 9) }).me.answer = some (.value 9) ∧
    tget (regioned.die 0).regions 5 = some region5 ∧ regioned.updateToward region5 = false ∧
    regionAt (regioned.die 0) 0x50004 = some (5, region5) ∧ region5.op = 0 ∧ homeOf 0x50004 = .dram ∧ (regioned.die 0).gutter = [] ∧
    (∃ e, (regioned.pushStore (.update 0x50004 4 7) 0 false).me.mem.sb[0]? = some e ∧ e.op = .update 0x50004 4 7 ∧ e.qual = 0 ∧
      (regioned.pushStore (.update 0x50004 4 7) 0 false).entryReady 0 0 e = true ∧
      (regioned.pushStore (.update 0x50004 4 7) 0 false).entryWaits 0 e = (false, regioned.pushStore (.update 0x50004 4 7) 0 false)) ∧
    (Accepted ⟨true, false, false, true⟩ (.regionSet 3 5 1) [3, 1] [] 0 regionBlock ∧ regionBlock.regionBusy = false ∧ regionBlock.drained 0 4 = true ∧
      givesSuch (loadWords (regionBlock.x 1) 4) regionBlock (fun ws u => decide (ws = [0, 64, 0, 0]) && givesSuch (regionRange 0) u fun p v =>
        p == ⟨0x50000, false⟩ && !v.rangeLeaves 0 64 && v.cur == 0 && !v.regionBusy && (v.localIn 0 0 64).isNone && (v.die 0).regions.isEmpty) = true ∧
      homeOf 0x50000 = .dram) ∧
    ({ core0 with net := [.region 0 0 5 (some region5)] }.net[0]? = some (.region 0 0 5 (some region5)) ∧ tget (core0.die 0).regions 5 = none) ∧
    (∃ p u, Gives (translate 0 (rooted.rootOf 0) rooted.prv .update (rooted.x 1).toNat (rooted.x 1)) rooted p u ∧
      (!p.sync && (rooted.localIn 0 0 64).isNone) = true) ∧
    (let s := (paged.modDie 0 fun d => { d with regions := [(5, region5)] }).modMe fun h =>
       { h with sys := { h.sys with ptbase := 0x10000 }, traps := { h.traps with status := 0 } }
     givesSuch (updatePlace (s.x 1)) s (fun r u => r.2 == 4 && flowsIn u) = true) ∧
    Ready acceptAll (.uflush 2 1) [2, 1] [] 0 regioned ∧ regioned.x 2 = 0 ∧ (regioned.die 0).binsUsed 0 ≤ 49152 := by
  refine ⟨ready_of (by decide +kernel) (by decide +kernel), ?_, ?_, ?_, ?_, ?_, ?_, ?_, ?_, ?_, ?_, ?_, ⟨_, rfl, ?_⟩,
    ⟨accepted_of (by decide +kernel), ?_⟩, ?_, gives_of ?_, ?_, ready_of (by decide +kernel) (by decide +kernel), ?_, ?_⟩ <;> decide +kernel

/-- Core 0 with a scratchpad address in x1, a value in x2, and cr.afmt and cr.bfmt. -/
def formatted (off : Nat) (v fa fb : Word) : State :=
  (atPad off v).modMe fun h => { h with mat := { h.mat with afmt := fa, bfmt := fb } }

/-- FP16 tiles of 32 bytes a row, the code 3 that is no matrix format, and unaligned bases and pitches. -/
theorem witness_TileRegisters :
    (let s := formatted 0x1000 64 1 3
     Accepted acceptMain (.tload 0 3 2 1 0) [2, 1] [] 0 s ∧ Accepted acceptMain (.tload 1 3 2 1 0) [2, 1] [] 0 s ∧
     Accepted acceptMain (.tstore 3 2 1 0) [2, 1] [] 0 s ∧
     (decide (bits s.me.mat.afmt 3 0 = 1) && matFmt 1 && !matFmt 3 &&
       givesSuch (tilePlaces .load (s.x 1) (s.x 2) 16) s (fun places u =>
         givesSuch (places.mapM fun e => loadPart e.2 8 0 e.1) u fun vals w => vals.length == 64 && flowsIn w && w.cur == s.cur) &&
       givesSuch (tilePlaces .store (s.x 1) (s.x 2) (fmtBits (s.tile 3).tag)) s (fun places u => flowsIn u &&
         (let items := places.map fun e => (e.2, cellsAt e.2.home (bytesOf 0 8))
          givesSuch (drainM 3) u fun _ v => givesSuch (items.forM fun e => meetCells e.2 e.1.sync) v fun _ w =>
            givesSuch (items.forM fun e => storeCells e.2 0xD8 e.1.sync) w fun _ z => flowsIn z && items.length == 128))) = true) ∧
    matFmt (BitVec.ofNat 4 (bits (formatted 0 0 3 3).me.mat.afmt 3 0)) = false ∧
    ((atPad 0x1004 64).x 1).toNat % 8 ≠ 0 ∧ ((atPad 0x1000 4).x 2).toNat % 8 ≠ 0 ∧
    Ready acceptMain (.tzero ⟨0, 0⟩ 7) [] [] 0 core0 ∧ matFmt (BitVec.ofNat 4 (bits core0.me.mat.afmt 3 0)) = true :=
  ⟨⟨accepted_of (by decide +kernel), accepted_of (by decide +kernel), accepted_of (by decide +kernel), by decide +kernel⟩,
    by decide +kernel, by decide +kernel, by decide +kernel, ready_core0 _ _ _ rfl rfl, by decide +kernel⟩

/-- A table image whose entries are the e8m10 codes 0 to 255, in rising order. -/
def tableImage : List Byte := (List.range 256).flatMap (fun c => bytesOf c 4) ++ (List.range 16).map (BitVec.ofNat 8)

/-- Core 0 with the scratchpad address of a table image in x1, and a core without a sub-array or with a full queue. -/
def tabled : State :=
  { atPad 0x2000 16 with mem := tableImage.zipIdx.filterMap fun e => if e.1 = 0 then none else some ⟨padHome 0 0x2000 + e.2, e.1⟩ }
def noArrays : State := core0.modMe fun h => { h with sys := { h.sys with fence := 0xF } }
def engineFull : State := core0.modMe fun h => { h with engine := { h.engine with queue := List.replicate 2 (core0.sample .pswap none) } }

/-- The last accumulator below the thatcher's stack with K of 16 and a drain of sixteen rows, and a panel with K of 256. -/
def lastAcc : State := atPad 0xF_BC00 16
def deepPanel : State := atPad 0xF_8000 256

theorem witness_MatrixCommands :
    Ready acceptMain (.tmma 1 0 0 0 0) [1] [] 0 lastAcc ∧ Accepted acceptMain (.tmmaP 1 0 1 7 0 2 1 0) [1, 2, 1, 0] [] 0 lastAcc ∧
    Accepted acceptMain (.tdrain 1 0 15 0 0 2 1 0) [1, 2, 1, 0] [] 0 lastAcc ∧
    (lastAcc.subArrays lastAcc.cur ≠ 0 ∧ lastAcc.me.engine.queue.length < 2 ∧
      lastAcc.windowOf lastAcc.cur (lastAcc.x 1).toNat = (.pad, 0xF_BC00) ∧ (lastAcc.tile 0).tag = 0 ∧
      bits lastAcc.me.mat.afmt 3 0 = 0 ∧ bits lastAcc.me.mat.bfmt 3 0 = 0 ∧ bits lastAcc.me.mat.cfmt 3 0 = 0) ∧
    givesSuch (matFmtM 0) lastAcc (fun _ u => flowsIn u) = true ∧
    givesSuch (panelM (lastAcc.x 1) 0 16 32) lastAcc (fun _ u => flowsIn u) = true ∧
    (deepPanel.x 2).toNat = 8192 / fmtBits 0 ∧ givesSuch (panelM (deepPanel.x 1) 0 256 32) deepPanel (fun _ u => flowsIn u) = true ∧
    givesSuch (rangesM false true ((List.range 16).map fun k => ⟨.store, 0, 0, (lastAcc.x 1 + BitVec.ofNat 64 k * 0).toNat, 64⟩)) lastAcc
      (fun _ u => flowsIn u) = true ∧
    Accepted acceptMain (.pload 0 0 2 1) [2, 1] [] 0 (atPad 0 16384) ∧
    givesSuch (rangesM false true [⟨.load, 0, 0, ((atPad 0 16384).x 1).toNat, 16384⟩]) (atPad 0 16384) (fun _ u => flowsIn u) = true :=
  ⟨ready_of (by decide +kernel) (by decide +kernel), accepted_of (by decide +kernel), accepted_of (by decide +kernel),
    by decide +kernel, by decide +kernel, by decide +kernel, by decide +kernel, by decide +kernel, by decide +kernel,
    accepted_of (by decide +kernel), by decide +kernel⟩

theorem witness_MatrixCommands_others :
    ((lastAcc.setTile 0 ⟨Vector.replicate 16 0, 1⟩).tile 0).tag ≠ 0 ∧
    Ready acceptMain .pswap [] [] 0 core0 ∧ Ready acceptMain .quiz [] [] 0 core0 ∧
    noArrays.subArrays noArrays.cur = 0 ∧ (engineFull.subArrays engineFull.cur ≠ 0 ∧ 2 ≤ engineFull.me.engine.queue.length) ∧
    Accepted acceptMain (.tblld 3 0x22 1) [1] [] 0 tabled ∧ tabled.me.mem.sb = [] ∧
    givesSuch (rangesM false true [⟨.load, 0, 0, (tabled.x 1).toNat, 1040⟩]) tabled (fun l u => u.me.mem.sb.isEmpty &&
      givesSuch (engineWaitM l.flatten) u fun _ v => flowsIn v && (v.poisonSpans l.flatten).isNone &&
        (v.engineReadSpans l.flatten).1 == tableImage) = true ∧
    (readTable tableImage).toBool = true :=
  ⟨by decide +kernel, ready_core0 _ _ _ rfl rfl, ready_core0 _ _ _ rfl rfl, by decide +kernel, by decide +kernel,
    accepted_of (by decide +kernel), by decide +kernel, by decide +kernel, by decide +kernel⟩

/-- All sixteen cores of cluster 0 with the same gang state. -/
def gangs (g : Gang) : State := (coresOf 0).foldl (fun s c => s.modHart c fun h => { h with gang := g }) core0

/-- A gang TMMA of depth k, and cluster 0 bound to gang 3 with that command waiting at each core. -/
def gangMma (k : Nat) : MatCmd := core0.sample (.mma 0 64 k true (.panel []) .plane true) none
def gangReady : State := gangs ⟨some 3, none, none, none, some (gangMma 16)⟩

/-- Sixteen in agreement and one apart; answers, a lost gang, none, and the wait with the command recorded. -/
theorem witness_GangInstructions :
    (let s := core0.modMe fun h => { h with answer := some .done }
     Ready acceptMain (.gbind 15) [] [] 0 s ∧ Ready acceptMain (.gunbind 0) [] [] 0 s ∧
       Ready acceptMain (.tmmaG 1 0 0 0 0 2 3 4) [1, 2, 3, 4] [] 0 s ∧ s.me.answer = some .done) ∧
    (core0.modMe fun h => { h with answer := some (.trap 5 0 false) }).me.answer = some (.trap 5 0 false) ∧
    (core0.me.answer = none ∧ core0.me.gang.gang ≠ some 3 ∧ core0.me.gang.lost = none ∧
      (gangs ⟨some 3, none, none, none, none⟩).me.gang.gang = some 3 ∧ (gangs ⟨none, some 3, none, none, none⟩).me.gang.lost = some 3) ∧
    (let s := lastAcc.modMe fun h => { h with gang := { h.gang with gang := some 3 } }
     Accepted acceptMain (.tmmaG 1 0 0 0 0 2 0 0) [1, 2, 0, 0] [] 0 s ∧ s.me.gang.command = none ∧ s.subArrays 0 ≠ 0 ∧
       s.windowOf 0 (s.x 1).toNat = (.pad, 0xF_BC00) ∧ s.cur % 4 = 0 ∧ (s.x 2).toNat = 16 ∧
       givesSuch (matFmtM 0) s (fun _ u => u == s) = true ∧ givesSuch (panelM (lastAcc.x 1) 0 16 32) s (fun l _ => l.length == 16) = true) ∧
    gangReady.me.gang.command.isSome = true ∧
    (∀ c ∈ coresOf 0, ((gangs ⟨none, none, some 3, none, none⟩).hart c).gang.bind = some 3 ∧
      ((gangs ⟨none, none, some 3, none, none⟩).hart c).gang.gang = none ∧ (gangs ⟨none, none, some 3, none, none⟩).subArrays c = 4) ∧
    (let s := (gangs ⟨none, none, some 3, none, none⟩).modHart 5 fun h => { h with gang := { h.gang with bind := some 4 } }
     ∀ c ∈ coresOf 0, (s.hart c).gang.bind = some (if c = 5 then 4 else 3)) ∧
    (let s := gangs ⟨some 3, none, none, some 3, none⟩
     ∀ c ∈ coresOf 0, (s.hart c).gang.unbind = some 3 ∧ (s.hart c).gang.gang = some 3 ∧ (s.hart c).engine.queue = [] ∧ (s.hart c).engine.run = none) ∧
    (∀ c ∈ coresOf 0, (gangReady.hart c).gang.command = some (gangMma 16) ∧ (gangReady.hart c).engine.queue.length < 2 ∧
      gangReady.sameFormats c (gangMma 16) = true) ∧
    (let s := gangReady.modHart 5 fun h => { h with gang := { h.gang with command := some (gangMma 32) } }
     (s.resample 5 (gangMma 32)).panel.2 ≠ (s.resample 0 (gangMma 16)).panel.2 ∧ (s.hart 5).gang.command = some (gangMma 32)) := by
  refine ⟨⟨ready_of (by decide +kernel) (by decide +kernel), ready_of (by decide +kernel) (by decide +kernel),
    ready_of (by decide +kernel) (by decide +kernel), ?_⟩, ?_, ?_, ⟨accepted_of (by decide +kernel), ?_⟩, ?_, ?_, ?_, ?_, ?_, ?_⟩ <;> decide +kernel

/-- Core 0's engine with a command under way and n of its chunks or rows retired. -/
def engined (op : MatOp) (n : Nat) : State :=
  core0.modMe fun h => { h with engine := { h.engine with run := some (core0.sample op none, n), activity := 0 } }

/-- A drain of one row at the end of the scratchpad to 64 bytes of the TCM, and core 0's engine at it. -/
def rowTo : Spans := [⟨0x400, 64, tcmHome 0 0x400, false⟩]
def drained (h : Option Word) : State := engined (.drain 0xF_FFC0 64 1 true h 0 0 64 [rowTo]) 0

theorem witness_MatrixEngineSteps :
    (let s := engineFull
     (s.hart 0).engine.run = none ∧ (s.hart 0).engine.queue = [core0.sample .pswap none, core0.sample .pswap none] ∧ kindOf 0 = 0) ∧
    (kindOf 4095 = 0 ∧ (copying 1).me.copy.turn % 3 = 0 ∧ (copying 1).me.copy.queue = [transfer] ∧ (copying 1).me.copy.active = []) ∧
    (let t : Tile := ⟨Vector.replicate 16 1, 0⟩
     let s := engined (.mma 0xF_BC00 64 16 false (.tile t) (.tile t) false) 0
     Memory.wf s.mem = true ∧ s.poison = [] ∧ 0xF_BC00 + 15 * 64 + 64 ≤ 0x10_0000 ∧ s.quizDue 0 = false ∧
       s.faultyArrays 0 = false ∧ s.spansWait 0 (s.chunkSpans 0) = (false, s) ∧
       s.storesBefore 0 (core0.sample .pswap none).after = true) ∧
    16 ≤ 64 * 1 ∧ (engined .pswap 0).me.engine.run = some (core0.sample .pswap none, 0) ∧
    (engined (.tblld 3 9 ⟨[], []⟩) 0).me.engine.run = some (core0.sample (.tblld 3 9 ⟨[], []⟩) none, 0) ∧
    (core0.modMe fun h => { h with engine := { h.engine with events := [7] } }).me.engine.events = [7] ∧
    (let s := core0.modMe fun h => { h with engine := { h.engine with activity := quizLimit 4 } }
     s.quizDue 0 = true ∧ (s.hart 0).engine.run = none ∧ s.faultyArrays 0 = false ∧ bits (s.hart 0).sys.fence 3 0 = 0) ∧
    (let r : Run := ⟨.drain 0, 0x2002, 0, 1, 2, 3⟩
     (core0.modMe fun h => { h with runs := { h.runs with fifo := [r] } }).nextRun 0 = some r) ∧
    (core0.modMe fun h => { h with engine := { h.engine with queue := [core0.sample (.tblld 3 9 ⟨[], []⟩) none] } }).stepOn 0 = false := by
  refine ⟨by decide +kernel, by decide +kernel, ?_, by decide, by decide +kernel, by decide +kernel, by decide +kernel, by decide +kernel, ?_, ?_⟩ <;>
    decide +kernel

theorem rowTo_places : ((List.range 64).map fun j => (((partSpans rowTo j 1).head?).map (·.home)).getD 0) = upFrom (tcmHome 0 0x400) 64 ∧
    ∀ j : Fin 64, homeOf (tcmHome 0 0x400 + j.val) = .tcm := by decide +kernel

theorem witness_MatrixEngineSteps_drains (h : Option Word) (m : h = none ∨ h = some 0x2002) :
    let s := drained h
    Memory.wf s.mem = true ∧ s.poison = [] ∧ s.dies = [] ∧ s.spansWait 0 (s.rowSpans 0 0) = (false, s) ∧ s.storesBefore 0 0 = true := by
  rcases m with rfl | rfl <;> refine ⟨?_, ?_, ?_, ?_, ?_⟩ <;> decide +kernel

theorem witness_MatrixEngineSteps_run :
    let s := { (drained (some 0x2002)).modMe fun h => { h with handler := handler0.me.handler } with ctx := .handler }
    (∃ r, s.me.handler.run = some r ∧ r.kind = .drain 0) ∧ s.me.mem.sb = [] ∧ s.spansWait 0 (s.rowSpans 0 0) = (false, s) :=
  ⟨⟨⟨.drain 0, 0x2002, 0, 0, 0, 0⟩, by decide +kernel⟩, by decide +kernel, by decide +kernel⟩

/-- Words in the scratchpad of cluster 0 from an offset on. -/
def padWords (s : State) (off : Nat) (l : List Nat) : State := withBytes s (padHome 0 off) (l.flatMap fun w => bytesOf w 8)

/-- Words in the TCM of core 0 from an offset on. -/
def tcmWords (s : State) (off : Nat) (l : List Nat) : State := withBytes s (tcmHome 0 off) (l.flatMap fun w => bytesOf w 8)

/-- The virtual address of a scratchpad offset. -/
def padVaN (off : Nat) : Nat := (core0.padVa 0 off).toNat

/-- A CONTRACT block: a dot product of two vectors of one FP32 element, at 0x8000, 0x8040 and 0x8080. -/
def dotBlock : List Nat :=
  [1 + 0xFFF0 * 2 ^ 16 + 0xFFF0 * 2 ^ 32 + 0xFFFF * 2 ^ 48, 1, 0, 0, padVaN 0x8000, 0, 0, 0, padVaN 0x8040, 0, 0, 0, padVaN 0x8080, 0, 0, 0]

/-- Core 0 with the thatcher's answer. -/
def thatched (a : Answer) : State := core0.modMe fun h => { h with answer := some a }

/-- Core 0 whose instruction the thatcher holds. -/
def thatching : State := core0.modCluster 0 fun k => { k with treeWait := [⟨0, .mul, false, 0, 0, 0, none⟩] }

def dotAt : State := padWords (atPad 0x7000 0) 0x7000 dotBlock

theorem witness_TreeInstructions :
    Ready acceptMain (.treemul 1 2 3) [1, 2, 3] [] 0 (thatched .done) ∧ (thatched .done).me.answer = some .done ∧
    Accepted acceptMain .tresume [] [] 0 (thatched (.trap 0x11 8 false)) ∧ Accepted acceptMain (.tconv 1 2) [1, 2] [] 0 (thatched (.trap 0x12 8 true)) ∧
    Accepted acceptMain (.treeadd 1 2 3) [1, 2, 3] [] 0 thatching ∧ thatching.me.answer = none ∧
    (thatching.cluster (clusterOf thatching.cur)).serves thatching.cur = true ∧
    (core0.cluster (clusterOf core0.cur)).serves core0.cur = false ∧ core0.me.engine.tablesSettled = true ∧ core0.me.mem.sb = [] ∧
    ((atPad 0x7020 0).x 1).toNat % 64 ≠ 0 ∧ Accepted acceptMain (.contract 1) [1] [] 0 dotAt ∧
    givesSuch (loadWords ((atPad 0x7000 0).x 1) 16) (atPad 0x7000 0) (fun w _ => readContract w 0 (fun _ => true) == none) = true ∧
    givesSuch (loadWords (dotAt.x 1) 16) dotAt (fun w u => u.me.mem.sb.isEmpty &&
      (readContract w (BitVec.ofNat 4 (bits dotAt.me.mat.cfmt 3 0)) dotAt.me.slotValid).isSome) = true :=
  ⟨ready_of (by decide +kernel) (by decide +kernel), by decide +kernel, accepted_of (by decide +kernel), accepted_of (by decide +kernel),
    accepted_of (by decide +kernel), by decide +kernel, by decide +kernel, by decide +kernel, by decide +kernel, by decide +kernel,
    by decide +kernel, accepted_of (by decide +kernel), by decide +kernel, by decide +kernel⟩

/-- A node of FP32 without RES: type, edge, scale and pointer, with its CHECK. -/
def nodeWords (typ edge scale ptr : Nat) : List Nat :=
  let w0 := typ * 2 ^ 60 + edge * 2 ^ 56
  [w0, scale, ptr, nodeCheck w0 scale ptr 0]

/-- Core 0 enrolled; pool descriptors at 0x1000 and 0x1020; scaled identities 1.0 of edge 1 at 0x2000; an interior node of
edge 2 at 0x2040; a resume record of a product with no frame at 0x3000. -/
def groves : State :=
  let s := padWords core0 0x1000
    [padVaN 0x4000, padVaN 0x4100, padVaN 0x4000, 7, padVaN 0x6000, padVaN 0x7000, padVaN 0x6000, 7]
  let s := padWords s 0x2000 (nodeWords 2 1 0x3F80_0000 0 ++ nodeWords 2 1 0 0 ++ nodeWords 0 2 0 (padVaN 0x5000))
  let s := padWords s 0x3000 [1, padVaN 0x2000, padVaN 0x2000, padVaN 0x2080, padVaN 0x4000, padVaN 0x6000, 2 ^ 32, 0]
  s.modMe fun h => { h with tree := { h.tree with treeset := 1, npool := core0.padVa 0 0x1000, dpool := core0.padVa 0 0x1020,
                                                  tresume := core0.padVa 0 0x3000 } }

/-- The run that a waiting instruction starts, and one under way over pools as the descriptors say. -/
def startOf (w : TreeWait) : TreeRun :=
  { core := w.core, kind := w.kind, a := w.a, b := w.b, dest := w.dest, smp := groves.me.treeSample
    npool := .none_, dpool := .none_, frames := [], steps := 0, finished := false, con := w.con, at_ := none, spent := [] }
def underWay (a b : Nat) (con : Option Contract) : TreeRun :=
  { startOf ⟨0, .mul, false, core0.padVa 0 a, core0.padVa 0 b, core0.padVa 0 0x2080, con⟩ with
    npool := ⟨core0.padVa 0 0x1000, padVaN 0x4000, padVaN 0x4100, padVaN 0x4000, 7⟩
    dpool := ⟨core0.padVa 0 0x1020, padVaN 0x6000, padVaN 0x7000, padVaN 0x6000, 7⟩ }

/-- The module with that run in its thatcher. -/
def running (r : TreeRun) : State := groves.modCluster 0 fun k => { k with treeRun := some r }

/-- A part of the thatcher's work succeeds with a run of which p holds. -/
def treeGives (s : State) (r : TreeRun) (m : TM Unit) (p : TreeRun → State → Bool) : Bool :=
  match s.runTree r 0 m with
  | (.ok c, t) => p c.run t
  | _ => false

/-- A new product and a resumed one start, and samples that enrol no core fail. -/
theorem witness_ThatcherRuns_start :
    (groves.cluster 0).treeRun = none ∧
    (let w : TreeWait := ⟨0, .mul, false, core0.padVa 0 0x2000, core0.padVa 0 0x2020, core0.padVa 0 0x2080, none⟩
     treeGives groves (startOf w) (startNew w) (fun r t => treeGives t r rootEdges fun _ _ => true)) = true ∧
    (let w : TreeWait := ⟨0, .mul, true, 0, 0, 0, none⟩
     treeGives groves (startOf w) (startResumed w) (fun _ _ => true)) = true ∧
    core0.sampleOk 0 .mul core0.me.treeSample = false := by
  refine ⟨by decide +kernel, ?_, ?_, ?_⟩ <;> decide +kernel

/-- Two scaled identities (the second a zero leaf), then interior roots with room for exactly one block. -/
theorem witness_ThatcherRuns_steps :
    (let r := underWay 0x2000 0x2000 none
     let s := running r
     ((s.cluster 0).treeRun = some r ∧ r.finished = false ∧ (s.hart 0).traps.pend.taskLimit = none ∧ s.stepAt 0 r = some (0, r)) ∧
     treeGives s r (do
       match ← rootOp with
       | .prod a b => if a.typ = 2 ∧ b.typ = 2 then (do
          let l ← treeSpans .store (BitVec.ofNat 64 r.dest.toNat) 32
          let x ← liftT get
          if (x.unitWaits r.core l).1 then treeFormatM 0 else pure ()) else treeFormatM 0
       | _ => treeFormatM 0) (fun _ _ => true) = true) ∧
    (let r := underWay 0x2040 0x2040 none
     r.npool.next + 256 ≤ r.npool.limit ∧
     treeGives (running r) r (do
       match ← rootOp with
       | .prod a _ => if a.typ = 0 then pure () else treeFormatM 0
       | _ => treeFormatM 0) (fun q t => q == r && t == running r) = true) := by
  refine ⟨⟨?_, ?_⟩, ?_, ?_⟩ <;> decide +kernel

/-- A step of CONTRACT that succeeds, a pending TASK_LIMIT, and the rewriting of both NEXT. -/
theorem witness_ThatcherRuns_ends :
    (match readContract (dotBlock.map (BitVec.ofNat 64)) 0 (fun _ => true) with
     | some c =>
       let r := underWay 0x7000 0 (some c)
       let left (p : TreeRun) (d : TreeCtx) : Bool := (workCores d.work).any fun n => ((p.begun d.work).nextChunk d.work n).isSome
       match (running r).runTree r 0 (contractStep c) with
       | (.ok d, _) => left r d && !left { r with spent := [(0, 1, false)] } d &&
         ({ r with spent := [(0, 1, false)] }.begun d.work).allSpent d.work
       | _ => false
     | none => false) = true ∧
    (let con : Contract := ⟨[0, 1], [1, 2], [0, 2], false, [1, 1, 1, 1], ⟨core0.padVa 0 0x8000, 0, 0, 0, 0, 0⟩,
       ⟨core0.padVa 0 0x8040, 0, 0, 0, 0, 0⟩, ⟨core0.padVa 0 0x8080, 0, 0, 0, 0, 0⟩⟩
     let s := running (underWay 0x7000 0 (some con))
     Memory.wf s.mem = true ∧ s.poison = [] ∧ s.tags = [] ∧ s.holds = [] ∧ s.waiters = [] ∧
       s.windowOf 0 con.opA.base.toNat = (.pad, 0x8000) ∧ s.windowOf 0 con.opB.base.toNat = (.pad, 0x8040) ∧
       s.windowOf 0 con.opC.base.toNat = (.pad, 0x8080) ∧ con.opA.fmt.toNat < 3 ∧ 0x8080 + 4 ≤ 0xF_C000) ∧
    (let s := (running (underWay 0x2000 0x2000 none)).modMe fun h =>
       { h with traps := { h.traps with pend := { h.traps.pend with taskLimit := some 9 }, status := 0 } }
     s.me.traps.pend.taskLimit = some 9 ∧ interruptsEnabled s.me.traps.status = true) ∧
    (let r := { underWay 0x2000 0x2000 none with finished := true }
     treeGives (running r) r writeNexts (fun _ _ => true) = true) := by
  refine ⟨by decide +kernel, by decide +kernel, ?_, ?_⟩ <;> decide +kernel

/-! ### Searches -/

/-- A search: block at 0x1000, a frame of 8 bytes, a trail for 16 entries, and room for eight choice points. -/
def hunt : Search := ⟨0x1000, 0x2000, 8, 0x3000, 0x3100, 0x3000, 0x4000, 0x4200, 0x4000, 0x2002, false, false, 0, 0, 0, 5⟩

/-- Core 0 in a search. -/
def hunting (q : Search) (v w : Word) : State := (withXs v w).modMe fun h => { h with search := some q }

/-- Core 0 in a search with one choice point: of n alternatives, a next; it snapped x7, and one change of the frame is above it. -/
def chosen (n a : Nat) : State :=
  let q := { hunt with ttop := 0x3020, ctop := 0x4040, nseq := 6 }
  tcmWords (tcmWords (hunting q 0x4000 0) 0x3000 [2 ^ 63 + 7, 0x77, 0x2000, 0x11]) 0x4000
    [n * 2 ^ 48 + a * 2 ^ 32 + 5 * 2 ^ 16 + 4, 0x2004, 2 ^ 7, 0x3010, 0]

/-- A legal search block for the frame, trail and choice points of `hunt`. -/
def blockAt : State :=
  tcmWords (atTcm 0x1000 0) 0x1000 [0x2000 + 8 * 2 ^ 16, 0x3000 + 0x3100 * 2 ^ 16, 0x4000 + 0x4200 * 2 ^ 16, 0x2002, 0, 5, 0, 0]

theorem witness_SearchInstructions :
    Ready acceptMain (.mark 3) [3] [] 0 (hunting hunt 0 0) ∧ (hunting hunt 0 0).mySearch = some hunt ∧ core0.mySearch = none ∧
    Accepted acceptMain (.tryPush 4 1 2) [4, 1, 2] [] 0 (hunting hunt 1 2) ∧ bit ((hunting hunt 1 2).x 1) 0 = true ∧
    65535 < ((hunting hunt 2 65536).x 2).toNat ∧ Ready acceptMain (.tryPush 4 1 2) [4, 1, 2] [] 0 (hunting hunt 2 1) ∧
    (bit ((hunting hunt 2 1).x 1) 0 = false ∧ ((hunting hunt 2 1).x 2).toNat = 1) ∧
    (2 ≤ ((hunting hunt 2 65535).x 2).toNat ∧ ((hunting hunt 2 65535).x 2).toNat ≤ 65535 ∧
      (bitPositions ((hunting hunt 2 65535).x 1).toNat 64).length = 1 ∧
      areasOk [(hunt.block, 64), (hunt.ttop, 16), (hunt.ctop, 64)] = true ∧ hunt.ctop + 64 ≤ hunt.clim) ∧
    (let full := { hunt with ttop := 0x30F0, ctop := 0x41C0 }
     full.ttop + 16 * 1 ≤ full.tlim ∧ full.ctop + 64 ≤ full.clim ∧ full.tlim < full.ttop + 16 * 2 ∧
       { full with ctop := 0x4200 }.clim < { full with ctop := 0x4200 }.ctop + 64) :=
  ⟨ready_of (by decide +kernel) (by decide +kernel), by decide +kernel, by decide +kernel, accepted_of (by decide +kernel),
    by decide +kernel, by decide +kernel, ready_of (by decide +kernel) (by decide +kernel), by decide +kernel, by decide +kernel,
    by decide +kernel⟩

/-- FAIL with an alternative left and with the last one; CUT to the base of the stack and off it; SFRAME of a legal and of
an illegal block, and of one outside the TCM. -/
theorem witness_SearchInstructions_others :
    (∀ n : Fin 2, let s := chosen (n.val + 2) 1
      s.mySearch.isSome = true ∧ (s.choice 0x4000).next < (s.choice 0x4000).count ∧ (s.choice 0x4000).snap = [7] ∧
        (State.unwindTo (s.choice 0x4000).tmark 2048 s).choice 0x4000 = s.choice 0x4000 ∧
        State.backtrackPoison { hunt with ttop := 0x3020, ctop := 0x4040, nseq := 6 } 512 0x4040 s = none) ∧
    Accepted acceptMain .fail [] [] 0 (chosen 2 1) ∧ areasOk [(hunt.block, 64)] = true ∧ hunt.ctop ≤ hunt.cbase ∧
    (hunting { hunt with cancel := true } 0 0).mySearch = some { hunt with cancel := true } ∧
    Accepted acceptMain (.cut 1) [1] [] 0 (chosen 2 1) ∧ ((chosen 2 1).x 1).toNat = 0x4000 ∧ (chosen 2 1).unitPoison 0x4000 64 = none ∧
    ((withXs 0x4020 0).x 1).toNat % 64 ≠ 0 ∧ Accepted acceptMain .searchend [] [] 0 (hunting hunt 0 0) ∧
    Accepted acceptMain (.sframe 1) [1] [] 0 blockAt ∧ blockAt.mySearch = none ∧
    blockAt.windowOf blockAt.cur (blockAt.x 1).toNat = (.tcm, 0x1000) ∧
    givesSuch (loadWords (blockAt.x 1) 8) blockAt (fun w u => readBlock 0x1000 w == some hunt && flowsIn u && u.cur == 0) = true ∧
    givesSuch (loadWords ((atTcm 0x1000 0).x 1) 8) (atTcm 0x1000 0) (fun w _ => readBlock 0x1000 w == none) = true ∧
    ((atPad 0x1000 0).windowOf 0 ((atPad 0x1000 0).x 1).toNat).1 ≠ .tcm :=
  ⟨by decide +kernel, accepted_of (by decide +kernel), by decide +kernel, by decide +kernel, by decide +kernel,
    accepted_of (by decide +kernel), by decide +kernel, by decide +kernel, by decide +kernel, accepted_of (by decide +kernel),
    accepted_of (by decide +kernel), by decide +kernel, by decide +kernel, by decide +kernel, by decide +kernel, by decide +kernel⟩

/-- What a theft gave core 0 from core 3, and core 1 in a search of its own with the victim's frame length or another. -/
def taken (status : Nat) : Theft := ⟨status, 3, 0x4000, 5, 4, 1, 0x2004, [(7, 0x77), (63, 9)], false⟩
def robbed (n : Nat) (len : Nat) : State :=
  { (chosen n 1).modHart 1 fun h => { h with search := some { hunt with flen := len } } with net := [.theft 1 0] }

theorem witness_TheftAndItsMessages :
    (let s := hunting hunt 15 0
     Accepted acceptMain (.steal 3 1) [3, 1] [] 0 s ∧ s.me.theft = none ∧ s.net = [] ∧ s.mySearch = some hunt ∧ hunt.ctop = hunt.cbase ∧
       hunt.ttop = hunt.tbase ∧ (s.x 1).toNat ≤ 15 ∧ (s.x 1).toNat ≠ s.cur % 16 ∧ s.me.mem.sb = []) ∧
    15 < ((hunting hunt 16 0).x 1).toNat ∧ ((hunting hunt 0 0).x 1).toNat = (hunting hunt 0 0).cur % 16 ∧
    .theft 0 3 ∈ ({ hunting hunt 3 0 with net := [.theft 0 3] }).net ∧
    (let s := (hunting hunt 3 0).modMe fun h => { h with theft := some (taken 1) }
     Ready acceptMain (.steal 3 1) [3, 1] [] 0 s ∧ s.me.theft = some (taken 1) ∧ (taken 1).status ≠ 0) ∧
    (let s := (hunting hunt 3 0).modMe fun h => { h with theft := some (taken 0) }
     Accepted acceptMain (.steal 3 1) [3, 1] [] 0 s ∧ s.me.theft = some (taken 0) ∧ s.mySearch = some hunt ∧ (taken 0).xa ≠ 0 ∧
       (taken 0).snaps.map (·.1) = ((taken 0).snaps.map (·.1)).dedup ∧ (∀ e ∈ (taken 0).snaps, 0 < e.1 ∧ e.1 < 64)) ∧
    (let s := { (hunting hunt 3 0).modMe fun h => { h with theft := some (taken 0) } with net := [.cancel 0 3 0x4000 5] }
     (s.hart 0).theft = some (taken 0) ∧ (taken 0).status = 0 ∧ (taken 0).victim = 3 ∧ (taken 0).cp = 0x4000 ∧ (taken 0).token = 5) :=
  ⟨⟨accepted_of (by decide +kernel), by decide +kernel⟩, by decide +kernel, by decide +kernel, by decide +kernel,
    ⟨ready_of (by decide +kernel) (by decide +kernel), by decide +kernel⟩, ⟨accepted_of (by decide +kernel), by decide +kernel⟩,
    by decide +kernel⟩

/-- Victim 0 with an alternative left, with none, and with a frame of another length; a fenced victim; a cancellation and a
completion that name a choice point and ones that do not. -/
theorem witness_TheftAndItsMessages_messages :
    (let s := robbed 2 8
     s.net = [.theft 1 0] ∧ kindOf 0 = 0 ∧ s.fencedCore 0 = false ∧ (s.hart 0).search.isSome = true ∧
       (s.hart 1).search = some hunt ∧ Memory.wf s.mem = true ∧ hunt.fbase + hunt.flen ≤ 0x8000 ∧ s.poison = [] ∧
       State.lowestOpen { s with cur := 0, ctx := .main } ((s.hart 0).search.getD hunt) = some 0x4000) ∧
    (let s := robbed 1 8
     State.lowestOpen { s with cur := 0, ctx := .main } ((s.hart 0).search.getD hunt) = none) ∧
    ((robbed 2 16).hart 1).search.map (·.flen) = some 16 ∧
    (core0.modMe fun h => { h with sys := { h.sys with fence := 0x100 } }).fencedCore 0 = true ∧
    (let q := { hunt with stolen := true, vcore := 3, vcp := 0x4000, vtoken := 5 }
     let s := { hunting q 0 0 with net := [.cancel 0 3 0x4000 5] }
     s.net = [.cancel 0 3 0x4000 5] ∧ (s.hart 0).search = some q ∧ q.vcore = 3 % 16 ∧ q.vtoken ≠ 6) ∧
    (let s := { chosen 2 1 with net := [.complete 3 0 0x4000 5] }
     s.net = [.complete 3 0 0x4000 5] ∧ (s.hart 0).search.map (·.cbase) = some 0x4000 ∧ (s.hart 0).search.map (·.ctop) = some 0x4040 ∧
       (State.choice { s with cur := 0, ctx := .main } 0x4000).token = 5 ∧
       State.unitPoison { s with cur := 0, ctx := .main } 0x4000 64 = none ∧
       (State.choice { s with cur := 0, ctx := .main } 0x4000).token ≠ 6) := by
  refine ⟨?_, ?_, ?_, ?_, ?_, ?_⟩ <;> decide +kernel

/-! ### The screener and the channels -/

/-- An ASUMM block: one key of 32 FP16 elements at 0x8000, means at 0x8100 and a radius at 0x8200. -/
def summBlock : List Nat := [padVaN 0x8000, padVaN 0x8100, padVaN 0x8200, 64 * 2 ^ 32, 2 ^ 52 + 32 * 2 ^ 32 + 1, 0, 0, 0]

/-- An ASCREEN block: one query of 32 FP32 elements, one block of keys, K of 0. -/
def screenBlock : List Nat :=
  [padVaN 0x8000, padVaN 0x8100, padVaN 0x8200, padVaN 0x8300, padVaN 0x8400, padVaN 0x8500, 2 ^ 32, 32 * 2 ^ 32]

def screening (l : List Nat) (held : Nat) : State :=
  (padWords (atPad 0x7000 (core0.padVa 0 0x8000)) 0x7000 l).modCluster 0 fun k =>
    { k with screener := List.replicate held ⟨0, .summ 0 0 0 8 32 1 0, none, [], []⟩ }

/-- The request of `summBlock` with its ranges translated. -/
def summRequest : ScreenReq :=
  ⟨0, .summ (core0.padVa 0 0x8000) (core0.padVa 0 0x8100) (core0.padVa 0 0x8200) 64 32 1 1, some 7, [],
    [⟨padVaN 0x8000, 64, padHome 0 0x8000, false⟩, ⟨padVaN 0x8100, 64, padHome 0 0x8100, false⟩, ⟨padVaN 0x8200, 4, padHome 0 0x8200, false⟩]⟩

theorem witness_ScreenerRequests :
    (let s := screening summBlock 7
     Accepted acceptMain (.asumm 1 7 1) [1] [] 0 s ∧ givesSuch (loadWords (s.x 1) 8) s (fun w u =>
       match readSumm w with
       | some (op, id) => givesSuch (identityM 1 id (s.x 1)) u (fun _ t => t == u) && givesSuch (rangesM false true op.ranges) u (fun _ v =>
           v.me.mem.sb.isEmpty && decide ((v.cluster (clusterOf v.cur)).screener.length < 8) && flowsIn v)
       | none => false) = true) ∧
    (∀ held : Fin 2, let s := screening screenBlock (7 + held.val)
     givesSuch (loadWords (s.x 1) 8) s (fun w u =>
       match readScreen w (some (s.x 2)) (some 256) with
       | some op => givesSuch (rangesM false true op.ranges) u (fun _ v => v.me.mem.sb.isEmpty && flowsIn v &&
           decide ((v.cluster (clusterOf v.cur)).screener.length = 7 + held.val))
       | none => false) = true) ∧
    Accepted acceptMain (.ascreen 1 3 1) [1] [] 0 (screening screenBlock 0) ∧
    Accepted acceptMain (.ascreenLong 256 1 1 2 1 3 1) [1, 2] [] 0 (screening screenBlock 0) ∧
    givesSuch (loadWords ((screening [] 0).x 1) 8) (screening [] 0) (fun w _ => (readSumm w).isNone && (readScreen w none none).isNone) = true ∧
    ((atPad 0x7020 0).x 1).toNat % 64 ≠ 0 := by
  refine ⟨⟨accepted_of (by decide +kernel), ?_⟩, ?_, accepted_of (by decide +kernel), accepted_of (by decide +kernel), ?_, ?_⟩ <;>
    decide +kernel

theorem witness_ScreenerRequests_served :
    (let s := core0.modCluster 0 fun k => { k with screener := [summRequest] }
     Memory.wf s.mem = true ∧ (s.cluster 0).screener = [summRequest] ∧ s.poisonSpans summRequest.readSpans = none ∧
       s.unitWaits 0 summRequest.spans = (false, s) ∧
       (∀ p ∈ summRequest.spans, ∀ j : Fin 64, homeOf (p.home + j.val) ≠ .loft) ∧
       (let p := { s with poison := [padHome 0 0x8000 / 4 * 4] }
        (p.poisonSpans summRequest.readSpans).isSome = true ∧ p.unitWaits 0 summRequest.spans = (false, p))) ∧
    ((∀ e, (core0.die e).gutter = []) ∧ ∀ a, core0.inSpill a = false) ∧
    (let at_ (a : Word) (n i : Nat) : Option Nat := ((partSpans (rangeSpans summRequest.spans a n) i 1).head?).map (·.home)
     let places := (List.range 64).map (at_ (core0.padVa 0 0x8100) 64) ++ (List.range 4).map (at_ (core0.padVa 0 0x8200) 4)
     (∀ i : Fin 64, (at_ (core0.padVa 0 0x8000) 64 i.val).isSome = true) ∧ (∀ p ∈ places, p.isSome = true) ∧ places.Nodup) := by
  refine ⟨?_, ⟨fun e => rfl, (calm_of rfl).2⟩, ?_⟩ <;> decide +kernel

/-- The request of an ASCREEN of one query block with one query, against one key block, for the best one. -/
def screenRequest : ScreenReq :=
  ⟨0, .screen (core0.padVa 0 0x8000) (core0.padVa 0 0x8100) (core0.padVa 0 0x8200) (core0.padVa 0 0x8300) (core0.padVa 0 0x8400)
      (core0.padVa 0 0x8500) 1 128 32 1 1 1 0 false false, some 7, [],
    [⟨padVaN 0x8000, 128, padHome 0 0x8000, false⟩, ⟨padVaN 0x8100, 64, padHome 0 0x8100, false⟩,
     ⟨padVaN 0x8200, 4, padHome 0 0x8200, false⟩, ⟨padVaN 0x8300, 8, padHome 0 0x8300, false⟩,
     ⟨padVaN 0x8400, 12, padHome 0 0x8400, false⟩, ⟨padVaN 0x8500, 4, padHome 0 0x8500, false⟩]⟩

theorem witness_ScreenSelection :
    let r := screenRequest
    let s := core0.modCluster 0 fun k => { k with screener := [r] }
    let at_ (a : Word) (n i : Nat) : Option Nat := ((partSpans (rangeSpans r.spans a n) i 1).head?).map (·.home)
    let places := (List.range 8).map (at_ (core0.padVa 0 0x8300) 8) ++ (List.range 4).map (at_ (core0.padVa 0 0x8400) 4) ++
      (List.range 4).map (at_ (core0.padVa 0 0x8500) 4)
    Memory.wf s.mem = true ∧ (s.cluster 0).screener = [r] ∧ s.poisonSpans r.readSpans = none ∧ s.unitWaits 0 r.spans = (false, s) ∧
      (∀ p ∈ r.spans, ∀ j : Fin 128, homeOf (p.home + j.val) ≠ .loft) ∧ maskWords 1 = 1 ∧
      (selection [boundKey (valuesOf [] 0 32 (List.replicate 128 0)) (valuesOf [] 2 32 (List.replicate 64 0)) (fdecode fp32 0)] 1 false false) = [0] ∧
      (∀ i : Fin 64, (at_ (core0.padVa 0 0x8100) 64 i.val).isSome = true) ∧ (∀ i : Fin 4, (at_ (core0.padVa 0 0x8200) 4 i.val).isSome = true) ∧
      (∀ j : Fin 128, (at_ (queryAt (core0.padVa 0 0x8000) 128 1 0 0) 128 j.val).isSome = true) ∧
      (∀ p ∈ places, p.isSome = true) ∧ places.Nodup := by
  refine ⟨?_, ?_, ?_, ?_, ?_, ?_, ?_, ?_, ?_, ?_, ?_, ?_⟩ <;> decide +kernel

/-- Output 3 of core 0 connected to input 2 of core 5, which holds or awaits n chunks. -/
def connected (n : Nat) : State :=
  { core0.modMe fun h => { h with chan := { h.chan with out := h.chan.out.setIfInBounds 3 (some 0x2005) } } with
    net := List.replicate n (.chunk 5 2 ⟨0, 7, 1⟩) }

/-- Core 0 with a chunk at its input 0. -/
def supplied : State :=
  core0.modMe fun h => { h with chan := { h.chan with inp := h.chan.inp.setIfInBounds 0 [⟨3, 7, 9⟩] } }

theorem witness_TransformChannels :
    Accepted acceptMain (.xsend 2 3 1) [1] [2] 0 core0 ∧ core0.channelOut 3 = none ∧
    Ready acceptMain (.xsend 2 3 1) [1] [2] 0 (connected 7) ∧ (connected 7).channelOut 3 = some 0x2005 ∧
    (∀ n ∈ ([2] : List (BitVec 5)), (connected 7).streamSlot n = none) ∧ (connected 7).drained (connected 7).cur 3 = true ∧
    (connected 7).fencedCore 5 = false ∧ (connected 7).channelLoad 5 2 < 8 ∧ 8 ≤ (connected 8).channelLoad 5 2 ∧
    ((connected 0).modHart 5 fun h => { h with sys := { h.sys with fence := 0x100 } }).fencedCore 5 = true ∧
    core0.plainV [2] ∧ Accepted acceptMain (.xrecv 2 0 1) [1] [2] 0 core0 ∧ core0.me.channelIn 0 = [] ∧
    Ready acceptMain (.xrecv 2 0 1) [1] [2] 0 supplied ∧ supplied.me.channelIn (0 : BitVec 2).toNat = [⟨3, 7, 9⟩] ∧
    bits ((withXs 0x4000 0).x 1) 63 14 ≠ 0 ∧ Ready acceptMain (.xctlCon 3 1) [1] [] 0 (withXs 0x3FFF 0) ∧
    bits ((withXs 0x3FFF 0).x 1) 63 14 = 0 ∧ Ready acceptMain (.xctlDis 3) [] [] 0 core0 ∧
    Ready acceptMain (.xctlSt 1 3) [1] [] 0 core0 ∧ (connected 1).net[0]? = some (.chunk 5 2 ⟨0, 7, 1⟩) :=
  by
    refine ⟨accepted_of (by decide +kernel), ?_, ready_of (by decide +kernel) (by decide +kernel), ?_, ?_, ?_, ?_, ?_, ?_, ?_,
      plain_core0 _, accepted_of (by decide +kernel), ?_, ready_of (by decide +kernel) (by decide +kernel), ?_, ?_,
      ready_of (by decide +kernel) (by decide +kernel), ?_, ready_core0 _ _ _ rfl rfl, ready_core0 _ _ _ rfl rfl, ?_⟩ <;>
      decide +kernel

/-! ### Events -/

/-- Core 0's tag on unit 7 at scope 1, and core 16 (another cluster of the die) held at it. -/
def heldAt : State :=
  { core0.modHart 16 fun h => { h with park := some ⟨.scopeMiss 7, 0, none, none⟩ } with tags := [(7, ⟨0, 1, false, false⟩)] }

/-- The same with the hold made, and a run for it. -/
def scopeRun : Run := ⟨.scopeMiss 7 3, 0x2002, 1, 4, 3, 6⟩
def holding (lifted : Bool) (auto : Option Nat) : State := { heldAt with holds := [(7, ⟨0, 1, 3, lifted, true, false, auto⟩)] }

/-- The tag and its hold of another writer: a loader, whose message waits at its memory interface. -/
def atInterface : State :=
  { heldAt with tags := [(7, ⟨4096, 1, false, false⟩)], holds := [(7, ⟨4096, 1, 3, false, true, false, some 0⟩)] }.modHart 4096 fun h => { h with runs := { h.runs with port := [scopeRun] } }

/-- Hart h has a store in its buffer. -/
def withStore (s : State) (h : Nat) : State := s.modHart h fun t => { t with mem := { t.mem with sb := [⟨.fence 2 false, 0, false, 0⟩] } }

/-- Pending interrupts of core 0, in user mode with an S-level handler. -/
def pendingWith (p : Pending) : State :=
  (asUser core0).modMe fun h => { h with traps := { h.traps with pend := p } }

theorem witness_ScopeMissesMessagesAndWakes :
    (tget heldAt.tags 7 = some ⟨0, 1, false, false⟩ ∧ (heldAt.hart 16).waitsHeld 7 = true ∧ inScope 0 1 16 = false ∧ tget heldAt.holds 7 = none ∧
      kindOf 0 = 0 ∧ heldAt.writerGone 0 = false ∧ (heldAt.hart 0).runs.fifo.length < 16 ∧ (heldAt.hart 0).runs.port = [] ∧
      smallestScope 0 16 = 3 ∧
      16 ≤ ((heldAt.modHart 0 fun h => { h with runs := { h.runs with fifo := List.replicate 16 scopeRun } }).hart 0).runs.fifo.length ∧
      kindOf 4096 ≠ 0 ∧ inScope 4096 1 16 = false ∧ (heldAt.modHart 0 fun h => { h with halted := true }).writerGone 0 = true) ∧
    (core0.modMe fun h => { h with runs := { h.runs with fifo := [scopeRun] } }).nextRun 0 = some scopeRun ∧
    (kindOf 4096 ≠ 0 ∧ (atInterface.hart 4096).runs.port = [scopeRun] ∧ tget atInterface.holds 7 = some ⟨4096, 1, 3, false, true, false, some 0⟩ ∧ atInterface.performedBelow 4096 0 = true ∧
      (withStore atInterface 4096).performedBelow 4096 1 = false) ∧
    (∀ a ∈ ([none, some 0, some 1] : List (Option Nat)), ∀ l ∈ [true, false], let s := withStore (holding l a) 0
      tget s.holds 7 = some ⟨0, 1, 3, l, true, false, a⟩ ∧ tget { s with tags := [] }.tags 7 = none ∧ tget s.tags 7 = some ⟨0, 1, false, false⟩ ∧ (s.holds.map (·.1)).Nodup ∧
        s.performedBelow 0 0 = true ∧ s.performedBelow 0 1 = false) ∧
    (let r : RegRequest := ⟨0, 1, .load 0x50000 8, 0⟩
     (core0.modMe fun h => { h with mem := { h.mem with regLast := some r } }).me.mem.regLast = some r) ∧
    (let s := { core0 with net := [.msg 1 0 127 (List.replicate 256 9) 7 0] }
     Memory.wf s.mem = true ∧ s.net[0]? = some (.msg 1 0 127 (List.replicate 256 9) 7 0) ∧
       256 * 127 + (List.replicate 256 (9 : Byte)).length ≤ 0x8000 ∧
       s.partyWaits 1 [⟨tcmHome 0 (256 * 127), 256, tcmHome 0 (256 * 127), false⟩] = (false, s) ∧ s.fencedCore 0 = false ∧
       (s.modMe fun h => { h with sys := { h.sys with fence := 0x100 } }).fencedCore 0 = true) := by
  refine ⟨?_, ?_, ?_, ?_, ?_, ?_⟩ <;> decide +kernel

theorem witness_ScopeMissesMessagesAndWakes_waits :
    ((waited .bell).parkOf 0 false).isSome = true ∧
    (∀ w ∈ ([.sleep, .pause, .counter, .bell] : List Why), (waited w).parkOf 0 false = some ⟨w, 0, some 0, none⟩ ∧
      (waited w).parkOver ⟨w, 0, some 0, none⟩ = true ∧ (waited w).parkOver ⟨w, 0, some 1, none⟩ = false) ∧
    (∀ p ∈ ([⟨some (2, 9), some 1, some 2, some 3, [4]⟩, ⟨none, some 1, some 2, some 3, [4]⟩, ⟨none, none, some 2, some 3, [4]⟩,
        ⟨none, none, none, some 3, [4]⟩, ⟨none, none, none, none, [4]⟩] : List Pending), let s := pendingWith p
      kindOf 0 = 0 ∧ s.canRun 0 = true ∧ s.committed 0 = false ∧ s.asleep 0 = false ∧ s.owesLift 0 = false ∧
        trapLevel (kindOf 0) (s.hart 0).traps.status = some 1 ∧ headIndex ((s.hart 0).traps.vector 1) ≠ 0 ∧
        interruptsEnabled (s.hart 0).traps.status = true ∧ (s.hart 0).traps.pend = p) ∧
    (core0.canRun 0 = true ∧ (core0.hart 0).traps.pend = .reset) ∧
    (let e : UserEvent := ⟨9, 0x2002⟩
     let s := (withStatus core0 0x20).modMe fun h => { h with copy := { h.copy with events := [e] } }
     s.canRun 0 = true ∧ bits (s.hart 0).traps.status 1 0 = 0 ∧ bit (s.hart 0).traps.status 5 = true ∧
       bit (s.hart 0).sys.uhandler 0 = false ∧ (s.hart 0).traps.pend = .reset ∧ s.committed 0 = false ∧ s.asleep 0 = false ∧
       (s.hart 0).copy.events = [e]) ∧
    hartExists 12291 = true := by
  refine ⟨?_, ?_, ?_, ?_, ?_, ?_⟩ <;> decide +kernel

/-- A task record: entry 0x2002, argument 9, restartable, its loader and storer, and a counter to raise. -/
def aRecord : TaskRecord := ⟨0x2002, 9, BitVec.ofNat 64 (0x72 + 0x1004 * 2 ^ 16 + 0x1008 * 2 ^ 32), 0xF000⟩
def aTask (order : Nat) : Task := ⟨aRecord, 2, some 0, order, none, none⟩

/-- Core 0 running a task, restartable or not, and waiting at its TASKEND. -/
def tasked (w2 : Word) : State :=
  core0.modMe fun h => { h with task := some ⟨{ aTask 0 with record := { aRecord with w2 := w2 } }, 0, false⟩
                                park := some ⟨.taskend, 0, none, none⟩, act := .running }

theorem witness_ControlAndContainmentEvents :
    (∀ h ∈ ([0, 4095, 4096, 12287, 12288, 12291] : List Nat), hartExists h = true ∧ (State.reset.hart h).halted = false ∧
      ((State.reset.modHart h fun t => { t with halted := true }).hart h).halted = true) ∧
    ((crRule 0x3A).isSome = true ∧ (∀ r, crRule 0x3A = some r → r.holds (kindOf 0) = true) ∧ (crRule 0x00).map (·.write) = some none) ∧
    (bit (core0.qctl 0 7) 63 = false ∧ queueRangeOk (setBit 0x40 63 true) = true ∧ queueRangeOk (setBit 0xC_0000_0040 63 true) = false ∧
      core0.canRun 0 = true ∧ bit ((queued 1 true).qctl 0 0) 63 = true) ∧
    ((core0.hart 4096).act ≠ .running ∧ (core0.hart 8192).act ≠ .running ∧ (loader0.hart 4096).act = .running ∧
      (loader0.hart 4096).mem.regWait = none ∧ (loader0.hart 4096).mem.regReply = none ∧ (0xFE0 : BitVec 12).toNat % 32 = 0 ∧
      (0xFFF : BitVec 12).toNat % 32 ≠ 0) ∧
    ((tasked 0).hart 0).task ≠ none ∧ (core0.hart 0).task = none ∧
    ((State.reset.hart 12291).act = .idle ∧ (State.reset.hart 12291).halted = false ∧ bit (State.reset.hart 12291).sys.fence 8 = false) ∧
    (core0.fencedCore 0 = false ∧ bit aRecord.w2 5 = true ∧ bit (0 : Word) 5 = false ∧ ((tasked aRecord.w2).hart 0).task.isSome = true) ∧
    (core0.modMe fun h => { h with sys := { h.sys with fence := 0x100 } }).fencedCore 0 = true ∧
    (core0.cluster 255).fenced = false ∧ (4 ≤ bits (0x400 : Word) 15 8 ∧ bits (0x3FF : Word) 15 8 < 4) ∧
    ((core0.cluster 0).disp.tasks = [] ∧ (∀ c ∈ coresOf 0, (core0.hart c).task = none) ∧ (core0.cluster 0).disp.sram < 1024 ∧
      (core0.cluster 0).disp.live (bits aRecord.w2 1 0) = true ∧ queueRangeOk (setBit 0xC_0000_0040 63 true) = false ∧ core0.canRun 0 = true) := by
  refine ⟨?_, ?_, ?_, ?_, ?_, ?_, ?_, ?_, ?_, ?_, ?_, ?_⟩ <;> decide +kernel

/-- Cluster 0 with n ready tasks of queue 2. -/
def tasks (n : Nat) : State := core0.modDisp 0 fun d => { d with tasks := (List.range n).map aTask }

/-- A graph of one task, and the device with it as graph 3 and n instances live, its service running for job 7. -/
def aGraph : Graph := ⟨1, [aRecord], [], List.replicate 8 0⟩
def withGraph (n : Nat) : State :=
  core0.modDev fun d => { d with graphs := [(3, aGraph)], service := true, job := 7
                                 instances := List.replicate n ⟨0, 3, [], 0, [0], [], aGraph.body⟩ }

theorem witness_TaskDispatchAndRetirement :
    (let h : Word := 2 * 2 ^ 16
     { core0 with net := [.enq 0 h aRecord (tcmHome 0 8) 7] }.net[0]? = some (.enq 0 h aRecord (tcmHome 0 8) 7) ∧
       bits h 63 32 = 0 ∧ core0.queuePlace 0 2 = (0, 2) ∧
       (∃ q, (core0.cluster 0).disp.queue 2 = some q ∧ q.gen = BitVec.ofNat 16 (bits h 15 0) ∧ q.live = true ∧ q.ovSize = 0) ∧
       recordBad aRecord = false ∧ recordBad { aRecord with w0 := 0x2000 } = true ∧ (core0.cluster 0).disp.queue 4 = none ∧
       (core0.cluster 0).disp.sram < 1024 ∧ bits (0x1_0000_0000 : Word) 63 32 ≠ 0 ∧ 1024 ≤ (crowded.cluster 0).disp.sram ∧
       (let d := { (crowded.cluster 0).disp with queues := [(2, ⟨true, 0, true, 0x1000, 64⟩)], tasks := { aTask 0 with overflow := some 0 } :: (crowded.cluster 0).disp.tasks }
        1024 ≤ d.sram ∧ d.queue 2 = some ⟨true, 0, true, 0x1000, 64⟩ ∧ d.room 2 = some (some 1))) ∧
    ({ core0 with net := [.reply 0 (tcmHome 0 8) 7 0] }.net[0]? = some (.reply 0 (tcmHome 0 8) 7 0) ∧ Memory.wf core0.mem = true ∧
      homeOf (tcmHome 0 8) = .tcm ∧ bit (core0.hart (counterOwner 0)).sys.fence 8 = false) ∧
    ({ withGraph 8 with net := [.launchg 0 (3 * 2 ^ 16 + 1) [1, 0, 9] 0 0] }.net[0]? =
        some (.launchg 0 (3 * 2 ^ 16 + 1) [1, 0, 9] 0 0) ∧ (withGraph 8).dev.tierOp = none ∧
      ((withGraph 8).modDev fun d => { d with tierOp := some (.restore (some 1) 4 0 0) }).dev.tierOp ≠ none ∧
      tget (withGraph 8).dev.graphs 3 = some aGraph ∧ tget core0.dev.graphs 3 = none ∧ patchOk [1, 0, 9] 8 = true ∧
      patchOk [1, 8, 9] 8 = false ∧ 8 ≤ (withGraph 8).liveOf 3 ∧ (withGraph 7).liveOf 3 < 8 ∧ aGraph.body.tasks ≠ []) := by
  refine ⟨⟨?_, ?_, ?_, ⟨⟨true, 0, true, 0, 0⟩, ?_⟩, ?_⟩, ?_, ?_⟩ <;> decide +kernel

theorem witness_TaskDispatchAndRetirement_others :
    ((tasks 2).idleCore 1 = true ∧ core0.idleCore 1 = true ∧ aTask 1 ∈ ((tasks 2).cluster 0).disp.tasks ∧
      ((tasks 2).cluster 0).disp.isReady (aTask 1) = true ∧
      bits ((tasks 2).hart 1).sys.preempt 1 0 ≤ (tasks 2).levelOf ((tasks 2).cluster 0).disp (aTask 1) ∧
      (core0.cluster 0).disp.tasks = []) ∧
    ((tasked 0).retirable 0 = true ∧ ((tasked 0).hart 0).task.map (·.task.graph) = some none ∧ core0.retirable 0 = false) ∧
    (((tasks 1).cluster 0).disp.tasks[0]? = some (aTask 0) ∧ (tasks 1).levelOf ((tasks 1).cluster 0).disp (aTask 0) ≠ 3 ∧
      { tasks 1 with clock := 0x0010_0000 }.levelOf ((tasks 1).cluster 0).disp (aTask 0) = 3) ∧
    (bits ((tasked 0).hart 0).sys.tasklim 47 0 ≤ { tasked 0 with clock := 0x1_0000_0000 }.clock - 0 ∧
      (tasked 0).clock - 0 < bits ((tasked 0).hart 0).sys.tasklim 47 0) ∧
    (core0.probing 9 = false ∧ core0.wantsTask 9 = true ∧ (core0.cluster 9).disp.probing = [] ∧ (core0.cluster 9).disp.probeAt = none) ∧
    (let s := { tasks 2 with net := [.probe 1 0] }
     s.net[0]? = some (.probe 1 0) ∧ 2 ≤ (((s.cluster 0).disp.tasks).filter (s.cluster 0).disp.isReady).length ∧
       ((s.cluster 0).disp.queue 2).map (·.stealable) = some true ∧
       (((tasks 1).cluster 0).disp.tasks.filter ((tasks 1).cluster 0).disp.isReady).length < 2) ∧
    ({ core0 with net := [.stolen 0 (aTask 0)] }.net[0]? = some (.stolen 0 (aTask 0)) ∧ core0.queuePlace 0 (recordPrio aRecord) = (0, 2) ∧
      (core0.cluster 0).disp.room 2 = some none ∧ (core0.cluster 0).disp.live 2 = true ∧ (core0.cluster 0).disp.sram < 1024 ∧
      (crowded.cluster 0).disp.room 2 = none) := by
  refine ⟨?_, ?_, ?_, ?_, ?_, ?_, ?_⟩ <;> decide +kernel

/-! ### The service, the pod and the board -/

/-- Endpoint 1 after SEQ 4, whose reply is recorded; the service runs job 7. -/
def serving : State :=
  core0.modDev fun d => { d with service := true, job := 7, endpoints := [(1, ⟨some 4, [(4, replyBytes 6 4 7 0 [])], none⟩)] }

/-- A request of endpoint 1 with a CODE, LEN and OP. -/
def req (seq : Word) (code : BitVec 8) (len op : BitVec 32) (job : BitVec 32) (last : Bool) : Request :=
  ⟨0, 1, 1, code, 0, false, false, len, seq, job, last, op⟩

/-- The same endpoint with a COPY_OUT of SEQ 5 begun, of 12 bytes at 0x1000, the words at these offsets moved. -/
def outPlaces : Spans := [⟨0x1000, 12, 0x51000, false⟩]
def working (m : List (Nat × List Byte)) : State :=
  serving.modDev fun d =>
    { d with endpoints := [(1, ⟨some 4, [], some ⟨req 5 4 16 0 7 false, bytesOf 0x1000 8 ++ bytesOf 12 8, outPlaces, m⟩⟩)] }

/-- The tables of `paged` as the job's, and none of its nodes in DRAM. -/
def mapped (root : Word) : State :=
  { serving with mem := paged.mem }.modHart 0 fun h => { h with sys := { h.sys with ptbase := root } }

/-- Requests that are new, repeated, behind another, out of turn, of another job, malformed, and to no endpoint; an image's
steps (that its check passes takes the vendor's signature, which no test can make); the walk that MAP makes. -/
theorem witness_ServiceRequestsAndMemory :
    (serving.endpoint 1).replies.find? (fun p => p.1 == (req 4 6 4 2 7 false).seq) = some (4, replyBytes 6 4 7 0 []) ∧
    ((∀ p ∈ (serving.endpoint 1).replies, p.1 ≠ (req 5 6 4 2 7 false).seq) ∧ serving.dev.tierOp = none ∧ serving.tierEndpoint ≠ some 1 ∧
      (serving.endpoint 1).work = none ∧ (serving.endpoint 1).last = some 4 ∧ (req 5 6 4 2 7 false).seq = 4 + 1 ∧
      (req 6 6 4 2 7 false).seq ≠ 4 + 1 ∧ serving.dev.service = true ∧ (req 5 6 4 2 7 false).job = serving.dev.job ∧
      (req 5 6 4 2 8 false).job ≠ serving.dev.job ∧ (req 5 6 4 9 7 false).op.toNat ≠ 2 ∧ 4096 ≤ ({ req 5 6 4 2 7 false with ep := 4096 }).ep) ∧
    ((∀ p ∈ ((working []).endpoint 1).replies, p.1 ≠ (req 5 4 16 0 7 false).seq) ∧ ((working []).endpoint 1).work =
      some ⟨req 5 4 16 0 7 false, bytesOf 0x1000 8 ++ bytesOf 12 8, outPlaces, []⟩ ∧ (req 6 6 4 2 7 false).seq ≠ (req 5 4 16 0 7 false).seq ∧
      bytesOf 0x1000 8 ++ bytesOf 13 8 ≠ (bytesOf 0x1000 8 ++ bytesOf 12 8 : List Byte)) ∧
    ((working []).unitWaits 0 outPlaces = (false, working []) ∧ (working []).spansWait 12288 outPlaces = (false, working []) ∧
      (working []).poisonSpans outPlaces = none) ∧
    (serving.modDev fun d => { d with tierOp := some (.restore (some 1) 4 0 0) }).tierEndpoint = some 1 ∧
    (core0.dev.service = false ∧ (core0.endpoint 4095).last = none ∧ (core0.endpoint 4095).work = none ∧ Memory.wf core0.mem = true ∧
      core0.dev.checking = none ∧ (core0.modDev fun d => { d with checking := some 1 }).dev.checking = some 1 ∧
      (0x1FF_0028 : Word).toNat + 65496 ≤ 0x200_0000 ∧ (req 0 1 65504 0 7 true).len.toNat = 8 + 65496 ∧
      core0.imageCheck ≠ 0) ∧
    ((mapped 0x10000).jobRoot = 0x10000 ∧ (mapFrom 0 0x500D7 3 0x10000 (mapped 0x10000)).isSome = true ∧
      (mapFrom 0 0x500D7 3 0xFFC0_0000_0000 (mapped 0xFFC0_0000_0000)).isNone = true ∧
      (0xFFFF_FFFF_0000 : Word).toNat + 65536 ≤ 2 ^ 48) := by
  refine ⟨?_, ?_, ?_, ?_, ?_, ?_, ?_⟩ <;> decide +kernel

/-- The same table whose leaf stands outside DRAM. -/
def overTop : State :=
  { mapped 0x10000 with mem := memPutList paged.mem 0x40000 (bytesOf 0xFFC0_0000_00D7 8) }

/-- The page at 0 stands in the TLB of service core 0. -/
def cached : State := (mapped 0x10000).modHart 12288 fun h => { h with mem := { h.mem with tlb := [⟨0x10000, 0, 16, 0x500D7⟩] } }

/-- Transfers that a table maps, poisoned or not, and under a root with no entry; begun with a word moved; a graph that is there and
one that is not. -/
theorem witness_ServiceRequestsAndMemory_others :
    (∀ acc ∈ ([.load, .store] : List Acc), (cached.requestSpans acc 0x1000 12).2.1 = .whole ∧
      ((cached.requestSpans acc 0x1000 12).2.2.spansWait 12288 (cached.requestSpans acc 0x1000 12).1).1 = false ∧
      (cached.requestSpans acc 0x1000 12).2.2.poisonSpans (cached.requestSpans acc 0x1000 12).1 = none ∧
      (({ cached with poison := [0x51000] }).poisonSpans (cached.requestSpans acc 0x1000 12).1).isSome = true ∧
      ((mapped 0x70000).requestSpans acc 0x1000 8).2.1 = .stopped 5 ∧ ((mapped 0x70000).requestSpans acc 0x1000 8).1 = []) ∧
    (∀ acc ∈ ([.load, .store] : List Acc), (overTop.requestSpans acc 0x1000 8).2.1 = .stopped 6) ∧
    (wordCuts (cached.requestSpans .load 0x1000 12).1 0 = [(0, 8), (8, 4)] ∧ (working [(0, [])]).movedAt (req 5 4 16 0 7 false) = [(0, [])]) ∧
    (tget (withGraph 8).dev.graphs (bits (0x3_0001 : Word) 31 16) = some aGraph ∧
      tget (withGraph 8).dev.graphs (bits (0x4_0001 : Word) 31 16) = none ∧ bits (0x3_0001 : Word) 63 32 = 0 ∧
      aGraph.gen = BitVec.ofNat 16 (bits (0x3_0001 : Word) 15 0) ∧ patchOk [] 8 = true ∧ patchOk [1, 8, 9] 8 = false ∧ 8 ≤ (withGraph 8).liveOf 3 ∧
      (withGraph 0).liveOf 3 < 8 ∧ aGraph.body.tasks ≠ []) ∧
    (List.replicate 64 (0 : Byte)).length = 64 := by
  refine ⟨?_, ?_, ?_, ?_, ?_⟩ <;> decide +kernel

/-- Queue 4 of cluster 0, with the generation before it the last. -/
def queue4 : State := serving.modDisp 0 fun d => { d with queues := [(4, ⟨true, 0xFFFF, true, 0, 32⟩)], gens := [(4, 0xFFFF)] }

theorem witness_ServiceQueuesGraphsAndCheckpoints :
    (let h : Word := 0x4_FFFF
     bits h 63 32 = 0 ∧ 4 ≤ bits h 23 16 ∧ (32 : Word).toNat % 32 = 0 ∧ (queue4.cluster 0).fenced = false ∧
       tget (queue4.cluster 0).disp.queues 4 = some ⟨true, 0xFFFF, true, 0, 32⟩ ∧ tget (serving.cluster 0).disp.queues 4 = none ∧
       (tget (queue4.cluster 0).disp.gens 4).getD 0 + 1 = 0 ∧ queue4.queuePlace 0 4 = (0, 4) ∧
       (0xFFFF : BitVec 16) = BitVec.ofNat 16 (bits h 15 0) ∧ ((queue4.cluster 0).disp.queues.map (·.1)).Nodup) ∧
    (graphBad aGraph.body = false ∧ tget (withGraph 0).dev.graphs 65535 = none ∧
      (withGraph 1).graphOf 0x3_0001 = some (3, aGraph) ∧ 0 < (withGraph 1).liveOf 3 ∧ (withGraph 0).liveOf 3 = 0) ∧
    (serving.tierImage 1 2 = none ∧
      ((serving.modDev fun d => { d with tier := [(1, 2, ⟨[], [], []⟩)] }).tierImage 1 2).isSome = true) ∧
    (let s := serving.modDev fun d => { d with tierOp := some (.checkpoint (some 1) 5 1 2 []), tier := [(1, 2, ⟨[], [], []⟩)] }
     s.dev.tierOp = some (.checkpoint (some 1) 5 1 2 []) ∧ s.quiet = true ∧ s.poison.all (fun a => !inImage a) = true ∧
       (tasked 0).quiet = false ∧ s.tierImage 1 2 = some ⟨[], [], []⟩ ∧ Memory.wf [] = true ∧ Memory.wf s.mem = true ∧
       s.dev.instances = [] ∧
       (let p := { s with poison := [0x1000] }
        p.quiet = true ∧ p.flushAll.poison.any inImage = true)) ∧
    ((req 5 9 28 0 7 false).len.toNat = 28 ∧ (serving.cluster 0).fenced = false ∧
      (tget (queue4.cluster 0).disp.queues 4).isSome = true ∧ (∃ n, n < 65536 ∧ tget serving.dev.graphs n = none)) := by
  refine ⟨?_, ?_, ?_, ?_, ⟨?_, ?_, ?_, 0, ?_⟩⟩ <;> decide +kernel

/-- Every cluster has a running core, and cluster 0 holds 64 ready tasks that may leave the module. -/
def loaded : State :=
  { tasks 64 with harts := (upFrom 0 256).map fun k => (16 * k, { core0.hart 16 with act := .running }) }.modDev fun d =>
    { d with podN := 1, podM := 2, passGen := 3 }

/-- An entry of the hall pass with or without a request, and a pass of this module and another. -/
def entry (r : Bool) : PassEntry := ⟨0, 0, r⟩
def aPass (gen : BitVec 16) (r : Bool) : HallPass := ⟨gen, 0, [entry r, entry false]⟩

theorem witness_PodAndBoard :
    (((255 : Word).toNat < (256 : Word).toNat ∧ (256 : Word).toNat ≤ 256 ∧ (List.replicate 256 (2 ^ 128 - 1)).length = 256 ∧
      serving.dev.instances = [] ∧ (withGraph 1).dev.instances ≠ []) ∧ ∀ e ∈ List.replicate 256 (2 ^ 128 - 1), e < 2 ^ 128) ∧
    ((aPass 2 true).gen.toNat < loaded.dev.passGen.toNat ∧ loaded.dev.passGen.toNat ≤ (aPass 3 true).gen.toNat ∧
      (aPass 3 true).entries.length = loaded.dev.podM ∧ loaded.dev.podN < loaded.dev.podM ∧
      (∀ e ∈ (aPass 3 false).entries, e.req = false) ∧ (aPass 3 true).entries[0]? = some (entry true) ∧ 0 ≠ loaded.dev.podN) ∧
    64 ≤ loaded.podTasks.length ∧ (∀ k : Fin 256, loaded.idleCluster k.val = false) ∧ core0.idleCluster 1 = true ∧
    (core0.dev.podN = 0 ∧ core0.dev.passAt + 48000 ≤ { core0 with nanos := 48000 }.nanos ∧ core0.nanos < core0.dev.passAt + 48000 ∧
      loaded.dev.podN ≠ 0) := by
  refine ⟨⟨?_, ?_⟩, ?_, ?_, ?_, ?_, ?_⟩ <;> decide +kernel

/-- Every dispatcher of the module is as full as that of `crowded`. -/
def filledUp : State := { core0 with clusters := (upFrom 0 256).map fun k => (k, crowded.cluster 0) }

theorem witness_PodAndBoard_others :
    ((∀ d, (core0.die d).redirect = []) ∧ ∃ k, k < 256 ∧ (core0.cluster k).fenced = false) ∧
    (∀ k : Fin 256, (core0.cluster k.val).disp.live (recordPrio aRecord) = true ∧ (core0.cluster k.val).disp.sram < 1024) ∧
    (∀ k : Fin 256, (filledUp.cluster k.val).disp.room (recordPrio aRecord) = none) ∧
    (core0.copyHalf 1 = false ∧ (working []).copyHalf 1 = false ∧
      (let t := (working []).modDev fun d => { d with endpoints := d.endpoints.map fun e => (e.1, { e.2 with work := (
        e.2.work.map fun w => { w with req := { w.req with code := 3 } }) }) }
       t.copyHalf 1 = true ∧ t.copyHalf 257 = true ∧ t.copyHalf 258 = false)) ∧
    Memory.wf core0.mem = true ∧ 3800 ≤ core0.board.centivolts ∧ ((3799 : Nat) < 3800 ∧ (∃ t ∈ ([0, 0, 0, 0, 1100] : List Nat), 1100 ≤ t)) ∧
    (∀ t ∈ core0.board.temps, t < 1100) ∧ ([0, 0, 0, 0, 1000] : List Nat).length = 5 ∧
    (∃ x ∈ ([0, 0, 0, 0, 1000] : List Nat), 1000 ≤ x) ∧ (∀ x ∈ ([949, 0, 0, 0, 0] : List Nat), x < 950) ∧
    100 * 2279 < 95 * core0.board.capNext ∧ 95 * core0.board.capNext ≤ 100 * 2280 ∧ ¬ core0.board.capNext < 2280 :=
  ⟨⟨fun _ => rfl, 255, by decide, by decide +kernel⟩, by decide +kernel, by decide +kernel, by decide +kernel, by decide +kernel, by decide +kernel, by decide,
    by decide +kernel, rfl, by decide, by decide, by decide +kernel⟩
end Sys2Proof.Machine
end

section
/-! O4: memory and the checkpoint images stay in their canonical form. Every operation of the model is followed in the
order of the model's files, each by one lemma that says it keeps the form; an operation's lemma cites those of the
operations it is made of, so only the four places that write memory or an image argue about lists of cells. -/

namespace Sys2Proof.Machine
section
variable {s t : State}

/-! ## States -/

/-- Only memory and the images count. -/
theorem State.MemOk.same (ok : s.MemOk) (mem : t.mem = s.mem) (tier : t.dev.tier = s.dev.tier) : t.MemOk :=
  ⟨mem ▸ ok.mem, tier ▸ ok.tier⟩

/-- Any other field of the state may change. -/
theorem State.MemOk.update
    {harts clusters dies board full poison tags holds waiters past net clock nanos free cur ctx turns} (ok : s.MemOk) :
    (State.mk harts clusters dies s.dev board s.mem full poison tags holds waiters past net clock nanos free cur ctx
      turns).MemOk := ⟨ok.mem, ok.tier⟩

theorem State.MemOk.ite {c : Prop} [Decidable c] (hs : s.MemOk) (ht : t.MemOk) : (if c then s else t).MemOk := by
  split
  exacts [hs, ht]

theorem State.MemOk.iteSnd {α : Type} {c : Prop} [Decidable c] {p q : α × State} (hp : p.2.MemOk) (hq : q.2.MemOk) :
    (if c then p else q).2.MemOk := by
  split
  exacts [hp, hq]

theorem State.MemOk.foldl {α : Type} {f : State → α → State} {l : List α}
    (hf : ∀ s a, s.MemOk → (f s a).MemOk) (ok : s.MemOk) : (l.foldl f s).MemOk :=
  List.foldlRecOn l f ok fun s hs a _ => hf s a hs

theorem State.MemOk.foldlSnd {α β : Type} {f : β × State → α → β × State} {l : List α} {p : β × State}
    (hf : ∀ p a, p.2.MemOk → (f p a).2.MemOk) (ok : p.2.MemOk) : (l.foldl f p).2.MemOk :=
  List.foldlRecOn (motive := fun p => p.2.MemOk) l f ok fun s hs a _ => hf s a hs

theorem State.MemOk.foldlFst {α β : Type} {f : State × β → α → State × β} {l : List α} {p : State × β}
    (hf : ∀ p a, p.1.MemOk → (f p a).1.MemOk) (ok : p.1.MemOk) : (l.foldl f p).1.MemOk :=
  List.foldlRecOn (motive := fun p => p.1.MemOk) l f ok fun s hs a _ => hf s a hs

/-- The state of a result that has been taken apart. -/
theorem State.MemOk.of_eq {α : Type} {p : α × State} {a : α} (ok : p.2.MemOk) (e : p = (a, t)) : t.MemOk := by
  subst e
  exact ok

theorem State.MemOk.of_eq₂ {α β : Type} {p : α × β × State} {a : α} {b : β} (ok : p.2.2.MemOk)
    (e : p = (a, b, t)) : t.MemOk := by
  subst e
  exact ok

/-! ## Outcomes, computations and operations that may refuse -/

/-- What an outcome goes on to is in canonical form. -/
def OutcomeOk (o : Host.Outcome State Fault Refusal) : Prop :=
  match o with
  | .next t => t.MemOk
  | _ => True

theorem OutcomeOk.next (ok : t.MemOk) : OutcomeOk (.next t) := ok
theorem OutcomeOk.fault {f : Fault} : OutcomeOk (.fault f) := trivial

theorem OutcomeOk.ite {c : Prop} [Decidable c] {o p : Host.Outcome State Fault Refusal} (ho : OutcomeOk o)
    (hp : OutcomeOk p) : OutcomeOk (if c then o else p) := by
  split
  exacts [ho, hp]

/-- A computation keeps memory and the images in canonical form, whether it ends or stops. -/
def KeepsMem {α : Type} (m : M α) : Prop := ∀ s : State, s.MemOk → (m.run s).2.MemOk

theorem KeepsMem.pure {α : Type} {a : α} : KeepsMem (pure a : M α) := fun _ ok => ok
theorem KeepsMem.throw {α : Type} {e : Stop} : KeepsMem (throw e : M α) := fun _ ok => ok
theorem KeepsMem.set (ok : s.MemOk) : KeepsMem (set s : M PUnit) := fun _ _ => ok

theorem KeepsMem.modify {f : State → State} (hf : ∀ s, s.MemOk → (f s).MemOk) :
    KeepsMem (modify f : M PUnit) := fun s ok => hf s ok

theorem KeepsMem.bind {α β : Type} {m : M α} {f : α → M β} (hm : KeepsMem m) (hf : ∀ a, KeepsMem (f a)) :
    KeepsMem (m >>= f) := by
  intro s ok
  rcases e : m.run s with ⟨a | a, t⟩
  · rw [bind_error e]
    exact (hm s ok).of_eq e
  · rw [bind_ok e]
    exact hf a t ((hm s ok).of_eq e)

/-- A computation that reads the state reads one in canonical form. -/
theorem KeepsMem.get {β : Type} {f : State → M β} (hf : ∀ s, s.MemOk → KeepsMem (f s)) :
    KeepsMem (get >>= f) := fun s ok => hf s ok s ok

theorem KeepsMem.ite {α : Type} {c : Prop} [Decidable c] {m n : M α} (hm : KeepsMem m) (hn : KeepsMem n) :
    KeepsMem (if c then m else n) := by
  split
  exacts [hm, hn]

/-- A step done under a condition, then the rest. -/
theorem KeepsMem.when {α : Type} {c : Prop} [Decidable c] {m : M PUnit} {f : PUnit → M α} (hm : KeepsMem m)
    (hf : ∀ a, KeepsMem (f a)) : KeepsMem (if c then m >>= f else f ⟨⟩) := .ite (.bind hm hf) (hf _)

/-- One of two steps, then the rest. -/
theorem KeepsMem.iteBind {α β : Type} {c : Prop} [Decidable c] {m n : M β} {f : β → M α} (hm : KeepsMem m)
    (hn : KeepsMem n) (hf : ∀ a, KeepsMem (f a)) : KeepsMem (if c then m >>= f else n >>= f) :=
  .ite (.bind hm hf) (.bind hn hf)

theorem KeepsMem.mapM {α β : Type} {f : α → M β} {l : List α} (hf : ∀ a, KeepsMem (f a)) : KeepsMem (l.mapM f) := by
  induction l with
  | nil => exact .pure
  | cons a l ih =>
    rw [List.mapM_cons]
    exact .bind (hf a) fun _ => .bind ih fun _ => .pure

theorem KeepsMem.forM {α : Type} {f : α → M Unit} {l : List α} (hf : ∀ a, KeepsMem (f a)) : KeepsMem (l.forM f) := by
  induction l with
  | nil => exact .pure
  | cons a l ih => exact KeepsMem.bind (hf a) fun _ => ih

/-- The state that an operation gives, if it gives one, is in canonical form. -/
def SomeOk (o : Option State) : Prop := ∀ t ∈ o, t.MemOk

theorem SomeOk.some (ok : s.MemOk) : SomeOk (some s) := by
  intro t ht
  cases ht
  exact ok

theorem SomeOk.none : SomeOk none := fun _ ht => nomatch ht

theorem SomeOk.ite {c : Prop} [Decidable c] {o p : Option State} (ho : SomeOk o) (hp : SomeOk p) :
    SomeOk (if c then o else p) := by
  split
  exacts [ho, hp]

theorem SomeOk.of_eq {o : Option State} (ho : SomeOk o) (e : o = .some t) : t.MemOk := ho t e

theorem SomeOk.getD {o : Option State} (ho : SomeOk o) (ok : s.MemOk) : (o.getD s).MemOk := by
  cases o with
  | none => exact ok
  | some t => exact ho t rfl

theorem SomeOk.foldlBind {α : Type} {f : State → α → Option State} {l : List α} {o : Option State}
    (hf : ∀ s a, s.MemOk → SomeOk (f s a)) (ok : SomeOk o) :
    SomeOk (l.foldl (fun o a => o.bind fun s => f s a) o) := by
  refine List.foldlRecOn l _ ok fun o ok a _ => ?_
  cases o with
  | none => exact .none
  | some s => exact hf s a (ok s rfl)

theorem SomeOk.foldlM {α : Type} {f : State → α → Option State} {l : List α}
    (hf : ∀ s a, s.MemOk → SomeOk (f s a)) (ok : s.MemOk) : SomeOk (l.foldlM f s) := by
  induction l generalizing s with
  | nil => exact .some ok
  | cons a l ih =>
    rw [List.foldlM_cons]
    rcases e : f s a with _ | t
    · exact .none
    · exact ih ((hf s a ok).of_eq e)

/-- A computation of the thatcher keeps memory and the images in canonical form. -/
def KeepsTree {α : Type} (m : TM α) : Prop := ∀ c : TreeCtx, KeepsMem (m.run c)

theorem KeepsTree.pure {α : Type} {a : α} : KeepsTree (pure a : TM α) := fun _ => .pure
theorem KeepsTree.get : KeepsTree (get : TM TreeCtx) := fun _ => .pure
theorem KeepsTree.modify {f : TreeCtx → TreeCtx} : KeepsTree (modify f : TM PUnit) := fun _ => .pure

theorem KeepsTree.bind {α β : Type} {m : TM α} {f : α → TM β} (hm : KeepsTree m) (hf : ∀ a, KeepsTree (f a)) :
    KeepsTree (m >>= f) := fun c => .bind (hm c) fun q => hf q.1 q.2

theorem KeepsTree.lift {α : Type} {m : M α} (hm : KeepsMem m) : KeepsTree (liftT m) :=
  fun _ => .bind hm fun _ => .pure

theorem KeepsTree.state {β : Type} {f : State → TM β} (hf : ∀ s, s.MemOk → KeepsTree (f s)) :
    KeepsTree (liftT MonadState.get >>= f) := fun c s ok => hf s ok c s ok

theorem KeepsTree.ite {α : Type} {c : Prop} [Decidable c] {m n : TM α} (hm : KeepsTree m) (hn : KeepsTree n) :
    KeepsTree (if c then m else n) := by
  split
  exacts [hm, hn]

theorem KeepsTree.mapM {α β : Type} {f : α → TM β} {l : List α} (hf : ∀ a, KeepsTree (f a)) :
    KeepsTree (l.mapM f) := by
  induction l with
  | nil => exact .pure
  | cons a l ih =>
    rw [List.mapM_cons]
    exact .bind (hf a) fun _ => .bind ih fun _ => .pure

theorem KeepsTree.forM {α : Type} {f : α → TM Unit} {l : List α} (hf : ∀ a, KeepsTree (f a)) :
    KeepsTree (l.forM f) := by
  induction l with
  | nil => exact .pure
  | cons a l ih => exact KeepsTree.bind (hf a) fun _ => ih

/-- Induction on a structural recursion by its own recursor, for a function whose equations are out of reach. -/
theorem brecOn_induction {C : Nat → Type} {F : ∀ n, Nat.below (motive := C) n → C n} {P : ∀ n, C n → Prop}
    (zero : ∀ b, P 0 (F 0 b)) (succ : ∀ n b, P n b.1 → P (n + 1) (F (n + 1) b)) (n : Nat) :
    P n (Nat.brecOn n F) := by
  induction n with
  | zero => exact zero _
  | succ n ih => exact succ n ⟨Nat.brecOn n F, _⟩ ih

/-! ## Parts of the state and memory (Parts.lean) -/

theorem State.MemOk.modHart {h f} (ok : s.MemOk) : (s.modHart h f).MemOk :=
  ok.update

theorem State.MemOk.modCluster {k f} (ok : s.MemOk) : (s.modCluster k f).MemOk :=
  ok.update

theorem State.MemOk.modDie {d f} (ok : s.MemOk) : (s.modDie d f).MemOk :=
  ok.update

/-- The device may change in anything but its images. -/
theorem State.MemOk.modDev {f} (ok : s.MemOk) (hf : ∀ d, (f d).tier = d.tier) : (s.modDev f).MemOk :=
  ok.same rfl (hf _)

theorem State.MemOk.modMe {f} (ok : s.MemOk) : (s.modMe f).MemOk :=
  ok.modHart

theorem State.MemOk.send {p} (ok : s.MemOk) : (s.send p).MemOk :=
  ok.update

theorem State.MemOk.choose {n} (ok : s.MemOk) : (s.choose n).2.MemOk :=
  .iteSnd ok ok.update

/-- One of the writers of memory: a list of cells with bytes put at an address is canonical again. -/
theorem State.MemOk.poke {a d} (ok : s.MemOk) : (s.poke a d).MemOk :=
  ⟨Memory.wf_memPutList d a ok.mem, ok.tier⟩

/-- Dropping cells leaves a canonical list. -/
theorem State.MemOk.wipe {p} (ok : s.MemOk) : (s.wipe p).MemOk :=
  ⟨Memory.wf_filter _ ok.mem, ok.tier⟩

/-! ## Homes, update regions, caches and the loft (Homes.lean) -/

theorem State.MemOk.deliver {w} (ok : s.MemOk) : (s.deliver w).MemOk :=
  .ite ok ok.update

theorem State.MemOk.setFull {w b} (ok : s.MemOk) : (s.setFull w b).MemOk :=
  .ite (.ite ok.update.deliver ok.update) ok

theorem State.MemOk.putBytes {a d} (ok : s.MemOk) : (s.putBytes a d).MemOk :=
  .ite (.foldl (fun _ _ ok => ok.setFull) ok.poke.update) ok.poke.update

theorem State.MemOk.combineAny {op n l fl} (ok : s.MemOk) : (combineAny op n l fl s).2.2.MemOk := by
  induction n generalizing l fl s with
  | zero => exact ok
  | succ n ih =>
    unfold Machine.combineAny
    split
    exacts [ok, ok, ok, ih ok.choose.choose]

theorem State.MemOk.applyElement {d r rg addr es} (ok : s.MemOk) : (s.applyElement d r rg addr es).MemOk := by
  unfold State.applyElement
  dsimp only
  split
  exacts [ok.poke.modDie, ok.combineAny.poke.modDie]

theorem State.MemOk.applyEntries {d p} (ok : s.MemOk) : (s.applyEntries d p).MemOk := by
  unfold State.applyEntries
  refine .ite ok (.foldl (fun _ _ ok => ?_) ok.modDie)
  split
  exacts [ok.applyElement, ok]

theorem State.MemOk.applyLine {a} (ok : s.MemOk) : (s.applyLine a).MemOk :=
  .ite ok.applyEntries ok

theorem State.MemOk.clearTags {a n} (ok : s.MemOk) : (s.clearTags a n).MemOk :=
  ok.update

theorem State.MemOk.fillL2 {d new} (ok : s.MemOk) : (s.fillL2 d new).MemOk := by
  unfold State.fillL2
  refine .ite ok.modDie ?_
  split
  exacts [.ite ok.modDie ok.modDie.update, ok]

theorem State.MemOk.touchL2 {a qual store} (ok : s.MemOk) : (s.touchL2 a qual store).MemOk :=
  ok.fillL2

theorem State.MemOk.modLoft {k f} (ok : s.MemOk) : (s.modLoft k f).MemOk :=
  ok.modCluster

theorem State.MemOk.copyPoison {a b n} (ok : s.MemOk) : (s.copyPoison a b n).MemOk :=
  ok.update

theorem State.MemOk.dramRead {a n} (ok : s.MemOk) : (s.dramRead a n).2.MemOk :=
  .foldlSnd (fun _ _ ok => ok.applyLine.touchL2) ok

theorem State.MemOk.dramWrite {a d} (ok : s.MemOk) : (s.dramWrite a d).MemOk :=
  .foldl (fun _ _ ok => .ite ok ok.applyLine.touchL2.putBytes.clearTags) ok

/-- The definition is unfolded as a function: with its arguments, which hold a sum of a large constant and an unknown, the
kernel would count the constant down. -/
theorem State.MemOk.readRaw {k b} (ok : s.MemOk) : (s.readRaw k b).MemOk := by
  generalize h : State.readRaw = f
  delta State.readRaw at h
  subst h
  beta_reduce
  split
  exact (ok.dramRead.of_eq ‹_›).poke.copyPoison

theorem State.MemOk.writeBack {k b} (ok : s.MemOk) : (s.writeBack k b).MemOk := by
  unfold State.writeBack
  refine .ite ok.modLoft ?_
  split
  exacts [ok.modLoft, .ite ok.modLoft ok.dramWrite.copyPoison.modLoft]

theorem State.MemOk.dirtyBlock {k b} (ok : s.MemOk) : (s.dirtyBlock k b).MemOk := by
  unfold State.dirtyBlock
  exact ok.modDie.modLoft

theorem State.MemOk.fillEaves {k new} (ok : s.MemOk) : (s.fillEaves k new).MemOk := by
  unfold State.fillEaves
  refine .ite (.modLoft (.ite ok.readRaw ok)) ?_
  split
  exacts [.modLoft (.ite (.readRaw (.update (.modLoft (.ite ok.writeBack ok))))
    (.update (.modLoft (.ite ok.writeBack ok)))),
    ok]

theorem State.MemOk.readAhead {k b a r} (ok : s.MemOk) : (s.readAhead k b a r).MemOk :=
  .ite ok (.ite ok.modDie.modLoft ok.modLoft)

theorem State.MemOk.touchLoft {a qual store reader} (ok : s.MemOk) : (s.touchLoft a qual store reader).MemOk := by
  unfold State.touchLoft
  refine .ite ok.fillEaves.dirtyBlock ?_
  split
  exacts [ok.fillEaves.readAhead, ok.fillEaves]

theorem State.MemOk.touch {a qual store reader} (ok : s.MemOk) : (s.touch a qual store reader).MemOk := by
  unfold State.touch
  split
  exacts [ok.touchL2, ok.touchLoft, ok]

theorem State.MemOk.engineReadAs {v sync a n} (ok : s.MemOk) : (s.engineReadAs v sync a n).2.MemOk :=
  .foldlSnd (fun _ _ ok => .ite ok ok.applyLine.touch) ok

theorem State.MemOk.engineRead {a n} (ok : s.MemOk) : (s.engineRead a n).2.MemOk :=
  ok.engineReadAs

theorem State.MemOk.engineWriteAs {v sync a d} (ok : s.MemOk) : (s.engineWriteAs v sync a d).MemOk :=
  .foldl (fun _ _ ok => .ite ok (.clearTags (.putBytes (.ite ok ok.applyLine.touch)))) ok

theorem State.MemOk.engineWrite {a d} (ok : s.MemOk) : (s.engineWrite a d).MemOk :=
  ok.engineWriteAs

/-! ## Registers, endings, traps and fencing (Ops.lean) -/

theorem State.MemOk.setX {n v} (ok : s.MemOk) : (s.setX n v).MemOk := by
  unfold State.setX
  refine .ite ok ?_
  split
  exacts [ok.modMe, ok.modMe]

theorem State.MemOk.setV {n v} (ok : s.MemOk) : (s.setV n v).MemOk := by
  unfold State.setV
  split
  exacts [ok.modMe, ok.modMe]

theorem State.MemOk.setP {n v} (ok : s.MemOk) : (s.setP n v).MemOk :=
  .ite ok ok.modMe

theorem State.MemOk.setPc {pc} (ok : s.MemOk) : (s.setPc pc).MemOk := by
  unfold State.setPc
  split
  exacts [ok.modMe, ok.modMe]

theorem trapM_keepsMem {α : Type} {code sub tval} : KeepsMem (trapM code sub tval : M α) := .throw

theorem illegalM_keepsMem {α : Type} {head} : KeepsMem (illegalM head : M α) := .throw

theorem operandM_keepsMem {α : Type} {tval} : KeepsMem (operandM tval : M α) := .throw

theorem accessFaultM_keepsMem {α : Type} {tval} : KeepsMem (accessFaultM tval : M α) := .throw

theorem parkM_keepsMem {α : Type} {why} : KeepsMem (parkM why : M α) := .throw

theorem parkUntilM_keepsMem {α : Type} {why limit} : KeepsMem (parkUntilM why limit : M α) := .throw

theorem State.MemOk.unbindGang {c self} (ok : s.MemOk) : (s.unbindGang c self).MemOk := by
  unfold State.unbindGang
  split
  exacts [ok, .foldl (fun _ _ ok => ok.modHart) ok]

theorem State.MemOk.liftHold {unit scope} (ok : s.MemOk) : (s.liftHold unit scope).MemOk := by
  unfold State.liftHold
  split
  exacts [ok, ok.update]

theorem State.MemOk.fenceBySelf {w unit serial} (ok : s.MemOk) : (s.fenceBySelf w unit serial).MemOk :=
  ok.update

theorem State.MemOk.liftToward {h} (ok : s.MemOk) : (s.liftToward h).MemOk :=
  .foldl (fun _ _ ok => ok.liftHold) ok

theorem State.MemOk.logEvent {kind who arg} (ok : s.MemOk) : (s.logEvent kind who arg).MemOk :=
  ok.modDev fun _ => by dsimp only; split <;> rfl

theorem State.MemOk.bumpCounter {h n} (ok : s.MemOk) : (s.bumpCounter h n).MemOk :=
  .ite ok.modHart.modHart.modHart ok.modHart

theorem State.MemOk.notifyDone {r} (ok : s.MemOk) : (s.notifyDone r).MemOk :=
  .ite (.ite ok ok.bumpCounter) ok

theorem State.MemOk.holdTask {k q t place} (ok : s.MemOk) : (s.holdTask k q t place).MemOk := by
  unfold State.holdTask
  refine .modCluster ?_
  split
  exacts [.ite ok.dramWrite ok, ok]

theorem State.MemOk.loseTask {k t} (ok : s.MemOk) : (s.loseTask k t).MemOk :=
  .ite ok.holdTask ok.logEvent.notifyDone

theorem State.MemOk.cutService {h} (ok : s.MemOk) : (s.cutService h).MemOk :=
  ok.modHart

theorem State.MemOk.stopTriple {c} (ok : s.MemOk) : (s.stopTriple c).MemOk := by
  unfold State.stopTriple
  exact ok.unbindGang.liftToward.liftToward.liftToward.modCluster.modHart.modHart.modHart

theorem State.MemOk.fenceHart {h} (ok : s.MemOk) : (s.fenceHart h).MemOk := by
  unfold State.fenceHart
  refine .ite ok.logEvent.liftToward.cutService.modHart (.ite ok ?_)
  dsimp only
  split
  exacts [ok.stopTriple.modHart.logEvent.loseTask, ok.stopTriple.modHart.logEvent]

theorem State.MemOk.trapMain {h cause epc tval} (ok : s.MemOk) : (s.trapMain h cause epc tval).MemOk := by
  unfold State.trapMain
  dsimp only
  split
  exacts [ok.unbindGang.logEvent.fenceHart, .ite ok.unbindGang.logEvent.fenceHart ok.unbindGang.modHart]

theorem State.MemOk.trapCompanion {h cause epc tval} (ok : s.MemOk) : (s.trapCompanion h cause epc tval).MemOk := by
  unfold State.trapCompanion
  exact ok.modHart.modHart

theorem State.MemOk.trapHandler {h epc} (ok : s.MemOk) : (s.trapHandler h epc).MemOk := by
  unfold State.trapHandler
  refine .modHart ?_
  split
  · split
    exacts [ok.fenceBySelf, ok.modHart]
  · exact ok

theorem State.MemOk.takeTrap {cause epc tval} (ok : s.MemOk) : (s.takeTrap cause epc tval).MemOk := by
  unfold State.takeTrap
  split
  exacts [ok.trapHandler, .ite ok.trapCompanion ok.trapMain]

theorem State.MemOk.trapReturn {level} (ok : s.MemOk) : (s.trapReturn level).MemOk :=
  ok.modMe.setPc

theorem State.MemOk.parkCtx {why limit} (ok : s.MemOk) : (s.parkCtx why limit).MemOk := by
  unfold State.parkCtx
  split
  exacts [ok.modMe, ok.modMe]

theorem State.MemOk.countHead (ok : s.MemOk) : (s.countHead).MemOk :=
  ok.modMe

theorem State.MemOk.goto {pc} (ok : s.MemOk) : (s.goto pc).MemOk :=
  ok.countHead.setPc

theorem State.MemOk.retire (ok : s.MemOk) : (s.retire).MemOk :=
  .ite ok.countHead.takeTrap ok.goto

theorem State.MemOk.dropReply (ok : s.MemOk) : (s.dropReply).MemOk :=
  ok.modMe

/-- An instruction that stops takes its trap, or waits: neither writes memory. -/
theorem finish_memOk {r : Except Stop Unit × State} (ok : r.2.MemOk) : OutcomeOk (finish r) := by
  obtain ⟨(c | c | c) | _, s⟩ := r
  · exact .next ok.dropReply.takeTrap
  · exact .next ok.countHead.takeTrap
  · exact .next ok.parkCtx
  · exact .next ok

/-- The form of every encoded instruction: acceptance, then its meaning. -/
theorem runHead_memOk {a head xs vs pred m} (ok : s.MemOk) (hm : KeepsMem m) :
    OutcomeOk (runHead a head xs vs pred m s) :=
  .ite (finish_memOk (hm s ok)) (.next ok.takeTrap)

theorem attempt_keepsMem {α : Type} {m : M α} (hm : KeepsMem m) : KeepsMem (attempt m) := fun s ok => hm s ok

theorem doM_keepsMem {f} (hf : ∀ s, s.MemOk → (f s).MemOk) : KeepsMem (doM f) :=
  .modify fun _ ok => (hf _ ok)

theorem State.MemOk.raiseFlags {f} (ok : s.MemOk) : (s.raiseFlags f).MemOk :=
  ok.modMe

theorem State.MemOk.raiseMflags {c f} (ok : s.MemOk) : (s.raiseMflags c f).MemOk :=
  ok.modHart

theorem State.MemOk.machineCheck {h sub tval} (ok : s.MemOk) : (s.machineCheck h sub tval).MemOk :=
  ok.modHart

/-! ## Control registers (Registers.lean) -/

theorem State.MemOk.startCompanion {h pc} (ok : s.MemOk) : (s.startCompanion h pc).MemOk :=
  ok.modHart

theorem State.MemOk.stopCompanion {h} (ok : s.MemOk) : (s.stopCompanion h).MemOk :=
  ok.modHart

theorem State.MemOk.writeCompanionCtl {h v} (ok : s.MemOk) : SomeOk (s.writeCompanionCtl h v) :=
  .ite (.some ok) (.ite (.some ok.stopCompanion) (.ite .none (.some ok.startCompanion)))

theorem State.MemOk.setQctl {c q v head} (ok : s.MemOk) : (s.setQctl c q v head).MemOk :=
  ok.modHart

theorem State.MemOk.endQueueXfers {c q} (ok : s.MemOk) : (s.endQueueXfers c q).MemOk :=
  .foldl (fun _ _ ok => ok.modHart) ok

theorem State.MemOk.dropQueue {c q} (ok : s.MemOk) : (s.dropQueue c q).MemOk :=
  .foldl (fun _ _ ok => ok.modHart) ok.endQueueXfers

theorem State.MemOk.writeQctl {c q v} (ok : s.MemOk) : SomeOk (s.writeQctl c q v) :=
  .ite (.ite (.some ok) (.some ok.setQctl.dropQueue)) (.ite .none (.some ok.setQctl))

theorem State.MemOk.modStream {c k f} (ok : s.MemOk) : (s.modStream c k f).MemOk :=
  ok.modHart

theorem State.MemOk.writeTasklim {h v} (ok : s.MemOk) : (s.writeTasklim h v).MemOk :=
  ok.modHart

theorem State.MemOk.writePreempt {h v} (ok : s.MemOk) : (s.writePreempt h v).MemOk := by
  unfold State.writePreempt
  exact ok.modHart

theorem State.MemOk.modSys {h f} (ok : s.MemOk) : (s.modSys h f).MemOk :=
  ok.modHart

theorem State.MemOk.modTrap {h level f} (ok : s.MemOk) : (s.modTrap h level f).MemOk :=
  ok.modHart

theorem State.MemOk.crWrite {h prv num v} (ok : s.MemOk) : SomeOk (s.crWrite h prv num v) := by
  unfold State.crWrite
  refine .ite ok.writeQctl (.ite (.some (.ite ok ok.modStream)) ?_)
  refine .ite (.some ok.modHart) ?_
  split
  exacts [.some ok.modSys, .some ok.modSys, .some ok.modSys, .some ok.modHart, .some ok.modTrap, .some ok.modTrap,
    .some ok.modTrap, .some ok.modTrap, .some ok.modSys, .some ok.modSys, .some ok.modSys, .some ok.modSys,
    .some ok.modSys, .some ok.modSys, .some ok.modSys, ok.writeCompanionCtl, ok.writeCompanionCtl, .some ok.modHart,
    .some ok.modHart, .some ok.modHart, .some ok.modHart, .some ok.modHart, .some ok.modHart, .some ok.modHart,
    .some ok.modHart, .some ok.modHart, .some ok.modHart, .some ok.modHart, .some ok.writeTasklim,
    .some ok.modCluster, .some ok.writePreempt, .some ok]

theorem State.MemOk.cutCompanion {h} (ok : s.MemOk) : (s.cutCompanion h).MemOk :=
  ok.modHart

theorem State.MemOk.haltHart {h} (ok : s.MemOk) : (s.haltHart h).MemOk :=
  .ite ok (.modHart (.ite ok.stopTriple.modHart (.ite ok.liftToward.cutService.modHart
    ok.liftToward.cutCompanion.modHart)))

theorem State.MemOk.releaseHart {h} (ok : s.MemOk) : (s.releaseHart h).MemOk :=
  .ite ok ok.modHart

theorem State.MemOk.windowWrite {h off v} (ok : s.MemOk) : (s.windowWrite h off v).MemOk := by
  unfold State.windowWrite
  refine .ite ok (.ite ?_ ?_)
  · split
    exacts [.ite (ok.crWrite.getD ok) ok, ok]
  · split
    exacts [.ite ok ok.modTrap, .ite ok ok.modTrap, .ite ok ok.modTrap, .ite ok ok.modTrap,
      .ite ok.haltHart ok.releaseHart, ok]

/-! ## Windows, translation, loads and stores (Memory.lean) -/

theorem State.MemOk.sendScopeMiss {writer unit scope} (ok : s.MemOk) : (s.sendScopeMiss writer unit scope).MemOk :=
  .ite ok.liftHold (.ite ok.modHart ok.modHart.fenceBySelf)

theorem State.MemOk.holdAcquire {h unit} (ok : s.MemOk) : (s.holdAcquire h unit).MemOk := by
  unfold State.holdAcquire
  split
  · exact ok
  · split
    exacts [ok.update, ok.update.sendScopeMiss]

theorem State.MemOk.joinLine {unit w} (ok : s.MemOk) : (s.joinLine unit w).MemOk := by
  unfold State.joinLine
  split
  exacts [ok, ok.update]

theorem State.MemOk.holdWaiting {unit} (ok : s.MemOk) : (s.holdWaiting unit).MemOk := by
  unfold State.holdWaiting
  refine .foldl (fun _ _ ok => ?_) ok
  split
  exacts [.ite ok.holdAcquire ok, ok]

theorem State.MemOk.tagWrite {h unit qual sync} (ok : s.MemOk) : (s.tagWrite h unit qual sync).MemOk :=
  .ite ok.update.holdWaiting ok.update

theorem State.MemOk.tagMiss {u} (ok : s.MemOk) : (s.tagMiss u).MemOk := by
  unfold State.tagMiss
  split
  exacts [ok.update.sendScopeMiss, ok]

theorem State.MemOk.openBlock {a} (ok : s.MemOk) : (s.openBlock a).MemOk :=
  .ite (.ite ok.fillEaves ok) ok

theorem State.MemOk.waitAt {h w a sync} (ok : s.MemOk) : (s.waitAt h w a sync).2.MemOk := by
  unfold State.waitAt
  refine .iteSnd ok.joinLine (.iteSnd ok ?_)
  split
  exacts [ok.openBlock, .iteSnd ok.tagMiss.openBlock ok.tagMiss]

/-- The walk applies the updates accepted for the line that holds an entry; nothing else of it writes memory. -/
theorem State.MemOk.walkFrom {h va level node} (ok : s.MemOk) : (walkFrom h va level node s).2.MemOk := by
  induction level using Nat.strongRecOn generalizing node s with
  | _ level ih =>
    unfold Machine.walkFrom
    split
    refine .iteSnd ok ?_
    split
    · exact ok.waitAt.of_eq ‹_›
    · have waited := ok.waitAt.of_eq ‹_›
      dsimp only
      refine .iteSnd waited.applyLine.touch (.iteSnd waited.applyLine.touch ?_)
      split
      · exact .iteSnd waited.applyLine.touch waited.applyLine.touch
      · have next {t node} (ok : State.MemOk t) := ih _ (Nat.lt_succ_self _) (node := node) ok
        exact .iteSnd (.iteSnd waited.applyLine.touch (next waited.applyLine.touch))
          (.iteSnd (.iteSnd waited.applyLine.touch waited.applyLine.touch) (next waited.applyLine.touch))

theorem State.MemOk.fillCore {h e} (ok : s.MemOk) : (s.fillCore h e).MemOk := by
  unfold State.fillCore
  exact ok.modHart

theorem State.MemOk.fillShared {h e} (ok : s.MemOk) : (s.fillShared h e).MemOk :=
  .ite ok ok.modCluster.modDie

theorem State.MemOk.lookup {h root va} (ok : s.MemOk) : (s.lookup h root va).2.MemOk := by
  unfold State.lookup
  dsimp only
  split
  · exact ok
  · split
    · exact ok.fillCore
    · split
      exacts [(ok.walkFrom.of_eq ‹_›).fillShared.fillCore, ok.walkFrom]

theorem translate_keepsMem {h root prv acc va tval} : KeepsMem (translate h root prv acc va tval) := by
  unfold translate
  refine .get fun _ ok => .ite (.ite .throw .pure) (.ite .throw ?_)
  refine .bind (.set ok.lookup) fun _ => ?_
  split
  exacts [.throw, .throw, .bind (.set ok.lookup.machineCheck) fun _ => parkM_keepsMem, parkM_keepsMem,
    .ite .throw (.ite .throw .pure)]

theorem liftExcept_keepsMem {α : Type} {e : Except Stop α} : KeepsMem (placeOf.liftExcept e) := by
  unfold placeOf.liftExcept
  split
  exacts [.pure, .throw]

theorem placeOf_keepsMem {h root prv acc va n tval} : KeepsMem (placeOf h root prv acc va n tval) := by
  unfold placeOf
  refine .get fun _ ok => .bind liftExcept_keepsMem fun _ => ?_
  dsimp only
  split
  exacts [translate_keepsMem, .pure]

theorem myPlace_keepsMem {acc va n} : KeepsMem (myPlace acc va n) :=
  .get fun _ _ => placeOf_keepsMem

theorem spansOf_keepsMem {h root prv acc va n noSync} : KeepsMem (spansOf h root prv acc va n noSync) := by
  unfold spansOf
  refine .ite .pure (.get fun _ ok => ?_)
  refine .bind liftExcept_keepsMem fun _ => ?_
  dsimp only
  split
  exacts [.mapM (fun _ => .bind translate_keepsMem fun _ => .ite accessFaultM_keepsMem .pure), .pure]

theorem State.MemOk.podFence {scope} (ok : s.MemOk) : (s.podFence scope).MemOk :=
  .ite ok (ok.modDev fun _ => rfl)

theorem drainM_keepsMem {scope} : KeepsMem (drainM scope) :=
  .bind (.modify fun _ ok => ok.podFence) fun _ => .get fun _ _ => .ite .pure parkM_keepsMem

theorem emptyBufferM_keepsMem : KeepsMem emptyBufferM :=
  .get fun _ _ => .ite .pure parkM_keepsMem

theorem State.MemOk.pushStore {op qual sync} (ok : s.MemOk) : (s.pushStore op qual sync).MemOk :=
  ok.modMe

theorem State.MemOk.pushCells {cells qual sync} (ok : s.MemOk) : (s.pushCells cells qual sync).MemOk :=
  .foldl (fun _ _ ok => ok.pushStore) ok

theorem State.MemOk.mergeWord {w cells} (ok : s.MemOk) : (s.mergeWord w cells).MemOk :=
  ok.poke.update.setFull

theorem State.MemOk.performWrite {h cells qual sync} (ok : s.MemOk) : (s.performWrite h cells qual sync).MemOk := by
  unfold State.performWrite
  split
  exacts [ok,
    .ite ok.windowWrite (.ite ok.applyLine (.tagWrite (.mergeWord (.ite ok.applyLine ok.applyLine.touch))))]

theorem State.MemOk.performLimits {h cells qual} (ok : s.MemOk) : (s.performLimits h cells qual).MemOk := by
  unfold State.performLimits
  split
  · exact ok
  · split
    exacts [.ite (.ite ok ok.performWrite.modHart) (.ite ok ok.performWrite), .ite ok ok.performWrite]

theorem State.MemOk.registrarDo {r} (ok : s.MemOk) : (s.registrarDo r).2.MemOk := by
  unfold State.registrarDo
  split
  exacts [ok, ok.poke.tagWrite, .ite ok.poke.tagWrite ok, ok.poke.tagWrite]

theorem State.MemOk.giveReply {r v} (ok : s.MemOk) : (s.giveReply r v).MemOk :=
  ok.modHart

theorem State.MemOk.registrarServe {r} (ok : s.MemOk) : (s.registrarServe r).MemOk := by
  unfold State.registrarServe
  split
  · exact ok.giveReply
  · refine .giveReply (.modHart ?_)
    split
    exacts [ok, ok.registrarDo]

theorem replyM_keepsMem {home va r} : KeepsMem (replyM home va r) := by
  unfold replyM
  refine .bind (.modify fun _ ok => ok.modMe) fun _ => ?_
  split
  exacts [.pure, trapM_keepsMem]

theorem registrarM_keepsMem {op qual home va} : KeepsMem (registrarM op qual home va) := by
  unfold registrarM
  refine .get fun _ ok => .ite parkM_keepsMem ?_
  split
  · exact replyM_keepsMem
  · refine .ite parkM_keepsMem (.ite ?_ (.bind (.set ok.modMe.modDie) fun _ => parkM_keepsMem))
    refine .bind (.set ok.modMe.registrarServe) fun _ => ?_
    split
    exacts [replyM_keepsMem, parkM_keepsMem]

theorem sentPlaceM_keepsMem {m} (hm : KeepsMem m) : KeepsMem (sentPlaceM m) :=
  .get fun _ _ => .ite .pure hm

theorem orderBeforeLoad_keepsMem {qual} : KeepsMem (orderBeforeLoad qual) :=
  .ite drainM_keepsMem .pure

theorem meetTag_keepsMem {a sync acquire} : KeepsMem (meetTag a sync acquire) := by
  unfold meetTag
  refine .get fun _ ok => ?_
  dsimp only
  split
  exacts [.bind (.set (State.MemOk.of_eq (.waitAt (.ite ok.holdAcquire ok)) ‹_›)) fun _ => parkM_keepsMem,
    .set (State.MemOk.of_eq (.waitAt (.ite ok.holdAcquire ok)) ‹_›)]

theorem earlyWordM_keepsMem {a n} : KeepsMem (earlyWordM a n) := by
  unfold earlyWordM
  dsimp only
  exact .get fun _ ok => .ite .pure (.forM fun _ => .get fun _ ok => .ite .pure
    (.bind (.set ok.choose) fun _ => .ite .pure parkM_keepsMem))

theorem loadCore_keepsMem {queued p n qual va} : KeepsMem (loadCore queued p n qual va) := by
  unfold loadCore
  refine .get fun _ ok => .ite (.bind registrarM_keepsMem fun _ => .pure)
    (.bind orderBeforeLoad_keepsMem fun _ => ?_)
  refine .get fun _ ok => .ite (.ite (.ite parkM_keepsMem .pure) accessFaultM_keepsMem) (.ite parkM_keepsMem ?_)
  split
  · exact parkM_keepsMem
  · exact .pure
  · refine .bind meetTag_keepsMem fun _ => .get fun _ ok => .ite (.bind registrarM_keepsMem fun _ => .pure)
      (.ite parkM_keepsMem ?_)
    split
    exacts [trapM_keepsMem,
      .bind (.set (.ite ok ok.applyLine.touch)) fun _ => .get fun _ ok => .ite .pure
        (.when earlyWordM_keepsMem fun _ => .get fun _ ok => .pure)]

theorem loadAt_keepsMem {p n qual va} : KeepsMem (loadAt p n qual va) :=
  loadCore_keepsMem

theorem loadPart_keepsMem {p n qual va} : KeepsMem (loadPart p n qual va) :=
  loadCore_keepsMem

theorem storeCheck_keepsMem {p n va} : KeepsMem (storeCheck p n va) :=
  .ite accessFaultM_keepsMem (.ite accessFaultM_keepsMem .pure)

theorem storeOrder_keepsMem {qual} : KeepsMem (storeOrder qual) :=
  .ite drainM_keepsMem .pure

theorem meetCells_keepsMem {cells sync} : KeepsMem (meetCells cells sync) := by
  unfold meetCells
  refine .forM fun _ => ?_
  split
  exacts [.pure, .bind meetTag_keepsMem fun _ => .get fun _ ok => .ite parkM_keepsMem .pure]

theorem State.MemOk.storeNow {cells qual sync} (ok : s.MemOk) : (s.storeNow cells qual sync).MemOk := by
  unfold State.storeNow
  refine .foldl (fun _ _ ok => ?_) ok
  split
  exacts [ok.performLimits, ok.performWrite]

theorem storeCells_keepsMem {cells qual sync} : KeepsMem (storeCells cells qual sync) :=
  .ite (.bind meetCells_keepsMem fun _ => .modify fun _ ok => ok.storeNow) (.modify fun _ ok => ok.pushCells)

theorem State.MemOk.engineMasked {v w cells} (ok : s.MemOk) : (s.engineMasked v w cells).MemOk :=
  .ite ok ok.applyLine.touch.mergeWord.clearTags

theorem State.MemOk.unitStore {off d} (ok : s.MemOk) : (s.unitStore off d).MemOk :=
  .foldl (fun _ _ ok => ok.pushStore) ok

theorem loadWords_keepsMem {va n} : KeepsMem (loadWords va n) :=
  .mapM fun _ => .bind myPlace_keepsMem fun _ => .bind loadPart_keepsMem fun _ => .pure

theorem State.MemOk.pieceWaits {h p} (ok : s.MemOk) : (s.pieceWaits h p).2.MemOk := by
  unfold State.pieceWaits
  refine .foldlSnd (fun _ _ ok => ?_) ok
  refine .iteSnd ok ?_
  split
  exacts [ok, ok, ok, ok, ok, ok.waitAt]

theorem State.MemOk.partyWaits {h l} (ok : s.MemOk) : (s.partyWaits h l).2.MemOk :=
  .foldlSnd (fun _ _ ok => ok.pieceWaits) ok

theorem State.MemOk.spansWait {h l} (ok : s.MemOk) : (s.spansWait h l).2.MemOk :=
  ok.partyWaits

theorem State.MemOk.unitWaits {c l} (ok : s.MemOk) : (s.unitWaits c l).2.MemOk :=
  ok.partyWaits

theorem State.MemOk.readSpansAs {v l} (ok : s.MemOk) : (s.readSpansAs v l).2.MemOk :=
  .foldlSnd (fun _ _ ok => ok.engineReadAs) ok

theorem State.MemOk.engineReadSpans {l} (ok : s.MemOk) : (s.engineReadSpans l).2.MemOk :=
  ok.readSpansAs

theorem State.MemOk.writeSpansAs {v l d} (ok : s.MemOk) : (s.writeSpansAs v l d).MemOk := by
  induction l generalizing s d with
  | nil => exact ok
  | cons p r ih => exact ih ok.engineWriteAs

theorem State.MemOk.engineWriteSpans {l d} (ok : s.MemOk) : (s.engineWriteSpans l d).MemOk :=
  ok.writeSpansAs

theorem loadBytes_keepsMem {va n} : KeepsMem (loadBytes va n) :=
  .mapM fun _ => .bind myPlace_keepsMem fun _ => .bind loadPart_keepsMem fun _ => .pure

/-! ## Interrupts and completion events (Interrupts.lean) -/

theorem State.MemOk.abandonWait {h} (ok : s.MemOk) : (s.abandonWait h).MemOk :=
  .ite ok.update.modHart.modCluster ok.update.modHart

theorem State.MemOk.takeInterrupt {h} (ok : s.MemOk) : (s.takeInterrupt h).MemOk := by
  unfold State.takeInterrupt
  split
  exacts [ok,
    .ite ok.abandonWait.modHart.trapCompanion (.ite ok.abandonWait.modHart.trapMain.modHart
      ok.abandonWait.modHart.trapMain)]

theorem State.MemOk.takeUserEvent {h} (ok : s.MemOk) : (s.takeUserEvent h).MemOk := by
  unfold State.takeUserEvent
  split
  exacts [ok, ok.abandonWait.modHart]

/-! ## The line image (Fetch.lean) -/

theorem fetchPlace_keepsMem {line} : KeepsMem (fetchPlace line) :=
  .get fun _ _ => .ite (.ite .throw .pure) placeOf_keepsMem

theorem fetchImage_keepsMem {line} : KeepsMem (fetchImage line) := by
  unfold fetchImage
  refine .bind fetchPlace_keepsMem fun _ => .bind meetTag_keepsMem fun _ => .get fun _ ok => .ite parkM_keepsMem ?_
  dsimp only
  split
  exacts [trapM_keepsMem,
    .bind (.set (.foldlSnd (fun _ _ ok => ok.choose) (.ite ok ok.applyLine.touch))) fun _ => .pure]

theorem State.MemOk.setImage {im} (ok : s.MemOk) : (s.setImage im).MemOk := by
  unfold State.setImage
  split
  exacts [ok.modMe, ok.modMe]

theorem enter_keepsMem {line} : KeepsMem (currentImage.enter line) :=
  .bind fetchImage_keepsMem fun _ => .bind (.modify fun _ ok => ok.setImage) fun _ => .pure

theorem currentImage_keepsMem : KeepsMem currentImage := by
  unfold currentImage
  refine .get fun _ ok => ?_
  split
  exacts [.ite .pure enter_keepsMem, enter_keepsMem]

theorem fetchInstr_keepsMem : KeepsMem fetchInstr := by
  unfold fetchInstr
  refine .bind currentImage_keepsMem fun _ => .get fun _ ok => ?_
  split
  exacts [.pure, trapM_keepsMem, illegalM_keepsMem]

theorem State.MemOk.elapse {cycles nanos} (ok : s.MemOk) : (s.elapse cycles nanos).MemOk :=
  ok.update

/-! ## The search unit's trail (SearchOps.lean) -/

theorem State.MemOk.setSearch {q} (ok : s.MemOk) : (s.setSearch q).MemOk :=
  ok.modMe

theorem State.MemOk.putTtop {q v} (ok : s.MemOk) : (s.putTtop q v).MemOk :=
  ok.setSearch.unitStore

theorem State.MemOk.putCtop {q v} (ok : s.MemOk) : (s.putCtop q v).MemOk :=
  ok.setSearch.unitStore

theorem State.MemOk.putNseq {q v} (ok : s.MemOk) : (s.putNseq q v).MemOk :=
  ok.setSearch.unitStore

theorem State.MemOk.putStatus {q fin active} (ok : s.MemOk) : (s.putStatus q fin active).MemOk :=
  ok.unitStore

theorem unitPoisonM_keepsMem {w} : KeepsMem (unitPoisonM w) := by
  unfold unitPoisonM
  split
  exacts [.pure, .bind (.modify (fun _ ok => ok.machineCheck)) fun _ => parkM_keepsMem]

theorem trailRoom_keepsMem {q n} : KeepsMem (trailRoom q n) :=
  .get fun _ _ => .ite trapM_keepsMem .pure

theorem State.MemOk.trailAppend {w0 w1} (ok : s.MemOk) : (s.trailAppend w0 w1).MemOk := by
  unfold State.trailAppend
  split
  exacts [ok, ok.unitStore.unitStore.putTtop]

theorem State.MemOk.performUnit (ok : s.MemOk) : (s.performUnit).MemOk := by
  unfold State.performUnit
  refine .foldl (fun _ _ ok => ?_) ok.modMe
  split
  exacts [ok.engineMasked, ok]

theorem trailStore_keepsMem {home stt now} : KeepsMem (trailStore home stt now) := by
  unfold trailStore
  refine .get fun _ ok => ?_
  split
  exacts [.pure,
    .ite .pure (.ite (.bind trailRoom_keepsMem fun _ => .ite parkM_keepsMem
      (.bind unitPoisonM_keepsMem fun _ => .ite (.bind meetCells_keepsMem fun _ => .bind meetCells_keepsMem fun _ =>
      .modify fun _ ok => ok.trailAppend.performUnit) (.modify fun _ ok => ok.trailAppend))) .pure)]

/-! ## Flags (Flags.lean) -/

theorem writeF_keepsMem {d f} : KeepsMem (writeF d f) :=
  .modify fun _ ok => ok.setX.raiseFlags.retire

/-! ## Operand forms (Operands.lean) -/

theorem writeX_keepsMem {d f} : KeepsMem (writeX d f) :=
  .modify fun _ ok => ok.setX.retire

/-! ## System instructions (System.lean) -/

theorem crM_keepsMem {fn d num b head} : KeepsMem (crM fn d num b head) := by
  unfold crM
  refine .get fun _ ok => ?_
  dsimp only
  split
  · exact illegalM_keepsMem
  · split
    · exact illegalM_keepsMem
    · split
      · exact illegalM_keepsMem
      · split
        · split
          · exact illegalM_keepsMem
          · split
            · exact illegalM_keepsMem
            · split
              exacts [.set (ok.crWrite.of_eq ‹_›).setX.retire, operandM_keepsMem]
        · exact .set ok.setX.retire

theorem State.MemOk.noteFence {h scope} (ok : s.MemOk) : (s.noteFence h scope).MemOk :=
  ok.modHart

theorem execFence_memOk {qual} (ok : s.MemOk) : OutcomeOk (execFence qual s) :=
  runHead_memOk ok (.ite (.bind drainM_keepsMem fun _ => .modify fun _ ok => .retire (.ite ok.noteFence ok))
    (.ite (.modify fun _ ok => ok.pushStore.retire) (.modify fun _ ok => ok.retire)))

theorem State.MemOk.dropImages (ok : s.MemOk) : (s.dropImages).MemOk :=
  ok.modMe

theorem execFenceI_memOk (ok : s.MemOk) : OutcomeOk (execFenceI s) :=
  runHead_memOk ok (.bind emptyBufferM_keepsMem fun _ => .modify fun _ ok => ok.retire.dropImages)

theorem execPause_memOk (ok : s.MemOk) : OutcomeOk (execPause s) := by
  unfold execPause
  refine runHead_memOk ok (.get fun _ ok => ?_)
  dsimp only
  split
  exacts [.ite (.set ok.retire) parkM_keepsMem, .bind (.set ok.choose) fun _ => parkUntilM_keepsMem]

theorem State.MemOk.tlbDrop {h scope lo hi} (ok : s.MemOk) : (s.tlbDrop h scope lo hi).MemOk :=
  ok.update

theorem tlbiM_keepsMem {scope head range} : KeepsMem (tlbiM scope head range) := by
  unfold tlbiM
  refine .get fun _ ok => .ite illegalM_keepsMem (.bind emptyBufferM_keepsMem fun _ => ?_)
  refine .modify fun _ ok => ?_
  refine .retire ?_
  split
  exacts [ok.tlbDrop, ok]

theorem execMsg_memOk {lenm slot mc c t} (ok : s.MemOk) : OutcomeOk (execMsg lenm slot mc c t s) :=
  runHead_memOk ok (.get fun _ _ => .ite operandM_keepsMem
    (.ite parkM_keepsMem (.bind loadBytes_keepsMem fun _ => .modify fun _ ok => ok.send.modMe.retire)))

theorem execHctlHold_memOk (ok : s.MemOk) : OutcomeOk (execHctlHold s) :=
  runHead_memOk ok (.get fun _ ok => .ite illegalM_keepsMem
    (.bind (.set ok.modMe) fun _ => .get fun _ ok => .ite parkM_keepsMem (.set ok.retire)))

/-! ## Decode tables (Tables.lean) -/

theorem slotM_keepsMem {slot tval} : KeepsMem (slotM slot tval) := by
  unfold slotM
  refine .get fun _ ok => .ite parkM_keepsMem ?_
  split
  exacts [.pure, operandM_keepsMem]

theorem State.MemOk.setTable {c slot t id} (ok : s.MemOk) : (s.setTable c slot t id).MemOk :=
  ok.modHart

/-! ## Vector instructions (Vector.lean) -/

theorem readSource_keepsMem {n} : KeepsMem (readSource n) := by
  unfold readSource
  refine .get fun _ ok => ?_
  split
  · exact .pure
  · dsimp only
    split
    · exact .pure
    · split
      exacts [.throw, parkM_keepsMem]

theorem sourceFaultM_keepsMem {n} : KeepsMem (sourceFaultM n) := by
  unfold sourceFaultM
  refine .get fun _ ok => ?_
  split
  · exact .pure
  · split
    exacts [.throw, .pure]

theorem State.MemOk.popSource {n} (ok : s.MemOk) : (s.popSource n).MemOk := by
  unfold State.popSource
  split
  · exact ok
  · split
    exacts [ok, ok.modStream.setV]

theorem noStreamM_keepsMem {ds} : KeepsMem (noStreamM ds) :=
  .get fun _ _ => .ite operandM_keepsMem .pure

theorem vectorM_keepsMem {dsts srcs f} (hf : ∀ a0 s, s.MemOk → (f a0 s).MemOk) : KeepsMem (vectorM dsts srcs f) :=
  .bind noStreamM_keepsMem fun _ => .bind (.mapM fun _ => .bind readSource_keepsMem fun _ => .pure) fun _ =>
    .modify fun _ ok => (hf _ _ (.foldl (fun _ _ ok => ok.popSource) ok)).retire

theorem elementwise_keepsMem {d t pred srcs f} : KeepsMem (elementwise d t pred srcs f) :=
  vectorM_keepsMem fun _ _ ok => ok.setV.raiseFlags

theorem vecHead_memOk {opc tsz d vs xs pred m} (ok : s.MemOk) (hm : KeepsMem m) :
    OutcomeOk (vecHead opc tsz d vs xs pred m s) :=
  runHead_memOk ok hm

theorem predHead_memOk {opc tsz opa m} (ok : s.MemOk) (hm : KeepsMem m) : OutcomeOk (predHead opc tsz opa m s) :=
  runHead_memOk ok hm

theorem intVector_keepsMem {fn d sc t pred c b} : KeepsMem (intVector fn d sc t pred c b) :=
  elementwise_keepsMem

theorem floatVector_keepsMem {fn d sc t pred c b} : KeepsMem (floatVector fn d sc t pred c b) :=
  elementwise_keepsMem

theorem fusedVector_keepsMem {fn d sc a t pred c b} : KeepsMem (fusedVector fn d sc a t pred c b) :=
  elementwise_keepsMem

theorem patternM_keepsMem {d w imm} : KeepsMem (patternM d w imm) :=
  vectorM_keepsMem fun _ _ ok => ok.setV

theorem scanVector_keepsMem {ex d op t pred b} : KeepsMem (scanVector ex d op t pred b) :=
  vectorM_keepsMem fun _ _ ok => ok.setV.raiseFlags

theorem State.MemOk.setSlots {g k f} (ok : s.MemOk) : (s.setSlots g k f).MemOk :=
  .foldl (fun _ _ ok => ok.setV) ok

theorem execVtopk_memOk {d nz m t pred pd xb xk vi b} (ok : s.MemOk) :
    OutcomeOk (execVtopk d nz m t pred pd xb xk vi b s) :=
  predHead_memOk ok (.get fun _ _ => .ite operandM_keepsMem
    (vectorM_keepsMem fun _ _ ok => .ite ok ok.setSlots.setSlots.setP))

theorem convertVector_keepsMem {d part pred toF fromF b f} : KeepsMem (convertVector d part pred toF fromF b f) :=
  vectorM_keepsMem fun _ _ ok => ok.setV.raiseFlags

theorem feedbackVector_keepsMem {d er part pred toF b enc dec} :
    KeepsMem (feedbackVector d er part pred toF b enc dec) :=
  vectorM_keepsMem fun _ _ ok => ok.setV.modMe.raiseFlags

theorem execVcvt_memOk {d er ef rz part pred toF fromF b} (ok : s.MemOk) :
    OutcomeOk (execVcvt d er ef rz part pred toF fromF b s) :=
  .ite (predHead_memOk ok feedbackVector_keepsMem) (vecHead_memOk ok convertVector_keepsMem)

theorem execVenc_memOk {d er ef part pred toF fromF b} (ok : s.MemOk) :
    OutcomeOk (execVenc d er ef part pred toF fromF b s) :=
  .ite (predHead_memOk ok (.bind slotM_keepsMem fun _ => feedbackVector_keepsMem))
    (vecHead_memOk ok (.bind slotM_keepsMem fun _ => convertVector_keepsMem))

/-! ## Memory instructions (MemoryInstr.lean) -/

theorem loadM_keepsMem {d size sx qual addr} : KeepsMem (loadM d size sx qual addr) :=
  .get fun _ _ => .ite trapM_keepsMem (.bind (sentPlaceM_keepsMem myPlace_keepsMem) fun _ =>
    .bind loadAt_keepsMem fun _ => .modify fun _ ok => ok.setX.retire)

theorem storeAtM_keepsMem {p size v qual a stt} : KeepsMem (storeAtM p size v qual a stt) :=
  .bind storeCheck_keepsMem fun _ => .bind storeOrder_keepsMem fun _ => .when meetTag_keepsMem fun _ =>
    .bind trailStore_keepsMem fun _ => .bind storeCells_keepsMem fun _ => .modify fun _ ok => ok.retire

theorem storeM_keepsMem {src size qual addr} : KeepsMem (storeM src size qual addr) :=
  .get fun _ _ => .ite trapM_keepsMem (.bind myPlace_keepsMem fun _ => storeAtM_keepsMem)

theorem storeTrailedM_keepsMem {src size qual addr} : KeepsMem (storeTrailedM src size qual addr) :=
  .get fun _ _ => .ite operandM_keepsMem (.ite trapM_keepsMem (.bind myPlace_keepsMem fun _ => storeAtM_keepsMem))

theorem vectorBase_keepsMem {t b off} : KeepsMem (vectorBase t b off) :=
  .get fun _ _ => .ite (.ite trapM_keepsMem .pure) .pure

theorem vectorPlaces_keepsMem {acc t l} : KeepsMem (vectorPlaces acc t l) := by
  unfold vectorPlaces
  dsimp only
  split
  · exact .pure
  · split
    · exact trapM_keepsMem
    · refine .get fun _ ok => .bind liftExcept_keepsMem fun _ => .bind ?_ fun _ => .pure
      refine .mapM fun _ => ?_
      split
      exacts [.bind translate_keepsMem fun _ => .when storeCheck_keepsMem fun _ => .pure,
        .bind .pure fun _ => .when storeCheck_keepsMem fun _ => .pure]

theorem vectorLoadM_keepsMem {d off c sc pred t b qual} : KeepsMem (vectorLoadM d off c sc pred t b qual) :=
  .bind noStreamM_keepsMem fun _ => .bind vectorBase_keepsMem fun _ => .get fun _ _ =>
    .bind vectorPlaces_keepsMem fun _ => .bind (.mapM fun _ => .bind loadPart_keepsMem fun _ => .pure) fun _ =>
    .modify fun _ ok => ok.setV.retire

theorem vectorStoreM_keepsMem {src off c sc pred t b qual} : KeepsMem (vectorStoreM src off c sc pred t b qual) :=
  .bind vectorBase_keepsMem fun _ => .get fun _ _ => .bind vectorPlaces_keepsMem fun _ =>
    .bind readSource_keepsMem fun _ => .bind storeOrder_keepsMem fun _ => .ite
    (.bind meetCells_keepsMem fun _ => .bind meetCells_keepsMem fun _ => .bind
    (.modify fun _ ok => ok.popSource) fun _ => .bind storeCells_keepsMem fun _ =>
    .bind storeCells_keepsMem fun _ => .modify fun _ ok => ok.retire)
    (.bind (.modify fun _ ok => ok.popSource) fun _ => .bind storeCells_keepsMem fun _ =>
    .bind storeCells_keepsMem fun _ => .modify fun _ ok => ok.retire)

theorem vectorMemHead_memOk {opc tsz d c sc pred b m} (ok : s.MemOk) (hm : KeepsMem m) :
    OutcomeOk (vectorMemHead opc tsz d c sc pred b m s) :=
  runHead_memOk ok hm

theorem fullEmptyPlace_keepsMem {acc b off} : KeepsMem (fullEmptyPlace acc b off) :=
  .get fun _ _ => .ite trapM_keepsMem (.bind myPlace_keepsMem fun _ => .ite
    (.when storeCheck_keepsMem fun _ => .pure) trapM_keepsMem)

theorem loadFullM_keepsMem {d consume off b qual} : KeepsMem (loadFullM d consume off b qual) := by
  unfold loadFullM
  refine .bind fullEmptyPlace_keepsMem fun _ => .bind orderBeforeLoad_keepsMem fun _ => .get fun _ ok => ?_
  split
  · exact .bind meetTag_keepsMem fun _ => .modify fun _ ok => ok.setX.retire
  · refine .ite parkM_keepsMem (.ite parkM_keepsMem ?_)
    refine .bind meetTag_keepsMem fun _ => .get fun _ ok => ?_
    split
    exacts [trapM_keepsMem, .set (.retire (.setX (.ite ok.setFull ok)))]

theorem afterStoresM_keepsMem : KeepsMem afterStoresM :=
  .get fun _ _ => .ite parkM_keepsMem .pure

theorem execSte_memOk {src off b qual} (ok : s.MemOk) : OutcomeOk (execSte src off b qual s) :=
  runHead_memOk ok (.bind fullEmptyPlace_keepsMem fun _ => .iteBind drainM_keepsMem afterStoresM_keepsMem fun _ =>
    .bind meetTag_keepsMem fun _ => .get fun _ ok => .ite parkM_keepsMem (.set ok.storeNow.setFull.retire))

theorem execClre_memOk {off b qual} (ok : s.MemOk) : OutcomeOk (execClre off b qual s) :=
  runHead_memOk ok (.bind fullEmptyPlace_keepsMem fun _ => .bind storeOrder_keepsMem fun _ => .ite
    (.bind meetTag_keepsMem fun _ => .modify fun _ ok => ok.setFull.tagWrite.retire)
    (.modify fun _ ok => ok.pushStore.retire))

theorem execPref_memOk {off b qual} (ok : s.MemOk) : OutcomeOk (execPref off b qual s) := by
  unfold execPref
  refine runHead_memOk ok (.modify fun _ ok => ?_)
  split
  · rename_i e1
    exact .retire (.ite (State.MemOk.of_eq (myPlace_keepsMem _ ok) e1).touch
      (State.MemOk.of_eq (myPlace_keepsMem _ ok) e1))
  · exact ok.retire

theorem cleanM_keepsMem {drop off b qual} : KeepsMem (cleanM drop off b qual) := by
  unfold cleanM
  refine .get fun _ ok => .bind myPlace_keepsMem fun _ => .modify fun _ ok => ?_
  refine .retire ?_
  split
  exacts [ok.pushStore, ok]

/-! ## Queues and streams (Queue.lean) -/

theorem State.MemOk.queueTake {c q} (ok : s.MemOk) : (s.queueTake c q).2.MemOk :=
  ok.setQctl

theorem State.MemOk.queuePut {c q d} (ok : s.MemOk) : (s.queuePut c q d).MemOk :=
  ok.putBytes.clearTags.setQctl

theorem answerM_keepsMem : KeepsMem answerM := by
  unfold answerM
  refine .get fun _ ok => ?_
  split
  exacts [.bind (.set ok.modMe) fun _ => .throw, .pure]

theorem queueOperandM_keepsMem {q write size} : KeepsMem (queueOperandM q write size) :=
  .bind answerM_keepsMem fun _ => .get fun _ _ => .ite operandM_keepsMem .pure

theorem queueEnabledM_keepsMem {q} : KeepsMem (queueEnabledM q) :=
  .get fun _ _ => .ite trapM_keepsMem .pure

theorem queueHead_memOk {d v m} (ok : s.MemOk) (hm : KeepsMem m) : OutcomeOk (queueHead d v m s) :=
  runHead_memOk ok (.get fun _ _ => .ite illegalM_keepsMem hm)

theorem execQrd_memOk {d w v q} (ok : s.MemOk) : OutcomeOk (execQrd d w v q s) := by
  refine queueHead_memOk ok (.when noStreamM_keepsMem fun _ => .bind queueOperandM_keepsMem fun _ =>
    .bind queueEnabledM_keepsMem fun _ => .get fun _ ok => .ite parkM_keepsMem
    (.bind (.forM fun _ => meetTag_keepsMem) fun _ => .get fun _ ok => ?_))
  split
  · exact trapM_keepsMem
  · split
    have taken := ok.queueTake.of_eq ‹_›
    exact .set (State.MemOk.ite taken.setV taken.setX).retire

theorem execQwr_memOk {d w v q} (ok : s.MemOk) : OutcomeOk (execQwr d w v q s) := by
  refine queueHead_memOk ok (.bind queueOperandM_keepsMem fun _ => .when sourceFaultM_keepsMem fun _ =>
    .get fun _ ok => ?_)
  dsimp only
  split
  · exact accessFaultM_keepsMem
  · exact .bind queueEnabledM_keepsMem fun _ => .ite parkM_keepsMem (.iteBind readSource_keepsMem .pure fun _ =>
      .modify fun _ ok => .retire (.pushStore (.ite ok.popSource ok)))

theorem execQcfg_memOk {q b} (ok : s.MemOk) : OutcomeOk (execQcfg q b s) :=
  runHead_memOk ok (.get fun _ ok => .ite parkM_keepsMem (.ite operandM_keepsMem
    (.set (.retire (.setQctl (.ite ok.dropQueue ok))))))

theorem execStrm_memOk {d slot b} (ok : s.MemOk) : OutcomeOk (execStrm d slot b s) :=
  runHead_memOk ok (.get fun _ _ => .ite operandM_keepsMem
    (.bind loadWords_keepsMem fun _ => .ite illegalM_keepsMem
    (.ite operandM_keepsMem (.modify fun _ ok => ok.modStream.retire))))

theorem State.MemOk.refill {c slot} (ok : s.MemOk) : (s.refill c slot).MemOk := by
  unfold State.refill
  refine .ite ok (.ite ok.modStream ?_)
  split
  · exact (State.MemOk.of_eq (spansOf_keepsMem _ ok) ‹_›).modStream
  · exact State.MemOk.of_eq (spansOf_keepsMem _ ok) ‹_›
  · exact (State.MemOk.of_eq (spansOf_keepsMem _ ok) ‹_›).modStream
  · rename_i e4
    split
    · exact (State.MemOk.of_eq (spansOf_keepsMem _ ok) e4).spansWait.of_eq ‹_›
    · rename_i e6
      split
      exacts [((State.MemOk.of_eq (spansOf_keepsMem _ ok) e4).spansWait.of_eq e6).machineCheck.modStream,
        ((State.MemOk.of_eq (spansOf_keepsMem _ ok) e4).spansWait.of_eq e6).readSpansAs.modStream]

theorem execStreamRefill_memOk {core slot} (ok : s.MemOk) : OutcomeOk (execStreamRefill core slot s) :=
  .next (.ite ok.refill ok)

/-! ## Copies and layouts (Copy.lean) -/

theorem rangeWindowsM_keepsMem {rs} : KeepsMem (rangeWindowsM rs) :=
  .get fun _ _ => .forM fun _ => .bind liftExcept_keepsMem fun _ => .pure

theorem rangePartM_keepsMem {noSync stack r} : KeepsMem (rangePartM noSync stack r) := by
  unfold rangePartM
  refine .get fun _ ok => ?_
  dsimp only
  split
  · refine .bind spansOf_keepsMem fun _ => ?_
    split
    exacts [accessFaultM_keepsMem, .pure]
  · split
    · exact accessFaultM_keepsMem
    · split
      exacts [accessFaultM_keepsMem, .pure]

theorem rangesM_keepsMem {noSync stack rs} : KeepsMem (rangesM noSync stack rs) :=
  .bind rangeWindowsM_keepsMem fun _ => .get fun _ _ => .bind
    (.mapM fun _ => .bind rangePartM_keepsMem fun _ => .pure) fun _ => .pure

theorem State.MemOk.completeXfer {o x} (ok : s.MemOk) : (s.completeXfer o x).MemOk :=
  .ite ok (.ite ok.modHart ok.modHart)

theorem enqueueM_keepsMem {x empty} : KeepsMem (enqueueM x empty) :=
  .get fun _ ok => .ite (.set ok.completeXfer.retire) (.ite parkM_keepsMem (.set ok.modMe.retire))

theorem indexListM_keepsMem {a count iw} : KeepsMem (indexListM a count iw) :=
  .bind loadBytes_keepsMem fun _ => .pure

theorem copyM_keepsMem {b gather qd qs bell head} : KeepsMem (copyM b gather qd qs bell head) := by
  refine .get fun _ ok => .ite illegalM_keepsMem (.ite operandM_keepsMem (.bind loadWords_keepsMem fun _ =>
    .get fun _ ok => .ite illegalM_keepsMem (.ite operandM_keepsMem (.iteBind indexListM_keepsMem .pure fun _ =>
      .bind rangesM_keepsMem fun _ => .get fun _ ok => ?_))))
  dsimp only
  split
  · exact accessFaultM_keepsMem
  · split
    exacts [trapM_keepsMem, enqueueM_keepsMem]

theorem identityM_keepsMem {fmt id tval} : KeepsMem (identityM fmt id tval) :=
  .ite (.bind slotM_keepsMem fun _ => .get fun _ _ => .ite .pure operandM_keepsMem) .pure

theorem layoutWindowM_keepsMem {l} : KeepsMem (layoutWindowM l) :=
  .get fun _ _ => liftExcept_keepsMem

theorem execCopyl_memOk {b} (ok : s.MemOk) : OutcomeOk (execCopyl b s) := by
  unfold execCopyl
  refine runHead_memOk ok (.get fun _ ok => ?_)
  refine .ite operandM_keepsMem (.bind loadWords_keepsMem fun _ => ?_)
  refine .ite illegalM_keepsMem ?_
  split
  · refine .ite operandM_keepsMem (.bind identityM_keepsMem fun _ => ?_)
    refine .bind identityM_keepsMem fun _ => .bind layoutWindowM_keepsMem fun _ =>
      .bind layoutWindowM_keepsMem fun _ => .bind rangesM_keepsMem fun _ => ?_
    dsimp only
    split
    exacts [accessFaultM_keepsMem, .get fun _ ok => .ite parkM_keepsMem (.set ok.modCluster.retire)]
  · exact operandM_keepsMem

theorem State.MemOk.startCopy {h} (ok : s.MemOk) : (s.startCopy h).MemOk := by
  unfold State.startCopy
  dsimp only
  split
  · exact ok
  · refine .ite ok ?_
    split
    exacts [ok, ok.modHart.modHart]

theorem State.MemOk.setXfer {o k x} (ok : s.MemOk) : (s.setXfer o k x).MemOk :=
  ok.modHart

theorem State.MemOk.dropXfer {o k} (ok : s.MemOk) : (s.dropXfer o k).MemOk :=
  ok.modHart

theorem State.MemOk.failXfer {o k a} (ok : s.MemOk) : (s.failXfer o k a).MemOk := by
  unfold State.failXfer
  split
  exacts [ok.dropXfer.machineCheck, ok]

theorem State.MemOk.endXfer {o k x} (ok : s.MemOk) : (s.endXfer o k x).MemOk :=
  ok.dropXfer.completeXfer

theorem State.MemOk.markXfer {o k x all left} (ok : s.MemOk) : (s.markXfer o k x all left).MemOk := by
  unfold State.markXfer
  split
  exacts [ok.endXfer, ok.setXfer]

theorem State.MemOk.nextPieces {ordered left} (ok : s.MemOk) : (s.nextPieces ordered left).2.MemOk :=
  .choose (.iteSnd ok ok.choose)

theorem State.MemOk.flushXfer {o k x dst len last} (ok : s.MemOk) : (s.flushXfer o k x dst len last).MemOk :=
  .ite ok.writeSpansAs.endXfer ok.writeSpansAs.setXfer

theorem State.MemOk.moveFromQueue {o k x q dst len} (ok : s.MemOk) : (s.moveFromQueue o k x q dst len).MemOk := by
  unfold State.moveFromQueue
  refine .ite ok ?_
  split
  · exact ok.spansWait.of_eq ‹_›
  · rename_i e2
    split
    · exact (ok.spansWait.of_eq e2).spansWait.of_eq ‹_›
    · rename_i e4
      split
      exacts [((ok.spansWait.of_eq e2).spansWait.of_eq e4).failXfer,
        ((ok.spansWait.of_eq e2).spansWait.of_eq e4).queueTake.flushXfer]

theorem State.MemOk.advanceXfer {o k x n len} (ok : s.MemOk) : (s.advanceXfer o k x n len).MemOk :=
  .ite ok.endXfer ok.setXfer

theorem State.MemOk.moveToQueue {o k x src q len} (ok : s.MemOk) : (s.moveToQueue o k x src q len).MemOk := by
  unfold State.moveToQueue
  refine .ite ok ?_
  split
  · exact ok.spansWait.of_eq ‹_›
  · rename_i e2
    split
    exacts [(ok.spansWait.of_eq e2).failXfer, (ok.spansWait.of_eq e2).readSpansAs.queuePut.advanceXfer]

theorem State.MemOk.moveQueues {o k x q r len} (ok : s.MemOk) : (s.moveQueues o k x q r len).MemOk := by
  unfold State.moveQueues
  refine .ite ok ?_
  split
  · exact ok.spansWait.of_eq ‹_›
  · rename_i e2
    split
    exacts [(ok.spansWait.of_eq e2).failXfer, (ok.spansWait.of_eq e2).queueTake.queuePut.advanceXfer]

theorem State.MemOk.moveWord {x src dst off n} (ok : s.MemOk) : (s.moveWord x src dst off n).MemOk :=
  ok.readSpansAs.writeSpansAs

theorem State.MemOk.moveWords {o k x src dst} (ok : s.MemOk) : (s.moveWords o k x src dst).MemOk := by
  unfold State.moveWords
  dsimp only
  split
  · exact ok.failXfer
  · split
    exacts [ok.nextPieces.spansWait.of_eq ‹_›,
      .markXfer (.foldl (fun _ _ ok => ok.moveWord) (ok.nextPieces.spansWait.of_eq ‹_›))]

theorem State.MemOk.moveLayout {o k x src dst} (ok : s.MemOk) : (s.moveLayout o k x src dst).MemOk := by
  unfold State.moveLayout
  dsimp only
  split
  · exact ok.failXfer
  · split
    exacts [ok.nextPieces.unitWaits.of_eq ‹_›,
      .markXfer (.foldl (fun _ _ ok => ok.engineMasked) (.foldl (fun _ _ ok => ok.applyLine.touch)
        (ok.nextPieces.unitWaits.of_eq ‹_›)))]

theorem State.MemOk.runXfer {o k} (ok : s.MemOk) : (s.runXfer o k).MemOk := by
  unfold State.runXfer
  split
  · exact ok
  · refine .ite (.ite ok.endXfer ok) (.ite ?_ ?_)
    · split
      exacts [ok.flushXfer, ok.endXfer]
    · refine .ite ok ?_
      split
      exacts [ok.moveWords, ok.moveFromQueue, ok.moveToQueue, ok.moveQueues, ok.moveLayout]

theorem execTransferComplete_memOk {core k} (ok : s.MemOk) : OutcomeOk (execTransferComplete core k s) :=
  .next ok.runXfer

theorem execCopylRequest_memOk {cluster} (ok : s.MemOk) : OutcomeOk (execCopylRequest cluster s) := by
  unfold execCopylRequest
  dsimp only
  split
  · exact .next ok
  · split
    exacts [.next ok, .next ok.modCluster.modHart]

/-! ## Bells, atomics, update regions and the store buffer (Sync.lean) -/

theorem State.MemOk.setRoll {c b v} (ok : s.MemOk) : (s.setRoll c b v).MemOk :=
  ok.modHart

theorem State.MemOk.sendPart {b v} (ok : s.MemOk) : (s.sendPart b v).MemOk :=
  .ite ok.podFence (.ite ok (ok.modDev fun _ => rfl))

theorem State.MemOk.endParts {b v} (ok : s.MemOk) : (s.endParts b v).MemOk :=
  ok.modDev fun _ => rfl

theorem State.MemOk.release {c b} (ok : s.MemOk) : (s.release c b).MemOk :=
  .foldl (fun _ _ ok => ok.setRoll) ok

theorem execBarrierRelease_memOk {core bell} (ok : s.MemOk) : OutcomeOk (execBarrierRelease core bell s) :=
  .ite (.next ok) (.ite (.next ok.release) (.next (.ite ok.sendPart.release.endParts ok.sendPart)))

theorem execBarrierArrivalSignal_memOk {k} (ok : s.MemOk) : OutcomeOk (execBarrierArrivalSignal k s) := by
  unfold execBarrierArrivalSignal
  split
  exacts [.ite (.next ok.podFence.update) (.next ok.podFence), .next ok]

theorem execRollw_memOk {d bell b} (ok : s.MemOk) : OutcomeOk (execRollw d bell b s) :=
  runHead_memOk ok (.get fun _ ok => .ite parkM_keepsMem (.ite operandM_keepsMem
    (.set ok.setRoll.modMe.setX.retire)))

theorem execBarr_memOk {bell} (ok : s.MemOk) : OutcomeOk (execBarr bell s) :=
  runHead_memOk ok (.get fun _ ok => .ite operandM_keepsMem (.ite parkM_keepsMem (.set ok.setRoll.send.retire)))

theorem execBwait_memOk {d c bell} (ok : s.MemOk) : OutcomeOk (execBwait d c bell s) :=
  runHead_memOk ok (.get fun _ ok => .ite operandM_keepsMem
    (.ite (.set ok.setX.retire) (.ite (.set ok.setX.retire) parkUntilM_keepsMem)))

theorem globalPlace_keepsMem {a n} : KeepsMem (globalPlace a n) := by
  unfold globalPlace
  refine .get fun _ ok => .bind liftExcept_keepsMem fun _ => ?_
  dsimp only
  split
  exacts [translate_keepsMem, accessFaultM_keepsMem]

theorem amoPlace_keepsMem {a size} : KeepsMem (amoPlace a size) :=
  .bind globalPlace_keepsMem fun _ => .ite .pure accessFaultM_keepsMem

theorem amoM_keepsMem {d b w qual op} : KeepsMem (amoM d b w qual op) :=
  .get fun _ _ => .ite trapM_keepsMem (.bind (sentPlaceM_keepsMem amoPlace_keepsMem) fun _ => .get fun _ _ => .ite
    (.get fun _ _ => .bind registrarM_keepsMem fun _ => .modify fun _ ok => ok.setX.retire)
    (.bind emptyBufferM_keepsMem fun _ => .when drainM_keepsMem fun _ => .bind meetTag_keepsMem fun _ =>
    .get fun _ _ => .bind registrarM_keepsMem fun _ => .modify fun _ ok => ok.setX.retire))

theorem execRegistrarServe_memOk {die k} (ok : s.MemOk) : OutcomeOk (execRegistrarServe die k s) := by
  unfold execRegistrarServe
  dsimp only
  split
  exacts [.next ok, .ite (.next ok) (.next ok.modDie.registrarServe)]

theorem regionRange_keepsMem {va} : KeepsMem (regionRange va) := by
  unfold regionRange
  refine .get fun _ ok => ?_
  split
  exacts [accessFaultM_keepsMem, translate_keepsMem]

theorem regionChange_keepsMem {d die idx new} : KeepsMem (regionChange d die idx new) := by
  unfold regionChange
  refine .get fun _ ok => ?_
  split
  exacts [.set ok.modMe.setX.retire, .ite parkM_keepsMem (.bind (.set ok.send) fun _ => parkM_keepsMem)]

theorem execRegionSet_memOk {d idx b} (ok : s.MemOk) : OutcomeOk (execRegionSet d idx b s) := by
  refine runHead_memOk ok (.get fun _ ok => .ite regionChange_keepsMem (.bind drainM_keepsMem fun _ =>
    .ite operandM_keepsMem (.bind loadWords_keepsMem fun _ => .ite operandM_keepsMem
    (.bind (attempt_keepsMem regionRange_keepsMem) fun _ =>
    .iteBind .pure (attempt_keepsMem regionRange_keepsMem) fun _ => .get fun _ ok =>
    .ite operandM_keepsMem (.ite operandM_keepsMem ?_)))))
  dsimp only
  split
  exacts [regionChange_keepsMem, .throw, operandM_keepsMem]

theorem dieOperand_keepsMem {v} : KeepsMem (dieOperand v) :=
  .ite operandM_keepsMem .pure

theorem execRegionOff_memOk {d idx b} (ok : s.MemOk) : OutcomeOk (execRegionOff d idx b s) :=
  runHead_memOk ok (.get fun _ _ => .bind dieOperand_keepsMem fun _ => .ite regionChange_keepsMem
    (.bind drainM_keepsMem fun _ => regionChange_keepsMem))

theorem execRegionRdc_memOk {d idx b} (ok : s.MemOk) : OutcomeOk (execRegionRdc d idx b s) :=
  runHead_memOk ok (.get fun _ ok => .bind dieOperand_keepsMem fun _ => .set ok.modDie.setX.retire)

theorem execRegionTableUpdate_memOk {k} (ok : s.MemOk) : OutcomeOk (execRegionTableUpdate k s) := by
  unfold execRegionTableUpdate
  split
  exacts [.ite (.next ok) (.next ok.applyEntries.modDie.update.modHart), .next ok]

theorem updatePlace_keepsMem {a} : KeepsMem (updatePlace a) := by
  unfold updatePlace
  refine .ite trapM_keepsMem (.bind globalPlace_keepsMem fun _ => ?_)
  refine .ite accessFaultM_keepsMem (.get fun _ ok => ?_)
  split
  exacts [.pure, accessFaultM_keepsMem]

theorem updM_keepsMem {src b off qual} : KeepsMem (updM src b off qual) :=
  .get fun _ _ => .bind updatePlace_keepsMem fun _ => .ite trapM_keepsMem (.modify fun _ ok => ok.pushStore.retire)

theorem execUpdv_memOk {src t pred vi b qual} (ok : s.MemOk) : OutcomeOk (execUpdv src t pred vi b qual s) := by
  unfold execUpdv
  refine runHead_memOk ok (.bind readSource_keepsMem fun _ => ?_)
  refine .bind readSource_keepsMem fun _ => .get fun _ ok => .bind
    (.mapM fun _ => .bind updatePlace_keepsMem fun _ => .ite operandM_keepsMem (.ite trapM_keepsMem .pure)) fun _ =>
    .modify fun _ ok => ?_
  refine .retire (.foldl (fun _ _ ok => ?_) (.foldl (fun _ _ ok => ok.popSource) ok))
  split
  exacts [ok.pushStore, ok]

theorem execUflush_memOk {c b} (ok : s.MemOk) : OutcomeOk (execUflush c b s) := by
  unfold execUflush
  refine runHead_memOk ok (.get fun _ ok => ?_)
  refine .ite (.set ok.retire) (.ite trapM_keepsMem ?_)
  refine .bind ?_ fun _ => .modify fun _ ok => ok.pushStore.retire
  refine .mapM fun _ => ?_
  split
  exacts [accessFaultM_keepsMem, .bind translate_keepsMem fun _ => .pure]

theorem State.MemOk.entryWaits {h e} (ok : s.MemOk) : (s.entryWaits h e).2.MemOk := by
  unfold State.entryWaits
  split
  refine .foldlSnd (fun _ _ ok => ?_) ok
  split
  · exact ok.waitAt
  · split
    · dsimp only
      exact ok.joinLine
    · exact ok

theorem State.MemOk.setEvict {a qual} (ok : s.MemOk) : (s.setEvict a qual).MemOk :=
  .ite ok.modDie ok

theorem State.MemOk.performEntry {h e} (ok : s.MemOk) : (s.performEntry h e).MemOk := by
  unfold State.performEntry
  split
  · exact ok.performWrite
  · split
    exacts [ok, ok.engineMasked]
  · exact ok.performLimits
  · exact ok.setFull.tagWrite
  · exact .ite ok.queuePut ok
  · exact ok
  · exact .ite ok.applyLine.modDie (.ite (.modDie (.modLoft (.modLoft (.ite ok.applyLine.writeBack ok.applyLine))))
      (.modLoft (.ite ok.applyLine.writeBack ok.applyLine)))
  · exact .foldl (fun _ _ ok => ok.applyLine) ok
  · exact .ite ok.noteFence ok

theorem State.MemOk.dropEntry {h k} (ok : s.MemOk) : (s.dropEntry h k).MemOk :=
  ok.modHart

theorem execStoreBufferRetire_memOk {h k} (ok : s.MemOk) : OutcomeOk (execStoreBufferRetire h k s) := by
  unfold execStoreBufferRetire
  split
  · exact .next ok
  · rename_i e _
    split
    · exact .next ok
    · have fenced : (if 2 ≤ qualOrd e.qual then s.podFence (qualScope e.qual) else s).MemOk := .ite ok.podFence ok
      refine .ite (.next fenced) ?_
      split
      exacts [.next (fenced.entryWaits.of_eq ‹_›), .next (fenced.entryWaits.of_eq ‹_›).dropEntry.performEntry]

theorem execUpdateAccepted_memOk {h k} (ok : s.MemOk) : OutcomeOk (execUpdateAccepted h k s) := by
  unfold execUpdateAccepted
  split
  · rename_i e _
    have fenced : (if 2 ≤ qualOrd e.qual then s.podFence (qualScope e.qual) else s).MemOk := .ite ok.podFence ok
    split
    · dsimp only
      split
      · exact .next fenced
      · refine .ite (.next fenced) (.ite (.next fenced) ?_)
        split
        exacts [.next (fenced.entryWaits.of_eq ‹_›),
          .next (fenced.entryWaits.of_eq ‹_›).dropEntry.setEvict.modDie.tagWrite]
    · exact .next ok
  · exact .next ok

theorem execGutterSpill_memOk {die slice} (ok : s.MemOk) : OutcomeOk (execGutterSpill die slice s) := by
  unfold execGutterSpill
  refine .ite (.next ok) ?_
  split
  · exact .next ok
  · split
    exacts [.next ok, .next (.ite ok.modDie ok.applyEntries)]

/-! ## The matrix engine (Matrix.lean) -/

theorem tilePlaces_keepsMem {acc a p w} : KeepsMem (tilePlaces acc a p w) :=
  .get fun _ _ => .ite trapM_keepsMem (.bind (.forM fun _ => .bind liftExcept_keepsMem fun _ => .pure) fun _ =>
    .bind (.mapM fun _ => .mapM fun _ => .bind myPlace_keepsMem fun _ => .when storeCheck_keepsMem fun _ =>
    .pure) fun _ => .pure)

theorem State.MemOk.setTile {n t} (ok : s.MemOk) : (s.setTile n t).MemOk :=
  ok.modMe

theorem tloadM_keepsMem {off r tn sp b qual} : KeepsMem (tloadM off r tn sp b qual) :=
  .get fun _ _ => .ite operandM_keepsMem (.bind tilePlaces_keepsMem fun _ => .bind
    (.mapM fun _ => loadPart_keepsMem) fun _ => .modify fun _ ok => ok.setTile.retire)

theorem tstoreM_keepsMem {off tn sp b qual} : KeepsMem (tstoreM off tn sp b qual) :=
  .get fun _ _ => .bind tilePlaces_keepsMem fun _ => .bind storeOrder_keepsMem fun _ => .when
    (.forM fun _ => meetCells_keepsMem) fun _ => .bind (.forM fun _ => storeCells_keepsMem) fun _ =>
    .modify fun _ ok => ok.retire

theorem accBase_keepsMem {a pitch rows} : KeepsMem (accBase a pitch rows) := by
  unfold accBase
  refine .get fun _ ok => ?_
  split
  exacts [.ite operandM_keepsMem .pure, operandM_keepsMem]

theorem accStack_keepsMem {off pitch rows} : KeepsMem (accStack off pitch rows) := by
  unfold accStack
  refine .get fun _ ok => ?_
  split
  exacts [accessFaultM_keepsMem, .pure]

theorem engineM_keepsMem : KeepsMem engineM :=
  .get fun _ _ => .ite trapM_keepsMem .pure

theorem submitM_keepsMem {c} : KeepsMem (submitM c) :=
  .get fun _ ok => .ite parkM_keepsMem (.set ok.modMe.retire)

theorem matFmtM_keepsMem {f} : KeepsMem (matFmtM f) :=
  .ite operandM_keepsMem (.ite (.bind slotM_keepsMem fun _ => .pure) .pure)

theorem execTmma_memOk {c cp z tb ta} (ok : s.MemOk) : OutcomeOk (execTmma c cp z tb ta s) :=
  runHead_memOk ok (.get fun _ _ => .bind matFmtM_keepsMem fun _ => .bind matFmtM_keepsMem fun _ =>
    .ite operandM_keepsMem (.bind accBase_keepsMem fun _ => .bind engineM_keepsMem fun _ =>
    .bind accStack_keepsMem fun _ => submitM_keepsMem))

theorem panelM_keepsMem {a p depth w} : KeepsMem (panelM a p depth w) :=
  .ite trapM_keepsMem rangesM_keepsMem

theorem execTmmaP_memOk {c cp ce cmc z k a p} (ok : s.MemOk) : OutcomeOk (execTmmaP c cp ce cmc z k a p s) :=
  runHead_memOk ok (.get fun _ _ => .bind matFmtM_keepsMem fun _ => .bind matFmtM_keepsMem fun _ =>
    .ite operandM_keepsMem (.bind accBase_keepsMem fun _ => .bind engineM_keepsMem fun _ =>
    .bind panelM_keepsMem fun _ => .bind accStack_keepsMem fun _ => submitM_keepsMem))

theorem gangAnswerM_keepsMem : KeepsMem gangAnswerM := by
  unfold gangAnswerM
  refine .bind answerM_keepsMem fun _ => .get fun _ ok => ?_
  split
  exacts [.bind (.set ok.modMe) fun _ => .pure, .pure]

theorem lostM_keepsMem : KeepsMem lostM := by
  unfold lostM
  refine .get fun _ ok => ?_
  split
  exacts [trapM_keepsMem, .pure]

theorem execTmmaG_memOk {c cp ce cmc z k a p} (ok : s.MemOk) : OutcomeOk (execTmmaG c cp ce cmc z k a p s) :=
  runHead_memOk ok (.bind gangAnswerM_keepsMem fun _ => .ite (.modify fun _ ok => ok.retire)
    (.get fun _ _ => .ite parkM_keepsMem (.bind matFmtM_keepsMem fun _ => .bind matFmtM_keepsMem fun _ =>
    .ite operandM_keepsMem (.bind accBase_keepsMem fun _ => .ite operandM_keepsMem
    (.bind lostM_keepsMem fun _ => .bind engineM_keepsMem fun _ => .iteBind panelM_keepsMem .pure fun _ =>
    .bind accStack_keepsMem fun _ => .bind (.modify fun _ ok => ok.modMe) fun _ => parkM_keepsMem)))))

theorem execPload_memOk {ce cmc n b} (ok : s.MemOk) : OutcomeOk (execPload ce cmc n b s) :=
  runHead_memOk ok (.get fun _ _ => .ite operandM_keepsMem
    (.ite operandM_keepsMem (.bind engineM_keepsMem fun _ => .bind rangesM_keepsMem fun _ => submitM_keepsMem)))

theorem execGbind_memOk {gn} (ok : s.MemOk) : OutcomeOk (execGbind gn s) :=
  runHead_memOk ok (.bind gangAnswerM_keepsMem fun _ => .ite (.modify fun _ ok => ok.retire)
    (.bind (.modify fun _ ok => ok.modMe) fun _ => parkM_keepsMem))

theorem execGunbind_memOk {gn} (ok : s.MemOk) : OutcomeOk (execGunbind gn s) :=
  runHead_memOk ok (.bind gangAnswerM_keepsMem fun _ => .ite (.modify fun _ ok => ok.retire)
    (.get fun _ _ => .ite operandM_keepsMem (.bind lostM_keepsMem fun _ => .bind
    (.modify fun _ ok => ok.modMe) fun _ => parkM_keepsMem)))

theorem tdrainM_keepsMem {d c dpitch cp nr hz handler} : KeepsMem (tdrainM d c dpitch cp nr hz handler) :=
  .get fun _ _ => .ite operandM_keepsMem (.bind accBase_keepsMem fun _ => .ite operandM_keepsMem
    (.bind engineM_keepsMem fun _ => .bind rangesM_keepsMem fun _ => .bind accStack_keepsMem fun _ =>
    submitM_keepsMem))

theorem engineWaitM_keepsMem {l} : KeepsMem (engineWaitM l) := by
  unfold engineWaitM
  refine .get fun _ ok => ?_
  split
  exacts [.bind (.set (ok.spansWait.of_eq ‹_›)) fun _ => parkM_keepsMem, .set (ok.spansWait.of_eq ‹_›)]

theorem execTblld_memOk {slot id b} (ok : s.MemOk) : OutcomeOk (execTblld slot id b s) := by
  unfold execTblld
  refine runHead_memOk ok (.get fun _ ok => ?_)
  refine .bind engineM_keepsMem fun _ => .ite trapM_keepsMem (.bind rangesM_keepsMem fun _ => ?_)
  refine .bind emptyBufferM_keepsMem fun _ => .bind engineWaitM_keepsMem fun _ => .get fun _ ok => ?_
  split
  · exact .set ok.machineCheck.retire
  · dsimp only
    split
    exacts [.bind (.set ok.engineReadSpans) fun _ => submitM_keepsMem,
      .ite parkM_keepsMem (.bind (.set ok.engineReadSpans.setTable) fun _ => trapM_keepsMem)]

theorem State.MemOk.fillFifo {c} (ok : s.MemOk) : (s.fillFifo c).MemOk := by
  unfold State.fillFifo
  refine .modHart ?_
  split
  · split
    exacts [ok.modHart, ok]
  · exact ok

theorem State.MemOk.startRun {c r} (ok : s.MemOk) : (s.startRun c r).MemOk :=
  ok.modHart.fillFifo

theorem execDrainRunStart_memOk {core} (ok : s.MemOk) : OutcomeOk (execDrainRunStart core s) := by
  unfold execDrainRunStart
  split
  · split
    exacts [.next ok.startRun, .next ok]
  · exact .next ok.fillFifo

theorem execScopeMissRunStart_memOk {core} (ok : s.MemOk) : OutcomeOk (execScopeMissRunStart core s) := by
  unfold execScopeMissRunStart
  split
  · split
    exacts [.next ok.startRun, .next ok]
  · exact .next ok.fillFifo

theorem State.MemOk.failCommand {c a} (ok : s.MemOk) : (s.failCommand c a).MemOk :=
  ok.raiseMflags.machineCheck.modHart

theorem State.MemOk.leaveRow {c i} (ok : s.MemOk) : (s.leaveRow c i).MemOk := by
  unfold State.leaveRow
  split
  · dsimp only
    split
    · split
      exacts [ok.failCommand, .modHart (.ite ok.engineWriteSpans.engineWrite ok.engineWriteSpans)]
    · exact ok
  · exact ok

theorem execHret_memOk (ok : s.MemOk) : OutcomeOk (execHret s) := by
  unfold execHret
  refine runHead_memOk ok (.get fun _ ok => ?_)
  split
  · exact .pure
  · split
    exacts [.ite (.bind (.modify fun _ ok => ok.update) fun _ => .modify fun _ ok => ok.countHead.modMe.fillFifo)
      (.bind drainM_keepsMem fun _ => .bind (.modify fun _ ok => ok.update) fun _ => .modify fun _ ok =>
      ok.countHead.modMe.fillFifo),
      .bind emptyBufferM_keepsMem fun _ => .get fun _ ok => .bind engineWaitM_keepsMem fun _ => .bind
        (.modify fun _ ok => ok.leaveRow.modMe) fun _ => .modify fun _ ok => ok.countHead.modMe.fillFifo]

theorem State.MemOk.accWrite {a words last} (ok : s.MemOk) : (s.accWrite a words last).MemOk :=
  .ite (.foldl (fun _ _ ok => ok.setFull) ok.poke.clearTags.update) ok.poke.clearTags.update

theorem State.MemOk.openWords {n} (ok : s.MemOk) : (s.openWords n).2.MemOk :=
  ok.update

theorem State.MemOk.endCommand {c} (ok : s.MemOk) : (s.endCommand c).MemOk :=
  ok.raiseMflags.modHart

theorem State.MemOk.retireChunk {c} (ok : s.MemOk) : (s.retireChunk c).MemOk := by
  unfold State.retireChunk
  split
  · split
    · dsimp only
      split
      · exact ok.failCommand
      · generalize e : List.foldl _ _ _ = r
        have rows : r.1.MemOk := by
          subst e
          refine .foldlFst (fun p i ok => ?_) ok.engineReadSpans
          split
          · exact ok
          · split
            · dsimp only
              exact .modHart (.accWrite (.openWords ok))
            · dsimp only
              exact .modHart (.accWrite ok)
        split
        exacts [rows.failCommand, .ite rows.modHart.endCommand rows.modHart]
    · exact ok
  · exact ok

theorem execChunkRetirement_memOk {core} (ok : s.MemOk) : OutcomeOk (execChunkRetirement core s) := by
  unfold execChunkRetirement
  refine .ite (.next ok) ?_
  split
  · exact .next ok
  · split
    · refine .ite ?_ ?_
      · refine .ite ?_ (.next ok)
        split
        exacts [.next (ok.spansWait.of_eq ‹_›),
          .next (.foldl (fun _ _ ok => ok.retireChunk) (ok.spansWait.of_eq ‹_›))]
      · refine .ite ?_ (.next ok)
        split
        exacts [.next (ok.spansWait.of_eq ‹_›), .next (ok.spansWait.of_eq ‹_›).retireChunk]
    · refine .ite (.next ok) ?_
      split
      · exact .next (ok.spansWait.of_eq ‹_›)
      · rename_i e10
        exact .next (.ite (ok.spansWait.of_eq e10).leaveRow (ok.spansWait.of_eq e10).leaveRow.modHart)
    · exact .next ok

theorem execMatrixCommandComplete_memOk {core} (ok : s.MemOk) : OutcomeOk (execMatrixCommandComplete core s) := by
  unfold execMatrixCommandComplete
  refine .ite (.next ok) ?_
  split
  · exact .next ok
  · split
    · exact .next (.ite ok.endCommand ok)
    · refine .ite (.next ok) ?_
      dsimp only
      split
      · exact .next (ok.spansWait.of_eq ‹_›)
      · rename_i e6
        split
        exacts [.next (ok.spansWait.of_eq e6).engineReadSpans.putBytes.failCommand,
          .next (ok.spansWait.of_eq e6).engineReadSpans.putBytes.modHart.endCommand]
    · exact .next ok.modHart.endCommand
    · exact .next (.ite ok.endCommand ok)
    · exact .next ok
    · exact .next (.ite ok.endCommand ok)

theorem execTableInstall_memOk {core} (ok : s.MemOk) : OutcomeOk (execTableInstall core s) := by
  unfold execTableInstall
  split
  · split
    exacts [.next ok.setTable.endCommand, .next ok]
  · exact .next ok

theorem execOperandsConsumedEvent_memOk {core} (ok : s.MemOk) : OutcomeOk (execOperandsConsumedEvent core s) := by
  unfold execOperandsConsumedEvent
  split
  exacts [.next ok, .next ok.modHart.bumpCounter]

theorem State.MemOk.startMatrix {c} (ok : s.MemOk) : (s.startMatrix c).MemOk := by
  unfold State.startMatrix
  dsimp only
  split
  · split
    exacts [.ite ok (.ite ok ok.modHart.modHart.fillFifo), .ite ok ok.modHart, ok.modHart]
  · exact ok

theorem execEngineCommandStart_memOk {h copy} (ok : s.MemOk) : OutcomeOk (execEngineCommandStart h copy s) :=
  .next (.ite ok.startCopy (.ite ok.startMatrix ok))

theorem execQuizProduct_memOk {core failing} (ok : s.MemOk) : OutcomeOk (execQuizProduct core failing s) :=
  .ite (.next ok) (.ite (.next ok.modHart) (.ite (.next (.modHart (.modHart (.ite ok.modHart.modHart ok.modHart))))
    (.next (.machineCheck (.modHart (.modHart (.ite ok.modHart.modHart ok.modHart)))))))

theorem State.MemOk.giveAnswer {c a} (ok : s.MemOk) : (s.giveAnswer c a).MemOk :=
  ok.modHart

theorem execGangBindComplete_memOk {cluster} (ok : s.MemOk) : OutcomeOk (execGangBindComplete cluster s) :=
  .ite (.next ok) (.next (.foldl (fun _ _ ok => ok.modHart.giveAnswer) ok))

theorem execGangUnbindComplete_memOk {cluster} (ok : s.MemOk) : OutcomeOk (execGangUnbindComplete cluster s) :=
  .next (.ite (.foldl (fun _ _ ok => ok.modHart.giveAnswer) ok) ok)

theorem execGangTmmaStart_memOk {cluster} (ok : s.MemOk) : OutcomeOk (execGangTmmaStart cluster s) :=
  .ite (.next ok) (.ite (.next (.foldl (fun _ _ ok => .ite ok ok.modHart) ok))
    (.next (.foldl (fun _ _ ok => ok.modHart.giveAnswer) ok)))

/-! ## The thatcher's arithmetic (TreeOps.lean) -/

theorem theRun_keepsTree : KeepsTree theRun :=
  .bind .get fun _ => .pure

theorem flagOn_keepsTree {core f} : KeepsTree (flagOn core f) :=
  .modify

theorem flagStep_keepsTree {f} : KeepsTree (flagStep f) :=
  .bind .get fun _ => flagOn_keepsTree

theorem flagAlone_keepsTree {f} : KeepsTree (flagAlone f) :=
  .bind theRun_keepsTree fun _ => flagOn_keepsTree

theorem treeFormatM_keepsTree {α : Type} {tval} : KeepsTree (treeFormatM tval : TM α) := .lift trapM_keepsMem

theorem treeSpans_keepsTree {acc a n} : KeepsTree (treeSpans acc a n) :=
  .bind theRun_keepsTree fun _ => .state fun _ _ => .ite treeFormatM_keepsTree (.lift spansOf_keepsMem)

theorem treeWait_keepsTree {l} : KeepsTree (treeWait l) := by
  unfold treeWait
  refine .bind theRun_keepsTree fun _ => .state fun _ ok => ?_
  split
  exacts [.lift parkM_keepsMem, .lift (.set (ok.unitWaits.of_eq ‹_›))]

theorem State.MemOk.waitTree {core e} (ok : s.MemOk) : (s.waitTree core e).MemOk := by
  unfold State.waitTree
  split
  exacts [ok.unitWaits, .ite ok ok.tagMiss, ok]

theorem treeReadAt_keepsTree {l} : KeepsTree (treeReadAt l) := by
  unfold treeReadAt
  refine .bind treeWait_keepsTree fun _ => .state fun _ ok => ?_
  split
  exacts [.lift .throw, .bind (.lift (.set ok.engineReadSpans)) fun _ => .pure]

theorem treeRead_keepsTree {a n} : KeepsTree (treeRead a n) :=
  .bind treeSpans_keepsTree fun _ => treeReadAt_keepsTree

theorem treeWrite_keepsTree {a d} : KeepsTree (treeWrite a d) :=
  .bind treeSpans_keepsTree fun _ => .bind treeWait_keepsTree fun _ => .lift
    (.modify fun _ ok => ok.engineWriteSpans)

theorem treeWords_keepsTree {a n} : KeepsTree (treeWords a n) :=
  .bind treeRead_keepsTree fun _ => .pure

theorem readNode_keepsTree {a fmt edge own} : KeepsTree (readNode a fmt edge own) :=
  .ite treeFormatM_keepsTree (.bind treeWords_keepsTree fun _ => .bind theRun_keepsTree fun _ =>
    .ite treeFormatM_keepsTree .pure)

theorem writeNode_keepsTree {a n} : KeepsTree (writeNode a n) :=
  .bind theRun_keepsTree fun _ => treeWrite_keepsTree

theorem childOf_keepsTree {n q} : KeepsTree (childOf n q) :=
  .ite readNode_keepsTree .pure

theorem tablesOf_keepsTree {core f} : KeepsTree (tablesOf core f) :=
  .state fun _ _ => .ite (.lift operandM_keepsMem) .pure

theorem treeElems_keepsTree {n first count core} : KeepsTree (treeElems n first count core) :=
  .bind tablesOf_keepsTree fun _ => .bind treeRead_keepsTree fun _ => .pure

theorem leafData_keepsTree {n core} : KeepsTree (leafData n core) := by
  unfold leafData
  split
  exacts [.pure, .bind treeElems_keepsTree fun _ => .pure,
    .bind (.mapM fun _ => treeElems_keepsTree) fun _ => .bind (.mapM fun _ => treeElems_keepsTree) fun _ => .pure,
    .bind (.mapM fun _ => treeElems_keepsTree) fun _ => .pure, .pure]

theorem allocNode_keepsTree {n} : KeepsTree (allocNode n) :=
  .bind theRun_keepsTree fun _ => .ite (.lift trapM_keepsMem) (.bind .modify fun _ => .pure)

theorem putLeaf_keepsTree {codes} : KeepsTree (putLeaf codes) :=
  .bind theRun_keepsTree fun _ => .ite (.lift trapM_keepsMem)
    (.bind treeWrite_keepsTree fun _ => .bind .modify fun _ => .pure)

theorem codesOn_keepsTree {core l} : KeepsTree (codesOn core l) :=
  .bind flagOn_keepsTree fun _ => .pure

theorem codesOf_keepsTree {l} : KeepsTree (codesOf l) :=
  .bind .get fun _ => codesOn_keepsTree

theorem engineOut_keepsTree {core p q d fc rows} : KeepsTree (engineOut core p q d fc rows) :=
  .bind theRun_keepsTree fun _ => .bind .modify fun _ => .ite .pure
    (.mapM fun _ => .state fun _ ok => .bind (.lift (.set ok.openWords)) fun _ => .pure)

theorem makeLeaf_keepsTree {typ edge rank codes} : KeepsTree (makeLeaf typ edge rank codes) :=
  .bind putLeaf_keepsTree fun _ => .bind theRun_keepsTree fun _ => .state fun _ _ => .ite .pure .pure

theorem codeRows_keepsTree {l} : KeepsTree (codeRows l) :=
  .mapM fun _ => codesOf_keepsTree

theorem gangTakes_keepsTree {a b} : KeepsTree (gangTakes a b) :=
  .bind theRun_keepsTree fun _ => .state fun _ _ => .pure

theorem gangProduct_keepsTree {a b} : KeepsTree (gangProduct a b) := by
  unfold gangProduct
  refine .bind theRun_keepsTree fun _ => .state fun _ ok => .ite (.lift parkM_keepsMem) (.bind .get fun _ => ?_)
  refine .bind ?_ fun _ => makeLeaf_keepsTree
  refine .mapM fun _ => ?_
  refine .bind leafData_keepsTree fun _ => .bind leafData_keepsTree fun _ => ?_
  split
  exacts [.bind engineOut_keepsTree fun _ => .mapM (fun _ => codesOn_keepsTree), .pure]

theorem leafProduct_keepsTree {a b} : KeepsTree (leafProduct a b) := by
  unfold leafProduct
  refine .bind theRun_keepsTree fun _ => ?_
  split
  · exact .pure
  · refine .bind gangTakes_keepsTree fun _ => ?_
    split
    · exact gangProduct_keepsTree
    · refine .bind .get fun _ => .bind leafData_keepsTree fun _ => .bind leafData_keepsTree fun _ => ?_
      dsimp only
      split
      · exact .bind flagAlone_keepsTree fun _ => .ite .pure .pure
      · split
        exacts [.bind codesOf_keepsTree fun _ => makeLeaf_keepsTree,
          .bind codeRows_keepsTree fun _ => makeLeaf_keepsTree,
          .ite (.bind codeRows_keepsTree fun _ => .bind codeRows_keepsTree fun _ => makeLeaf_keepsTree)
            (.bind codeRows_keepsTree fun _ => .bind codeRows_keepsTree fun _ => makeLeaf_keepsTree),
          .pure]
      · split
        exacts [.bind codesOf_keepsTree fun _ => makeLeaf_keepsTree,
          .bind codeRows_keepsTree fun _ => makeLeaf_keepsTree,
          .ite (.bind codeRows_keepsTree fun _ => .bind codeRows_keepsTree fun _ => makeLeaf_keepsTree)
            (.bind codeRows_keepsTree fun _ => .bind codeRows_keepsTree fun _ => makeLeaf_keepsTree),
          .pure]
      · exact .bind codesOf_keepsTree fun _ => makeLeaf_keepsTree
      · exact .bind codeRows_keepsTree fun _ => makeLeaf_keepsTree
      · exact .bind codeRows_keepsTree fun _ => makeLeaf_keepsTree
      · exact .bind codeRows_keepsTree fun _ => .bind codeRows_keepsTree fun _ => makeLeaf_keepsTree
      · exact .bind codeRows_keepsTree fun _ => .bind codeRows_keepsTree fun _ => makeLeaf_keepsTree
      · exact .bind engineOut_keepsTree fun _ => .bind codeRows_keepsTree fun _ => .bind codeRows_keepsTree fun _ =>
          makeLeaf_keepsTree
      · exact .bind engineOut_keepsTree fun _ => .bind codeRows_keepsTree fun _ => .bind codeRows_keepsTree fun _ =>
          makeLeaf_keepsTree
      · exact .bind engineOut_keepsTree fun _ => .bind flagStep_keepsTree fun _ => .ite
          (.bind engineOut_keepsTree fun _ => .bind codeRows_keepsTree fun _ => .bind codeRows_keepsTree fun _ =>
          makeLeaf_keepsTree) (.bind engineOut_keepsTree fun _ => .bind codeRows_keepsTree fun _ =>
          .bind codeRows_keepsTree fun _ => makeLeaf_keepsTree)
      · exact .bind engineOut_keepsTree fun _ => .bind codeRows_keepsTree fun _ => makeLeaf_keepsTree
      · exact .pure

theorem leafSum_keepsTree {x y} : KeepsTree (leafSum x y) := by
  unfold leafSum
  refine .bind theRun_keepsTree fun _ => .bind .get fun _ => .bind leafData_keepsTree fun _ =>
    .bind leafData_keepsTree fun _ => ?_
  split
  exacts [.bind flagAlone_keepsTree fun _ => .ite .pure .pure,
    .ite (.bind codeRows_keepsTree fun _ => .bind codeRows_keepsTree fun _ => makeLeaf_keepsTree)
      (.bind engineOut_keepsTree fun _ => .bind codeRows_keepsTree fun _ => makeLeaf_keepsTree),
    .bind engineOut_keepsTree fun _ => .bind codeRows_keepsTree fun _ => makeLeaf_keepsTree,
    .bind engineOut_keepsTree fun _ => .bind codeRows_keepsTree fun _ => makeLeaf_keepsTree,
    .bind codeRows_keepsTree fun _ => makeLeaf_keepsTree, .bind codeRows_keepsTree fun _ => makeLeaf_keepsTree,
    .bind codesOf_keepsTree fun _ => makeLeaf_keepsTree]

theorem copyLeaf_keepsTree {x} : KeepsTree (copyLeaf x) := by
  unfold copyLeaf
  refine .bind theRun_keepsTree fun _ => .bind leafData_keepsTree fun _ => .state fun _ ok => ?_
  split
  exacts [.pure, .bind (.bind flagAlone_keepsTree fun _ => .pure) fun _ => makeLeaf_keepsTree,
    .bind (.bind flagAlone_keepsTree fun _ => .pure) fun _ => makeLeaf_keepsTree,
    .bind (.mapM fun _ => .bind flagAlone_keepsTree fun _ => .pure) fun _ => .bind
      (.mapM fun _ => .bind flagAlone_keepsTree fun _ => .pure) fun _ => makeLeaf_keepsTree,
    .pure]

/-! ## The thatcher (Tree.lean) -/

theorem treeM_keepsMem {kind resume a b dest con} (hcon : KeepsMem con) :
    KeepsMem (treeM kind resume a b dest con) :=
  .bind answerM_keepsMem fun _ => .get fun _ ok => .ite (.set ok.modMe)
    (.ite parkM_keepsMem (.bind hcon fun _ => .ite parkM_keepsMem
    (.bind emptyBufferM_keepsMem fun _ => .bind (doM_keepsMem fun _ ok => ok.modCluster) fun _ => parkM_keepsMem)))

theorem execContract_memOk {b} (ok : s.MemOk) : OutcomeOk (execContract b s) := by
  unfold execContract
  refine runHead_memOk ok (.bind ?_ fun _ => doM_keepsMem fun _ ok => ok.retire)
  refine treeM_keepsMem (.ite operandM_keepsMem ?_)
  refine .ite parkM_keepsMem (.bind loadWords_keepsMem fun _ => ?_)
  split
  exacts [.pure, operandM_keepsMem]

theorem readPool_keepsTree {desc unit recorded} : KeepsTree (readPool desc unit recorded) :=
  .bind treeWords_keepsTree fun _ => .ite treeFormatM_keepsTree (.ite treeFormatM_keepsTree .pure)

theorem conRoot_keepsTree {o e0 e1 blk} : KeepsTree (conRoot o e0 e1 blk) :=
  .ite (.bind readNode_keepsTree fun _ => .ite (.lift operandM_keepsMem) .pure) .pure

theorem conRoots_keepsTree {c blk} : KeepsTree (conRoots c blk) :=
  .bind conRoot_keepsTree fun _ => conRoot_keepsTree

theorem startNew_keepsTree {w} : KeepsTree (startNew w) := by
  unfold startNew
  refine .state fun _ ok => .bind theRun_keepsTree fun _ => .ite (.lift operandM_keepsMem) ?_
  dsimp only
  split
  exacts [treeFormatM_keepsTree, .bind readPool_keepsTree fun _ => .bind readPool_keepsTree fun _ => .modify]

theorem blockWords_keepsTree {a} : KeepsTree (blockWords a) :=
  .bind theRun_keepsTree fun _ => .state fun _ _ => .bind (.lift spansOf_keepsMem) fun _ =>
    .bind treeReadAt_keepsTree fun _ => .pure

theorem startResumed_keepsTree {w} : KeepsTree (startResumed w) := by
  refine .state fun _ ok => .bind treeWords_keepsTree fun _ => .ite treeFormatM_keepsTree (.bind .modify fun _ =>
    .ite (.lift operandM_keepsMem) (.bind readPool_keepsTree fun _ => .bind readPool_keepsTree fun _ =>
    .ite treeFormatM_keepsTree (.bind .modify fun _ => .ite (.bind blockWords_keepsTree fun _ => ?_) .pure)))
  split
  exacts [.lift operandM_keepsMem, .modify]

theorem rootEdges_keepsTree : KeepsTree rootEdges := by
  unfold rootEdges
  refine .bind theRun_keepsTree fun _ => ?_
  split
  · exact conRoots_keepsTree
  · split
    exacts [.bind readNode_keepsTree fun _ => .bind readNode_keepsTree fun _ => .ite (.lift operandM_keepsMem)
      .pure,
      .bind readNode_keepsTree fun _ => .bind readNode_keepsTree fun _ => .ite (.lift operandM_keepsMem) .pure,
      .pure]

theorem State.MemOk.runTree {r stepCore m} (ok : s.MemOk) (hm : KeepsTree m) :
    (s.runTree r stepCore m).2.MemOk := by
  unfold State.runTree
  dsimp only
  split <;> exact (hm _ s ok).of_eq ‹_›

theorem State.MemOk.holdFrames {k l} (ok : s.MemOk) : (s.holdFrames k l).MemOk :=
  ok.engineWrite

theorem writeNexts_keepsTree : KeepsTree writeNexts :=
  .bind theRun_keepsTree fun _ => .bind treeWrite_keepsTree fun _ => treeWrite_keepsTree

theorem State.MemOk.stopTree {k r stop cause tval} (ok : s.MemOk) : (s.stopTree k r stop cause tval).MemOk := by
  unfold State.stopTree
  dsimp only
  split
  · exact (ok.runTree (.bind writeNexts_keepsTree fun _ => treeWrite_keepsTree)).modCluster.giveAnswer
  · split
    · refine .giveAnswer (.modCluster ?_)
      split
      exacts [ok, ok.runTree (.bind writeNexts_keepsTree fun _ => treeWrite_keepsTree)]
    · exact ok.waitTree

theorem execThatcherStart_memOk {cluster} (ok : s.MemOk) : OutcomeOk (execThatcherStart cluster s) := by
  unfold execThatcherStart
  dsimp only
  split
  · split
    · split
      exacts [.next ok.modCluster.giveAnswer, .next ok.waitTree]
    · rename_i e5
      split
      · exact .next ((ok.runTree (.ite startResumed_keepsTree startNew_keepsTree)).of_eq
          e5).modCluster.modCluster.holdFrames
      · split
        · exact .next ((((ok.runTree (.ite startResumed_keepsTree startNew_keepsTree)).of_eq e5).runTree
            rootEdges_keepsTree).of_eq ‹_›).modCluster.modCluster.holdFrames
        · split
          exacts [.next ok.waitTree, .ite (.next ok.modCluster.giveAnswer) (.next ok.stopTree)]
  · exact .next ok

theorem childOp_keepsTree {o f} : KeepsTree (childOp o f) := by
  unfold childOp
  refine .bind theRun_keepsTree fun _ => ?_
  dsimp only
  split
  exacts [.ite (.bind readNode_keepsTree fun _ => .bind readNode_keepsTree fun _ => .pure)
    (.bind childOf_keepsTree fun _ => .bind childOf_keepsTree fun _ => .pure),
    .bind childOf_keepsTree fun _ => .bind childOf_keepsTree fun _ => .pure, .bind childOf_keepsTree fun _ => .pure,
    .pure]

theorem descend_keepsTree {l o n up} : KeepsTree (descend l o n up) := by
  induction l generalizing o n up with
  | nil => exact .pure
  | cons f r ih => exact .bind theRun_keepsTree fun _ => .bind childOp_keepsTree fun _ => ih

theorem rootOp_keepsTree : KeepsTree rootOp := by
  unfold rootOp
  refine .bind theRun_keepsTree fun _ => .bind readNode_keepsTree fun _ => ?_
  split
  exacts [.bind readNode_keepsTree fun _ => .pure, .bind readNode_keepsTree fun _ => .pure, .pure]

theorem interiorOf_keepsTree {l} : KeepsTree (interiorOf l) :=
  .bind theRun_keepsTree fun _ => .ite .pure (.bind (.mapM fun _ => readNode_keepsTree) fun _ => .ite .pure .pure)

theorem advance_keepsTree {l} : KeepsTree (advance l) := by
  induction l with
  | nil => exact .bind .modify fun _ => .pure
  | cons l up ih =>
    unfold advance
    split
    exacts [.pure, .bind interiorOf_keepsTree fun _ => .bind writeNode_keepsTree fun _ => ih]

theorem walkStep_keepsTree : KeepsTree walkStep := by
  unfold walkStep
  refine .bind theRun_keepsTree fun _ => .bind rootOp_keepsTree fun _ => .bind descend_keepsTree fun _ => .ite ?_
    (.bind allocNode_keepsTree fun _ => .modify)
  dsimp only
  split
  exacts [.bind leafProduct_keepsTree fun _ => .bind writeNode_keepsTree fun _ => .bind advance_keepsTree fun _ =>
    .modify,
    .bind leafSum_keepsTree fun _ => .bind writeNode_keepsTree fun _ => .bind advance_keepsTree fun _ => .modify,
    .bind copyLeaf_keepsTree fun _ => .bind writeNode_keepsTree fun _ => .bind advance_keepsTree fun _ => .modify,
    .bind .pure fun _ => .bind writeNode_keepsTree fun _ => .bind advance_keepsTree fun _ => .modify]

theorem conElem_keepsTree {o i} : KeepsTree (conElem o i) :=
  .bind .get fun _ => .bind tablesOf_keepsTree fun _ => .bind treeRead_keepsTree fun _ => .pure

theorem conU32_keepsTree {a i} : KeepsTree (conU32 a i) :=
  .bind treeRead_keepsTree fun _ => .pure

theorem findColumn_keepsTree {cols j p n} : KeepsTree (findColumn cols j p n) := by
  induction n generalizing p with
  | zero => exact .pure
  | succ n ih => exact .bind conU32_keepsTree fun _ => .ite .pure ih

theorem findPair_keepsTree {ptrs i j p n} : KeepsTree (findPair ptrs i j p n) := by
  induction n generalizing p with
  | zero => exact .pure
  | succ n ih => exact .bind conU32_keepsTree fun _ => .bind conU32_keepsTree fun _ => .ite .pure ih

theorem quadElem_keepsTree {n t i j} : KeepsTree (quadElem n t i j) := by
  induction n generalizing t i j with
  | zero => exact .pure
  | succ n ih =>
    unfold quadElem
    dsimp only
    split
    · exact .bind childOf_keepsTree fun _ => ih
    · exact .pure
    · exact .ite (.bind .get fun _ => .bind treeElems_keepsTree fun _ => .pure) .pure
    · exact .bind .get fun _ => .bind (.mapM fun _ => treeElems_keepsTree) fun _ =>
        .bind (.mapM fun _ => treeElems_keepsTree) fun _ => .bind flagStep_keepsTree fun _ => .pure
    · exact .bind .get fun _ => .bind treeElems_keepsTree fun _ => .pure
    · exact .pure

theorem conAt_keepsTree {o at_} : KeepsTree (conAt o at_) := by
  unfold conAt
  split
  · exact .bind conElem_keepsTree fun _ => .pure
  · exact .bind conElem_keepsTree fun _ => .pure
  · refine .bind conU32_keepsTree fun _ => .bind conU32_keepsTree fun _ => .bind findColumn_keepsTree fun _ => ?_
    split
    exacts [.bind conElem_keepsTree fun _ => .pure, .pure]
  · refine .bind conU32_keepsTree fun _ => .bind conU32_keepsTree fun _ => .bind findColumn_keepsTree fun _ => ?_
    split
    exacts [.bind conElem_keepsTree fun _ => .pure, .pure]
  · exact .bind readNode_keepsTree fun _ => quadElem_keepsTree
  · refine .bind findPair_keepsTree fun _ => ?_
    split
    exacts [.bind conElem_keepsTree fun _ => .pure, .pure]

theorem ordered_keepsTree {read strict at_ p n} (hread : ∀ i, KeepsTree (read i)) :
    KeepsTree (ordered read strict at_ p n) := by
  induction n generalizing p with
  | zero => exact .pure
  | succ n ih => exact .bind (hread _) fun _ => .bind (hread _) fun _ => .ite treeFormatM_keepsTree ih

theorem conOrdered_keepsTree {o rows} : KeepsTree (conOrdered o rows) := by
  unfold conOrdered
  split
  exacts [.bind (ordered_keepsTree fun _ => conU32_keepsTree) fun _ => .forM fun _ =>
    .bind conU32_keepsTree fun _ => .bind conU32_keepsTree fun _ => ordered_keepsTree fun _ => conU32_keepsTree,
    .bind (ordered_keepsTree fun _ => conU32_keepsTree) fun _ => .forM fun _ => .bind conU32_keepsTree fun _ =>
      .bind conU32_keepsTree fun _ => ordered_keepsTree fun _ => conU32_keepsTree,
    ordered_keepsTree fun _ => .bind conU32_keepsTree fun _ => .bind conU32_keepsTree fun _ => .pure, .pure]

theorem conValue_keepsTree {c out start} : KeepsTree (conValue c out start) := by
  unfold conValue
  refine .bind theRun_keepsTree fun _ => .bind ?_ fun _ => .pure
  refine .mapM fun _ => ?_
  refine .bind ?_ fun _ => .pure
  refine .mapM fun _ => ?_
  refine .bind conAt_keepsTree fun _ => .bind conAt_keepsTree fun _ => ?_
  split
  exacts [.pure, .pure]

theorem contractStep_keepsTree {c} : KeepsTree (contractStep c) :=
  .bind theRun_keepsTree fun _ => .ite (.bind conOrdered_keepsTree fun _ => .bind conOrdered_keepsTree fun _ =>
    .bind (.mapM fun _ => .ite (.bind treeRead_keepsTree fun _ => .bind .pure fun _ =>
    .bind conValue_keepsTree fun _ => .bind flagStep_keepsTree fun _ => .pure)
    (.bind .pure fun _ => .bind conValue_keepsTree fun _ => .bind flagStep_keepsTree fun _ => .pure)) fun _ => .bind
    .get fun _ => .bind engineOut_keepsTree fun _ => .bind flagStep_keepsTree fun _ => .bind
    (.forM fun _ => .bind treeSpans_keepsTree fun _ => treeWait_keepsTree) fun _ => .bind
    (.forM fun _ => treeWrite_keepsTree) fun _ => .modify) (.bind
    (.mapM fun _ => .ite (.bind treeRead_keepsTree fun _ => .bind .pure fun _ => .bind conValue_keepsTree fun _ =>
    .bind flagStep_keepsTree fun _ => .pure) (.bind .pure fun _ => .bind conValue_keepsTree fun _ =>
    .bind flagStep_keepsTree fun _ => .pure)) fun _ => .bind .get fun _ => .bind engineOut_keepsTree fun _ =>
    .bind flagStep_keepsTree fun _ => .bind (.forM fun _ => .bind treeSpans_keepsTree fun _ =>
    treeWait_keepsTree) fun _ => .bind (.forM fun _ => treeWrite_keepsTree) fun _ => .modify)

theorem State.MemOk.landFlags {l} (ok : s.MemOk) : (s.landFlags l).MemOk :=
  .foldl (fun _ _ ok => ok.raiseMflags) ok

theorem State.MemOk.spendChunk {k at_ r work} (ok : s.MemOk) : (s.spendChunk k at_ r work).MemOk := by
  unfold State.spendChunk
  refine .modCluster (.foldl (fun _ _ ok => ?_) ok)
  split
  exacts [ok.modHart, ok]

theorem execThatcherStep_memOk {cluster} (ok : s.MemOk) : OutcomeOk (execThatcherStep cluster s) := by
  unfold execThatcherStep
  split
  · exact .next ok
  · dsimp only
    refine .ite (.next ok) ?_
    split
    · exact .next (.ite ok.stopTree ok.stopTree.modHart)
    · split
      · exact .next ok
      · split
        · rename_i e
          refine .ite (.next ?_) (.next ok.spendChunk)
          refine (State.MemOk.landFlags ((ok.runTree ?_).of_eq e)).modCluster.holdFrames
          split
          exacts [contractStep_keepsTree, walkStep_keepsTree]
        · split
          exacts [.next ok.stopTree, .next ok.waitTree]

theorem execTreeComplete_memOk {cluster} (ok : s.MemOk) : OutcomeOk (execTreeComplete cluster s) := by
  unfold execTreeComplete
  split
  · exact .next ok
  · refine .ite (.next ok) ?_
    split
    · exact .next ((ok.runTree writeNexts_keepsTree).of_eq ‹_›).modCluster.giveAnswer
    · split
      exacts [.next ok.stopTree, .next ok.waitTree]

/-! ## Search (Search.lean) -/

theorem State.MemOk.asHart {h f} (ok : s.MemOk) (hf : ∀ s, s.MemOk → (f s).MemOk) : (s.asHart h f).MemOk :=
  ((hf _ ok.update)).update

theorem State.MemOk.unwindTo {mark n} (ok : s.MemOk) : (State.unwindTo mark n s).MemOk := by
  induction n generalizing s with
  | zero => exact ok
  | succ n ih =>
    unfold State.unwindTo
    split
    exacts [ok, .ite ok (ih (State.MemOk.putTtop (.ite ok.pushCells ok)))]

theorem State.MemOk.popChoice {c off} (ok : s.MemOk) : (s.popChoice c off).MemOk := by
  unfold State.popChoice
  split
  · exact ok
  · dsimp only
    split
    exacts [ok.putTtop, ok.putTtop.putCtop]

theorem State.MemOk.backtrack {n} (ok : s.MemOk) : (State.backtrack n s).2.MemOk := by
  induction n generalizing s with
  | zero => exact ok
  | succ n ih =>
    unfold State.backtrack
    split
    · exact ok
    · dsimp only
      split
      · exact ok
      · split
        exacts [ok.unwindTo, ih ok.unwindTo.popChoice]

theorem State.MemOk.endSearch {code} (ok : s.MemOk) : (s.endSearch code).MemOk := by
  unfold State.endSearch
  split
  exacts [ok, .ite ok.putStatus.putTtop.putCtop.modMe.send ok.putStatus.putTtop.putCtop.modMe]

theorem endSearchM_keepsMem {q code} : KeepsMem (endSearchM q code) :=
  doM_keepsMem fun _ ok => ok.endSearch.goto

theorem activeM_keepsMem : KeepsMem activeM := by
  unfold activeM
  refine .get fun _ ok => ?_
  split
  exacts [.pure, operandM_keepsMem]

theorem State.MemOk.restoreSnaps {c} (ok : s.MemOk) : (s.restoreSnaps c).MemOk :=
  .foldl (fun _ _ ok => ok.setX) ok

theorem failM_keepsMem : KeepsMem failM := by
  unfold failM
  refine .bind activeM_keepsMem fun _ => .ite endSearchM_keepsMem (.get fun _ ok => ?_)
  refine .bind unitPoisonM_keepsMem fun _ => .get fun _ ok => ?_
  dsimp only
  split
  exacts [.bind (.set ok.backtrack) fun _ => endSearchM_keepsMem,
    .set (.goto (.setX (.ite ok.backtrack.restoreSnaps.unitStore.popChoice ok.backtrack.restoreSnaps.unitStore)))]

theorem execTryPush_memOk {a m n} (ok : s.MemOk) : OutcomeOk (execTryPush a m n s) :=
  runHead_memOk ok (.bind activeM_keepsMem fun _ => .ite operandM_keepsMem
    (.ite failM_keepsMem (.ite (doM_keepsMem fun _ ok => ok.setX.retire)
    (.bind trailRoom_keepsMem fun _ => .ite trapM_keepsMem (doM_keepsMem fun _ ok => .retire
    (.setX (.putCtop (.putNseq (.unitStore (.foldl (fun _ _ ok => ok.trailAppend) ok))))))))))

theorem State.MemOk.cutTo {mark n} (ok : s.MemOk) : (State.cutTo mark n s).MemOk := by
  induction n generalizing s with
  | zero => exact ok
  | succ n ih =>
    unfold State.cutTo
    split
    exacts [ok, .ite ok (ih (State.MemOk.putCtop (.foldl (fun _ _ ok => ok.send) ok)))]

theorem execCut_memOk {b} (ok : s.MemOk) : OutcomeOk (execCut b s) :=
  runHead_memOk ok (.bind activeM_keepsMem fun _ => .ite endSearchM_keepsMem
    (.ite operandM_keepsMem (.bind unitPoisonM_keepsMem fun _ => doM_keepsMem fun _ ok => ok.cutTo.retire)))

theorem execSframe_memOk {b} (ok : s.MemOk) : OutcomeOk (execSframe b s) := by
  unfold execSframe
  refine runHead_memOk ok (.ite operandM_keepsMem ?_)
  refine .bind loadWords_keepsMem fun _ => ?_
  split
  exacts [operandM_keepsMem, doM_keepsMem (fun _ ok => ok.putTtop.putCtop.putStatus.retire)]

theorem State.MemOk.takeTheft {d t} (ok : s.MemOk) : (s.takeTheft d t).MemOk := by
  unfold State.takeTheft
  refine .ite ok.modMe.setX.retire (.goto ?_)
  split
  exacts [.putStatus (.setSearch (.setX (.foldl (fun _ _ ok => ok.setX) ok.modMe.setX))),
    .setX (.foldl (fun _ _ ok => ok.setX) ok.modMe.setX)]

theorem execSteal_memOk {d v} (ok : s.MemOk) : OutcomeOk (execSteal d v s) := by
  unfold execSteal
  refine runHead_memOk ok ?_
  split
  · exact doM_keepsMem fun _ ok => ok.takeTheft
  · refine .ite parkM_keepsMem ?_
    split
    exacts [operandM_keepsMem,
      .ite operandM_keepsMem (.bind emptyBufferM_keepsMem fun _ => .bind (doM_keepsMem fun _ ok => ok.send) fun _ =>
        parkM_keepsMem)]

theorem execTheftServe_memOk {victim} (ok : s.MemOk) : OutcomeOk (execTheftServe victim s) := by
  unfold execTheftServe
  split
  · exact .next ok
  · split
    · dsimp only
      split
      · split
        · exact .next ok.update.modHart
        · refine .ite (.next ok.update.modHart) ?_
          split
          exacts [.next ok.update.machineCheck,
            .next (ok.update.asHart fun _ ok => ok.unitStore.unitStore).engineWrite.modHart]
      · exact .next ok.update.modHart
    · exact .next ok

theorem execSearchCancellation_memOk {k} (ok : s.MemOk) : OutcomeOk (execSearchCancellation k s) := by
  unfold execSearchCancellation
  split
  · dsimp only
    split
    exacts [.ite (.next (ok.update.modHart.asHart fun _ ok => ok.setSearch.putStatus)) (.next ok.update.modHart),
      .next ok.update.modHart]
  · exact .next ok

theorem execSearchCompletionMessage_memOk {k} (ok : s.MemOk) : OutcomeOk (execSearchCompletionMessage k s) := by
  unfold execSearchCompletionMessage
  split
  · dsimp only
    split
    · refine .ite ?_ (.next ok.update)
      split
      exacts [.next ok.update.machineCheck, .next (ok.update.asHart (fun _ ok => ok.unitStore))]
    · exact .next ok.update
  · exact .next ok

/-! ## The screener and the transform channels (Screen.lean) -/

theorem screenM_keepsMem {op dv dmc} : KeepsMem (screenM op dv dmc) :=
  .bind rangesM_keepsMem fun _ => .bind emptyBufferM_keepsMem fun _ => .get fun _ ok => .ite parkM_keepsMem
    (.set ok.modCluster.retire)

theorem execAsumm_memOk {dv dmc b} (ok : s.MemOk) : OutcomeOk (execAsumm dv dmc b s) := by
  unfold execAsumm
  refine runHead_memOk ok (.ite operandM_keepsMem ?_)
  refine .bind loadWords_keepsMem fun _ => ?_
  split
  · exact operandM_keepsMem
  · split
    exacts [.bind identityM_keepsMem fun _ => screenM_keepsMem, screenM_keepsMem]

theorem ascreenM_keepsMem {a dv dmc q k} : KeepsMem (ascreenM a dv dmc q k) := by
  unfold ascreenM
  refine .ite operandM_keepsMem (.bind loadWords_keepsMem fun _ => ?_)
  split
  exacts [operandM_keepsMem, screenM_keepsMem]

theorem State.MemOk.rangeBytes {core l a n} (ok : s.MemOk) : (s.rangeBytes core l a n).2.MemOk :=
  ok.readSpansAs

theorem State.MemOk.rangeWrite {l a d} (ok : s.MemOk) : (s.rangeWrite l a d).MemOk :=
  ok.engineWriteSpans

theorem State.MemOk.screen {r} (ok : s.MemOk) : (s.screen r).2.MemOk := by
  unfold State.screen
  split
  exacts [.foldlSnd (fun _ _ ok => ok.rangeBytes) ok,
    .foldlSnd (fun _ _ ok => .foldlSnd (fun _ _ ok => ok.rangeBytes) ok) ok.rangeBytes.rangeBytes]

theorem execScreenerRequest_memOk {cluster} (ok : s.MemOk) : OutcomeOk (execScreenerRequest cluster s) := by
  unfold execScreenerRequest
  split
  · exact .next ok
  · split
    · exact .next (ok.unitWaits.of_eq ‹_›)
    · rename_i e4
      dsimp only
      split
      · exact .next (ok.unitWaits.of_eq e4).modCluster.machineCheck
      · refine .next ?_
        split
        exacts [.bumpCounter (.foldl (fun _ _ ok => ok.rangeWrite) (ok.unitWaits.of_eq e4).modCluster.screen),
          .foldl (fun _ _ ok => ok.rangeWrite) (ok.unitWaits.of_eq e4).modCluster.screen]

theorem execXsend_memOk {d ch x} (ok : s.MemOk) : OutcomeOk (execXsend d ch x s) := by
  unfold execXsend
  refine runHead_memOk ok ?_
  split
  exacts [operandM_keepsMem,
    .bind readSource_keepsMem fun _ => .bind drainM_keepsMem fun _ => .get fun _ ok => .ite
      (.set ok.popSource.retire) (.ite parkM_keepsMem (.set ok.popSource.send.retire))]

theorem execXrecv_memOk {d ch x} (ok : s.MemOk) : OutcomeOk (execXrecv d ch x s) := by
  unfold execXrecv
  refine runHead_memOk ok (.bind noStreamM_keepsMem fun _ => ?_)
  split
  exacts [parkM_keepsMem, doM_keepsMem (fun _ ok => ok.modMe.setV.setX.retire)]

theorem execChannelChunkArrival_memOk {k} (ok : s.MemOk) : OutcomeOk (execChannelChunkArrival k s) := by
  unfold execChannelChunkArrival
  split
  exacts [.ite (.next ok) (.ite (.next ok.update) (.next ok.update.modHart)), .next ok]

/-! ## Tasks and graphs (Tasks.lean) -/

theorem State.MemOk.offerTask {k q r} (ok : s.MemOk) : (s.offerTask k q r).2.MemOk := by
  unfold State.offerTask
  dsimp only
  split
  · exact ok
  · refine .iteSnd ok ?_
    split
    exacts [ok, ok.holdTask]

theorem State.MemOk.modDisp {k f} (ok : s.MemOk) : (s.modDisp k f).MemOk :=
  ok.modCluster

theorem State.MemOk.enqueue {handle r} (ok : s.MemOk) : (s.enqueue handle r).2.MemOk := by
  unfold State.enqueue
  refine .iteSnd ok ?_
  dsimp only
  split
  exacts [ok, .iteSnd ok ok.offerTask]

theorem State.MemOk.putTask {k t} (ok : s.MemOk) : (s.putTask k t).MemOk :=
  ok.holdTask

theorem recordM_keepsMem {a} : KeepsMem (recordM a) :=
  .bind loadWords_keepsMem fun _ => .pure

theorem execSpawn_memOk {d b} (ok : s.MemOk) : OutcomeOk (execSpawn d b s) :=
  runHead_memOk ok (.ite operandM_keepsMem (.bind recordM_keepsMem fun _ => .bind drainM_keepsMem fun _ =>
    doM_keepsMem fun _ ok => ok.offerTask.setX.retire))

theorem statusM_keepsMem {a} : KeepsMem (statusM a) := by
  unfold statusM
  refine .get fun _ ok => .ite operandM_keepsMem (.ite ?_ (.ite operandM_keepsMem .pure))
  split
  exacts [.bind (.set (State.MemOk.of_eq (myPlace_keepsMem _ ok) ‹_›)) fun _ => .ite operandM_keepsMem .pure,
    .bind (.set (State.MemOk.of_eq (myPlace_keepsMem _ ok) ‹_›)) fun _ => .throw,
    .bind (.set (State.MemOk.of_eq (myPlace_keepsMem _ ok) ‹_›)) fun _ => operandM_keepsMem]

theorem execEnq_memOk {h mc st b} (ok : s.MemOk) : OutcomeOk (execEnq h mc st b s) :=
  runHead_memOk ok (.bind statusM_keepsMem fun _ => .ite operandM_keepsMem
    (.bind recordM_keepsMem fun _ => .bind drainM_keepsMem fun _ => .get fun _ ok => .ite parkM_keepsMem
    (.set ok.send.retire)))

theorem patchM_keepsMem {a} : KeepsMem (patchM a) :=
  .ite .pure (.ite operandM_keepsMem (.bind loadWords_keepsMem fun _ => .ite .pure
    (.bind loadWords_keepsMem fun _ => .pure)))

theorem execLaunchg_memOk {st mc p g} (ok : s.MemOk) : OutcomeOk (execLaunchg st mc p g s) :=
  runHead_memOk ok (.bind statusM_keepsMem fun _ => .bind patchM_keepsMem fun _ => .bind drainM_keepsMem fun _ =>
    .get fun _ ok => .ite parkM_keepsMem (.set ok.send.retire))

theorem execEnqArrival_memOk {k} (ok : s.MemOk) : OutcomeOk (execEnqArrival k s) := by
  unfold execEnqArrival
  split
  exacts [.next ok.update.enqueue.send, .next ok]

theorem execEnqReply_memOk {k} (ok : s.MemOk) : OutcomeOk (execEnqReply k s) := by
  unfold execEnqReply
  split
  · refine .ite (.next ok.update) ?_
    split
    exacts [.next (ok.partyWaits.of_eq ‹_›), .next (ok.partyWaits.of_eq ‹_›).update.engineWrite.bumpCounter]
  · exact .next ok

theorem State.MemOk.someCluster {r} (ok : s.MemOk) : (s.someCluster r).2.MemOk :=
  ok.choose

theorem State.MemOk.readyGraphTasks {g l} (ok : s.MemOk) : (s.readyGraphTasks g l).MemOk :=
  .foldl (fun _ _ ok => ok.someCluster.choose.putTask) ok

theorem State.MemOk.takeArea {n a : Nat} (ok : s.MemOk) (e : s.takeArea n = some (a, t)) : t.MemOk := by
  unfold State.takeArea at e
  obtain ⟨i, -, e⟩ := Option.map_eq_some_iff.1 e
  cases e
  exact .modDev ok.update fun _ => rfl

/-- By the recursion of the definition: its equations cannot be derived, as that would run the search for a free area. -/
theorem State.MemOk.mapFrom {va entry n node} (ok : s.MemOk) : SomeOk (mapFrom va entry n node s) := by
  delta Machine.mapFrom
  refine brecOn_induction (P := fun _ (f : Nat → State → Option State) => ∀ node s, s.MemOk → SomeOk (f node s))
    (fun b node s ok => ?_) (fun n b ih node s ok => ?_) n node s ok
  all_goals
    delta mapFrom._f
    dsimp only
  · exact .ite .none (.some ok.engineWrite)
  · refine .ite .none (.ite ?_ (.ite .none (ih _ _ ok.engineRead)))
    split
    · exact .none
    · exact ih _ _ (ok.engineRead.takeArea ‹_›).engineWrite.engineWrite

theorem State.MemOk.mapNew {area page} (ok : s.MemOk) : SomeOk (s.mapNew area page) := by
  unfold State.mapNew
  split
  exacts [(ok.lookup.of_eq ‹_›).mapFrom, .none]

theorem State.MemOk.placeCopy {params} (ok : s.MemOk) : (s.placeCopy params).2.MemOk := by
  unfold State.placeCopy
  split
  · exact ok
  · have taken := ok.takeArea ‹_›
    dsimp only
    split
    exacts [taken.engineWrite, (State.MemOk.mapNew taken.engineWrite.update).getD taken.engineWrite]

theorem State.MemOk.startInstance {graph g params} (ok : s.MemOk) :
    (s.startInstance graph g params).MemOk := by
  unfold State.startInstance
  have copied := ok.placeCopy (params := params)
  generalize s.placeCopy params = p at copied ⊢
  exact .readyGraphTasks (.modDev copied fun _ => rfl)

theorem State.MemOk.launchGraph {handle patch} (ok : s.MemOk) : (s.launchGraph handle patch).2.MemOk := by
  unfold State.launchGraph
  dsimp only
  split
  · exact ok
  · refine .iteSnd ok (.iteSnd ok ?_)
    split
    · dsimp only
      exact .modDev ok fun _ => rfl
    · dsimp only
      exact ok.startInstance

theorem State.MemOk.startWaiting {n} (ok : s.MemOk) : (State.startWaiting n s).MemOk := by
  induction n generalizing s with
  | zero => exact ok
  | succ n ih =>
    unfold State.startWaiting
    split
    · exact ok
    · split
      · exact ok
      · refine ih ?_
        split
        exacts [.startInstance (ok.modDev fun _ => rfl), ok.modDev fun _ => rfl]

theorem State.MemOk.graphTaskDone {id task} (ok : s.MemOk) : (s.graphTaskDone id task).MemOk := by
  unfold State.graphTaskDone
  split
  exacts [ok, .startWaiting (.readyGraphTasks (ok.modDev fun _ => rfl))]

theorem execLaunchgArrival_memOk {k} (ok : s.MemOk) : OutcomeOk (execLaunchgArrival k s) := by
  unfold execLaunchgArrival
  split
  exacts [.next (.send (.iteSnd ok.update ok.update.launchGraph)), .next ok]

theorem State.MemOk.startTask {c t} (ok : s.MemOk) : (s.startTask c t).MemOk :=
  .ite (.startCompanion (.modHart (.ite ok.modHart.modHart.startCompanion ok.modHart)))
    (.ite ok.modHart.modHart.startCompanion ok.modHart)

theorem execTaskDispatch_memOk {core} (ok : s.MemOk) : OutcomeOk (execTaskDispatch core s) := by
  unfold execTaskDispatch
  refine .ite (.next ok) ?_
  dsimp only
  split
  exacts [.next ok, .next ok.modDisp.startTask]

theorem execTaskLimitExpiry_memOk {core} (ok : s.MemOk) : OutcomeOk (execTaskLimitExpiry core s) := by
  unfold execTaskLimitExpiry
  dsimp only
  split
  exacts [.ite (.next ok) (.next ok.modHart), .next ok]

theorem State.MemOk.endRuns {c} (ok : s.MemOk) : (s.endRuns c).MemOk := by
  unfold State.endRuns
  refine .stopCompanion (.stopCompanion ?_)
  refine .modHart (.foldl (fun _ _ ok => ?_) ok)
  split
  exacts [ok.fenceBySelf, ok]

theorem execTaskend_memOk (ok : s.MemOk) : OutcomeOk (execTaskend s) :=
  runHead_memOk ok (.get fun _ ok => .ite illegalM_keepsMem
    (.ite (.set ok.countHead.modMe) (.when (.set ok.endRuns) fun _ => parkM_keepsMem)))

theorem State.MemOk.clearTrapped {h} (ok : s.MemOk) : (s.clearTrapped h).MemOk :=
  ok.modHart

theorem State.MemOk.disableQueues {c} (ok : s.MemOk) : (s.disableQueues c).MemOk :=
  .foldl (fun _ _ ok => .ite ok.setQctl.dropQueue ok) ok

theorem State.MemOk.finishTask {t} (ok : s.MemOk) : (s.finishTask t).MemOk := by
  unfold State.finishTask
  refine .notifyDone ?_
  split
  exacts [ok.graphTaskDone, ok]

theorem execTaskRetirement_memOk {core} (ok : s.MemOk) : OutcomeOk (execTaskRetirement core s) := by
  unfold execTaskRetirement
  refine .ite (.next ok) (.next ?_)
  split
  exacts [.finishTask (.modHart (.foldl (fun _ _ ok => ok.modStream)
    (ok.asHart fun _ ok => ok.countHead.endSearch).clearTrapped.clearTrapped.disableQueues)),
    .modHart (.foldl (fun _ _ ok => ok.modStream) (ok.asHart fun _ ok =>
      ok.countHead.endSearch).clearTrapped.clearTrapped.disableQueues)]

theorem execStealProbe_memOk {cluster} (ok : s.MemOk) : OutcomeOk (execStealProbe cluster s) := by
  unfold execStealProbe
  dsimp only
  refine .ite (.next ok) (.ite (.next ok.modDisp) ?_)
  split
  · exact .next ok.modDisp.send
  · refine .ite (.next ok) ?_
    split
    exacts [.next ok, .next ok.modDisp.send]

theorem execStealProbeAnswer_memOk {k} (ok : s.MemOk) : OutcomeOk (execStealProbeAnswer k s) := by
  unfold execStealProbeAnswer
  split
  · refine .ite (.next ok.update) ?_
    split
    exacts [.next ok.update, .next ok.update.modDisp.send]
  · exact .next ok

theorem execStolenTaskArrival_memOk {k} (ok : s.MemOk) : OutcomeOk (execStolenTaskArrival k s) := by
  unfold execStolenTaskArrival
  split
  exacts [.next (.ite ok.update.putTask ok), .next ok]

/-! ## The device's own steps (Events.lean) -/

theorem execHartHalt_memOk {h} (ok : s.MemOk) : OutcomeOk (execHartHalt h s) :=
  .next (.ite ok.haltHart ok)

theorem execHartRelease_memOk {h} (ok : s.MemOk) : OutcomeOk (execHartRelease h s) :=
  .next (.ite ok.releaseHart ok)

theorem execHartWindowRegisterAccess_memOk {h offset store} (ok : s.MemOk) :
    OutcomeOk (execHartWindowRegisterAccess h offset store s) := by
  unfold execHartWindowRegisterAccess
  split
  exacts [.next (.ite ok.windowWrite ok), .next ok]

theorem State.MemOk.coreWrite {c num v} (ok : s.MemOk) : (s.coreWrite c num v).MemOk := by
  unfold State.coreWrite
  refine .ite ok ?_
  split
  exacts [ok.crWrite.of_eq ‹_›, .ite ok.trapMain ok]

theorem execQueueDisable_memOk {core q} (ok : s.MemOk) : OutcomeOk (execQueueDisable core q s) :=
  .next (.ite ok.coreWrite ok)

theorem execControlRegisterWrite_memOk {h num val} (ok : s.MemOk) :
    OutcomeOk (execControlRegisterWrite h num val s) :=
  .next (.ite ok.windowWrite ok)

theorem execServiceCoreStart_memOk {i} (ok : s.MemOk) : OutcomeOk (execServiceCoreStart i s) :=
  .ite (.next ok.update.modHart) (.next ok)

theorem execPageWalk_memOk {h va} (ok : s.MemOk) : OutcomeOk (execPageWalk h va s) := by
  unfold execPageWalk
  refine .ite (.next ok) ?_
  split
  exacts [.next (ok.lookup.of_eq ‹_›).machineCheck, .next (ok.lookup.of_eq ‹_›)]

theorem execLoftWriteBack_memOk {cluster block} (ok : s.MemOk) : OutcomeOk (execLoftWriteBack cluster block s) :=
  .ite (.next ok.writeBack.modLoft) (.next ok)

theorem execDecodeAhead_memOk {cluster reader block} (ok : s.MemOk) :
    OutcomeOk (execDecodeAhead cluster reader block s) :=
  .ite (.next ok) (.next (.foldl (fun _ _ ok => ok.fillL2) ok))

theorem execDecodeAheadPlaceExpiry_memOk {cluster place} (ok : s.MemOk) :
    OutcomeOk (execDecodeAheadPlaceExpiry cluster place s) := by
  unfold execDecodeAheadPlaceExpiry
  split
  exacts [.ite (.next ok.modLoft) (.next ok), .next ok]

theorem execLinkReplay_memOk {link} (ok : s.MemOk) : OutcomeOk (execLinkReplay link s) := by
  unfold execLinkReplay
  dsimp only
  split
  exacts [.next ok.update.modDie, .next ok.update]

theorem execScopeMissHold_memOk {h unit} (ok : s.MemOk) : OutcomeOk (execScopeMissHold h unit s) := by
  unfold execScopeMissHold
  split
  exacts [.next (.ite ok.holdAcquire ok), .next ok]

theorem execCompanionScopeMiss_memOk {h} (ok : s.MemOk) : OutcomeOk (execCompanionScopeMiss h s) := by
  unfold execCompanionScopeMiss
  refine .ite (.next ok) ?_
  split
  · refine .next ?_
    split
    exacts [.ite ok.podFence.modHart (.ite ok.podFence.modHart.update ok.podFence), ok.podFence.modHart]
  · exact .next ok

theorem execScopeMissLift_memOk {unit} (ok : s.MemOk) : OutcomeOk (execScopeMissLift unit s) := by
  unfold execScopeMissLift
  split
  exacts [.next (.ite (.liftHold (.ite ok.podFence ok)) (.ite ok.podFence ok)), .next ok]

theorem execMessageDelivery_memOk {k} (ok : s.MemOk) : OutcomeOk (execMessageDelivery k s) := by
  unfold execMessageDelivery
  split
  · refine .ite (.next ok) (.ite (.next ok.update) ?_)
    split
    exacts [.next (ok.partyWaits.of_eq ‹_›), .next (ok.partyWaits.of_eq ‹_›).update.engineWrite.bumpCounter]
  · exact .next ok

theorem State.MemOk.wake {h handler} (ok : s.MemOk) : (s.wake h handler).MemOk :=
  ok.update

theorem execParkWake_memOk {h handler} (ok : s.MemOk) : OutcomeOk (execParkWake h handler s) :=
  .next (.ite ok.wake ok)

theorem State.MemOk.expire {h handler why} (ok : s.MemOk) : (s.expire h handler why).MemOk := by
  unfold State.expire
  split
  exacts [.ite ok.wake ok, ok]

theorem execInterruptTaken_memOk {h} (ok : s.MemOk) : OutcomeOk (execInterruptTaken h s) :=
  .next (.ite ok.takeInterrupt ok)

theorem execUserCompletionInterrupt_memOk {core} (ok : s.MemOk) : OutcomeOk (execUserCompletionInterrupt core s) :=
  .next (.ite ok.takeUserEvent ok)

theorem execServiceInterrupt_memOk {core code} (ok : s.MemOk) : OutcomeOk (execServiceInterrupt core code s) :=
  .next (.ite ok.modHart ok)

theorem execCoreFence_memOk {core} (ok : s.MemOk) : OutcomeOk (execCoreFence core s) :=
  .next (.ite ok.fenceHart ok)

theorem State.MemOk.joinQueue {j q l} (ok : s.MemOk) : (s.joinQueue j q l).MemOk :=
  .foldl (fun _ _ ok => ok.holdTask) ok

theorem State.MemOk.moveQueue {k j q} (ok : s.MemOk) : (s.moveQueue k j q).MemOk := by
  unfold State.moveQueue
  split
  · exact ok
  · dsimp only
    split
    exacts [ok, ok.choose.modDisp.modDisp.joinQueue.modDie]

theorem State.MemOk.moveDefault {k j q} (ok : s.MemOk) : (s.moveDefault k j q).MemOk := by
  unfold State.moveDefault
  exact ok.modDisp.joinQueue.modDie

theorem State.MemOk.fenceCluster {k} (ok : s.MemOk) : (s.fenceCluster k).MemOk := by
  unfold State.fenceCluster
  refine .ite ok ?_
  dsimp only
  split
  exacts [.logEvent (.foldl (fun _ _ ok => ok.fenceHart) (.foldl (fun _ _ ok => ok.modSys) ok.modCluster)),
    .foldl (fun _ _ ok => ok.moveQueue) (.foldl (fun _ _ ok => ok.moveDefault)
      (.logEvent (.foldl (fun _ _ ok => ok.fenceHart) (.foldl (fun _ _ ok => ok.modSys) ok.modCluster))))]

theorem execClusterFence_memOk {cluster} (ok : s.MemOk) : OutcomeOk (execClusterFence cluster s) :=
  .next (.ite ok.fenceCluster ok)

theorem execWearUpdate_memOk {cluster val} (ok : s.MemOk) : OutcomeOk (execWearUpdate cluster val s) :=
  .ite (.next ok) (.next (.ite ok.modCluster.fenceCluster ok.modCluster))

theorem State.MemOk.recover (ok : s.MemOk) : (s.recover).MemOk := by
  unfold State.recover
  exact .modDev (.foldl (fun _ _ ok => ok.haltHart) ok) fun _ => rfl

theorem State.MemOk.stopOthers (ok : s.MemOk) : (s.stopOthers).MemOk :=
  ok.modDev fun _ => rfl

theorem execDieFailure_memOk {die} (ok : s.MemOk) : OutcomeOk (execDieFailure die s) :=
  .next (.ite ok.logEvent.stopOthers.recover ok)

theorem execRecoveryStopMessage_memOk (ok : s.MemOk) : OutcomeOk (execRecoveryStopMessage s) :=
  .next ok.recover

/-! ## Service requests and the pod (Service.lean) -/

theorem State.MemOk.modEndpoint {ep f} (ok : s.MemOk) : (s.modEndpoint ep f).MemOk :=
  ok.modDev fun _ => rfl

theorem State.MemOk.say {ep d} (ok : s.MemOk) : (s.say ep d).MemOk :=
  ok.modDev fun _ => rfl

theorem State.MemOk.record {ep code seq job status payload} (ok : s.MemOk) :
    (s.record ep code seq job status payload).MemOk :=
  ok.modEndpoint.say

theorem State.MemOk.answerTo {r status payload} (ok : s.MemOk) : (s.answerTo r status payload).MemOk :=
  ok.record

theorem State.MemOk.keepAt {r body l moved} (ok : s.MemOk) : (s.keepAt r body l moved).MemOk :=
  ok.modEndpoint

theorem State.MemOk.portError {port} (ok : s.MemOk) : (s.portError port).MemOk :=
  ok.modDev fun _ => rfl

theorem State.MemOk.request {body r rom n wrong effect} (ok : s.MemOk) (he : ∀ s, s.MemOk → (effect s).MemOk) :
    (s.request body r rom n wrong effect).MemOk := by
  unfold State.request
  dsimp only
  refine .ite ok.portError ?_
  split
  exacts [ok.say, .ite ok (.ite (he s ok) ok.say),
    .ite ok (.ite ok.say (.ite ok.answerTo (.ite (.ite (he s ok) ok.answerTo)
      (.ite ok.answerTo (.ite ok.answerTo (he s ok))))))]

theorem execEndpointEstablished_memOk {ep} (ok : s.MemOk) : OutcomeOk (execEndpointEstablished ep s) :=
  .next (.ite (ok.modDev fun _ => rfl) ok)

theorem execUnsupportedPacket_memOk {port} (ok : s.MemOk) : OutcomeOk (execUnsupportedPacket port s) :=
  .next (.ite ok.portError ok)

theorem State.MemOk.placeDefaults {k} (ok : s.MemOk) : (s.placeDefaults k).MemOk := by
  refine .foldl (fun s _ ok => ?_) ok
  dsimp only
  split
  exacts [(State.MemOk.takeArea ok.update ‹_›).modDisp, ok.update]

theorem State.MemOk.startImage {r} (ok : s.MemOk) : (s.startImage r).MemOk := by
  unfold State.startImage
  refine .modHart (.modDev ?_ fun _ => rfl)
  exact .foldl (fun _ _ ok => ok.placeDefaults) ok.poke

theorem State.MemOk.endCheck {r} (ok : s.MemOk) : (s.endCheck r).MemOk :=
  .answerTo (.ite (.startImage (ok.modDev fun _ => rfl)) (.wipe (.modDev (ok.modDev fun _ => rfl) fun _ => rfl)))

theorem execLoadImage_memOk {r offset data} (ok : s.MemOk) : OutcomeOk (execLoadImage r offset data s) :=
  .next (ok.request fun _ ok => .ite ok.endCheck (.ite ok.answerTo
    (.ite ok.poke.answerTo (.keepAt (ok.poke.modDev fun _ => rfl)))))

theorem execMap_memOk {r va pa len pte} (ok : s.MemOk) : OutcomeOk (execMap r va pa len pte s) := by
  refine .next (ok.request fun s ok => ?_)
  dsimp only
  split
  · rename_i e
    exact (SomeOk.of_eq (.foldlBind (fun _ _ ok => ok.mapFrom) (.some ok)) e).answerTo
  · exact ok.answerTo

theorem State.MemOk.requestSpans {acc va n} (ok : s.MemOk) : (s.requestSpans acc va n).2.2.MemOk := by
  refine List.foldlRecOn (motive := fun o : Spans × Reached × State => o.2.2.MemOk) _ _ ok fun o ok p _ => ?_
  have found {w t} (e : o.2.2.lookup 12288 o.2.2.jobRoot p.1 = (w, t)) : t.MemOk := ok.lookup.of_eq e
  dsimp only
  split
  · exact ok
  · split
    · exact ok
    · split
      · exact found ‹_›
      · exact found ‹_›
      · exact found ‹_›
      · exact found ‹_›
      · split
        exacts [found ‹_›, found ‹_›]

theorem State.MemOk.wordsNow {r l} (ok : s.MemOk) : (s.wordsNow r l).2.2.MemOk :=
  ok.choose

theorem State.MemOk.transferSpans {r acc va n} (ok : s.MemOk) : (s.transferSpans r acc va n).2.2.MemOk := by
  unfold State.transferSpans
  split
  exacts [ok, ok.requestSpans]

theorem execCopyIn_memOk {r va data} (ok : s.MemOk) : OutcomeOk (execCopyIn r va data s) := by
  unfold execCopyIn
  refine .next (ok.request fun _ ok => ?_)
  split
  · rename_i e1
    split
    · exact ok.transferSpans.of_eq₂ e1
    · exact (ok.transferSpans.of_eq₂ e1).spansWait.of_eq ‹_›
    · rename_i e4
      split
      · exact (((ok.transferSpans.of_eq₂ e1).spansWait.of_eq e4).choose.of_eq ‹_›).engineWriteSpans.answerTo
    · rename_i e6
      split
      · rename_i e7
        exact .ite (.answerTo (.foldl (fun _ _ ok => ok.engineWriteSpans)
          (((ok.transferSpans.of_eq₂ e1).spansWait.of_eq e6).wordsNow.of_eq₂ e7)))
          (.keepAt (.foldl (fun _ _ ok => ok.engineWriteSpans)
          (((ok.transferSpans.of_eq₂ e1).spansWait.of_eq e6).wordsNow.of_eq₂ e7)))

theorem State.MemOk.delivered {whom} (ok : s.MemOk) : (s.delivered whom).MemOk :=
  ok.modDev fun _ => rfl

theorem execCopyOut_memOk {r va len} (ok : s.MemOk) : OutcomeOk (execCopyOut r va len s) := by
  unfold execCopyOut
  refine .next (ok.request fun _ ok => ?_)
  split
  · exact ok.transferSpans.of_eq₂ ‹_›
  · exact (ok.transferSpans.of_eq₂ ‹_›).answerTo
  · rename_i e3
    split
    · exact (ok.transferSpans.of_eq₂ e3).spansWait.of_eq ‹_›
    · rename_i e5
      exact .ite ((ok.transferSpans.of_eq₂ e3).spansWait.of_eq e5).answerTo
        (.ite (.answerTo (.delivered (.foldlSnd (fun _ _ ok => ok.engineReadSpans)
        ((ok.transferSpans.of_eq₂ e3).spansWait.of_eq e5).wordsNow)))
        (.keepAt (.foldlSnd (fun _ _ ok => ok.engineReadSpans)
        ((ok.transferSpans.of_eq₂ e3).spansWait.of_eq e5).wordsNow)))

theorem execLaunch_memOk {r handle patch} (ok : s.MemOk) : OutcomeOk (execLaunch r handle patch s) :=
  .next (ok.request fun _ ok => ok.launchGraph.answerTo)

theorem execGraphCapture_memOk {r g} (ok : s.MemOk) : OutcomeOk (execGraphCapture r g s) := by
  unfold execGraphCapture
  dsimp only
  exact .next (ok.request fun _ ok => .ite ok.choose.update.answerTo
    (.answerTo (ok.choose.update.modDev fun _ => rfl)))

theorem State.MemOk.editGraph {r handle busy f} (ok : s.MemOk) : (s.editGraph r handle busy f).MemOk := by
  unfold State.editGraph
  split
  exacts [ok.answerTo, .ite ok.answerTo (.answerTo (ok.modDev fun _ => rfl))]

theorem execQueueCreate_memOk {r handle ovAddr ovSize stealable} (ok : s.MemOk) :
    OutcomeOk (execQueueCreate r handle ovAddr ovSize stealable s) :=
  .next (ok.request fun _ ok => .ite ok.answerTo (.ite ok.answerTo ok.modDisp.answerTo))

theorem State.MemOk.onQueue {r handle f} (ok : s.MemOk) (hf : ∀ s k q tq, s.MemOk → (f s k q tq).MemOk) :
    (s.onQueue r handle f).MemOk := by
  unfold State.onQueue
  dsimp only
  split
  exacts [.ite (hf _ _ _ _ ok) ok.answerTo, ok.answerTo]

theorem execQueryIdentity_memOk {r nonce} (ok : s.MemOk) : OutcomeOk (execQueryIdentity r nonce s) :=
  .next (ok.request fun _ ok => ok.answerTo)

theorem execQueryFences_memOk {r} (ok : s.MemOk) : OutcomeOk (execQueryFences r s) :=
  .next (ok.request fun _ ok => ok.answerTo)

theorem execQueryEventCount_memOk {r} (ok : s.MemOk) : OutcomeOk (execQueryEventCount r s) :=
  .next (ok.request fun _ ok => ok.answerTo)

theorem execQueryPortErrors_memOk {r} (ok : s.MemOk) : OutcomeOk (execQueryPortErrors r s) :=
  .next (ok.request fun _ ok => ok.answerTo)

theorem execEvents_memOk {r first} (ok : s.MemOk) : OutcomeOk (execEvents r first s) :=
  .next (ok.request fun _ ok => ok.answerTo)

theorem State.MemOk.parkAll {park} (ok : s.MemOk) : (s.parkAll park).MemOk :=
  .foldl (fun _ _ ok => ok.writePreempt) ok

theorem execCheckpoint_memOk {r tier addr} (ok : s.MemOk) : OutcomeOk (execCheckpoint r tier addr s) :=
  .next (ok.request fun _ ok => ok.parkAll.modDev fun _ => rfl)

theorem State.MemOk.unparkTo {was} (ok : s.MemOk) : (s.unparkTo was).MemOk :=
  .foldl (fun _ _ ok => ok.modSys) ok

theorem execRestore_memOk {r tier addr} (ok : s.MemOk) : OutcomeOk (execRestore r tier addr s) :=
  .next (ok.request fun _ ok => .ite ok.answerTo (ok.parkAll.modDev fun _ => rfl))

theorem State.MemOk.flushLofts (ok : s.MemOk) : (s.flushLofts).MemOk :=
  .foldl (fun _ _ ok => .foldl (fun _ _ ok => ok.readRaw) (.foldl (fun _ _ ok => ok.writeBack) ok)) ok

theorem State.MemOk.flushAll (ok : s.MemOk) : (s.flushAll).MemOk :=
  .flushLofts (.foldl (fun _ _ ok => ok.modDie) (.foldl (fun _ _ ok => ok.applyEntries) ok))

theorem State.MemOk.recordTier {ep code seq status payload} (ok : s.MemOk) :
    (s.recordTier ep code seq status payload).MemOk := by
  unfold State.recordTier
  split
  exacts [ok.record, ok]

/-- A checkpoint adds one image, which is a canonical list, and may drop others. -/
theorem State.MemOk.addImage {p} {i : Word × Word × TierImage} (ok : s.MemOk)
    (image : Memory.wf i.2.2.mem = true) :
    (s.modDev fun d => { d with tier := d.tier.filter p ++ [i] }).MemOk := by
  refine ⟨ok.mem, fun e he => ?_⟩
  obtain he | he := List.mem_append.1 he
  · exact ok.tier e (List.mem_filter.1 he).1
  · rw [List.mem_singleton.1 he]
    exact image

theorem execCheckpointComplete_memOk (ok : s.MemOk) : OutcomeOk (execCheckpointComplete s) := by
  unfold execCheckpointComplete
  split
  · have flushed := ok.flushAll
    generalize s.flushAll = u at flushed ⊢
    have parked : (u.modDev fun d => { d with tierOp := none }).MemOk := .modDev flushed fun _ => rfl
    refine .ite (.next ok) (.ite (.next parked.unparkTo.recordTier) (.next (.recordTier ?_)))
    exact .addImage parked (Memory.wf_filter _ parked.mem)
  · exact .next ok

theorem State.MemOk.remapLofts (ok : s.MemOk) : (s.remapLofts).MemOk :=
  .foldl (fun _ _ ok => ok.writeBack) (.foldl (fun _ _ ok => ok.modLoft) ok)

theorem State.MemOk.putImage {i} (ok : s.MemOk) : (s.putImage i).MemOk :=
  .remapLofts (.update (.foldl (fun _ _ ok => ok.poke) ok.flushAll.wipe))

theorem State.MemOk.unparkAll (ok : s.MemOk) : (s.unparkAll).MemOk :=
  .foldl (fun _ _ ok => ok.releaseHart) ok.parkAll

theorem State.MemOk.relaunch (ok : s.MemOk) : (s.relaunch).MemOk := by
  unfold State.relaunch
  refine .foldl (fun _ _ ok => ?_) (.modDev (.foldl (fun _ _ ok => ok.modDisp) ok) fun _ => rfl)
  split
  exacts [ok.startInstance, ok]

theorem execRestoreComplete_memOk (ok : s.MemOk) : OutcomeOk (execRestoreComplete s) := by
  unfold execRestoreComplete
  dsimp only
  split
  · split
    · refine .next (.recordTier ?_)
      split
      exacts [ok.putImage.unparkAll.modDev fun _ => rfl, ok]
    · exact .next ok
  · refine .next (.relaunch ?_)
    split
    exacts [ok.putImage.unparkAll.modDev fun _ => rfl, ok]
  · exact .next ok

theorem execPodJoin_memOk {r n m endpoints} (ok : s.MemOk) : OutcomeOk (execPodJoin r n m endpoints s) :=
  .next (ok.request fun _ ok => .ite ok.answerTo (.answerTo (ok.modDev fun _ => rfl)))

theorem State.MemOk.reportedPart (ok : s.MemOk) : (s.reportedPart).2.MemOk := by
  unfold State.reportedPart
  exact ok.choose.update

theorem execFenceMessage_memOk {sender} (ok : s.MemOk) : OutcomeOk (execFenceMessage sender s) :=
  .ite (.next ok) (.next (ok.reportedPart.modDev fun _ => rfl))

theorem execFenceAcknowledgement_memOk {sender} (ok : s.MemOk) : OutcomeOk (execFenceAcknowledgement sender s) :=
  .next (ok.modDev fun _ => rfl)

theorem State.MemOk.answerSteal {j} (ok : s.MemOk) : (s.answerSteal j).MemOk :=
  .delivered (.modDev (.foldl (fun _ _ ok => ok.modDisp) ok) fun _ => rfl)

theorem State.MemOk.answerRequests {l p} (ok : s.MemOk) : (answerRequests l p s).2.MemOk := by
  induction l generalizing s p with
  | nil => exact ok
  | cons j r ih =>
    unfold Machine.answerRequests
    split
    · split
      exacts [ih ok.answerSteal, ih ok]
    · exact ih ok

theorem State.MemOk.forwardPass {p} (ok : s.MemOk) : (s.forwardPass p).MemOk := by
  unfold State.forwardPass
  exact ok.answerRequests.modDev fun _ => rfl

theorem execHallPass_memOk {pass} (ok : s.MemOk) : OutcomeOk (execHallPass pass s) :=
  .next (.ite ok ok.forwardPass)

theorem execHallPassRegenerate_memOk (ok : s.MemOk) : OutcomeOk (execHallPassRegenerate s) :=
  .ite (.next ok) (.next (ok.modDev fun _ => rfl))

theorem execPodTaskTransfer_memOk {records} (ok : s.MemOk) : OutcomeOk (execPodTaskTransfer records s) :=
  .next (SomeOk.getD (.foldlM (fun _ _ ok => .ite (.some ok.putTask) .none) ok) ok)

/-! ## The board (Board.lean) -/

/-- A reset drops cells, and keeps the images. -/
theorem State.MemOk.deviceReset (ok : s.MemOk) : s.deviceReset.MemOk :=
  ⟨Memory.wf_filter _ ok.flushLofts.mem, ok.flushLofts.tier⟩

theorem execDeviceReset_memOk (ok : s.MemOk) : OutcomeOk (execDeviceReset s) :=
  .next ok.deviceReset

theorem execUndervoltageReset_memOk (ok : s.MemOk) : OutcomeOk (execUndervoltageReset s) :=
  .next (.ite ok.deviceReset ok)

theorem execSensorUpdate_memOk {watts temps centivolts} (ok : s.MemOk) :
    OutcomeOk (execSensorUpdate watts temps centivolts s) :=
  .next (.ite ok ok.update)

theorem execThermalTrip_memOk (ok : s.MemOk) : OutcomeOk (execThermalTrip s) :=
  .next (.ite ok.update.deviceReset ok)

theorem State.MemOk.smbusRead {command block d} (ok : s.MemOk) : (s.smbusRead command block d).MemOk :=
  ok.update

/-! ## Control instructions (Control.lean) -/

theorem branchM_keepsMem {cond a b t w} : KeepsMem (branchM cond a b t w) :=
  .modify fun _ ok => .ite ok.goto ok.retire

theorem jumpM_keepsMem {link t w} : KeepsMem (jumpM link t w) :=
  .modify fun _ ok => .goto (.ite ok.setX ok)

theorem jumpRegM_keepsMem {link b} : KeepsMem (jumpRegM link b) :=
  .modify fun _ ok => .goto (.ite ok.setX ok)

/-! ## Scalar float instructions (FloatInstr.lean) -/

theorem scalarFloat_keepsMem {fn d dp c b} : KeepsMem (scalarFloat fn d dp c b) :=
  writeF_keepsMem

theorem scalarFused_keepsMem {fn d dp a c b} : KeepsMem (scalarFused fn d dp a c b) :=
  writeF_keepsMem

theorem scalarCompare_keepsMem {op d dp c b} : KeepsMem (scalarCompare op d dp c b) :=
  writeF_keepsMem

/-! ## Every instruction and event (Dispatch.lean) -/

/-- Instructions of one form share the lemma of the computation that gives them their meaning. -/
theorem exec_memOk {i} (ok : s.MemOk) : OutcomeOk (exec i s) := by
  cases i with
  | add | sub | and | or | xor | andn | orn | xnor | sll | srl | sra | rol | ror | slli | srli | srai | roli | rori
    | mul | mulh | mulhu | mulhsu | div | divu | rem | remu | addi | addiLong | andi | andiLong | ori | oriLong |
    xori | xoriLong | li | li32 | li64 | slt | sltu | seq | sne | slti | sltiLong | sltiu | sltiuLong | seqi |
    seqiLong | snei | sneiLong | sel | min | max | minu | maxu | clz | ctz | popc | bfxs | bfxu | bfi | bswapH |
    bswapW | bswapD | adr | adrLong | fclass | hctlSt =>
    exact runHead_memOk ok writeX_keepsMem
  | fadd | fsub | fmul | fdiv | fmin | fmax => exact runHead_memOk ok scalarFloat_keepsMem
  | fmadd | fmsub | fnmadd | fnmsub => exact runHead_memOk ok scalarFused_keepsMem
  | fsqrt | fcvt => exact runHead_memOk ok writeF_keepsMem
  | feq | flt | fle => exact runHead_memOk ok scalarCompare_keepsMem
  | bc | bcLong => exact runHead_memOk ok branchM_keepsMem
  | j | jLong | call | callLong => exact runHead_memOk ok jumpM_keepsMem
  | jr | callr | ret => exact runHead_memOk ok jumpRegM_keepsMem
  | loop => exact runHead_memOk ok (.modify fun _ ok => .ite ok.setX.goto ok.setX.retire)
  | trap => exact runHead_memOk ok .throw
  | eret => exact runHead_memOk ok (.get fun _ ok => .ite illegalM_keepsMem (.set ok.countHead.trapReturn))
  | ulret => exact runHead_memOk ok (.get fun _ ok => .ite illegalM_keepsMem (.set ok.modMe.goto))
  | hret => exact execHret_memOk ok
  | crr | crw | crs | crc => exact runHead_memOk ok crM_keepsMem
  | fence => exact execFence_memOk ok
  | fenceI => exact execFenceI_memOk ok
  | pause => exact execPause_memOk ok
  | sleep => exact runHead_memOk ok (.get fun _ ok => .ite (.set ok.retire) parkUntilM_keepsMem)
  | tlbiVa | tlbiAll | tlbiRng => exact runHead_memOk ok tlbiM_keepsMem
  | spawn => exact execSpawn_memOk ok
  | taskend => exact execTaskend_memOk ok
  | enq => exact execEnq_memOk ok
  | launchg => exact execLaunchg_memOk ok
  | msg => exact execMsg_memOk ok
  | waitc => exact runHead_memOk ok (.get fun _ ok => .ite parkUntilM_keepsMem (.set ok.setX.retire))
  | hctlHold => exact execHctlHold_memOk ok
  | hctlGo => exact runHead_memOk ok (.get fun _ ok => .ite illegalM_keepsMem (.set ok.modMe.retire))
  | vadd | vsub | vmul | vmin | vmax | vand | vor | vxor | vsll | vsrl | vsra | vabs =>
    exact vecHead_memOk ok intVector_keepsMem
  | vfadd | vfsub | vfmul | vfdiv | vfmin | vfmax => exact vecHead_memOk ok floatVector_keepsMem
  | vfabs | vfneg | vperm | vperm2 | vrev | vrot | vslide | vbcast | vbcastElement | vindex | vrcpe | vrsqe | vexpe
    =>
    exact vecHead_memOk ok elementwise_keepsMem
  | vfma | vfms | vfnma | vfnms => exact vecHead_memOk ok fusedVector_keepsMem
  | vcmp => exact predHead_memOk ok (vectorM_keepsMem fun _ _ ok => ok.setP.raiseFlags)
  | vsel | vmovv | vcompress | vexpand => exact vecHead_memOk ok (vectorM_keepsMem fun _ _ ok => ok.setV)
  | vliW | vliD | vliQ => exact vecHead_memOk ok patternM_keepsMem
  | vmovx => exact runHead_memOk ok (vectorM_keepsMem fun _ _ ok => ok.setX)
  | vred => exact runHead_memOk ok (vectorM_keepsMem fun _ _ ok => ok.setX.raiseFlags)
  | vscan | vscanx => exact vecHead_memOk ok scanVector_keepsMem
  | vtopk => exact execVtopk_memOk ok
  | vcvt => exact execVcvt_memOk ok
  | venc => exact execVenc_memOk ok
  | vdec => exact vecHead_memOk ok (.bind slotM_keepsMem fun _ => convertVector_keepsMem)
  | pand | por | pxor | pnot | pmovToPredicate => exact predHead_memOk ok (.modify fun _ ok => ok.setP.retire)
  | pmovToScalar | pcnt | pfirst => exact predHead_memOk ok writeX_keepsMem
  | ldB | ldBLong | ldBu | ldBuLong | ldH | ldHLong | ldHu | ldHuLong | ldW | ldWLong | ldWu | ldWuLong | ldD |
    ldDLong =>
    exact runHead_memOk ok loadM_keepsMem
  | stB | stBLong | stH | stHLong | stW | stWLong | stD | stDLong => exact runHead_memOk ok storeM_keepsMem
  | vld | vldLong => exact vectorMemHead_memOk ok vectorLoadM_keepsMem
  | vst | vstLong => exact vectorMemHead_memOk ok vectorStoreM_keepsMem
  | ldf | ldfC => exact runHead_memOk ok loadFullM_keepsMem
  | ste => exact execSte_memOk ok
  | clre => exact execClre_memOk ok
  | pref => exact execPref_memOk ok
  | clean | flush => exact runHead_memOk ok cleanM_keepsMem
  | strm => exact execStrm_memOk ok
  | strmoff => exact runHead_memOk ok (.modify fun _ ok => ok.modStream.retire)
  | qrd => exact execQrd_memOk ok
  | qwr => exact execQwr_memOk ok
  | qcfg => exact execQcfg_memOk ok
  | copy | gather | puts => exact runHead_memOk ok copyM_keepsMem
  | copyl => exact execCopyl_memOk ok
  | copyw | copywAll => exact runHead_memOk ok (.get fun _ ok => .ite parkM_keepsMem (.set ok.retire))
  | barr => exact execBarr_memOk ok
  | bwait => exact execBwait_memOk ok
  | rollw => exact execRollw_memOk ok
  | phase => exact runHead_memOk ok (.get fun _ ok => .ite operandM_keepsMem (.set ok.setRoll.retire))
  | amoSwap | amoCas | amoFadd => exact runHead_memOk ok amoM_keepsMem
  | regionSet => exact execRegionSet_memOk ok
  | regionOff => exact execRegionOff_memOk ok
  | regionRd => exact runHead_memOk ok (.get fun _ ok => .bind dieOperand_keepsMem fun _ => .set ok.setX.retire)
  | regionRdc => exact execRegionRdc_memOk ok
  | upd | updLong => exact runHead_memOk ok updM_keepsMem
  | updv => exact execUpdv_memOk ok
  | uflush => exact execUflush_memOk ok
  | tload | tloadLong => exact runHead_memOk ok tloadM_keepsMem
  | tstore | tstoreLong => exact runHead_memOk ok tstoreM_keepsMem
  | tzero => exact runHead_memOk ok (.get fun _ ok => .ite operandM_keepsMem (.set ok.setTile.retire))
  | tmma => exact execTmma_memOk ok
  | tmmaP => exact execTmmaP_memOk ok
  | tmmaG => exact execTmmaG_memOk ok
  | pload => exact execPload_memOk ok
  | pswap | quiz => exact runHead_memOk ok (.bind engineM_keepsMem fun _ => .get fun _ ok => submitM_keepsMem)
  | gbind => exact execGbind_memOk ok
  | gunbind => exact execGunbind_memOk ok
  | tdrain | tdrainImm => exact runHead_memOk ok tdrainM_keepsMem
  | tblld => exact execTblld_memOk ok
  | treemul | treeadd | tconv | tresume =>
    exact runHead_memOk ok (.bind (treeM_keepsMem .pure) fun _ => doM_keepsMem fun _ ok => ok.retire)
  | contract => exact execContract_memOk ok
  | tryPush => exact execTryPush_memOk ok
  | fail => exact runHead_memOk ok failM_keepsMem
  | cut => exact execCut_memOk ok
  | mark => exact runHead_memOk ok (.bind activeM_keepsMem fun _ => doM_keepsMem fun _ ok => ok.setX.retire)
  | sttB | sttBLong | sttH | sttHLong | sttW | sttWLong | sttD | sttDLong =>
    exact runHead_memOk ok storeTrailedM_keepsMem
  | steal => exact execSteal_memOk ok
  | sframe => exact execSframe_memOk ok
  | searchend => exact runHead_memOk ok (.bind activeM_keepsMem fun _ => endSearchM_keepsMem)
  | asumm => exact execAsumm_memOk ok
  | ascreen | ascreenLong => exact runHead_memOk ok ascreenM_keepsMem
  | xsend => exact execXsend_memOk ok
  | xrecv => exact execXrecv_memOk ok
  | xctlCon => exact runHead_memOk ok (.ite operandM_keepsMem (doM_keepsMem fun _ ok => ok.modMe.retire))
  | xctlDis => exact runHead_memOk ok (doM_keepsMem fun _ ok => ok.modMe.retire)
  | xctlSt => exact runHead_memOk ok (doM_keepsMem fun _ ok => ok.setX.retire)
  | nop => exact runHead_memOk ok (.modify fun _ ok => ok.retire)
  | deviceReset => exact execDeviceReset_memOk ok
  | undervoltageReset => exact execUndervoltageReset_memOk ok
  | sensorUpdate => exact execSensorUpdate_memOk ok
  | thermalTrip => exact execThermalTrip_memOk ok
  | smbusReadPower | smbusReadTemperatures | smbusReadVoltage | smbusReadWear | smbusReadBootStatus | smbusReadClock
    =>
    exact .next ok.smbusRead
  | smbusWritePowerCap | patrolScrub => exact .next (.ite ok.update ok)
  | unsupportedPacket => exact execUnsupportedPacket_memOk ok
  | linkReplay => exact execLinkReplay_memOk ok
  | loadImage => exact execLoadImage_memOk ok
  | map => exact execMap_memOk ok
  | copyIn => exact execCopyIn_memOk ok
  | copyOut => exact execCopyOut_memOk ok
  | launch => exact execLaunch_memOk ok
  | queryIdentity => exact execQueryIdentity_memOk ok
  | queryFences => exact execQueryFences_memOk ok
  | queryEventCount => exact execQueryEventCount_memOk ok
  | queryPortErrors => exact execQueryPortErrors_memOk ok
  | checkpoint => exact execCheckpoint_memOk ok
  | restore => exact execRestore_memOk ok
  | queueCreate => exact execQueueCreate_memOk ok
  | queueDestroy | queueSwapOut | queueSwapIn =>
    exact .next (ok.request fun _ ok => ok.onQueue fun _ _ _ _ ok => ok.modDisp.answerTo)
  | graphCapture =>
    unfold exec
    exact execGraphCapture_memOk ok
  | graphStructuralEdit | graphParameterEdit => exact .next (ok.request fun _ ok => ok.editGraph)
  | events => exact execEvents_memOk ok
  | podJoin => exact execPodJoin_memOk ok
  | hallPass => exact execHallPass_memOk ok
  | hallPassRegenerate => exact execHallPassRegenerate_memOk ok
  | podTaskTransfer => exact execPodTaskTransfer_memOk ok
  | fenceMessage => exact execFenceMessage_memOk ok
  | fenceAcknowledgement => exact execFenceAcknowledgement_memOk ok
  | recoveryStopMessage => exact execRecoveryStopMessage_memOk ok
  | serviceCoreStart => exact execServiceCoreStart_memOk ok
  | hartHalt => exact execHartHalt_memOk ok
  | hartRelease => exact execHartRelease_memOk ok
  | hartWindowRegisterAccess => exact execHartWindowRegisterAccess_memOk ok
  | queueEnable | companionStart | companionStop | preemptRequest | preemptCancel | streamSlotDisable |
    mailboxCounterWrite | winmapWrite | tasklimWrite =>
    exact .next ok.coreWrite
  | queueDisable => exact execQueueDisable_memOk ok
  | controlRegisterWrite => exact execControlRegisterWrite_memOk ok
  | storeBufferRetire => exact execStoreBufferRetire_memOk ok
  | updateAccepted => exact execUpdateAccepted_memOk ok
  | gutterSpill => exact execGutterSpill_memOk ok
  | registrarServe => exact execRegistrarServe_memOk ok
  | pageWalk => exact execPageWalk_memOk ok
  | loftWriteBack => exact execLoftWriteBack_memOk ok
  | decodeAhead => exact execDecodeAhead_memOk ok
  | decodeAheadPlaceExpiry => exact execDecodeAheadPlaceExpiry_memOk ok
  | scopeMissHold => exact execScopeMissHold_memOk ok
  | scopeMissRunStart => exact execScopeMissRunStart_memOk ok
  | companionScopeMiss => exact execCompanionScopeMiss_memOk ok
  | scopeMissLift => exact execScopeMissLift_memOk ok
  | drainRunStart => exact execDrainRunStart_memOk ok
  | messageDelivery => exact execMessageDelivery_memOk ok
  | parkWake => exact execParkWake_memOk ok
  | interruptTaken => exact execInterruptTaken_memOk ok
  | userCompletionInterrupt => exact execUserCompletionInterrupt_memOk ok
  | sleepLimitExpiry | pauseExpiry | waitcTimeout | bwaitTimeout => exact .next ok.expire
  | engineCommandStart => exact execEngineCommandStart_memOk ok
  | chunkRetirement => exact execChunkRetirement_memOk ok
  | matrixCommandComplete => exact execMatrixCommandComplete_memOk ok
  | operandsConsumedEvent => exact execOperandsConsumedEvent_memOk ok
  | transferComplete => exact execTransferComplete_memOk ok
  | copylRequest => exact execCopylRequest_memOk ok
  | streamRefill => exact execStreamRefill_memOk ok
  | quizProduct => exact execQuizProduct_memOk ok
  | tableInstall => exact execTableInstall_memOk ok
  | gangBindComplete => exact execGangBindComplete_memOk ok
  | gangUnbindComplete => exact execGangUnbindComplete_memOk ok
  | gangTmmaStart => exact execGangTmmaStart_memOk ok
  | thatcherStart => exact execThatcherStart_memOk ok
  | thatcherStep => exact execThatcherStep_memOk ok
  | treeComplete => exact execTreeComplete_memOk ok
  | screenerRequest => exact execScreenerRequest_memOk ok
  | theftServe => exact execTheftServe_memOk ok
  | searchCancellation => exact execSearchCancellation_memOk ok
  | searchCompletionMessage => exact execSearchCompletionMessage_memOk ok
  | channelChunkArrival => exact execChannelChunkArrival_memOk ok
  | taskDispatch => exact execTaskDispatch_memOk ok
  | taskRetirement => exact execTaskRetirement_memOk ok
  | ageLimitExpiry => exact .next ok
  | taskLimitExpiry => exact execTaskLimitExpiry_memOk ok
  | enqArrival => exact execEnqArrival_memOk ok
  | enqReply => exact execEnqReply_memOk ok
  | launchgArrival => exact execLaunchgArrival_memOk ok
  | stealProbe => exact execStealProbe_memOk ok
  | stealProbeAnswer => exact execStealProbeAnswer_memOk ok
  | stolenTaskArrival => exact execStolenTaskArrival_memOk ok
  | barrierArrivalSignal => exact execBarrierArrivalSignal_memOk ok
  | barrierRelease => exact execBarrierRelease_memOk ok
  | regionTableUpdate => exact execRegionTableUpdate_memOk ok
  | coreFence => exact execCoreFence_memOk ok
  | clusterFence => exact execClusterFence_memOk ok
  | dieFailure => exact execDieFailure_memOk ok
  | wearUpdate => exact execWearUpdate_memOk ok
  | serviceInterrupt => exact execServiceInterrupt_memOk ok
  | endpointEstablished => exact execEndpointEstablished_memOk ok
  | checkpointComplete => exact execCheckpointComplete_memOk ok
  | restoreComplete => exact execRestoreComplete_memOk ok

/-! ## A step (Step.lean) -/

theorem runFetched_memOk (ok : s.MemOk) : OutcomeOk (runFetched s) := by
  unfold runFetched
  split
  exacts [exec_memOk ((fetchInstr_keepsMem s ok).of_eq ‹_›),
    finish_memOk ((fetchInstr_keepsMem s ok).of_eq ‹_› : State.MemOk _)]

theorem hartStep_memOk (ok : s.MemOk) : OutcomeOk (hartStep s) := by
  unfold hartStep
  refine .ite .fault (.ite (.next ok) ?_)
  split
  exacts [.ite (.next ok) (runFetched_memOk ok),
    .ite (.next ok.stopCompanion) (.ite (.next ok.takeInterrupt)
      (.ite (.next ok.takeUserEvent) (runFetched_memOk ok)))]

/-- Time passes; then a hart or the device moves. -/
theorem step_memOk (ok : s.MemOk) : OutcomeOk (step s) := by
  unfold step
  split
  · exact hartStep_memOk ok.elapse
  · split
    exacts [hartStep_memOk ok.update.elapse.update, .ite (.next ok.update.elapse) (exec_memOk ok.update.elapse)]

end

/-- Settles O4: every step keeps the form, by cases on who moves and, for an instruction or event, on which it is. -/
theorem memoryFormKeptByEveryStep : Obligations.MemoryFormKeptByEveryStep := by
  intro s t ok e
  have kept := step_memOk ok
  rw [e] at kept
  exact kept

end Sys2Proof.Machine
end

section
/-! O3: what a turn does. A hart's turn at a head boundary runs the instruction of its line image, held or fetched. -/

namespace Sys2Proof.Machine

/-! ## Whose turn it is -/

theorem step_noTurns {s : State} (h : s.turns = []) : step s = hartStep (s.elapse 1 0) := by
  unfold step
  rw [h]

theorem step_hartTurn {s : State} {t : Turn} {r : List Turn} {h : Nat} {ctx : Ctx} (ht : s.turns = t :: r)
    (hm : t.move = .hart h ctx) :
    step s = hartStep { ({ s with turns := r }).elapse t.cycles t.nanos with cur := h, ctx := ctx } := by
  unfold step
  rw [ht]
  dsimp only
  rw [hm]

theorem step_eventTurn {s : State} {t : Turn} {r : List Turn} {i : Instr} (ht : s.turns = t :: r)
    (hm : t.move = .event i) :
    step s = if (encode i).isSome then .next (({ s with turns := r }).elapse t.cycles t.nanos)
      else exec i (({ s with turns := r }).elapse t.cycles t.nanos) := by
  unfold step
  rw [ht]
  dsimp only
  rw [hm]

/-! ## A head boundary -/

theorem hartStep_stopped {b : State} (hx : hartExists b.cur = true) (hr : b.canRun b.cur = false) :
    hartStep b = .next b := by
  simp [hartStep, hx, hr]

theorem hartStep_handler {b : State} (hx : hartExists b.cur = true) (hr : b.canRun b.cur = true)
    (hc : b.ctx = .handler) :
    hartStep b = if b.me.handler.run.isNone then .next b else runFetched b := by
  simp [hartStep, hx, hr, hc]

theorem hartStep_main {b : State} (hx : hartExists b.cur = true) (hr : b.canRun b.cur = true) (hc : b.ctx = .main) :
    hartStep b =
      if b.me.stopReq && !b.committed b.cur then .next (b.stopCompanion b.cur)
      else if (b.interruptFor b.cur).isSome then .next (b.takeInterrupt b.cur)
      else if (b.userEventFor b.cur).isSome then .next (b.takeUserEvent b.cur)
      else runFetched b := by
  simp [hartStep, hx, hr, hc]

/-! ## The line image -/

theorem currentImage_held {b : State} {im : LineImage} (h : b.image = some im) (ha : im.addr = lineOfPc b.pc) :
    currentImage.run b = (.ok im, b) := by
  unfold currentImage
  rw [bind_get, h]
  simp [ha, run_pure]

theorem currentImage_enters {b : State} (h : ∀ k, b.image = some k → k.addr ≠ lineOfPc b.pc) :
    currentImage.run b = (currentImage.enter (lineOfPc b.pc)).run b := by
  unfold currentImage
  rw [bind_get]
  cases e : b.image with
  | none => rfl
  | some k => simp [h k e]

/-- A line that is fetched becomes the context's image. -/
theorem currentImage_fetched {b u : State} {im : LineImage} (h : ∀ k, b.image = some k → k.addr ≠ lineOfPc b.pc)
    (hf : (fetchImage (lineOfPc b.pc)).run b = (.ok im, u)) : currentImage.run b = (.ok im, u.setImage im) := by
  rw [currentImage_enters h]
  unfold currentImage.enter
  rw [bind_ok hf, bind_modify]
  rfl

theorem currentImage_stops {b u : State} {e : Stop} (h : ∀ k, b.image = some k → k.addr ≠ lineOfPc b.pc)
    (hf : (fetchImage (lineOfPc b.pc)).run b = (.error e, u)) : currentImage.run b = (.error e, u) := by
  rw [currentImage_enters h]
  unfold currentImage.enter
  exact bind_error hf

/-! ## The instruction at the PC -/

section
variable {b u : State} {im : LineImage}

theorem fetchInstr_decoded {i : Instr} (h : currentImage.run b = (.ok im, u))
    (hd : decodeLine im.bytes (headIndex u.pc) = .ok i) : fetchInstr.run b = (.ok i, u) := by
  unfold fetchInstr
  rw [bind_ok h, bind_get, hd]
  rfl

theorem fetchInstr_badLine (h : currentImage.run b = (.ok im, u))
    (hd : decodeLine im.bytes (headIndex u.pc) = .error .lineFormat) :
    fetchInstr.run b = (.error (.trap (BitVec.ofNat 64 0x02) (lineOfPc u.pc)), u) := by
  unfold fetchInstr
  rw [bind_ok h, bind_get, hd]
  rfl

theorem fetchInstr_noInstr {e : DecodeError} (h : currentImage.run b = (.ok im, u))
    (hd : decodeLine im.bytes (headIndex u.pc) = .error e) (he : e ≠ .lineFormat) :
    fetchInstr.run b =
      (.error (.trap (BitVec.ofNat 64 0x03) (BitVec.ofNat 64 (lineHead im.bytes (headIndex u.pc)))), u) := by
  unfold fetchInstr
  rw [bind_ok h, bind_get, hd]
  cases e with
  | lineFormat => exact absurd rfl he
  | reservedEncoding | reservedBits | reservedCombination => rfl

theorem runFetched_of_ok {i : Instr} (h : fetchInstr.run b = (.ok i, u)) : runFetched b = exec i u := by
  unfold runFetched
  rw [h]

theorem runFetched_of_trap {cause v : Word} (h : fetchInstr.run b = (.error (.trap cause v), u)) :
    runFetched b = .next (u.dropReply.takeTrap cause u.pc v) := by
  unfold runFetched
  rw [h]
  rfl

theorem fetchInstr_stops {e : Stop} (h : currentImage.run b = (.error e, u)) : fetchInstr.run b = (.error e, u) :=
  bind_error h

/-- What running the image `im` in state `u` comes to: its instruction, LINE_FORMAT or ILLEGAL (R198, R200, R210). -/
structure RunsImage (o : Host.Outcome State Fault Refusal) (u : State) (im : LineImage) : Prop where
  decoded : ∀ i, decodeLine im.bytes (headIndex u.pc) = .ok i → o = exec i u
  badLine : decodeLine im.bytes (headIndex u.pc) = .error .lineFormat →
    o = .next (u.dropReply.takeTrap (BitVec.ofNat 64 0x02) u.pc (lineOfPc u.pc))
  noInstr : ∀ e, decodeLine im.bytes (headIndex u.pc) = .error e → e ≠ .lineFormat →
    o = .next (u.dropReply.takeTrap (BitVec.ofNat 64 0x03) u.pc (BitVec.ofNat 64 (lineHead im.bytes (headIndex u.pc))))

theorem runFetched_runsImage (h : currentImage.run b = (.ok im, u)) : RunsImage (runFetched b) u im where
  decoded _ hd := runFetched_of_ok (fetchInstr_decoded h hd)
  badLine hd := runFetched_of_trap (fetchInstr_badLine h hd)
  noInstr _ hd he := runFetched_of_trap (fetchInstr_noInstr h hd he)

end

/-- Settles O3: a turn is the head boundary of the hart that moves, which runs what its image decodes to. -/
theorem stepRunsDecodedInstruction : Obligations.StepRunsDecodedInstruction := by
  unfold Obligations.StepRunsDecodedInstruction
  intro acts free line outcome
  have boundary : ∀ s b, acts s b → step s = hartStep b := by
    rintro s b (⟨ht, rfl⟩ | ⟨t, r, h, ctx, ht, hm, rfl⟩)
    · exact step_noTurns ht
    · exact step_hartTurn ht hm
  have runs : ∀ s b, acts s b → free b → step s = runFetched b := by
    rintro s b ha ⟨hx, hr, hf⟩
    rw [boundary s b ha]
    cases hc : b.ctx with
    | main =>
      rw [hc] at hf
      obtain ⟨hs, hi, hu⟩ := hf
      rw [hartStep_main hx hr hc]
      cases hq : b.me.stopReq <;> simp [hi, hu, hs, hq]
    | handler =>
      rw [hc] at hf
      rw [hartStep_handler hx hr hc, if_neg]
      simpa [Option.isSome_iff_ne_none] using hf
  have ofImage : ∀ s b im u, acts s b → free b → currentImage.run b = (.ok im, u) → outcome s u im := by
    intro s b im u ha hf h
    obtain ⟨hd, hl, hn⟩ := runFetched_runsImage h
    rw [← runs s b ha hf] at hd hl hn
    exact ⟨hd, hl, hn⟩
  refine ⟨fun s b im ha hf hi hl => ofImage s b im b ha hf (currentImage_held hi hl),
    fun s b im u ha hf hi hg => ofImage s b im _ ha hf (currentImage_fetched hi hg),
    fun s b u cause v ha hf hi hg => ?_, fun s b ha hx => ?_, fun s t r i ht hm => ?_⟩
  · rw [runs s b ha hf]
    exact runFetched_of_trap (fetchInstr_stops (currentImage_stops hi hg))
  · rw [boundary s b ha]
    refine ⟨hartStep_stopped hx, fun hr hc hh => ?_, fun hr hc => ?_⟩
    · simp [hartStep_handler hx hr hc, hh]
    · rw [hartStep_main hx hr hc]
      refine ⟨fun hs hk => ?_, fun hs hi => ?_, fun hs hi hu => ?_⟩
      · simp [hs, hk]
      · simp [hs, hi]
      · simp [hs, hi, hu]
  · rw [step_eventTurn ht hm]
    exact ⟨fun he => by simp [he], fun he => by simp [he]⟩

end Sys2Proof.Machine
end

section
/-! O5: the module right after device reset. No hart and no cluster is listed then, so each is `Hart.reset` and
`Cluster.reset`, and what a context reads comes from the registers of such a hart. -/

namespace Sys2Proof.Machine

/-! ## The parts of the state after reset -/

/-- Reading a vector of equal entries, with that entry beyond its end. -/
theorem getD_getElem?_replicate {α : Type} (n k : Nat) (a : α) : ((Vector.replicate n a)[k]?).getD a = a := by
  rw [Vector.getElem?_replicate]
  split <;> rfl

@[simp] theorem State.reset_hart (h : Nat) : State.reset.hart h = Hart.reset h := rfl
@[simp] theorem State.reset_cluster (k : Nat) : State.reset.cluster k = Cluster.reset := rfl

theorem State.reset_me (h : Nat) (ctx : Ctx) : ({ State.reset with cur := h, ctx := ctx } : State).me = Hart.reset h := rfl

theorem State.reset_memOk : State.reset.MemOk where
  mem := Memory.wf_nil
  tier _ he := nomatch he

theorem State.reset_curOk : State.reset.curOk := by
  simp [State.curOk, State.reset, hartExists]

/-- No slot of a hart holds a stream (R351). -/
theorem State.reset_stream (h : Nat) (k : BitVec 2) : State.reset.stream h k = .reset := by
  simp [State.stream, Hart.reset, getD_getElem?_replicate]

/-! ## What the context of a hart reads after reset (R38, R462) -/

section
variable {s : State} {h : Nat}

theorem State.x_of_hartReset (hs : s.me = Hart.reset h) (r : BitVec 6) : s.x r = 0 := by
  unfold State.x
  rw [hs]
  split
  · rfl
  · cases s.ctx <;> exact getD_getElem?_replicate ..

theorem State.v_of_hartReset (hs : s.me = Hart.reset h) (r : BitVec 5) : s.v r = 0 := by
  unfold State.v
  rw [hs]
  cases s.ctx <;> exact getD_getElem?_replicate ..

theorem State.p_of_hartReset (hs : s.me = Hart.reset h) {r : BitVec 3} (hr : r ≠ 0) : s.p r = 0 := by
  unfold State.p
  rw [hs, if_neg hr]
  exact getD_getElem?_replicate ..

/-- The main context of a hart is in machine mode (R177). -/
theorem State.prv_of_hartReset (hs : s.me = Hart.reset h) (hc : s.ctx = .main) : s.prv = 2 := by
  unfold State.prv
  rw [hs, hc]
  have machine : bits (2 : Word) 1 0 = 2 := by decide
  exact machine

end

/-! ## Who runs after reset (R462) -/

section
variable {h : Nat}

theorem Activity.reset_companion (hk : kindOf h = 1 ∨ kindOf h = 2) : Activity.reset h = .stopped false :=
  if_pos hk

theorem Activity.reset_idle (hk : kindOf h = 0 ∨ kindOf h = 3) (hn : h ≠ 12288) : Activity.reset h = .idle := by
  have companion : ¬(kindOf h = 1 ∨ kindOf h = 2) := by omega
  exact (if_neg companion).trans (if_neg hn)

end

/-- Settles O5: the parts are those of `Hart.reset` and `Cluster.reset`, and what a context reads and who runs follow. -/
theorem resetState : Obligations.ResetState := by
  unfold Obligations.ResetState
  simp only [State.reset_hart, State.reset_cluster]
  refine ⟨State.reset_memOk, State.reset_curOk, rfl, rfl, fun h => ?_, fun h ctx => ?_, fun _ => rfl, rfl, rfl,
    fun h _ hk hn => Activity.reset_idle hk hn, fun h hk => Activity.reset_companion hk⟩
  · refine ⟨rfl, rfl, rfl, rfl, rfl, fun k => by rw [State.reset_stream]; rfl, fun n => ⟨?_, ?_⟩, fun n => ?_⟩
    all_goals exact Vector.getElem_replicate ..
  · have hs := State.reset_me h ctx
    exact ⟨State.x_of_hartReset hs, State.v_of_hartReset hs, fun _ => State.p_of_hartReset hs, State.prv_of_hartReset hs⟩

end Sys2Proof.Machine
end

section
/-! Running a meaning: the parts that the families of instructions share, each said once. A head that is accepted ends
as the run of its meaning does, and what the run came to says which of the ends of SPEC it is. -/

namespace Sys2Proof.Machine

/-! ## Parts of a computation -/

section
variable {α β : Type} {s t : State}

theorem bind_set {f : PUnit → M β} : ((set t : M PUnit) >>= f).run s = (f ⟨⟩).run t := bind_ok rfl

theorem bind_throw {e : Stop} {f : α → M β} : ((throw e : M α) >>= f).run s = (.error e, s) := bind_error rfl

theorem run_get : (get : M State).run s = (.ok s, s) := rfl

theorem run_set : (set t : M PUnit).run s = (.ok ⟨⟩, t) := rfl

theorem run_modify {g : State → State} : (modify g : M PUnit).run s = (.ok ⟨⟩, g s) := rfl

theorem run_trapM {code sub : Nat} {v : Word} :
    (trapM code sub v : M α).run s = (.error (.trap (faultCause code sub) v), s) := rfl

theorem run_illegalM {head : Nat} :
    (illegalM head : M α).run s = (.error (.trap (BitVec.ofNat 64 0x03) (BitVec.ofNat 64 head)), s) := rfl

theorem run_operandM {v : Word} : (operandM v : M α).run s = (.error (.trap (BitVec.ofNat 64 0x05) v), s) := rfl

theorem run_parkM {w : Why} : (parkM w : M α).run s = (.error (.park w none), s) := rfl

theorem run_parkUntilM {w : Why} {l : Option Nat} : (parkUntilM w l : M α).run s = (.error (.park w l), s) := rfl

end

/-! ## The ends of an accepted head -/

section
variable {a : Accept} {i : Instr} {head : Nat} {xs : List (BitVec 6)} {vs : List (BitVec 5)} {pred : BitVec 3}
  {m : M Unit} {s t : State}

/-- An accepted head ends as its meaning does. -/
theorem Accepted.exec_eq (h : Accepted a i xs vs pred s) (he : exec i s = runHead a head xs vs pred m s) :
    exec i s = finish (m.run s) := he.trans (runHead_ok h.accepts h.sees)

theorem traps_of_run {c v : Word} (he : exec i s = finish (m.run s)) (hm : m.run s = (.error (.trap c v), s)) :
    Traps i s c v := by
  unfold Traps
  rw [he, hm]
  rfl

/-- A head that traps after reads that changed the state traps from there. -/
theorem exec_trap_of_run {c v : Word} (he : exec i s = finish (m.run s)) (hm : m.run s = (.error (.trap c v), t)) :
    exec i s = .next (t.dropReply.takeTrap c t.pc v) := by
  rw [he, hm]
  rfl

@[simp] theorem State.pc_parkCtx (w : Why) (l : Option Nat) : (s.parkCtx w l).pc = s.pc := by
  unfold State.parkCtx State.pc
  cases hc : s.ctx <;> simp [hc]

/-- A context that waits is parked for that reason. -/
theorem State.parkedAs_parkCtx (w : Why) (l : Option Nat) : ((s.parkCtx w l).parkedAs w).isSome = true := by
  unfold State.parkCtx State.parkedAs
  cases hc : s.ctx <;> simp only [hc, State.modMe_ctx, State.me_modMe]
  · cases s.me.park with
    | none => simp
    | some p => by_cases hp : p.why = w <;> simp [hp]
  · cases s.me.hpark with
    | none => simp
    | some p => by_cases hp : p.why = w <;> simp [hp]

theorem waits_of_run {w : Why} {l : Option Nat} (he : exec i s = finish (m.run s))
    (hm : m.run s = (.error (.park w l), t)) (hp : t.pc = s.pc) : Waits i s w := by
  refine ⟨t.parkCtx w l, by rw [he, hm]; rfl, by simpa using hp, State.parkedAs_parkCtx w l⟩

/-- A head that has written one x register ends as heads do (R222). -/
theorem headEnds_setX {d : BitVec 6} {w : Word} (he : exec i s = .next (s.setX d w).retire) (hx : s.hasX d) :
    ∃ t, HeadEnds i s s t ∧ t.x d = (if d = 0 then 0 else w) ∧ SameBut s t [d] [] [] 0 := by
  obtain ⟨t, ht, hb⟩ := headEnds_of_retire (u := s) he (by simp) (by simp) (by simp) (by simp)
  refine ⟨t, ht, ?_, (SameBut.setX s d w hx).ended hb⟩
  rcases hb with rfl | rfl <;> simp [State.x_setX _ _ _ _ hx]

/-- Whether a head has a successor, and which, is a matter of the PC and the line (R201). -/
theorem State.flows_congr (hp : t.pc = s.pc) (hi : t.image = s.image) : t.flows ↔ s.flows := by
  simp only [State.flows, State.lineCount, State.lineFalls, hp, hi]

theorem State.linkNext_congr (hp : t.pc = s.pc) (hi : t.image = s.image) : t.linkNext = s.linkNext := by
  have count : t.lineCount = s.lineCount := by simp only [State.lineCount, hi]
  simp only [State.linkNext, count, hp]

theorem State.pc_modMe {f : Hart → Hart} (hm : (f s.me).main.pc = s.me.main.pc)
    (hh : (f s.me).handler.pc = s.me.handler.pc) : (s.modMe f).pc = s.pc := by
  simp only [State.pc, State.modMe_ctx, State.me_modMe, hm, hh]

theorem State.image_modMe {f : Hart → Hart} (hm : (f s.me).main.image = s.me.main.image)
    (hh : (f s.me).handler.image = s.me.handler.image) : (s.modMe f).image = s.image := by
  simp only [State.image, State.modMe_ctx, State.me_modMe, hm, hh]

/-- A head that leaves b ends as heads do, with everything as b has it. -/
theorem endsAs_retire {u b : State} {P : State → Prop} (he : exec i s = .next b.retire) (hp : b.pc = u.pc)
    (hi : b.image = u.image) (hc : b.me.sys.instret = u.me.sys.instret) (hP : P (b.goto b.linkNext) ∧ P b.countHead) :
    EndsAs i s u b [] [] [] 0 P :=
  endsAs_of_retire he (State.flows_congr hp hi) (State.linkNext_congr hp hi) hp hc hP (.refl b)

theorem exec_of_run (he : exec i s = finish (m.run s)) (hm : m.run s = (.ok (), t)) : exec i s = .next t := by
  rw [he, hm]
  rfl

end

end Sys2Proof.Machine
end

section
/-! Bits and fields of words, read after a write (R7). -/

namespace Sys2Proof.Machine

section
variable {v : Word} {hi lo x k : Nat}

theorem testBit_bits (i : Nat) : (bits v hi lo).testBit i = (decide (i < hi + 1 - lo) && bit v (lo + i)) := by
  unfold bits bit
  rw [Nat.testBit_mod_two_pow, Nat.testBit_div_two_pow, Nat.add_comm i lo]
  rfl

theorem bits_lt : bits v hi lo < 2 ^ (hi + 1 - lo) := Nat.mod_lt _ (Nat.two_pow_pos _)

/-- A bit of a word with a field replaced. -/
theorem bit_setBits :
    bit (setBits v hi lo x) k =
      if k < 64 ∧ lo ≤ k ∧ k < hi + 1 then x.testBit (k - lo) else bit v k := by
  unfold bit setBits
  by_cases hk : k < 64
  · simp only [BitVec.getLsbD_or, BitVec.getLsbD_and, BitVec.getLsbD_not, BitVec.getLsbD_ofNat, Nat.testBit_mul_two_pow,
      Nat.testBit_two_pow_sub_one, hk, true_and, decide_true, Bool.true_and]
    by_cases hl : lo ≤ k
    · by_cases hh : k < hi + 1
      · have : k - lo < hi + 1 - lo := by omega
        simp [hl, hh, this]
      · have : ¬ k - lo < hi + 1 - lo := by omega
        simp [hh, this]
    · simp [hl]
  · simp [hk, BitVec.getLsbD_of_ge _ k (not_lt.1 hk)]

theorem bit_setBit (hi : lo < 64) {b : Bool} : bit (setBit v lo b) k = if k = lo then b else bit v k := by
  unfold setBit
  rw [bit_setBits]
  by_cases hk : k = lo
  · subst hk
    cases b <;> simp [hi]
  · rw [if_neg (by omega), if_neg hk]

/-- The field just written. -/
theorem bits_setBits_same (h : hi < 64) (hx : x < 2 ^ (hi + 1 - lo)) : bits (setBits v hi lo x) hi lo = x := by
  refine Nat.eq_of_testBit_eq fun i => ?_
  rw [testBit_bits]
  by_cases hi' : i < hi + 1 - lo
  · rw [bit_setBits, if_pos (by omega)]
    simp [hi']
  · simp only [hi', decide_false, Bool.false_and]
    exact (Nat.testBit_lt_two_pow (hx.trans_le (Nat.pow_le_pow_right (by omega) (by omega)))).symm

/-- A field that the written one does not meet. -/
theorem bits_setBits_ne {a b : Nat} (h : a < lo ∨ hi < b) :
    bits (setBits v hi lo x) a b = bits v a b := by
  refine Nat.eq_of_testBit_eq fun i => ?_
  rw [testBit_bits, testBit_bits]
  by_cases hi' : i < a + 1 - b
  · rw [bit_setBits, if_neg (by omega)]
  · simp [hi']

theorem bits_setBit_ne {n a b : Nat} {c : Bool} (h : a < n ∨ n < b) : bits (setBit v n c) a b = bits v a b :=
  bits_setBits_ne h

/-- A low field is a mask. -/
theorem bits_low (hi : Nat) : bits v hi 0 = (v &&& BitVec.ofNat 64 (2 ^ (hi + 1) - 1)).toNat := by
  refine Nat.eq_of_testBit_eq fun i => ?_
  rw [testBit_bits, BitVec.testBit_toNat, BitVec.getLsbD_and, BitVec.getLsbD_ofNat, Nat.testBit_two_pow_sub_one]
  unfold bit
  by_cases h : i < 64
  · simp [h, Bool.and_comm]
  · simp [BitVec.getLsbD_of_ge _ i (not_lt.1 h)]

theorem bit_and {w : Word} : bit (v &&& w) k = (bit v k && bit w k) := BitVec.getLsbD_and ..
theorem bit_or {w : Word} : bit (v ||| w) k = (bit v k || bit w k) := BitVec.getLsbD_or ..
theorem bit_not (h : k < 64) : bit (~~~v) k = !bit v k := by simp [bit, h]

end

end Sys2Proof.Machine
end

section
/-! O17, O18: the control registers. What an access does is said once, by the checks that it meets in order (R35, R278
to R282). -/

namespace Sys2Proof.Machine

/-! ## What an access does -/

section
variable {fn : Nat} {d b : BitVec 6} {num : BitVec 12} {head : Nat} {s : State} {r : CrRule}

/-- The handler context does not write cr.status and the trap registers (R280). -/
abbrev State.guardsCr (s : State) (fn : Nat) (num : BitVec 12) : Prop :=
  s.ctx = .handler ∧ fn ≠ 0 ∧ 0x10 ≤ num.toNat ∧ num.toNat ≤ 0x14

/-- An access that also writes: CRS and CRC of a zero operand only read (R282). -/
abbrev State.crWrites (s : State) (fn : Nat) (b : BitVec 6) : Prop := fn = 1 ∨ (2 ≤ fn ∧ s.x b ≠ 0)

/-- A register that may not be written at all by this hart at its level (R35, R278). -/
def State.crNoWrite (s : State) (num : BitVec 12) (r : CrRule) : Prop :=
  r.write = none ∨ (∃ w, r.write = some w ∧ s.prv < w) ∨ (0x48 ≤ num.toNat ∧ num.toNat ≤ 0x4F ∧ kindOf s.cur ≠ 0)

/-- What an access of function fn writes (R282). -/
def crNew (fn : Nat) (old v : Word) : Word := if fn = 1 then v else if fn = 2 then old ||| v else old &&& ~~~v

theorem exec_crr (ha : Accepted acceptAll (.crr d num) [d] [] 0 s) :
    exec (.crr d num) s = finish ((crM 0 d num 0 (0x5280 + d.toNat)).run s) := ha.exec_eq rfl

theorem exec_crw (ha : Accepted acceptAll (.crw d num b) [d, b] [] 0 s) :
    exec (.crw d num b) s = finish ((crM 1 d num b (0x5280 + d.toNat)).run s) := ha.exec_eq rfl

theorem exec_crs (ha : Accepted acceptAll (.crs d num b) [d, b] [] 0 s) :
    exec (.crs d num b) s = finish ((crM 2 d num b (0x5280 + d.toNat)).run s) := ha.exec_eq rfl

theorem exec_crc (ha : Accepted acceptAll (.crc d num b) [d, b] [] 0 s) :
    exec (.crc d num b) s = finish ((crM 3 d num b (0x5280 + d.toNat)).run s) := ha.exec_eq rfl

theorem crM_noRule (h : crRule num.toNat = none) :
    (crM fn d num b head).run s = (.error (.trap (BitVec.ofNat 64 0x03) (BitVec.ofNat 64 head)), s) := by
  simp only [crM, bind_get, h, run_illegalM]

theorem crM_noRead (h : crRule num.toNat = some r) (hr : r.holds (kindOf s.cur) = false ∨ s.prv < r.read) :
    (crM fn d num b head).run s = (.error (.trap (BitVec.ofNat 64 0x03) (BitVec.ofNat 64 head)), s) := by
  simp only [crM, bind_get, h]
  rw [if_pos hr, run_illegalM]

theorem crM_guarded (h : crRule num.toNat = some r) (hg : s.guardsCr fn num) :
    (crM fn d num b head).run s = (.error (.trap (BitVec.ofNat 64 0x03) (BitVec.ofNat 64 head)), s) := by
  by_cases hr : r.holds (kindOf s.cur) = false ∨ s.prv < r.read
  · exact crM_noRead h hr
  · simp only [crM, bind_get, h]
    rw [if_neg hr, if_pos hg, run_illegalM]

/-- An access that only reads. -/
theorem crM_reads (h : crRule num.toNat = some r) (hh : r.holds (kindOf s.cur) = true) (hp : r.read ≤ s.prv)
    (hg : ¬ s.guardsCr fn num) (hw : ¬ s.crWrites fn b) :
    (crM fn d num b head).run s = (.ok (), (s.setX d (s.crRead s.cur s.prv num.toNat)).retire) := by
  simp only [crM, bind_get, h]
  rw [if_neg (by simp [hh, hp]), if_neg hg, if_neg hw, run_set]

theorem crM_noWrite (h : crRule num.toNat = some r) (hw : s.crWrites fn b) (hn : s.crNoWrite num r) :
    (crM fn d num b head).run s = (.error (.trap (BitVec.ofNat 64 0x03) (BitVec.ofNat 64 head)), s) := by
  by_cases hr : r.holds (kindOf s.cur) = false ∨ s.prv < r.read
  · exact crM_noRead h hr
  by_cases hg : s.guardsCr fn num
  · exact crM_guarded h hg
  simp only [crM, bind_get, h]
  rw [if_neg hr, if_neg hg, if_pos hw]
  rcases hw' : r.write with _ | w
  · exact run_illegalM
  · refine (congrArg (fun m : M Unit => m.run s) (if_pos ?_)).trans run_illegalM
    rcases hn with hn | ⟨v, hv, hlt⟩ | hq
    · simp [hn] at hw'
    · exact .inl (by simp_all)
    · exact .inr hq

section
variable {w : Nat} (h : crRule num.toNat = some r) (hh : r.holds (kindOf s.cur) = true) (hp : r.read ≤ s.prv)
  (hg : ¬ s.guardsCr fn num) (hw : s.crWrites fn b) (hr : r.write = some w) (hv : w ≤ s.prv)
  (hq : ¬ (0x48 ≤ num.toNat ∧ num.toNat ≤ 0x4F ∧ kindOf s.cur ≠ 0))
include h hh hp hg hw hr hv hq

/-- An access that writes does so by the register's own rule (R282). -/
theorem crM_writes {u : State}
    (hu : s.crWrite s.cur s.prv num.toNat (crNew fn (s.crRead s.cur s.prv num.toNat) (s.x b)) = some u) :
    (crM fn d num b head).run s = (.ok (), (u.setX d (s.crRead s.cur s.prv num.toNat)).retire) := by
  unfold crNew at hu
  simp only [crM, bind_get, h]
  rw [if_neg (by simp [hh, hp]), if_neg hg, if_pos hw]
  simp only [hr]
  rw [if_neg (by simp only [not_or, not_lt]; exact ⟨hv, hq⟩), hu]
  rfl

/-- A value that the register's own rule refuses (R282). -/
theorem crM_refused
    (hu : s.crWrite s.cur s.prv num.toNat (crNew fn (s.crRead s.cur s.prv num.toNat) (s.x b)) = none) :
    (crM fn d num b head).run s = (.error (.trap (BitVec.ofNat 64 0x05) 0), s) := by
  unfold crNew at hu
  simp only [crM, bind_get, h]
  rw [if_neg (by simp [hh, hp]), if_neg hg, if_pos hw]
  simp only [hr]
  rw [if_neg (by simp only [not_or, not_lt]; exact ⟨hv, hq⟩), hu]
  rfl

end

end

/-! ## Refusals (R35) -/

/-- Settles O18: each check that an access fails is one of the refusals of `crM`. -/
theorem controlRegisterPrivilege : Obligations.ControlRegisterPrivilege := by
  intro s num illegal noRead noWrite
  have unread (fn : Nat) (d b : BitVec 6) (h : noRead) : (crM fn d num b (0x5280 + d.toNat)).run s =
      (.error (.trap (BitVec.ofNat 64 0x03) (BitVec.ofNat 64 (0x5280 + d.toNat))), s) := by
    rcases hr : crRule num.toNat with _ | r
    · exact crM_noRule hr
    · simp only [noRead, hr] at h
      exact crM_noRead hr h
  have unwritten (fn : Nat) (d b : BitVec 6) (hw : s.crWrites fn b) (h : noWrite) :
      (crM fn d num b (0x5280 + d.toNat)).run s =
      (.error (.trap (BitVec.ofNat 64 0x03) (BitVec.ofNat 64 (0x5280 + d.toNat))), s) := by
    rcases hr : crRule num.toNat with _ | r
    · exact crM_noRule hr
    · simp only [noWrite, hr] at h
      rcases h with h | h | h
      · exact crM_noRead hr (.inl h)
      · exact crM_noRead hr (.inr h)
      · exact crM_noWrite hr hw h
  refine ⟨fun d ha h => traps_of_run (exec_crr ha) (unread 0 d 0 h),
    fun d b ha h => traps_of_run (exec_crw ha) (unwritten 1 d b (.inl rfl) h),
    fun d b ha hb h => traps_of_run (exec_crs ha) (unwritten 2 d b (.inr ⟨le_refl _, hb⟩) h),
    fun d b ha hb h => traps_of_run (exec_crc ha) (unwritten 3 d b (.inr ⟨by decide, hb⟩) h),
    fun d b ha h => traps_of_run (exec_crs ha) (unread 2 d b h),
    fun d b ha h => traps_of_run (exec_crc ha) (unread 3 d b h)⟩

/-! ## Writes of a register (R282) -/

/-- The registers whose rules may refuse a value: cr.ldctl, cr.stctl and the queue registers (R46, R48). -/
abbrev crMayRefuse (num : Nat) : Prop := num = 0x26 ∨ num = 0x29 ∨ (0x48 ≤ num ∧ num ≤ 0x4F)

/-- A write to any other register is accepted. -/
theorem State.crWrite_isSome (s : State) (h prv num : Nat) (v : Word) (hn : ¬ crMayRefuse num) :
    (s.crWrite h prv num v).isSome = true := by
  obtain ⟨h26, h29, hq⟩ : num ≠ 0x26 ∧ num ≠ 0x29 ∧ ¬ (0x48 ≤ num ∧ num ≤ 0x4F) := by simpa [crMayRefuse] using hn
  unfold State.crWrite
  rw [if_neg hq]
  split
  · rfl
  split
  · rfl
  split <;> simp_all

/-- What no write of a register by its own rule reaches, but those of cr.ldctl and cr.stctl: memory, whose turn it is,
and the contexts of the harts. -/
structure KeepsContexts (s t : State) : Prop where
  cur : t.cur = s.cur
  ctx : t.ctx = s.ctx
  mem : t.mem = s.mem
  main : ∀ j, (t.hart j).main = (s.hart j).main
  handler : ∀ j, (t.hart j).handler = (s.hart j).handler

theorem KeepsContexts.refl (s : State) : KeepsContexts s s := ⟨rfl, rfl, rfl, fun _ => rfl, fun _ => rfl⟩

theorem KeepsContexts.modHart {s : State} {h : Nat} {f : Hart → Hart} (hm : (f (s.hart h)).main = (s.hart h).main)
    (hh : (f (s.hart h)).handler = (s.hart h).handler) : KeepsContexts s (s.modHart h f) where
  cur := rfl
  ctx := rfl
  mem := rfl
  main j := by rw [State.hart_modHart]; split <;> simp_all
  handler j := by rw [State.hart_modHart]; split <;> simp_all

theorem KeepsContexts.modCluster {s : State} {k : Nat} {f : Cluster → Cluster} : KeepsContexts s (s.modCluster k f) :=
  ⟨rfl, rfl, rfl, fun _ => rfl, fun _ => rfl⟩

theorem State.crWrite_keeps {s t : State} {h prv num : Nat} {v : Word} (hn : ¬ crMayRefuse num)
    (ht : s.crWrite h prv num v = some t) : KeepsContexts s t := by
  obtain ⟨h26, h29, hq⟩ : num ≠ 0x26 ∧ num ≠ 0x29 ∧ ¬ (0x48 ≤ num ∧ num ≤ 0x4F) := by simpa [crMayRefuse] using hn
  unfold State.crWrite at ht
  rw [if_neg hq] at ht
  split at ht
  · split at ht <;> cases ht
    exacts [.refl s, .modHart rfl rfl]
  split at ht
  · cases ht
    exact .modHart rfl rfl
  split at ht
  case h_16 | h_17 => contradiction
  case h_30 => cases ht; exact .modCluster
  case h_31 =>
    cases ht
    unfold State.writePreempt
    refine .modHart ?_ ?_ <;> dsimp only <;> split <;> rfl
  case h_32 => cases ht; exact .refl s
  all_goals
    cases ht
    exact .modHart rfl rfl

/-- The PC and the line of the executing context are as they were. -/
theorem KeepsContexts.pc {s t : State} (k : KeepsContexts s t) : t.pc = s.pc := by
  simp only [State.pc, State.me, k.cur, k.ctx, k.main, k.handler]

theorem KeepsContexts.image {s t : State} (k : KeepsContexts s t) : t.image = s.image := by
  simp only [State.image, State.me, k.cur, k.ctx, k.main, k.handler]

theorem KeepsContexts.flows {s t : State} (k : KeepsContexts s t) : t.flows ↔ s.flows := State.flows_congr k.pc k.image

theorem KeepsContexts.linkNext {s t : State} (k : KeepsContexts s t) : t.linkNext = s.linkNext :=
  State.linkNext_congr k.pc k.image

/-! ## Reading what was written -/

theorem bit_statusMask (k : Nat) : bit (0x20 : Word) k = decide (k = 5) ∧
    bit (0x2460 : Word) k = decide (k = 5 ∨ k = 6 ∨ k = 10 ∨ k = 13) ∧
    bit (0x2CE0 : Word) k = decide (k = 5 ∨ k = 6 ∨ k = 7 ∨ k = 10 ∨ k = 11 ∨ k = 13) ∧
    bit (0xECE0 : Word) k = decide (k = 5 ∨ k = 6 ∨ k = 7 ∨ k = 10 ∨ k = 11 ∨ k = 13 ∨ k = 14 ∨ k = 15) := by
  by_cases h : k < 64
  · have all : ∀ k : Fin 64, bit (0x20 : Word) k = decide (k.1 = 5) ∧
        bit (0x2460 : Word) k = decide (k.1 = 5 ∨ k.1 = 6 ∨ k.1 = 10 ∨ k.1 = 13) ∧
        bit (0x2CE0 : Word) k = decide (k.1 = 5 ∨ k.1 = 6 ∨ k.1 = 7 ∨ k.1 = 10 ∨ k.1 = 11 ∨ k.1 = 13) ∧
        bit (0xECE0 : Word) k =
          decide (k.1 = 5 ∨ k.1 = 6 ∨ k.1 = 7 ∨ k.1 = 10 ∨ k.1 = 11 ∨ k.1 = 13 ∨ k.1 = 14 ∨ k.1 = 15) := by decide
    exact all ⟨k, h⟩
  · have out (w : Word) : bit w k = false := BitVec.getLsbD_of_ge w k (not_lt.1 h)
    simp only [out]
    refine ⟨?_, ?_, ?_, ?_⟩ <;> symm <;> exact decide_eq_false (by omega)

/-- A masked write. -/
theorem bit_masked {old v m : Word} {k : Nat} (h : k < 64) :
    bit ((old &&& ~~~m) ||| (v &&& m)) k = if bit m k then bit v k else bit old k := by
  rw [bit_or, bit_and, bit_and, bit_not h]
  cases bit m k <;> simp

section
variable {old v : Word} {k : Nat} (hk : k < 64)
include hk

theorem bit_statusWrite_user : bit (statusWrite 0 old v) k = if k = 5 then bit v k else bit old k := by
  rw [statusWrite, bit_masked hk, (bit_statusMask k).1]
  simp only [decide_eq_true_eq]

theorem bit_statusWrite_sup :
    bit (statusWrite 1 old v) k = if k = 5 ∨ k = 6 ∨ k = 10 ∨ k = 13 then bit v k else bit old k := by
  rw [statusWrite, bit_masked hk, (bit_statusMask k).2.1]
  simp only [decide_eq_true_eq]

theorem bit_statusWrite_mach : bit (statusWrite 2 old v) k =
    if bits v 15 14 = 3 then if k = 5 ∨ k = 6 ∨ k = 7 ∨ k = 10 ∨ k = 11 ∨ k = 13 then bit v k else bit old k
    else if k = 5 ∨ k = 6 ∨ k = 7 ∨ k = 10 ∨ k = 11 ∨ k = 13 ∨ k = 14 ∨ k = 15 then bit v k else bit old k := by
  show bit ((old &&& ~~~(if bits v 15 14 = 3 then 0x2CE0 else 0xECE0)) |||
    (v &&& if bits v 15 14 = 3 then 0x2CE0 else 0xECE0)) k = _
  obtain ⟨-, -, m2, m3⟩ := bit_statusMask k
  rw [bit_masked hk]
  split
  · simp only [m2, decide_eq_true_eq]
  · simp only [m3, decide_eq_true_eq]

end

/-- A core that holds the register itself. -/
theorem coreOf_of_kind {h : Nat} (hk : kindOf h = 0) : coreOf h = h := by
  unfold kindOf at hk
  unfold coreOf
  omega

section
variable (s : State) (h prv level num : Nat) (v : Word)

theorem State.crRead_status : s.crRead h level 0x10 = (s.hart h).traps.status := rfl
theorem State.crRead_cause : s.crRead h level 0x11 = ((s.hart h).traps.copy level).cause := rfl
theorem State.crRead_epc : s.crRead h level 0x12 = ((s.hart h).traps.copy level).epc := rfl
theorem State.crRead_tval : s.crRead h level 0x13 = ((s.hart h).traps.copy level).tval := rfl
theorem State.crRead_tvec : s.crRead h level 0x14 = ((s.hart h).traps.copy level).tvec := rfl
theorem State.crRead_winmap : s.crRead h level 0x17 = (s.hart (coreOf h)).sys.winmap := rfl
theorem State.crRead_tasklim : s.crRead h level 0x60 = (s.hart h).sys.tasklim := rfl

/-- The trap registers of a level after a write of that level's. -/
theorem State.copy_modTrap (f : TrapRegs → TrapRegs) :
    ((s.modTrap h level f).hart h).traps.copy level = f ((s.hart h).traps.copy level) := by
  simp only [State.modTrap, State.hart_modHart_same, TrapState.copy]
  split <;> rfl

theorem tasklimWrite_eq : tasklimWrite v =
    if (v &&& 0xFFFF_FFFF_FFFF).toNat < 0x1000 then 0x1000 else v &&& 0xFFFF_FFFF_FFFF := by
  unfold tasklimWrite
  rw [bits_low]
  rfl

end

/-- Settles O17: an access reads and writes by `crM`, a written register reads back by its own rule, and a write of
cr.status is one under a mask. -/
theorem controlRegisterAccess : Obligations.ControlRegisterAccess := by
  unfold Obligations.ControlRegisterAccess
  refine ⟨fun s num r hr hh hp => ?_, fun s h prv num v h1 h2 h3 => s.crWrite_isSome h prv num v (by simp [crMayRefuse, *]),
    fun s v hk => ?_, fun old v k hk => ?_⟩
  · intro old guarded mayWrite reads writes
    have readM {fn : Nat} {d b : BitVec 6} {head : Nat} (hg : ¬ s.guardsCr fn num) (hw : ¬ s.crWrites fn b) :
        (crM fn d num b head).run s = (.ok (), (s.setX d old).retire) := crM_reads hr hh hp hg hw
    have guard {fn : Nat} (hg : ¬ guarded) : ¬ s.guardsCr fn num := fun ⟨hc, _, hn⟩ => hg ⟨hc, hn⟩
    have hasX {i : Instr} {d : BitVec 6} {l : List (BitVec 6)} (ha : Accepted acceptAll i (d :: l) [] 0 s) : s.hasX d :=
      State.hasX_of_visible ha.sees List.mem_cons_self
    have writeM {fn : Nat} {d b : BitVec 6} {head : Nat} {i : Instr} {new : Word} (hm : mayWrite) (hw : s.crWrites fn b)
        (he : exec i s = finish ((crM fn d num b head).run s)) (hn : crNew fn old (s.x b) = new) : writes i d new := by
      subst hn
      obtain ⟨hg, w, hrw, hle, hq⟩ := hm
      simp only [writes]
      cases hu : s.crWrite s.cur s.prv num.toNat (crNew fn old (s.x b)) with
      | some u => exact exec_of_run he (crM_writes hr hh hp (guard hg) hw hrw hle hq hu)
      | none => exact traps_of_run he (crM_refused hr hh hp (guard hg) hw hrw hle hq hu)
    refine ⟨fun d ha => headEnds_setX (exec_of_run (exec_crr ha) (readM (fun h => h.2.1 rfl) (by simp))) (hasX ha),
      fun d b ha hg hb => headEnds_setX (exec_of_run (exec_crs ha) (readM (guard hg) (by simp [hb]))) (hasX ha),
      fun d b ha hg hb => headEnds_setX (exec_of_run (exec_crc ha) (readM (guard hg) (by simp [hb]))) (hasX ha),
      fun d b i hg hi ha => ?_,
      fun d b ha hm => writeM hm (.inl rfl) (exec_crw ha) rfl,
      fun d b ha hm hb => writeM hm (.inr ⟨le_refl _, hb⟩) (exec_crs ha) rfl,
      fun d b ha hm hb => writeM hm (.inr ⟨by decide, hb⟩) (exec_crc ha) rfl, fun hf => ?_⟩
    · obtain ⟨hc, hn⟩ := hg
      rcases hi with rfl | rfl | rfl
      · exact traps_of_run (exec_crw ha) (crM_guarded hr ⟨hc, by decide, hn⟩)
      · exact traps_of_run (exec_crs ha) (crM_guarded hr ⟨hc, by decide, hn⟩)
      · exact traps_of_run (exec_crc ha) (crM_guarded hr ⟨hc, by decide, hn⟩)
    · intro done free
      have retires {i : Instr} {d : BitVec 6} {u : State} (hx : s.hasX d) (k : KeepsContexts s u)
          (he : exec i s = .next (u.setX d old).retire) : done i d := by
        have hx' : u.hasX d := by unfold State.hasX; rw [k.ctx]; exact hx
        rw [State.retire_flows ((State.flows_setX u d old).2 (k.flows.2 hf))] at he
        exact ⟨_, he, by simp [k.linkNext], by simp [State.x_setX _ _ _ _ hx']⟩
      have written {fn : Nat} {d b : BitVec 6} {head : Nat} {i : Instr} (hx : s.hasX d) (hm : mayWrite) (hfr : free)
          (hw : s.crWrites fn b) (he : exec i s = finish ((crM fn d num b head).run s)) : done i d := by
        have hn : ¬ crMayRefuse num.toNat := hfr
        obtain ⟨u, hu⟩ := Option.isSome_iff_exists.1 (s.crWrite_isSome s.cur s.prv num.toNat (crNew fn old (s.x b)) hn)
        have hwr := writeM hm hw he rfl
        simp only [writes, hu] at hwr
        exact retires hx (State.crWrite_keeps hn hu) hwr
      have set_ {fn : Nat} {d b : BitVec 6} {head : Nat} {i : Instr} (hfn : 2 ≤ fn) (hx : s.hasX d)
          (h : (s.x b = 0 ∧ ¬ guarded) ∨ (mayWrite ∧ free)) (he : exec i s = finish ((crM fn d num b head).run s)) :
          done i d := by
        by_cases hb : s.x b = 0
        · have hg : ¬ guarded := h.elim (·.2) (·.1.1)
          refine retires hx (.refl s) (exec_of_run he (readM (guard hg) ?_))
          rintro (h1 | ⟨_, h1⟩)
          · omega
          · exact h1 hb
        · obtain ⟨hm, hfr⟩ := h.resolve_left fun h => hb h.1
          exact written hx hm hfr (.inr ⟨hfn, hb⟩) he
      exact ⟨fun d ha => retires (hasX ha) (.refl s) (exec_of_run (exec_crr ha) (readM (fun h => h.2.1 rfl) (by simp))),
        fun d b ha hm hfr => written (hasX ha) hm hfr (.inl rfl) (exec_crw ha),
        fun d b ha h => set_ (le_refl 2) (hasX ha) h (exec_crs ha),
        fun d b ha h => set_ (by decide : 2 ≤ 3) (hasX ha) h (exec_crc ha)⟩
  · have trap (num : Nat) (f : TrapRegs → TrapRegs) (g : TrapRegs → Word) (w : Word)
        (hw : s.crWrite s.cur 2 num v = some (s.modTrap s.cur 2 f))
        (hr : ∀ t : State, t.crRead s.cur 2 num = g ((t.hart s.cur).traps.copy 2))
        (hg : g (f ((s.hart s.cur).traps.copy 2)) = w) :
        ∃ t, s.crWrite s.cur 2 num v = some t ∧ t.crRead s.cur 2 num = w :=
      ⟨_, hw, by rw [hr, State.copy_modTrap, hg]⟩
    refine ⟨fun prv _ => ⟨_, rfl, ?_⟩, trap 0x14 _ (·.tvec) v rfl (fun _ => rfl) rfl,
      trap 0x12 _ (·.epc) v rfl (fun _ => rfl) rfl, trap 0x13 _ (·.tval) v rfl (fun _ => rfl) rfl,
      trap 0x11 _ (·.cause) _ rfl (fun _ => rfl) rfl, ⟨_, rfl, ?_⟩, ⟨_, rfl, ?_⟩⟩
    · rw [State.crRead_status, State.hart_modHart_same, State.crRead_status]
    · rw [State.crRead_tasklim, State.writeTasklim, State.hart_modHart_same]
      exact tasklimWrite_eq v
    · rw [State.crRead_winmap, State.crRead_winmap, State.modSys, State.hart_modHart_same]
      rfl
  · rw [bit_statusWrite_user hk, bit_statusWrite_user (k := 5) (by decide), bit_statusWrite_sup hk, bit_statusWrite_mach hk]
    refine ⟨fun h => if_neg h, if_pos rfl, fun _ _ _ _ => if_neg (by omega), fun h => if_pos h, fun h => ?_, fun h => ?_,
      fun h => ?_⟩
    all_goals by_cases hv : bits v 15 14 = 3
    · rw [if_pos hv, if_pos h]
    · rw [if_neg hv, if_pos (by omega)]
    · rw [if_pos hv, if_neg (by omega), if_pos hv]
    · rw [if_neg hv, if_pos (by omega), if_neg hv]
    · rw [if_pos hv, if_neg (by omega)]
    · rw [if_neg hv, if_neg (by omega)]

end Sys2Proof.Machine
end

section
/-! O19: fences and waits. An ordered fence turns on whether the hart's accesses are performed at its scope, which asking
other modules for it does not change (R95, R97, R459). -/

namespace Sys2Proof.Machine

/-! ## Accesses performed at a scope -/

section
variable {s : State} {sc : BitVec 3} {h : Nat}

theorem State.podFence_of_drained (hd : s.drained h sc = true) : s.podFence sc = s := by
  refine if_pos ?_
  simp only [State.drained, Bool.and_eq_true, Bool.or_eq_true, decide_eq_true_eq, List.isEmpty_iff] at hd
  exact hd.2.imp id fun h => .inl h.1

@[simp] theorem State.podFence_me : (s.podFence sc).me = s.me := by
  unfold State.podFence; split <;> rfl
@[simp] theorem State.podFence_pc : (s.podFence sc).pc = s.pc := by
  unfold State.podFence; split <;> rfl
@[simp] theorem State.podFence_cur : (s.podFence sc).cur = s.cur := by
  unfold State.podFence; split <;> rfl

/-- A fence that was not complete is not complete for having been sent on. -/
theorem State.drained_podFence (hd : s.drained h sc = false) : (s.podFence sc).drained h sc = false := by
  unfold State.podFence
  split
  · exact hd
  · simp_all [State.drained, State.msgsOut]

theorem drainM_done (hd : s.drained s.cur sc = true) : (drainM sc).run s = (.ok (), s) := by
  unfold drainM
  rw [bind_modify, State.podFence_of_drained hd, bind_get, if_pos hd, run_pure]

theorem drainM_waits (hd : s.drained s.cur sc = false) :
    (drainM sc).run s = (.error (.park .drain none), s.podFence sc) := by
  unfold drainM
  rw [bind_modify, bind_get, if_neg (by simp [State.drained_podFence hd]), run_parkM]

theorem emptyBufferM_done (hb : s.me.mem.sb = []) : emptyBufferM.run s = (.ok (), s) := by
  unfold emptyBufferM
  rw [bind_get, if_pos (by simp [hb]), run_pure]

theorem emptyBufferM_waits (hb : s.me.mem.sb ≠ []) : emptyBufferM.run s = (.error (.park .drain none), s) := by
  unfold emptyBufferM
  rw [bind_get, if_neg (by simp [hb]), run_parkM]

end

/-! ## FENCE (R99, R286) -/

section
variable {q : BitVec 8} {s : State}

theorem exec_fence_acquire (ha : Accepted acceptAll (.fence q) [] [] 0 s) (hq : qualOrd q = 1) :
    exec (.fence q) s = .next s.retire := by
  refine exec_of_run (ha.exec_eq rfl) ?_
  rw [if_neg (by simp [hq]), if_neg (by simp [hq]), run_modify]

theorem exec_fence_release (ha : Accepted acceptAll (.fence q) [] [] 0 s) (hq : qualOrd q = 2) :
    exec (.fence q) s = .next (s.pushStore (.fence (qualScope q) (s.ctx == .handler)) q false).retire := by
  refine exec_of_run (ha.exec_eq rfl) ?_
  rw [if_neg (by simp [hq]), if_pos hq, run_modify]

theorem exec_fence_ordered (ha : Accepted acceptAll (.fence q) [] [] 0 s) (hq : qualOrd q = 3)
    (hd : s.drained s.cur (qualScope q) = true) :
    exec (.fence q) s = .next (if s.ctx = .handler then s.noteFence s.cur (qualScope q) else s).retire := by
  refine exec_of_run (ha.exec_eq rfl) ?_
  rw [if_pos hq, bind_ok (drainM_done hd), run_modify]

theorem fence_waits (ha : Accepted acceptAll (.fence q) [] [] 0 s) (hq : qualOrd q = 3)
    (hd : s.drained s.cur (qualScope q) = false) : Waits (.fence q) s .drain := by
  refine waits_of_run (ha.exec_eq rfl) (t := s.podFence (qualScope q)) (l := none) ?_ (by simp)
  rw [if_pos hq, bind_error (drainM_waits hd)]

end

/-! ## PAUSE and SLEEP (R286) -/

section
variable {s : State} {w : Why} {p : Park} {l : Option Nat}

/-- A context that waited for nothing of this kind, with nothing received, waits from now on (R62). -/
theorem State.parkedAs_parkCtx_fresh (hp : s.parkedAs w = none) (hv : s.parkValue = none) :
    (s.parkCtx w l).parkedAs w = some ⟨w, s.clock, l.map (s.clock + ·), none⟩ := by
  unfold State.parkedAs at hp
  unfold State.parkValue at hv
  unfold State.parkCtx State.parkedAs
  cases hc : s.ctx <;> simp only [hc, State.modMe_ctx, State.me_modMe] at hp hv ⊢
  · cases hk : s.me.park with
    | none => simp
    | some q =>
      rw [hk] at hp hv
      simp_all
  · cases hk : s.me.hpark with
    | none => simp
    | some q =>
      rw [hk] at hp hv
      simp_all

/-- A wait whose limit has passed. -/
def State.timeUp (s : State) (w : Why) : Bool :=
  match s.parkedAs w with
  | some p => s.parkOver p
  | none => false

theorem State.timeUp_iff : s.timeUp w = true ↔ ∃ p, s.parkedAs w = some p ∧ s.parkOver p = true := by
  unfold State.timeUp
  cases s.parkedAs w <;> simp

theorem State.timeUp_eq_false : s.timeUp w = false ↔ ∀ p, s.parkedAs w = some p → s.parkOver p = false := by
  unfold State.timeUp
  cases s.parkedAs w <;> simp

end

/-- PAUSE chooses how long it holds its context (R286). -/
theorem exec_pause_new {s : State} (ha : Accepted acceptAll .pause [] [] 0 s) (hp : s.parkedAs .pause = none) :
    exec .pause s = .next (({ s with free := s.free + 1 } : State).parkCtx .pause
      (some (Config.freeNat s.free % 32 + 1))) := by
  rw [ha.exec_eq rfl, bind_get, hp]
  rfl

theorem exec_sleep {s : State} {b : BitVec 6} (ha : Accepted acceptAll (.sleep b) [b] [] 0 s) :
    exec (.sleep b) s = finish ((if s.timeUp .sleep || s.me.anyPending then set s.retire
      else parkUntilM .sleep (limitOf (s.x b)) : M Unit).run s) := ha.exec_eq rfl

/-- What a complete fence leaves noted of the run in the handler context (R102). -/
def Hart.fencedAt (h : Hart) (scope : BitVec 3) : Bool :=
  match h.handler.run with
  | some r => match r.kind with
    | .scopeMiss _ sc => h.handler.fenced || decide (sc.toNat ≤ scope.toNat)
    | .drain _ => h.handler.fenced
  | none => h.handler.fenced

theorem State.noteFence_eq (s : State) (h : Nat) (scope : BitVec 3) : s.noteFence h scope =
    s.modHart h fun t => { t with handler := { t.handler with fenced := t.fencedAt scope } } := by
  refine congrArg (s.modHart h) (funext fun t => ?_)
  unfold Hart.fencedAt
  cases t.handler.run with
  | none => rfl
  | some r =>
    obtain ⟨kind⟩ := r
    cases kind <;> rfl

/-! ## FENCE.I (R204, R286) -/

@[simp] theorem State.dropImages_me (s : State) : s.dropImages.me =
    { s.me with main := { s.me.main with image := none }, handler := { s.me.handler with image := none }
                mem := { s.me.mem with since := s.past.length } } := State.me_modMe ..

@[simp] theorem State.x_dropImages (s : State) (r : BitVec 6) : s.dropImages.x r = s.x r := by
  unfold State.x
  rw [State.dropImages_me]
  rfl

@[simp] theorem State.v_dropImages (s : State) (r : BitVec 5) : s.dropImages.v r = s.v r := by
  unfold State.v
  rw [State.dropImages_me]
  rfl

@[simp] theorem State.p_dropImages (s : State) (r : BitVec 3) : s.dropImages.p r = s.p r := by
  unfold State.p
  rw [State.dropImages_me]

@[simp] theorem State.pc_dropImages (s : State) : s.dropImages.pc = s.pc := State.pc_modMe rfl rfl

theorem State.dropImages_hart_ne (s : State) (j : Nat) (h : j ≠ s.cur) : s.dropImages.hart j = s.hart j :=
  State.hart_modMe_ne _ _ _ h

theorem State.dropImages_image (s : State) : s.dropImages.image = none := by
  unfold State.image
  split <;> simp

/-- Discarding the images on both sides of a frame. -/
theorem SameBut.dropImages {s t : State} {xs : List (BitVec 6)} {vs : List (BitVec 5)} {ps : List (BitVec 3)}
    {fl : BitVec 5} (h : SameBut s t xs vs ps fl) : SameBut s.dropImages t.dropImages xs vs ps fl where
  x := by simpa using h.x
  v := by simpa using h.v
  p := by simpa using h.p
  fflags := by simpa using h.fflags
  sys := by simpa using h.sys
  traps := by simpa using h.traps
  mainCtx hc := by simp [h.mainCtx hc]
  handlerCtx hc := by simp [h.handlerCtx hc]
  mat := by simpa using h.mat
  tree := by simpa using h.tree
  e := by simpa using h.e
  tiles := by simpa using h.tiles
  tables := by simpa using h.tables
  mc := by simpa using h.mc
  queues := by simpa using h.queues
  bells := by simpa using h.bells
  streams := by simpa using h.streams
  memIf := by simp [h.memIf, h.past]
  runs := by simpa using h.runs
  engine := by simpa using h.engine
  copy := by simpa using h.copy
  gang := by simpa using h.gang
  search := by simpa using h.search
  theft := by simpa using h.theft
  chan := by simpa using h.chan
  task := by simpa using h.task
  act := by simpa using h.act
  others j hj := by
    have hj' : j ≠ t.cur := fun e => hj (e.trans h.who.1)
    rw [State.dropImages_hart_ne _ _ hj', State.dropImages_hart_ne s _ hj, h.others j hj]
  clusters := h.clusters
  dies := h.dies
  device := h.device
  bytes := h.bytes
  full := h.full
  poison := h.poison
  tags := h.tags
  past := h.past
  net := h.net
  time := h.time
  who := h.who

theorem exec_fenceI {s : State} (ha : Accepted acceptAll .fenceI [] [] 0 s) (hb : s.me.mem.sb = []) :
    exec .fenceI s = .next s.retire.dropImages := by
  refine exec_of_run (ha.exec_eq rfl) ?_
  rw [bind_ok (emptyBufferM_done hb), run_modify]

/-- Settles O19: each fence and each wait by what it waits for. -/
theorem fencesAndWaits : Obligations.FencesAndWaits := by
  unfold Obligations.FencesAndWaits
  have unchanged {i : Instr} {s : State} (he : exec i s = .next s.retire) : EndsAs i s s s [] [] [] 0 fun _ => True :=
    endsAs_retire he rfl rfl rfl ⟨trivial, trivial⟩
  refine ⟨fun q s ha hq => unchanged (exec_fence_acquire ha hq),
    fun q s ha hq => endsAs_retire (exec_fence_release ha hq) (by simp) (by simp) (by simp) ?_,
    fun q s ha hq hd hc => unchanged (by simpa [hc] using exec_fence_ordered ha hq hd),
    fun q s ha hq hd hc => ?_, fun q s ha hq hd => fence_waits ha hq hd, fun s ha hb => ?_, fun s ha hb hf => ?_,
    fun s ha hb => ?_, fun s ha hp hv => ?_, fun s p ha hp ho => unchanged ?_,
    fun b s ha h => unchanged ?_, fun b s ha hp ho => ?_⟩
  · have entry : (s.pushStore (.fence (qualScope q) (s.ctx == .handler)) q false).me.mem.sb =
        s.me.mem.sb ++ [⟨.fence (qualScope q) (s.ctx == .handler), q, false, s.me.mem.serial⟩] := by
      simp [State.pushStore]
    exact ⟨⟨_, by simpa using entry, rfl⟩, ⟨_, by simpa using entry, rfl⟩⟩
  · have he := exec_fence_ordered ha hq hd
    rw [if_pos hc, State.noteFence_eq] at he
    obtain ⟨t, ht, hb⟩ := headEnds_of_retire (u := s) he (State.flows_congr (State.pc_modMe rfl rfl) (State.image_modMe rfl rfl))
      (State.linkNext_congr (State.pc_modMe rfl rfl) (State.image_modMe rfl rfl)) (State.pc_modMe rfl rfl) (by simp)
    refine ⟨t, ht, ?_⟩
    have fenced : ∀ r u sc, s.me.handler.run = some r → r.kind = .scopeMiss u sc →
        s.me.fencedAt (qualScope q) = (s.me.handler.fenced || decide (sc.toNat ≤ (qualScope q).toNat)) := by
      intro r u sc hr hk
      simp [Hart.fencedAt, hr, hk]
    rcases hb with rfl | rfl
    · refine ⟨?_, by simp, by simp, ?_⟩
      · simp [State.goto, State.setPc, hc, State.countHead]
      · simpa [State.goto, State.setPc, hc, State.countHead] using fenced
    · exact ⟨by simp, by simp, by simp, by simpa using fenced⟩
  · have he := exec_fenceI ha.toAccepted hb
    rw [State.retire_flows ha.flows] at he
    refine ⟨_, ⟨by simp, fun _ => ⟨he, ?_⟩, fun n => absurd ha.flows n⟩, ⟨by simp, State.dropImages_image _⟩,
      (SameBut.goto s _).dropImages⟩
    simp
  · rw [exec_fenceI ha hb, State.retire_stuck hf]
    rfl
  · refine waits_of_run (ha.exec_eq rfl) (t := s) (l := none) ?_ rfl
    rw [bind_error (emptyBufferM_waits hb)]
  · have hn : Config.freeNat s.free % 32 < 32 := Nat.mod_lt _ (by decide)
    exact ⟨_, _, exec_pause_new ha hp, (State.pc_parkCtx ..).trans rfl, Nat.le_add_left 1 _, hn,
      State.parkedAs_parkCtx_fresh (s := { s with free := s.free + 1 }) hp hv⟩
  · refine exec_of_run (ha.exec_eq rfl) ?_
    rw [bind_get, hp]
    dsimp only
    rw [if_pos ho, run_set]
  · refine exec_of_run (exec_sleep ha) ?_
    rw [if_pos, run_set]
    rcases h with h | h
    · simp [h]
    · simp [State.timeUp_iff.2 h]
  · refine waits_of_run (exec_sleep ha) (t := s) (l := limitOf (s.x b)) ?_ rfl
    rw [if_neg, run_parkUntilM]
    simp [hp, State.timeUp_eq_false.2 ho]

end Sys2Proof.Machine
end

section
/-! O21: messages and counters (R296 to R299). -/

namespace Sys2Proof.Machine

section
variable {lenm : BitVec 8} {slot : BitVec 4} {mc : BitVec 3} {d c b t : BitVec 6} {s u : State}

/-- The message of MSG is under way, and the next of the hart's accesses has the next serial (R95, R297). -/
def State.sendMsg (s : State) (target slot : Nat) (data : List Byte) (mc : BitVec 3) : State :=
  (s.send (.msg s.cur target slot data mc s.me.mem.serial)).modMe fun h =>
    { h with mem := { h.mem with serial := h.mem.serial + 1 } }

theorem exec_msg {data : List Byte} (ha : Accepted acceptAll (.msg lenm slot mc c t) [c, t] [] 0 s)
    (ht : (s.x t).toNat < 4096) (hn : s.msgsOut s.cur < 16) (hd : Gives (loadBytes (s.x c) (lenm.toNat + 1)) s data u) :
    exec (.msg lenm slot mc c t) s = .next (u.sendMsg (s.x t).toNat slot.toNat data mc).retire := by
  refine exec_of_run (ha.exec_eq rfl) ?_
  rw [bind_get, if_neg (not_le.2 ht), if_neg (not_le.2 hn), bind_ok hd]
  rfl

theorem msg_traps (ha : Accepted acceptAll (.msg lenm slot mc c t) [c, t] [] 0 s) (ht : 4096 ≤ (s.x t).toNat) :
    Traps (.msg lenm slot mc c t) s (BitVec.ofNat 64 0x05) (s.x t) := by
  refine traps_of_run (ha.exec_eq rfl) ?_
  rw [bind_get, if_pos ht, run_operandM]

theorem msg_waits (ha : Accepted acceptAll (.msg lenm slot mc c t) [c, t] [] 0 s) (ht : (s.x t).toNat < 4096)
    (hn : 16 ≤ s.msgsOut s.cur) : Waits (.msg lenm slot mc c t) s .drain := by
  refine waits_of_run (ha.exec_eq rfl) (t := s) (l := none) ?_ rfl
  rw [bind_get, if_neg (not_le.2 ht), if_pos hn, run_parkM]

/-- WAITC goes on when the counter has reached its threshold or the wait its limit (R299). -/
theorem exec_waitc (ha : Accepted acceptAll (.waitc d mc c b) [d, c, b] [] 0 s) :
    exec (.waitc d mc c b) s = finish ((if (s.counter s.cur mc - (s.x b).setWidth 32).toInt < 0 ∧ s.timeUp .counter = false
      then parkUntilM .counter (limitOf (s.x c))
      else set (s.setX d ((s.counter s.cur mc).setWidth 64)).retire : M Unit).run s) := by
  rw [ha.exec_eq rfl, bind_get]
  rfl

end

/-- Settles O21: MSG by its checks in order, and WAITC by the one condition that it waits for. -/
theorem messagesAndCounters : Obligations.MessagesAndCounters := by
  unfold Obligations.MessagesAndCounters
  refine ⟨fun lenm slot mc c t s data u ha ht hn hd => ?_, fun _ _ _ _ _ _ ha ht => msg_traps ha ht,
    fun _ _ _ _ _ _ ha ht hn => msg_waits ha ht hn, fun d mc c b s ha h => ?_, fun d mc c b s ha hn ho => ?_⟩
  · have sent : (u.sendMsg (s.x t).toNat slot.toNat data mc).net =
        u.net ++ [.msg u.cur (s.x t).toNat slot.toNat data mc u.me.mem.serial] := rfl
    exact endsAs_retire (exec_msg ha ht hn hd) (State.pc_modMe rfl rfl) (State.image_modMe rfl rfl)
      (by simp) ⟨(State.goto_net ..).trans sent, (State.countHead_net _).trans sent⟩
  · have he : exec (.waitc d mc c b) s = .next (s.setX d ((s.counter s.cur mc).setWidth 64)).retire := by
      refine exec_of_run (exec_waitc ha) ?_
      rw [if_neg, run_set]
      rintro ⟨hlt, hup⟩
      rcases h with h | h
      · omega
      · simp [State.timeUp_iff.2 h] at hup
    exact headEnds_setX he (State.hasX_of_visible ha.sees List.mem_cons_self)
  · refine waits_of_run (exec_waitc ha) (t := s) (l := limitOf (s.x c)) ?_ rfl
    rw [if_pos ⟨hn, State.timeUp_eq_false.2 ho⟩, run_parkUntilM]

end Sys2Proof.Machine
end

section
/-! WHAT AN ACCESS LEAVES OF THE MACHINE. An access to memory, a translation and a wait for a unit change memory, its tags
and holds, the caches and the loft, the TLBs, the queues of handler runs and the parked contexts; everything else of the
harts, the clusters, the dies and the device stays. One lemma per operation, in the order of the model's files. -/

namespace Sys2Proof.Machine

/-- A part of a hart that a change of harts leaves alone. -/
theorem State.part_modHart {α : Type} (f : Hart → α) {g : Hart → Hart} {s : State} {c : Nat} (hg : ∀ h, f (g h) = f h)
    (j : Nat) : f ((s.modHart c g).hart j) = f (s.hart j) := by
  rw [State.hart_modHart]
  split
  · next e => subst e; exact hg _
  · rfl

/-- A part of a cluster that a change of clusters leaves alone. -/
theorem State.part_modCluster {α : Type} (f : Cluster → α) {g : Cluster → Cluster} {s : State} {c : Nat}
    (hg : ∀ k, f (g k) = f k) (j : Nat) : f ((s.modCluster c g).cluster j) = f (s.cluster j) := by
  by_cases e : j = c
  · subst e
    rw [State.cluster_modCluster_same]
    exact hg _
  · rw [State.cluster_modCluster_ne _ _ _ _ e]

/-- A hart without what an access may change: the parked contexts, the pending runs and the TLB. -/
def Hart.calm (h : Hart) : Hart :=
  { h with park := none, hpark := none, runs := { h.runs with fifo := [], port := [] }, mem := { h.mem with tlb := [] } }

/-- A cluster without what an access may change: the loft and the TLB. -/
def Cluster.calm (c : Cluster) : Cluster := { c with loft := Cluster.reset.loft, tlb := [] }

/-- A die without what an access may change: regions and their entries, the caches and the TLB. -/
def Die.calm (d : Die) : Die := { d with regions := [], gutter := [], l2 := [], tlb := [] }

/-- From s to t nothing has changed but what an access may change. -/
structure State.Calm (s t : State) : Prop where
  harts : ∀ h, (t.hart h).calm = (s.hart h).calm
  clusters : ∀ k, (t.cluster k).calm = (s.cluster k).calm
  dies : ∀ d, (t.die d).calm = (s.die d).calm
  rest : (t.dev, t.board, t.net, t.clock, t.nanos, t.cur, t.ctx, t.turns) =
    (s.dev, s.board, s.net, s.clock, s.nanos, s.cur, s.ctx, s.turns)

section
variable {r s t : State}

/-! ## Reading the relation -/

theorem State.Calm.refl (s : State) : s.Calm s := ⟨fun _ => rfl, fun _ => rfl, fun _ => rfl, rfl⟩

theorem State.Calm.trans (h : r.Calm s) (k : s.Calm t) : r.Calm t :=
  ⟨fun j => (k.harts j).trans (h.harts j), fun j => (k.clusters j).trans (h.clusters j),
    fun j => (k.dies j).trans (h.dies j), k.rest.trans h.rest⟩

theorem State.Calm.cur (h : s.Calm t) : t.cur = s.cur := congrArg (fun p => p.2.2.2.2.2.1) h.rest
theorem State.Calm.ctx (h : s.Calm t) : t.ctx = s.ctx := congrArg (fun p => p.2.2.2.2.2.2.1) h.rest
theorem State.Calm.net (h : s.Calm t) : t.net = s.net := congrArg (fun p => p.2.2.1) h.rest
theorem State.Calm.clock (h : s.Calm t) : t.clock = s.clock := congrArg (fun p => p.2.2.2.1) h.rest
theorem State.Calm.dev (h : s.Calm t) : t.dev = s.dev := congrArg (fun p => p.1) h.rest

/-- A part of a hart that an access does not change. -/
theorem State.Calm.part {α : Type} (h : s.Calm t) (j : Nat) (f : Hart → α) (hf : ∀ x, f x.calm = f x) :
    f (t.hart j) = f (s.hart j) := by rw [← hf (t.hart j), ← hf (s.hart j), h.harts j]

/-- A part of the executing hart that an access does not change. -/
theorem State.Calm.mine {α : Type} (h : s.Calm t) (f : Hart → α) (hf : ∀ x, f x.calm = f x) : f t.me = f s.me := by
  unfold State.me
  rw [h.cur]
  exact h.part _ f hf

theorem State.Calm.disp (h : s.Calm t) (k : Nat) : (t.cluster k).disp = (s.cluster k).disp :=
  show (t.cluster k).calm.disp = (s.cluster k).calm.disp by rw [h.clusters k]

theorem State.Calm.registrar (h : s.Calm t) (d : Nat) : (t.die d).registrar = (s.die d).registrar :=
  show (t.die d).calm.registrar = (s.die d).calm.registrar by rw [h.dies d]

theorem State.Calm.fencedCore (h : s.Calm t) (c : Nat) : t.fencedCore c = s.fencedCore c := by
  unfold State.fencedCore
  rw [h.part c (fun x => x.sys) fun _ => rfl]

theorem State.Calm.pc (h : s.Calm t) : t.pc = s.pc := by
  unfold State.pc
  rw [h.ctx, h.mine (fun x => x.main) fun _ => rfl, h.mine (fun x => x.handler) fun _ => rfl]

theorem State.Calm.image (h : s.Calm t) : t.image = s.image := by
  unfold State.image
  rw [h.ctx, h.mine (fun x => x.main) fun _ => rfl, h.mine (fun x => x.handler) fun _ => rfl]

theorem State.Calm.x (h : s.Calm t) (n : BitVec 6) : t.x n = s.x n := by
  unfold State.x
  rw [h.ctx, h.mine (fun x => x.main) fun _ => rfl, h.mine (fun x => x.handler) fun _ => rfl]

theorem State.Calm.v (h : s.Calm t) (n : BitVec 5) : t.v n = s.v n := by
  unfold State.v
  rw [h.ctx, h.mine (fun x => x.main) fun _ => rfl, h.mine (fun x => x.handler) fun _ => rfl]

theorem State.Calm.linkNext (h : s.Calm t) : t.linkNext = s.linkNext := State.linkNext_congr h.pc h.image

theorem State.Calm.sb (h : s.Calm t) : t.me.mem.sb = s.me.mem.sb := h.mine (fun x => x.mem.sb) fun _ => rfl

theorem State.Calm.sys (h : s.Calm t) : t.me.sys = s.me.sys := h.mine (fun x => x.sys) fun _ => rfl

/-! ## Ways to go on -/

/-- The fields outside harts, clusters, dies and the device's state may change. -/
theorem State.Calm.update {mem full poison tags holds waiters past free} (h : r.Calm s) :
    r.Calm { s with mem := mem, full := full, poison := poison, tags := tags, holds := holds, waiters := waiters
                    past := past, free := free } :=
  ⟨h.harts, h.clusters, h.dies, h.rest⟩

theorem State.Calm.modHart {k f} (h : r.Calm s) (hf : ∀ x, (f x).calm = x.calm) : r.Calm (s.modHart k f) := by
  refine ⟨fun j => ?_, h.clusters, h.dies, h.rest⟩
  rw [State.hart_modHart]
  split
  · next e => subst e; exact (hf _).trans (h.harts _)
  · exact h.harts j

theorem State.Calm.modCluster {k f} (h : r.Calm s) (hf : ∀ x, (f x).calm = x.calm) : r.Calm (s.modCluster k f) := by
  refine ⟨h.harts, fun j => ?_, h.dies, h.rest⟩
  by_cases e : j = k
  · subst e
    rw [State.cluster_modCluster_same]
    exact (hf _).trans (h.clusters _)
  · rw [State.cluster_modCluster_ne _ _ _ _ e]
    exact h.clusters j

theorem State.Calm.modDie {k f} (h : r.Calm s) (hf : ∀ x, (f x).calm = x.calm) : r.Calm (s.modDie k f) := by
  refine ⟨h.harts, h.clusters, fun j => ?_, h.rest⟩
  by_cases e : j = k
  · subst e
    rw [State.die_modDie_same]
    exact (hf _).trans (h.dies _)
  · rw [State.die_modDie_ne _ _ _ _ e]
    exact h.dies j

theorem State.Calm.ite {c : Prop} [Decidable c] (hs : r.Calm s) (ht : r.Calm t) : r.Calm (if c then s else t) := by
  split
  exacts [hs, ht]

theorem State.Calm.iteSnd {α : Type} {c : Prop} [Decidable c] {p q : α × State} (hp : r.Calm p.2) (hq : r.Calm q.2) :
    r.Calm (if c then p else q).2 := by
  split
  exacts [hp, hq]

theorem State.Calm.foldl {α : Type} {f : State → α → State} {l : List α}
    (hf : ∀ s a, r.Calm s → r.Calm (f s a)) (h : r.Calm s) : r.Calm (l.foldl f s) :=
  List.foldlRecOn l f h fun s hs a _ => hf s a hs

theorem State.Calm.foldlSnd {α β : Type} {f : β × State → α → β × State} {l : List α} {p : β × State}
    (hf : ∀ p a, r.Calm p.2 → r.Calm (f p a).2) (h : r.Calm p.2) : r.Calm (l.foldl f p).2 :=
  List.foldlRecOn (motive := fun p => r.Calm p.2) l f h fun s hs a _ => hf s a hs

/-- The state of a result that has been taken apart. -/
theorem State.Calm.of_eq {α : Type} {p : α × State} {a : α} (h : r.Calm p.2) (e : p = (a, t)) : r.Calm t := by
  subst e
  exact h

/-! ## Memory, update regions, caches and the loft -/

theorem State.Calm.choose {n} (h : r.Calm s) : r.Calm (s.choose n).2 := .iteSnd h h.update

theorem State.Calm.poke {a d} (h : r.Calm s) : r.Calm (s.poke a d) := h.update

/-- Harts changed one by one, each in what an access may change. -/
theorem calm_tget_map (g : Nat × Hart → Nat × Hart) (hg : ∀ e, (g e).1 = e.1 ∧ (g e).2.calm = e.2.calm)
    (l : Table Hart) (k : Nat) (d : Hart) : ((tget (l.map g) k).getD d).calm = ((tget l k).getD d).calm := by
  induction l with
  | nil => rfl
  | cons e l ih =>
    obtain ⟨h1, h2⟩ := hg e
    rw [List.map_cons, tget, tget, h1]
    split
    exacts [h2, ih]

/-- A delivery changes the parked contexts alone. -/
theorem State.Calm.deliver {w} (h : r.Calm s) : r.Calm (s.deliver w) := by
  unfold State.deliver
  refine .ite h ⟨fun j => ?_, h.clusters, h.dies, h.rest⟩
  exact (calm_tget_map _ (fun _ => by exact ⟨rfl, rfl⟩) _ _ _).trans (h.harts j)

theorem State.Calm.setFull {w b} (h : r.Calm s) : r.Calm (s.setFull w b) := .ite (.ite h.update.deliver h.update) h

theorem State.Calm.putBytes {a d} (h : r.Calm s) : r.Calm (s.putBytes a d) :=
  .ite (.foldl (fun _ _ h => h.setFull) h.poke.update) h.poke.update

theorem State.Calm.combineAny {op n l fl} (h : r.Calm s) : r.Calm (combineAny op n l fl s).2.2 := by
  induction n generalizing l fl s with
  | zero => exact h
  | succ n ih =>
    unfold Machine.combineAny
    split
    exacts [h, h, h, ih h.choose.choose]

theorem State.Calm.applyElement {d k rg addr es} (h : r.Calm s) : r.Calm (s.applyElement d k rg addr es) := by
  unfold State.applyElement
  dsimp only
  split
  exacts [h.poke.modDie fun _ => by rfl, h.combineAny.poke.modDie fun _ => by rfl]

theorem State.Calm.applyEntries {d p} (h : r.Calm s) : r.Calm (s.applyEntries d p) := by
  unfold State.applyEntries
  refine .ite h (.foldl (fun _ _ h => ?_) (h.modDie fun _ => by rfl))
  split
  exacts [h.applyElement, h]

theorem State.Calm.applyLine {a} (h : r.Calm s) : r.Calm (s.applyLine a) := .ite h.applyEntries h

theorem State.Calm.clearTags {a n} (h : r.Calm s) : r.Calm (s.clearTags a n) := h.update

theorem State.Calm.fillL2 {d new} (h : r.Calm s) : r.Calm (s.fillL2 d new) := by
  unfold State.fillL2
  refine .ite (h.modDie fun _ => by rfl) ?_
  split
  exacts [.ite (h.modDie fun _ => by rfl) (State.Calm.update (h.modDie fun _ => by rfl)), h]

theorem State.Calm.touchL2 {a qual store} (h : r.Calm s) : r.Calm (s.touchL2 a qual store) := h.fillL2

theorem State.Calm.modLoft {k f} (h : r.Calm s) : r.Calm (s.modLoft k f) := h.modCluster fun _ => by rfl

theorem State.Calm.copyPoison {a b n} (h : r.Calm s) : r.Calm (s.copyPoison a b n) := h.update

theorem State.Calm.dramRead {a n} (h : r.Calm s) : r.Calm (s.dramRead a n).2 :=
  .foldlSnd (fun _ _ h => h.applyLine.touchL2) h

theorem State.Calm.dramWrite {a d} (h : r.Calm s) : r.Calm (s.dramWrite a d) :=
  .foldl (fun _ _ h => .ite h h.applyLine.touchL2.putBytes.clearTags) h

/-- The definition is unfolded as a function, for the kernel's sake: its arguments hold a sum with a large constant. -/
theorem State.Calm.readRaw {k b} (h : r.Calm s) : r.Calm (s.readRaw k b) := by
  generalize e : State.readRaw = f
  delta State.readRaw at e
  subst e
  beta_reduce
  split
  exact (h.dramRead.of_eq ‹_›).poke.copyPoison

theorem State.Calm.writeBack {k b} (h : r.Calm s) : r.Calm (s.writeBack k b) := by
  unfold State.writeBack
  refine .ite h.modLoft ?_
  split
  exacts [h.modLoft, .ite h.modLoft h.dramWrite.copyPoison.modLoft]

theorem State.Calm.dirtyBlock {k b} (h : r.Calm s) : r.Calm (s.dirtyBlock k b) := by
  unfold State.dirtyBlock
  exact (h.modDie fun _ => by rfl).modLoft

theorem State.Calm.fillEaves {k new} (h : r.Calm s) : r.Calm (s.fillEaves k new) := by
  unfold State.fillEaves
  refine .ite (.modLoft (.ite h.readRaw h)) ?_
  split
  exacts [.modLoft (.ite (.readRaw (.update (.modLoft (.ite h.writeBack h))))
    (.update (.modLoft (.ite h.writeBack h)))), h]

theorem State.Calm.readAhead {k b a q} (h : r.Calm s) : r.Calm (s.readAhead k b a q) :=
  .ite h (.ite (h.modDie fun _ => by rfl).modLoft h.modLoft)

theorem State.Calm.touchLoft {a qual store reader} (h : r.Calm s) : r.Calm (s.touchLoft a qual store reader) := by
  unfold State.touchLoft
  refine .ite h.fillEaves.dirtyBlock ?_
  split
  exacts [h.fillEaves.readAhead, h.fillEaves]

theorem State.Calm.touch {a qual store reader} (h : r.Calm s) : r.Calm (s.touch a qual store reader) := by
  unfold State.touch
  split
  exacts [h.touchL2, h.touchLoft, h]

theorem State.Calm.engineReadAs {v sync a n} (h : r.Calm s) : r.Calm (s.engineReadAs v sync a n).2 :=
  .foldlSnd (fun _ _ h => .ite h h.applyLine.touch) h

theorem State.Calm.engineWriteAs {v sync a d} (h : r.Calm s) : r.Calm (s.engineWriteAs v sync a d) :=
  .foldl (fun _ _ h => .ite h (.clearTags (.putBytes (.ite h h.applyLine.touch)))) h

theorem State.Calm.engineWrite {a d} (h : r.Calm s) : r.Calm (s.engineWrite a d) := h.engineWriteAs

theorem State.Calm.readSpansAs {v l} (h : r.Calm s) : r.Calm (s.readSpansAs v l).2 :=
  .foldlSnd (fun _ _ h => h.engineReadAs) h

theorem State.Calm.writeSpansAs {v l d} (h : r.Calm s) : r.Calm (s.writeSpansAs v l d) := by
  induction l generalizing s d with
  | nil => exact h
  | cons p l ih => exact ih h.engineWriteAs

theorem State.Calm.engineWriteSpans {l d} (h : r.Calm s) : r.Calm (s.engineWriteSpans l d) := h.writeSpansAs

/-! ## Tags, holds and waits -/

theorem State.Calm.liftHold {unit scope} (h : r.Calm s) : r.Calm (s.liftHold unit scope) := by
  unfold State.liftHold
  split
  exacts [h, h.update]

theorem State.Calm.fenceBySelf {w unit serial} (h : r.Calm s) : r.Calm (s.fenceBySelf w unit serial) := h.update

theorem State.Calm.sendScopeMiss {w unit scope} (h : r.Calm s) : r.Calm (s.sendScopeMiss w unit scope) := by
  unfold State.sendScopeMiss
  refine .ite h.liftHold ?_
  have sent (q : Run) : r.Calm (s.modHart w fun t =>
      if kindOf w = 0 ∧ t.runs.fifo.length < 16 ∧ t.runs.port = [] then
        { t with runs := { t.runs with fifo := t.runs.fifo ++ [q] } }
      else { t with runs := { t.runs with port := t.runs.port ++ [q] } }) :=
    h.modHart fun x => by split <;> rfl
  exact .ite (sent _) (sent _).fenceBySelf

theorem State.Calm.holdAcquire {p unit} (h : r.Calm s) : r.Calm (s.holdAcquire p unit) := by
  unfold State.holdAcquire
  split
  · exact h
  · split
    exacts [h.update, h.update.sendScopeMiss]

theorem State.Calm.holdWaiting {unit} (h : r.Calm s) : r.Calm (s.holdWaiting unit) := by
  refine .foldl (fun _ _ h => ?_) h
  split
  exacts [.ite h.holdAcquire h, h]

theorem State.Calm.tagWrite {p unit qual sync} (h : r.Calm s) : r.Calm (s.tagWrite p unit qual sync) :=
  .ite h.update.holdWaiting h.update

theorem State.Calm.joinLine {unit w} (h : r.Calm s) : r.Calm (s.joinLine unit w) := by
  unfold State.joinLine
  split
  exacts [h, h.update]

theorem State.Calm.tagMiss {u} (h : r.Calm s) : r.Calm (s.tagMiss u) := by
  unfold State.tagMiss
  split
  exacts [h.update.sendScopeMiss, h]

theorem State.Calm.openBlock {a} (h : r.Calm s) : r.Calm (s.openBlock a) := .ite (.ite h.fillEaves h) h

theorem State.Calm.waitAt {p w a sync} (h : r.Calm s) : r.Calm (s.waitAt p w a sync).2 := by
  unfold State.waitAt
  refine .iteSnd h.joinLine (.iteSnd h ?_)
  split
  exacts [h.openBlock, .iteSnd h.tagMiss.openBlock h.tagMiss]

theorem State.Calm.pieceWaits {p q} (h : r.Calm s) : r.Calm (s.pieceWaits p q).2 := by
  refine .foldlSnd (fun _ _ h => .iteSnd h ?_) h
  split
  exacts [h, h, h, h, h, h.waitAt]

theorem State.Calm.partyWaits {p l} (h : r.Calm s) : r.Calm (s.partyWaits p l).2 :=
  .foldlSnd (fun _ _ h => h.pieceWaits) h

theorem State.Calm.spansWait {p l} (h : r.Calm s) : r.Calm (s.spansWait p l).2 := h.partyWaits

theorem State.Calm.unitWaits {p l} (h : r.Calm s) : r.Calm (s.unitWaits p l).2 := h.partyWaits

theorem State.Calm.mergeWord {w cells} (h : r.Calm s) : r.Calm (s.mergeWord w cells) := h.poke.update.setFull

theorem State.Calm.engineMasked {v w cells} (h : r.Calm s) : r.Calm (s.engineMasked v w cells) :=
  .ite h h.applyLine.touch.mergeWord.clearTags

/-- A store outside the hart control window changes no register. -/
theorem State.Calm.performWrite {p m l qual sync} (h : r.Calm s) (out : inHartWindow m.addr = false) :
    r.Calm (s.performWrite p (m :: l) qual sync) := by
  unfold State.performWrite
  dsimp only
  rw [if_neg (by simp [out])]
  exact .ite h.applyLine (.tagWrite (.mergeWord (.ite h.applyLine h.applyLine.touch)))

end

end Sys2Proof.Machine
end

section
/-! WHAT A CHECK, A TRANSLATION OR A PLAIN READ THAT SUCCEEDS LEAVES: everything but what an access may change. -/

namespace Sys2Proof.Machine

/-- Where the computation gives a result, it has changed since r only what an access may change. -/
def Quiet (r : State) {α : Type} (m : M α) : Prop := ∀ s a t, r.Calm s → m.run s = (.ok a, t) → r.Calm t

section
variable {r s t : State}

theorem Quiet.pure {α : Type} {a : α} : Quiet r (pure a : M α) := by
  rintro s _ t h ⟨⟩
  exact h

theorem Quiet.throw {α : Type} {e : Stop} : Quiet r (throw e : M α) := by
  rintro s _ t _ ⟨⟩

theorem Quiet.set (h : r.Calm t) : Quiet r (set t : M PUnit) := by
  rintro s _ _ _ ⟨⟩
  exact h

theorem Quiet.modify {f : State → State} (hf : ∀ s, r.Calm s → r.Calm (f s)) : Quiet r (modify f : M PUnit) := by
  rintro s _ t h ⟨⟩
  exact hf s h

theorem Quiet.bind {α β : Type} {m : M α} {f : α → M β} (hm : Quiet r m) (hf : ∀ a, Quiet r (f a)) :
    Quiet r (m >>= f) := by
  intro s b t h e
  rcases em : m.run s with ⟨a | a, u⟩
  · rw [bind_error em] at e
    cases e
  · rw [bind_ok em] at e
    exact hf a u b t (hm s a u h em) e

theorem Quiet.get {β : Type} {f : State → M β} (hf : ∀ s, r.Calm s → Quiet r (f s)) :
    Quiet r (MonadState.get >>= f) := fun s b t h e => hf s h s b t h e

theorem Quiet.ite {α : Type} {c : Prop} [Decidable c] {m n : M α} (hm : Quiet r m) (hn : Quiet r n) :
    Quiet r (if c then m else n) := by
  split
  exacts [hm, hn]

/-- A branch that needs its condition's failure. -/
theorem Quiet.iteNot {α : Type} {c : Prop} [Decidable c] {m n : M α} (hm : ¬ c) (hn : Quiet r n) :
    Quiet r (if c then m else n) := by rwa [if_neg hm]

/-- A step done under a condition, then the rest. -/
theorem Quiet.when {α : Type} {c : Prop} [Decidable c] {m : M PUnit} {f : PUnit → M α} (hm : Quiet r m)
    (hf : ∀ a, Quiet r (f a)) : Quiet r (if c then m >>= f else f ⟨⟩) := .ite (.bind hm hf) (hf _)

theorem Quiet.mapM {α β : Type} {f : α → M β} {l : List α} (hf : ∀ a, Quiet r (f a)) : Quiet r (l.mapM f) := by
  induction l with
  | nil => exact .pure
  | cons a l ih =>
    rw [List.mapM_cons]
    exact .bind (hf a) fun _ => .bind ih fun _ => .pure

theorem Quiet.forM {α : Type} {f : α → M Unit} {l : List α} (hf : ∀ a, Quiet r (f a)) : Quiet r (l.forM f) := by
  induction l with
  | nil => exact .pure
  | cons a l ih => exact Quiet.bind (hf a) fun _ => ih

/-- What a computation that gave a result left. -/
theorem Quiet.calm {α : Type} {m : M α} {a : α} (hm : Quiet s m) (e : Gives m s a t) : s.Calm t := hm s a t (.refl s) e

/-! ## Translation -/

theorem State.Calm.fillCore {k e} (h : r.Calm s) : r.Calm (s.fillCore k e) := by
  unfold State.fillCore
  exact h.modHart fun _ => by rfl

theorem State.Calm.fillShared {k e} (h : r.Calm s) : r.Calm (s.fillShared k e) := by
  unfold State.fillShared
  have shared := h.modCluster (k := clusterOf k) (f := fun c => { c with tlb := tlbAddSet c.tlb e }) fun _ => rfl
  have last := shared.modDie (k := dieOf k) (f := fun d => { d with tlb := tlbAdd d.tlb e 262144 }) fun _ => by
    simp only [Die.calm]
  exact .ite h last

theorem State.Calm.walkFrom {k va level node} (h : r.Calm s) : r.Calm (walkFrom k va level node s).2 := by
  induction level using Nat.strongRecOn generalizing node s with
  | _ level ih =>
    unfold Machine.walkFrom
    split
    refine .iteSnd h ?_
    split
    · exact .of_eq h.waitAt ‹_›
    · have waited : State.Calm r _ := .of_eq h.waitAt ‹_›
      dsimp only
      refine .iteSnd waited.applyLine.touch (.iteSnd waited.applyLine.touch ?_)
      split
      · exact .iteSnd waited.applyLine.touch waited.applyLine.touch
      · have next {t node} (h : State.Calm r t) := ih _ (Nat.lt_succ_self _) (node := node) h
        exact .iteSnd (.iteSnd waited.applyLine.touch (next waited.applyLine.touch))
          (.iteSnd (.iteSnd waited.applyLine.touch waited.applyLine.touch) (next waited.applyLine.touch))

theorem State.Calm.lookup {k root va} (h : r.Calm s) : r.Calm (s.lookup k root va).2 := by
  unfold State.lookup
  dsimp only
  split
  · exact h
  · split
    · exact h.fillCore
    · split
      exacts [(State.Calm.of_eq h.walkFrom ‹_›).fillShared.fillCore, h.walkFrom]

theorem translate_quiet {k root prv acc va tval} : Quiet r (translate k root prv acc va tval) := by
  unfold translate
  refine .get fun _ h => .ite (.ite .throw .pure) (.ite .throw ?_)
  refine .bind (.set h.lookup) fun _ => ?_
  split
  · exact .throw
  · exact .throw
  · rintro s a t _ ⟨⟩
  · exact .throw
  · exact .ite .throw (.ite .throw .pure)

theorem liftExcept_quiet {α : Type} {e : Except Stop α} : Quiet r (placeOf.liftExcept e) := by
  unfold placeOf.liftExcept
  split
  exacts [.pure, .throw]

theorem placeOf_quiet {k root prv acc va n tval} : Quiet r (placeOf k root prv acc va n tval) := by
  unfold placeOf
  refine .get fun _ _ => .bind liftExcept_quiet fun _ => ?_
  dsimp only
  split
  exacts [translate_quiet, .pure]

theorem myPlace_quiet {acc va n} : Quiet r (myPlace acc va n) := .get fun _ _ => placeOf_quiet

theorem spansOf_quiet {k root prv acc va n noSync} : Quiet r (spansOf k root prv acc va n noSync) := by
  unfold spansOf
  refine .ite .pure (.get fun _ _ => .bind liftExcept_quiet fun _ => ?_)
  dsimp only
  split
  exacts [.mapM (fun _ => .bind translate_quiet fun _ => .ite .throw .pure), .pure]

/-! ## Plain reads -/

theorem meetTag_quiet {a sync acquire} : Quiet r (meetTag a sync acquire) := by
  unfold meetTag
  refine .get fun _ h => ?_
  dsimp only
  split
  exacts [.bind (.set (.of_eq (.waitAt (.ite h.holdAcquire h)) ‹_›)) fun _ => .throw,
    .set (.of_eq (.waitAt (.ite h.holdAcquire h)) ‹_›)]

theorem earlyWordM_quiet {a n} : Quiet r (earlyWordM a n) := by
  unfold earlyWordM
  dsimp only
  exact .get fun _ _ => .ite .pure (.forM fun _ => .get fun _ h => .ite .pure
    (.bind (.set h.choose) fun _ => .ite .pure .throw))

/-- A part of a wider read that is not ordered sends nothing to a registrar. -/
theorem loadPart_quiet {p n qual va} (plain : qualOrd qual ≠ 3) : Quiet r (loadPart p n qual va) := by
  unfold loadPart loadCore
  refine .get fun _ _ => .iteNot (by simp) (.bind (.iteNot plain .pure) fun _ => ?_)
  refine .get fun _ _ => .ite (.iteNot (by simp) .throw) (.ite .throw ?_)
  split
  · exact .throw
  · exact .pure
  · refine .bind meetTag_quiet fun _ => .get fun _ h => .iteNot (by simp) (.ite .throw ?_)
    split
    exacts [.throw,
      .bind (.set (.ite h h.applyLine.touch)) fun _ => .get fun _ _ => .ite .pure
        (.when earlyWordM_quiet fun _ => .get fun _ _ => .pure)]

theorem loadWords_quiet {va n} : Quiet r (loadWords va n) :=
  .mapM fun _ => .bind myPlace_quiet fun _ => .bind (loadPart_quiet (by decide)) fun _ => .pure

theorem loadBytes_quiet {va n} : Quiet r (loadBytes va n) :=
  .mapM fun _ => .bind myPlace_quiet fun _ => .bind (loadPart_quiet (by decide)) fun _ => .pure

end

end Sys2Proof.Machine
end

section
/-! O22: the handler context. HCTL sets or reads its state; HRET ends a run, and what the run was for decides what it
waits for (R38, R102, R284, R301, R416). -/

namespace Sys2Proof.Machine

section
variable {s t : State} {r : Run} {u : Nat} {sc : BitVec 3} {k : Nat}

/-! ## HCTL (R301) -/

theorem exec_hctlHold_idle (ha : Accepted acceptMain .hctlHold [] [] 0 s) (hp : s.prv ≠ 0) (hr : s.me.handler.run = none) :
    exec .hctlHold s = .next (s.modMe fun h => { h with runs := { h.runs with hold := true } }).retire := by
  refine exec_of_run (ha.exec_eq rfl) ?_
  rw [bind_get, if_neg hp, bind_set, bind_get, if_neg (by simp [hr]), run_set]

theorem run_hctlHold_busy (ha : Accepted acceptMain .hctlHold [] [] 0 s) (hp : s.prv ≠ 0) (hr : s.me.handler.run ≠ none) :
    exec .hctlHold s = .next ((s.modMe fun h => { h with runs := { h.runs with hold := true } }).parkCtx .noRuns none) := by
  rw [ha.exec_eq rfl, bind_get, if_neg hp, bind_set, bind_get,
    if_pos (by simpa [Option.isSome_iff_ne_none] using hr), run_parkM]
  rfl

theorem exec_hctlGo (ha : Accepted acceptMain .hctlGo [] [] 0 s) (hp : s.prv ≠ 0) :
    exec .hctlGo s = .next (s.modMe fun h => { h with runs := { h.runs with hold := false } }).retire := by
  refine exec_of_run (ha.exec_eq rfl) ?_
  rw [bind_get, if_neg hp, run_set]

theorem hctlHold_user_traps (ha : Accepted acceptMain .hctlHold [] [] 0 s) (hp : s.prv = 0) :
    Traps .hctlHold s (BitVec.ofNat 64 0x03) 0x5E40 := by
  refine traps_of_run (ha.exec_eq rfl) ?_
  rw [bind_get, if_pos hp, run_illegalM]
  rfl

theorem hctlGo_user_traps (ha : Accepted acceptMain .hctlGo [] [] 0 s) (hp : s.prv = 0) :
    Traps .hctlGo s (BitVec.ofNat 64 0x03) 0x5E40 := by
  refine traps_of_run (ha.exec_eq rfl) ?_
  rw [bind_get, if_pos hp, run_illegalM]
  rfl

/-- A head that changed the runs of its hart alone, and then ends. -/
theorem headEnds_runs {i : Instr} {f : HandlerQueue → HandlerQueue}
    (he : exec i s = .next (s.modMe fun h => { h with runs := f h.runs }).retire) :
    ∃ t, HeadEnds i s s t ∧ t.me.runs = f s.me.runs ∧ ∀ r, t.x r = s.x r := by
  obtain ⟨t, ends, runs, same⟩ := endsAs_retire (u := s) (P := fun t => t.me.runs = f s.me.runs) he
    (State.pc_modMe rfl rfl) (State.image_modMe rfl rfl) (by simp) ⟨by simp, by simp⟩
  refine ⟨t, ends, runs, fun n => (same.x n (by simp)).trans ?_⟩
  simp [State.x]

/-! ## The end of a run -/

/-- A core's run ends: its head counts, and waiting messages and rows move up (R38, R39). -/
def State.endRun (s : State) : State :=
  (s.countHead.modMe fun h =>
    { h with handler := { h.handler with run := none, image := none, fenced := false }, hpark := none }).fillFifo s.cur

/-- Rows and messages that join the FIFO change the runs and the engine of their core. -/
theorem State.fillFifo_hart {α : Type} (f : Hart → α) (hf : ∀ h q e, f { h with runs := q, engine := e } = f h)
    (c j : Nat) : f ((s.fillFifo c).hart j) = f (s.hart j) := by
  unfold State.fillFifo
  dsimp only
  refine (State.part_modHart f (fun h => hf h _ h.engine) j).trans ?_
  split
  · split
    · exact State.part_modHart f (fun h => hf h _ _) j
    · rfl
  · rfl

theorem State.fillFifo_rest (c : Nat) : (s.fillFifo c).mem = s.mem ∧ (s.fillFifo c).holds = s.holds ∧
    (s.fillFifo c).cur = s.cur := by
  unfold State.fillFifo
  dsimp only
  split
  · split <;> exact ⟨rfl, rfl, rfl⟩
  · exact ⟨rfl, rfl, rfl⟩

@[simp] theorem State.endRun_mem : s.endRun.mem = s.mem := State.fillFifo_rest _ |>.1
@[simp] theorem State.endRun_holds : s.endRun.holds = s.holds := State.fillFifo_rest _ |>.2.1

/-- A part of the executing hart after its run ended. -/
theorem State.endRun_me {α : Type} (f : Hart → α) (hf : ∀ h q e, f { h with runs := q, engine := e } = f h) :
    f s.endRun.me = f (s.countHead.modMe fun h =>
      { h with handler := { h.handler with run := none, image := none, fenced := false }, hpark := none }).me := by
  have cur : s.endRun.cur = s.cur := State.fillFifo_rest _ |>.2.2
  unfold State.me
  rw [cur]
  exact State.fillFifo_hart f hf _ _

theorem State.endRun_run : s.endRun.me.handler.run = none := by
  rw [State.endRun_me (fun h => h.handler.run) fun _ _ _ => rfl]
  simp

theorem State.endRun_main : s.endRun.me.main = s.me.main := by
  rw [State.endRun_me (fun h => h.main) fun _ _ _ => rfl]
  simp

theorem State.endRun_instret : s.endRun.me.sys.instret = s.me.sys.instret + 1 := by
  rw [State.endRun_me (fun h => h.sys.instret) fun _ _ _ => rfl]
  simp

/-! ## HRET of a scope-miss run (R102) -/

theorem acceptedHret (hk : kindOf s.cur = 0) (hc : s.ctx = .handler) :
    Accepted ⟨false, true, false, false⟩ .hret [] [] 0 s :=
  ⟨rfl, by simp [Accept.ok, hk, hc], by simp [State.visible, hc]⟩

/-- The hold of a unit is marked as lifting, when it is toward the executing hart (R102). -/
def State.markLift (s : State) (u : Nat) : State :=
  { s with holds := match tget s.holds u with
    | some hd => if hd.writer = s.cur then tput s.holds u { hd with lifted := true } else s.holds
    | none => s.holds }

theorem State.tget_markLift {hd : Hold} (h : tget s.holds u = some hd) (hw : hd.writer = s.cur) :
    tget (s.markLift u).holds u = some { hd with lifted := true } := by
  simp [State.markLift, h, hw]

theorem exec_hret_scopeMiss (hk : kindOf s.cur = 0) (hc : s.ctx = .handler) (hr : s.me.handler.run = some r)
    (hu : r.kind = .scopeMiss u sc) (hd : s.me.handler.fenced = true ∨ s.drained s.cur sc = true) :
    exec .hret s = .next (s.markLift u).endRun := by
  refine exec_of_run ((acceptedHret hk hc).exec_eq rfl) ?_
  rw [bind_get]
  simp only [hr, hu]
  by_cases hf : s.me.handler.fenced = true
  · rw [if_pos hf]
    rfl
  · rw [if_neg hf, bind_ok (drainM_done (hd.resolve_left hf))]
    rfl

theorem hret_scopeMiss_waits (hk : kindOf s.cur = 0) (hc : s.ctx = .handler) (hr : s.me.handler.run = some r)
    (hu : r.kind = .scopeMiss u sc) (hf : s.me.handler.fenced = false) (hd : s.drained s.cur sc = false) :
    Waits .hret s .drain := by
  refine waits_of_run ((acceptedHret hk hc).exec_eq rfl) (t := s.podFence sc) (l := none) ?_ (by simp)
  rw [bind_get]
  simp only [hr, hu]
  rw [if_neg (by simp [hf]), bind_error (drainM_waits hd)]

/-! ## HRET of a drain run (R416) -/

theorem engineWaitM_done {l : Spans} (h : (s.spansWait s.cur l).1 = false) :
    (engineWaitM l).run s = (.ok (), (s.spansWait s.cur l).2) := by
  unfold engineWaitM
  rw [bind_get, ← Prod.mk.eta (p := s.spansWait s.cur l), h]
  rfl

theorem engineWaitM_waits {l : Spans} (h : (s.spansWait s.cur l).1 = true) :
    (engineWaitM l).run s = (.error (.park .drain none), (s.spansWait s.cur l).2) := by
  unfold engineWaitM
  rw [bind_get, ← Prod.mk.eta (p := s.spansWait s.cur l), h]
  rfl

/-- What a row that leaves keeps of every hart: its contexts and its count of heads. -/
def Hart.kept (h : Hart) : MainCtx × HandlerCtx × Word := (h.main, h.handler, h.sys.instret)

theorem State.Calm.kept (h : s.Calm t) (j : Nat) : (t.hart j).kept = (s.hart j).kept := h.part j Hart.kept fun _ => rfl

theorem State.failCommand_kept (c j : Nat) (a : Word) : ((s.failCommand c a).hart j).kept = (s.hart j).kept :=
  (State.part_modHart Hart.kept (fun _ => by rfl) _).trans
    ((State.part_modHart Hart.kept (fun _ => by rfl) _).trans (State.part_modHart Hart.kept (fun _ => by rfl) _))

theorem State.leaveRow_kept (c i j : Nat) : ((s.leaveRow c i).hart j).kept = (s.hart j).kept := by
  unfold State.leaveRow
  split
  · split
    · dsimp only
      split
      · exact State.failCommand_kept _ _ _
      · refine (State.part_modHart Hart.kept (fun _ => by rfl) _).trans (State.Calm.kept ?_ j)
        exact .ite (State.Calm.refl s).engineWriteSpans.engineWrite (State.Calm.refl s).engineWriteSpans
    · rfl
  · rfl

theorem State.leaveRow_cur (c i : Nat) : (s.leaveRow c i).cur = s.cur := by
  unfold State.leaveRow
  split
  · split
    · dsimp only
      split
      · rfl
      · rw [State.modHart_cur]
        refine State.Calm.cur (s := s) ?_
        exact .ite (State.Calm.refl s).engineWriteSpans.engineWrite (State.Calm.refl s).engineWriteSpans
    · rfl
  · rfl

/-- The row of a drain run leaves, and one row fewer is due (R416). -/
def State.rowDone (s : State) (k : Nat) : State :=
  (s.leaveRow s.cur k).modMe fun h => { h with engine := { h.engine with rowsLeft := h.engine.rowsLeft - 1 } }

theorem State.rowDone_kept (k : Nat) : (s.rowDone k).me.kept = s.me.kept := by
  have cur : (s.rowDone k).cur = s.cur := State.leaveRow_cur _ _
  unfold State.me
  rw [cur]
  exact (State.part_modHart Hart.kept (fun _ => by rfl) _).trans (State.leaveRow_kept _ _ _)

theorem exec_hret_drain (hk : kindOf s.cur = 0) (hc : s.ctx = .handler) (hr : s.me.handler.run = some r)
    (hu : r.kind = .drain k) (hb : s.me.mem.sb = []) (hw : (s.spansWait s.cur (s.rowSpans s.cur k)).1 = false) :
    exec .hret s = .next ((s.spansWait s.cur (s.rowSpans s.cur k)).2.rowDone k).endRun := by
  refine exec_of_run ((acceptedHret hk hc).exec_eq rfl) ?_
  have cur := (State.Calm.refl s).spansWait (p := s.cur) (l := s.rowSpans s.cur k) |>.cur
  rw [bind_get]
  simp only [hr, hu]
  rw [bind_ok (emptyBufferM_done hb), bind_get, bind_ok (engineWaitM_done hw), bind_modify, State.rowDone, cur]
  rfl

theorem hret_drain_buffered (hk : kindOf s.cur = 0) (hc : s.ctx = .handler) (hr : s.me.handler.run = some r)
    (hu : r.kind = .drain k) (hb : s.me.mem.sb ≠ []) : Waits .hret s .drain := by
  refine waits_of_run ((acceptedHret hk hc).exec_eq rfl) (t := s) (l := none) ?_ rfl
  rw [bind_get]
  simp only [hr, hu]
  rw [bind_error (emptyBufferM_waits hb)]

theorem hret_drain_held (hk : kindOf s.cur = 0) (hc : s.ctx = .handler) (hr : s.me.handler.run = some r)
    (hu : r.kind = .drain k) (hb : s.me.mem.sb = []) (hw : (s.spansWait s.cur (s.rowSpans s.cur k)).1 = true) :
    Waits .hret s .drain := by
  refine waits_of_run ((acceptedHret hk hc).exec_eq rfl) (t := (s.spansWait s.cur (s.rowSpans s.cur k)).2) (l := none) ?_
    (State.Calm.refl s).spansWait.pc
  rw [bind_get]
  simp only [hr, hu]
  rw [bind_ok (emptyBufferM_done hb), bind_get, bind_error (engineWaitM_waits hw)]

/-- A drain run's end counts one head and keeps the registers of the main context. -/
theorem hret_drain_ends (hk : kindOf s.cur = 0) (hc : s.ctx = .handler) (hr : s.me.handler.run = some r)
    (hu : r.kind = .drain k) (hb : s.me.mem.sb = []) (hw : (s.spansWait s.cur (s.rowSpans s.cur k)).1 = false) :
    ∃ t, exec .hret s = .next t ∧ t.me.handler.run = none ∧ t.me.sys.instret = s.me.sys.instret + 1 ∧
      t.me.main.x = s.me.main.x := by
  have row : ((s.spansWait s.cur (s.rowSpans s.cur k)).2.rowDone k).me.kept = s.me.kept :=
    (State.rowDone_kept k).trans ((State.Calm.refl s).spansWait.mine Hart.kept fun _ => rfl)
  have main := congrArg (fun q => q.1) row
  have instret := congrArg (fun q => q.2.2) row
  exact ⟨_, exec_hret_drain hk hc hr hu hb hw, State.endRun_run, State.endRun_instret.trans (congrArg (· + 1) instret),
    by rw [State.endRun_main]; exact congrArg MainCtx.x main⟩

end

/-- Settles O22: HCTL by its three equations; HRET by what its run was for. -/
theorem handlerContextControl : Obligations.HandlerContextControl := by
  unfold Obligations.HandlerContextControl
  refine ⟨fun s ha hp hr => ?_, fun s ha hp hr => ⟨?_, ?_⟩, fun s ha hp => ?_, fun s ha hp => ?_, fun d s ha => ?_,
    fun s r u sc hk hc hr hu hd => ?_, fun s r u sc hk hc hr hu hf hd => hret_scopeMiss_waits hk hc hr hu hf hd,
    fun s r k hk hc hr hu => ⟨hret_drain_ends hk hc hr hu, hret_drain_buffered hk hc hr hu, hret_drain_held hk hc hr hu⟩⟩
  · exact headEnds_runs (f := fun q => { q with hold := true }) (exec_hctlHold_idle ha hp hr)
  · exact ⟨_, run_hctlHold_busy ha hp hr, by rw [State.pc_parkCtx, State.pc_modMe rfl rfl], State.parkedAs_parkCtx _ _⟩
  · refine ⟨_, run_hctlHold_busy ha hp hr, ?_⟩
    unfold State.parkCtx
    split <;> simp
  · exact headEnds_runs (f := fun q => { q with hold := false }) (exec_hctlGo ha hp)
  · exact ⟨hctlHold_user_traps ha hp, hctlGo_user_traps ⟨rfl, ha.accepts, ha.sees⟩ hp⟩
  · exact headEnds_setX (exec_of_run (ha.exec_eq rfl) rfl) (State.hasX_of_visible ha.sees List.mem_cons_self)
  · refine ⟨_, exec_hret_scopeMiss hk hc hr hu hd, State.endRun_run, fun hd hh hw => ?_, State.endRun_instret,
      State.endRun_main, fun _ => by rw [State.endRun_mem]; rfl⟩
    rw [State.endRun_holds]
    exact State.tget_markLift hh hw

end Sys2Proof.Machine
end

section
/-! O15: traps that stop a hart or end a run. A double trap fences its hart, a companion's trap stops it, and a handler's
trap ends its run (R41, R45, R178, R179, R191). What fencing does is said once per operation that it is made of. -/

namespace Sys2Proof.Machine

section
variable {s t : State} {c h j k : Nat}

/-! ## What the operations of a fence change -/

theorem State.unbindGang_eq (self : Bool) : ∃ hs, s.unbindGang c self = { s with harts := hs } := by
  unfold State.unbindGang
  split
  · exact ⟨_, rfl⟩
  · refine List.foldlRecOn (motive := fun t : State => ∃ hs, t = { s with harts := hs }) _ _ ⟨_, rfl⟩ fun t ht k _ => ?_
    obtain ⟨hs, rfl⟩ := ht
    exact ⟨_, rfl⟩

/-- Unbinding a gang changes the gangs and the engines of its cores. -/
theorem State.unbindGang_part {α : Type} (f : Hart → α) (hf : ∀ h g e, f { h with gang := g, engine := e } = f h)
    (self : Bool) : f ((s.unbindGang c self).hart j) = f (s.hart j) := by
  unfold State.unbindGang
  split
  · rfl
  · refine List.foldlRecOn (motive := fun t : State => f (t.hart j) = f (s.hart j)) _ _ rfl fun t ht k _ => ?_
    refine (State.part_modHart f (fun h => ?_) j).trans ht
    split
    exacts [hf _ _ _, rfl]

theorem State.liftHold_eq (u : Nat) (sc : BitVec 3) : ∃ tags holds, s.liftHold u sc = { s with tags := tags, holds := holds } := by
  unfold State.liftHold
  split <;> exact ⟨_, _, rfl⟩

theorem State.liftToward_eq : ∃ tags holds, s.liftToward h = { s with tags := tags, holds := holds } := by
  refine List.foldlRecOn (motive := fun t : State => ∃ tags holds, t = { s with tags := tags, holds := holds }) _ _
    ⟨_, _, rfl⟩ fun t ht e _ => ?_
  obtain ⟨tags, holds, rfl⟩ := ht
  exact State.liftHold_eq _ _

@[simp] theorem State.liftToward_hart : (s.liftToward h).hart j = s.hart j := by
  obtain ⟨_, _, e⟩ := State.liftToward_eq (s := s) (h := h)
  rw [e]
  rfl

@[simp] theorem State.liftToward_cluster : (s.liftToward h).cluster j = s.cluster j := by
  obtain ⟨_, _, e⟩ := State.liftToward_eq (s := s) (h := h)
  rw [e]
  rfl

@[simp] theorem State.liftToward_mem : (s.liftToward h).mem = s.mem := by
  obtain ⟨_, _, e⟩ := State.liftToward_eq (s := s) (h := h)
  rw [e]

theorem State.bumpCounter_eq (n : BitVec 3) : ∃ hs, s.bumpCounter h n = { s with harts := hs } := by
  unfold State.bumpCounter
  dsimp only
  split <;> exact ⟨_, rfl⟩

/-- A counter that rises changes the counters and the parked contexts. -/
theorem State.bumpCounter_part {α : Type} (f : Hart → α)
    (hf : ∀ h m p q, f { h with mc := m, park := p, hpark := q } = f h) (n : BitVec 3) :
    f ((s.bumpCounter h n).hart j) = f (s.hart j) := by
  have count := State.part_modHart (s := s) (c := h) f
    (g := fun t => { t with mc := t.mc.setIfInBounds n.toNat ((t.mc[n.toNat]?).getD 0 + 1)
                            park := t.park.map Park.wake, hpark := t.hpark.map Park.wake }) (fun t => hf t _ _ _) j
  unfold State.bumpCounter
  dsimp only
  split
  · exact (State.part_modHart f (fun t => hf t t.mc _ t.hpark) j).trans
      ((State.part_modHart f (fun t => hf t t.mc _ t.hpark) j).trans count)
  · exact count

/-! ## What a hart that is fenced comes to -/

/-- What a hart is doing, and its registers outside the contexts. -/
def Hart.stance (h : Hart) : Activity × SysRegs := (h.act, h.sys)

theorem State.Calm.stance (hc : s.Calm t) (j : Nat) : (t.hart j).stance = (s.hart j).stance :=
  hc.part j Hart.stance fun _ => rfl

theorem State.notifyDone_stance (r : TaskRecord) : ((s.notifyDone r).hart j).stance = (s.hart j).stance := by
  unfold State.notifyDone
  split
  · dsimp only
    split
    exacts [rfl, State.bumpCounter_part Hart.stance (fun _ _ _ _ => rfl) _]
  · rfl

@[simp] theorem State.notifyDone_mem (r : TaskRecord) : (s.notifyDone r).mem = s.mem := by
  unfold State.notifyDone
  split
  · dsimp only
    split
    · rfl
    · obtain ⟨_, e⟩ := State.bumpCounter_eq (s := s) (h := bits r.w3 11 0) (BitVec.ofNat 3 (bits r.w3 14 12))
      rw [e]
  · rfl

theorem State.holdTask_stance (q : Nat) (t : Task) (p : Option Nat) :
    ((s.holdTask k q t p).hart j).stance = (s.hart j).stance := by
  unfold State.holdTask
  dsimp only
  rw [State.modCluster_hart]
  split
  · split
    exacts [(State.Calm.refl s).dramWrite.stance j, rfl]
  · rfl

/-- A record that joins in SRAM is no byte of memory. -/
theorem State.holdTask_mem (q : Nat) (t : Task) : (s.holdTask k q t none).mem = s.mem := rfl

theorem State.loseTask_stance (t : Task) : ((s.loseTask k t).hart j).stance = (s.hart j).stance := by
  unfold State.loseTask
  split
  exacts [State.holdTask_stance _ _ _, State.notifyDone_stance _]

/-- Only a record that goes back to an overflow area is written in memory (R157, R193). -/
theorem State.loseTask_mem (t : Task)
    (hr : bit t.record.w2 5 = true → (s.cluster k).disp.room (bits t.record.w2 1 0) = some none) :
    (s.loseTask k t).mem = s.mem := by
  unfold State.loseTask
  split
  · next hb =>
    dsimp only
    rw [hr hb]
    exact State.holdTask_mem _ _
  · rw [State.notifyDone_mem]
    rfl

theorem State.stopTriple_stance : ((s.stopTriple c).hart c).stance = (.idle, (s.hart c).sys) := by
  have sys : ((s.unbindGang c true).hart c).sys = (s.hart c).sys :=
    State.unbindGang_part (fun h => h.sys) (fun _ _ _ => rfl) true
  unfold State.stopTriple
  dsimp only
  rw [State.hart_modHart_ne _ _ _ _ (by omega), State.hart_modHart_ne _ _ _ _ (by omega), State.hart_modHart_same]
  simp only [Hart.stance, Hart.stopAt, State.modCluster_hart, State.liftToward_hart, sys]

theorem State.stopTriple_mem : (s.stopTriple c).mem = s.mem := by
  obtain ⟨_, e⟩ := State.unbindGang_eq (s := s) (c := c) true
  unfold State.stopTriple
  simp [e]

theorem State.stopTriple_disp : ((s.stopTriple c).cluster k).disp = (s.cluster k).disp := by
  obtain ⟨_, e⟩ := State.unbindGang_eq (s := s) (c := c) true
  unfold State.stopTriple
  simp only [State.modHart_cluster]
  rw [State.part_modCluster Cluster.disp (fun _ => by rfl), State.liftToward_cluster, State.liftToward_cluster,
    State.liftToward_cluster, e]
  rfl

/-! ## Fencing a hart (R179, R191) -/

@[simp] theorem State.logEvent_hart (n : Nat) (w a : Word) : (s.logEvent n w a).hart j = s.hart j := rfl
@[simp] theorem State.logEvent_cluster (n : Nat) (w a : Word) : (s.logEvent n w a).cluster j = s.cluster j := rfl
@[simp] theorem State.logEvent_mem (n : Nat) (w a : Word) : (s.logEvent n w a).mem = s.mem := rfl
@[simp] theorem State.cutService_mem : (s.cutService h).mem = s.mem := rfl

theorem State.cutService_sys : ((s.cutService h).hart j).sys = (s.hart j).sys :=
  State.part_modHart Hart.sys (fun _ => by rfl) j

theorem State.fencedCore_of_stance {a : Activity} {y : SysRegs} (hs : (t.hart j).stance = (a, y)) :
    t.fencedCore j = bit y.fence 8 := by
  have hy : (t.hart j).sys = y := congrArg Prod.snd hs
  rw [State.fencedCore, hy]

/-- The core's triple is stopped and marked as fenced, before its task is dealt with. -/
def State.fencedTriple (s : State) (c : Nat) : State :=
  ((s.stopTriple c).modHart c fun t =>
    { t with task := none, search := none, sys := { t.sys with fence := setBit t.sys.fence 8 true } }).logEvent 2
      (BitVec.ofNat 64 c) 0

theorem State.fencedTriple_stance : ((s.fencedTriple c).hart c).stance =
    (.idle, { (s.hart c).sys with fence := setBit (s.hart c).sys.fence 8 true }) := by
  have st := State.stopTriple_stance (s := s) (c := c)
  rw [Hart.stance, Prod.mk.injEq] at st
  rw [State.fencedTriple, State.logEvent_hart, State.hart_modHart_same, Hart.stance, st.1, st.2]

theorem State.fencedTriple_mem : (s.fencedTriple c).mem = s.mem := by
  rw [State.fencedTriple, State.logEvent_mem, State.modHart_mem, State.stopTriple_mem]

theorem State.fencedTriple_disp : ((s.fencedTriple c).cluster k).disp = (s.cluster k).disp := by
  rw [State.fencedTriple, State.logEvent_cluster, State.modHart_cluster, State.stopTriple_disp]

theorem coreOf_of_core (hk : kindOf h = 0) : coreOf h = h := by
  unfold kindOf at hk
  unfold coreOf
  omega

theorem State.fenceHart_core (hk : kindOf h = 0) (hf : s.fencedCore h = false) :
    s.fenceHart h = match (s.hart h).task with
      | some r => (s.fencedTriple h).loseTask (clusterOf h) r.task
      | none => s.fencedTriple h := by
  unfold State.fenceHart
  rw [if_neg (by omega), coreOf_of_core hk]
  dsimp only
  rw [if_neg (by simp [hf])]
  rfl

theorem State.fenceHart_service (hk : kindOf h = 3) :
    s.fenceHart h = (((s.logEvent 2 (BitVec.ofNat 64 h) 0).liftToward h).cutService h).modHart h fun t =>
      { t.stopAt .idle with sys := { t.sys with fence := setBit t.sys.fence 8 true } } := if_pos hk

/-- A fenced hart is idle, and its fence register says so. -/
theorem State.fenceHart_stance (hk : kindOf h = 0 ∨ kindOf h = 3) (hf : s.fencedCore h = false) :
    ((s.fenceHart h).hart h).stance = (.idle, { (s.hart h).sys with fence := setBit (s.hart h).sys.fence 8 true }) := by
  rcases hk with hk | hk
  · rw [State.fenceHart_core hk hf]
    split
    exacts [(State.loseTask_stance _).trans State.fencedTriple_stance, State.fencedTriple_stance]
  · rw [State.fenceHart_service hk, State.hart_modHart_same, Hart.stance, State.cutService_sys, State.liftToward_hart,
      State.logEvent_hart]
    rfl

/-- A fence writes memory only where a task that may restart finds its dispatcher's SRAM full (R193). -/
theorem State.fenceHart_mem (hk : kindOf h = 0 ∨ kindOf h = 3) (hf : s.fencedCore h = false)
    (hr : ∀ r, (s.hart h).task = some r → bit r.task.record.w2 5 = true →
      (s.cluster (clusterOf h)).disp.room (bits r.task.record.w2 1 0) = some none) :
    (s.fenceHart h).mem = s.mem := by
  rcases hk with hk | hk
  · rw [State.fenceHart_core hk hf]
    split
    · next r hr' =>
      rw [State.loseTask_mem _ fun hb => by rw [State.fencedTriple_disp]; exact hr r hr' hb]
      exact State.fencedTriple_mem
    · exact State.fencedTriple_mem
  · rw [State.fenceHart_service hk, State.modHart_mem, State.cutService_mem, State.liftToward_mem, State.logEvent_mem]

/-- A hart whose fence register is set executes no head. -/
theorem State.canRun_of_fenced (hf : t.fencedCore h = true) : t.canRun h = false := by
  unfold State.fencedCore at hf
  simp [State.canRun, hf]

/-! ## The main context of a core: a double trap, or no handler to go to (R179) -/

/-- A trap of hart h's main context finds no level left, or no vector. -/
def State.noHandler (s : State) (h : Nat) : Prop :=
  ∀ level, trapLevel (kindOf h) (s.hart h).traps.status = some level → headIndex ((s.hart h).traps.vector level) = 0

theorem trapMain_of_noHandler {cause epc tval : Word} (hn : s.noHandler h) :
    s.trapMain h cause epc tval = ((s.unbindGang h true).logEvent 5 (BitVec.ofNat 64 h) 0).fenceHart h := by
  have traps : ((s.unbindGang h true).hart h).traps = (s.hart h).traps :=
    State.unbindGang_part (fun h => h.traps) (fun _ _ _ => rfl) true
  unfold State.trapMain
  dsimp only
  rw [traps]
  split
  · rfl
  · next level hl => rw [if_pos (hn level hl)]

theorem State.noHandler_of_status (hk : kindOf h = 0 ∨ kindOf h = 3)
    (hs : let st := (s.hart h).traps.status
      let toSup := kindOf h = 0 ∧ (bits st 1 0 = 0 ∨ (bits st 1 0 = 1 ∧ bit st 10 = false))
      (2 ≤ bits st 1 0 ∧ bit st 11 = true) ∨ (toSup ∧ headIndex (s.hart h).traps.sup.tvec = 0) ∨
       (¬ toSup ∧ headIndex (s.hart h).traps.mach.tvec = 0)) : s.noHandler h := by
  intro level hl
  dsimp only at hs
  generalize (s.hart h).traps = tr at hs hl
  unfold trapLevel at hl
  unfold TrapState.vector
  split at hl
  · next h0 =>
    rcases hk with hk | hk <;> simp_all
    simp [← hl, hs]
  · next h1 =>
    rcases hk with hk | hk <;> by_cases hb : bit tr.status 10 = true <;> simp_all <;> simp [← hl, hs]
  · next h0 h1 =>
    by_cases hb : bit tr.status 11 = true <;> simp_all
    simp [← hl, hs]

/-! ## Whose head it was stays -/

@[simp] theorem State.liftToward_cur : (s.liftToward h).cur = s.cur := by
  obtain ⟨_, _, e⟩ := State.liftToward_eq (s := s) (h := h)
  rw [e]

@[simp] theorem State.unbindGang_cur (self : Bool) : (s.unbindGang c self).cur = s.cur := by
  obtain ⟨_, e⟩ := State.unbindGang_eq (s := s) (c := c) self
  rw [e]

@[simp] theorem State.unbindGang_mem (self : Bool) : (s.unbindGang c self).mem = s.mem := by
  obtain ⟨_, e⟩ := State.unbindGang_eq (s := s) (c := c) self
  rw [e]

@[simp] theorem State.unbindGang_cluster (self : Bool) : (s.unbindGang c self).cluster k = s.cluster k := by
  obtain ⟨_, e⟩ := State.unbindGang_eq (s := s) (c := c) self
  rw [e]
  rfl

@[simp] theorem State.logEvent_cur (n : Nat) (w a : Word) : (s.logEvent n w a).cur = s.cur := rfl
@[simp] theorem State.cutService_cur : (s.cutService h).cur = s.cur := rfl

theorem State.notifyDone_cur (r : TaskRecord) : (s.notifyDone r).cur = s.cur := by
  unfold State.notifyDone
  split
  · dsimp only
    split
    · rfl
    · obtain ⟨_, e⟩ := State.bumpCounter_eq (s := s) (h := bits r.w3 11 0) (BitVec.ofNat 3 (bits r.w3 14 12))
      rw [e]
  · rfl

theorem State.holdTask_cur (q : Nat) (t : Task) (p : Option Nat) : (s.holdTask k q t p).cur = s.cur := by
  unfold State.holdTask
  dsimp only
  rw [State.modCluster_cur]
  split
  · split
    exacts [(State.Calm.refl s).dramWrite.cur, rfl]
  · rfl

theorem State.loseTask_cur (t : Task) : (s.loseTask k t).cur = s.cur := by
  unfold State.loseTask
  split
  exacts [State.holdTask_cur _ _ _, State.notifyDone_cur _]

theorem State.fencedTriple_cur : (s.fencedTriple c).cur = s.cur := by
  rw [State.fencedTriple, State.logEvent_cur, State.modHart_cur, State.stopTriple]
  simp

theorem State.fenceHart_cur (hk : kindOf h = 0 ∨ kindOf h = 3) (hf : s.fencedCore h = false) :
    (s.fenceHart h).cur = s.cur := by
  rcases hk with hk | hk
  · rw [State.fenceHart_core hk hf]
    split
    exacts [(State.loseTask_cur _).trans State.fencedTriple_cur, State.fencedTriple_cur]
  · rw [State.fenceHart_service hk, State.modHart_cur, State.cutService_cur, State.liftToward_cur, State.logEvent_cur]

theorem takeTrap_core {cause epc tval : Word} (hc : s.ctx = .main) (hk : kindOf s.cur = 0 ∨ kindOf s.cur = 3) :
    s.takeTrap cause epc tval = s.trapMain s.cur cause epc tval := by
  unfold State.takeTrap
  rw [hc]
  exact if_neg (by omega)

/-- A double trap, or a trap without a vector, leaves the hart idle and fenced (R179). -/
theorem trap_without_handler {cause epc tval : Word} (hc : s.ctx = .main) (hk : kindOf s.cur = 0 ∨ kindOf s.cur = 3)
    (hf : s.fencedCore s.cur = false) (hn : s.noHandler s.cur) :
    let t := s.takeTrap cause epc tval
    t.me.act = .idle ∧ t.fencedCore s.cur = true ∧ t.canRun s.cur = false ∧
    ((∀ r, s.me.task = some r → bit r.task.record.w2 5 = true →
      (s.cluster (clusterOf s.cur)).disp.room (bits r.task.record.w2 1 0) = some none) →
      ∀ a, memGet t.mem a = memGet s.mem a) := by
  intro t
  have ht : t = ((s.unbindGang s.cur true).logEvent 5 (BitVec.ofNat 64 s.cur) 0).fenceHart s.cur :=
    (takeTrap_core hc hk).trans (trapMain_of_noHandler hn)
  have before {α : Type} (f : Hart → α) (hf : ∀ h g e, f { h with gang := g, engine := e } = f h) :
      f (((s.unbindGang s.cur true).logEvent 5 (BitVec.ofNat 64 s.cur) 0).hart s.cur) = f s.me :=
    State.unbindGang_part f hf true
  have open_ : ((s.unbindGang s.cur true).logEvent 5 (BitVec.ofNat 64 s.cur) 0).fencedCore s.cur = false := by
    rw [← hf, State.fencedCore, before (fun h => h.sys) fun _ _ _ => rfl]
    rfl
  have cur : t.cur = s.cur := by rw [ht, State.fenceHart_cur hk open_, State.logEvent_cur, State.unbindGang_cur]
  have st := ht ▸ State.fenceHart_stance hk open_
  have fenced : t.fencedCore s.cur = true := by
    rw [State.fencedCore_of_stance st, bit_setBit (by decide)]
    simp
  refine ⟨?_, fenced, State.canRun_of_fenced fenced, fun hr a => ?_⟩
  · rw [State.me, cur]
    exact congrArg Prod.fst st
  · rw [ht, State.fenceHart_mem hk open_ fun r hr' hb => ?_]
    · simp
    · rw [before (fun h => h.task) fun _ _ _ => rfl] at hr'
      rw [State.logEvent_cluster, State.unbindGang_cluster]
      exact hr r hr' hb

/-! ## Companions and the handler context (R41, R45) -/

theorem takeTrap_companion {cause epc tval : Word} (hc : s.ctx = .main) (hk : kindOf s.cur = 1 ∨ kindOf s.cur = 2) :
    s.takeTrap cause epc tval = s.trapCompanion s.cur cause epc tval := by
  unfold State.takeTrap
  rw [hc]
  exact if_pos hk

/-- A companion's trap stops it and pends on its compute core (R45). -/
theorem trap_of_companion {cause epc tval : Word} (hc : s.ctx = .main) (hk : kindOf s.cur = 1 ∨ kindOf s.cur = 2) :
    let t := s.takeTrap cause epc tval
    let v := (epc &&& ~~~1#64) ||| (if kindOf s.cur = 2 then 1 else 0)
    t.me.act = .stopped true ∧ t.me.traps.mach = ⟨cause, epc, tval, s.me.traps.mach.tvec⟩ ∧
      v ∈ (t.hart (coreOf s.cur)).traps.pend.companion ∧ (t.hart (coreOf s.cur)).main = (s.hart (coreOf s.cur)).main ∧
      (∀ r, t.x r = s.x r) ∧ ∀ a, memGet t.mem a = memGet s.mem a := by
  intro t v
  have other : s.cur ≠ coreOf s.cur := by unfold kindOf at hk; unfold coreOf; omega
  have hv : v = setBit epc 0 (kindOf s.cur == 2) := by
    rcases hk with hk | hk <;> simp [v, hk, setBit, setBits]
  have ht : t = s.trapCompanion s.cur cause epc tval := takeTrap_companion hc hk
  have me : t.me = { s.me with
      act := .stopped true, park := none
      traps := { s.me.traps with mach := { s.me.traps.mach with cause := cause, epc := epc, tval := tval } }
      main := { s.me.main with pc := epc, image := none } } := by
    rw [ht, State.me, State.trapCompanion]
    dsimp only [State.modHart_cur]
    rw [State.hart_modHart_ne _ _ _ _ other, State.hart_modHart_same]
    rfl
  have core : (t.hart (coreOf s.cur)).main = (s.hart (coreOf s.cur)).main ∧
      v ∈ (t.hart (coreOf s.cur)).traps.pend.companion := by
    rw [ht, hv, State.trapCompanion]
    dsimp only
    rw [State.hart_modHart_same, State.hart_modHart_ne _ _ _ _ other.symm]
    simp
  refine ⟨by rw [me], by rw [me], core.2, core.1, fun r => ?_, fun a => by rw [ht]; rfl⟩
  have ctx : t.ctx = s.ctx := by rw [ht]; rfl
  simp [State.x, ctx, hc, me]

/-- A trap of a scope-miss run leaves its fence to the core, over what the run's own fence does not cover (R103). -/
theorem State.tget_fenceBySelf {u n : Nat} {hd : Hold} (h : tget s.holds u = some hd) (hw : hd.writer = c) :
    tget (s.fenceBySelf c u n).holds u = some { hd with auto := some n } := by
  simp [State.fenceBySelf, h, hw]

/-- What is done for the run that a handler's trap ends, before it ends (R103, R416). -/
def State.dropRun (s : State) (h : Nat) : State :=
  match (s.hart h).handler.run with
  | some r => match r.kind with
    | .scopeMiss u _ => s.fenceBySelf h u (if (s.hart h).handler.fenced then 0 else (s.hart h).mem.serial)
    | .drain _ => s.modHart h fun t => { t with engine := { t.engine with rowsLeft := t.engine.rowsLeft - 1 } }
  | none => s

theorem State.dropRun_part {α : Type} (f : Hart → α) (hf : ∀ h e, f { h with engine := e } = f h) :
    f ((s.dropRun h).hart j) = f (s.hart j) := by
  unfold State.dropRun
  split
  · split
    exacts [rfl, State.part_modHart f (fun _ => hf _ _) j]
  · rfl

theorem State.dropRun_rest : (s.dropRun h).mem = s.mem ∧ (s.dropRun h).cur = s.cur := by
  unfold State.dropRun
  split
  · split <;> exact ⟨rfl, rfl⟩
  · exact ⟨rfl, rfl⟩

theorem State.trapHandler_eq (epc : Word) : s.trapHandler h epc = (s.dropRun h).modHart h fun t =>
    { t with handler := { t.handler with run := none, image := none }, hpark := none
             runs := { t.runs with blocked := some 0 }
             traps := { t.traps with pend := { t.traps.pend with handlerFault := some epc } } } := rfl

end

/-- Settles O15: what fencing does, and the two other ways of a trap. -/
theorem trapsThatStopOrEndARun : Obligations.TrapsThatStopOrEndARun := by
  unfold Obligations.TrapsThatStopOrEndARun
  refine ⟨fun s cause epc tval hc hk hf hs => trap_without_handler hc hk hf (State.noHandler_of_status hk hs),
    fun s cause epc tval hc _ hk => trap_of_companion hc hk, fun s cause epc tval hc => ?_⟩
  intro t
  have ht : t = s.trapHandler s.cur epc := by
    unfold t State.takeTrap
    rw [hc]
  obtain ⟨mem, cur⟩ := State.dropRun_rest (s := s) (h := s.cur)
  have me {α : Type} (f : Hart → α) (hf : ∀ h e, f { h with engine := e } = f h) : f ((s.dropRun s.cur).hart s.cur) = f s.me :=
    State.dropRun_part f hf
  have new : t.me = { (s.dropRun s.cur).hart s.cur with
      handler := { ((s.dropRun s.cur).hart s.cur).handler with run := none, image := none }, hpark := none
      runs := { ((s.dropRun s.cur).hart s.cur).runs with blocked := some 0 }
      traps := { ((s.dropRun s.cur).hart s.cur).traps with
        pend := { ((s.dropRun s.cur).hart s.cur).traps.pend with handlerFault := some epc } } } := by
    rw [ht, State.trapHandler_eq, State.me, State.modHart_cur, cur, State.hart_modHart_same]
  rw [new]
  refine ⟨rfl, rfl, me (fun h => h.runs.fifo) fun _ _ => rfl, rfl, me (fun h => h.main) fun _ _ => rfl,
    me (fun h => h.traps.sup) fun _ _ => rfl, me (fun h => h.traps.mach) fun _ _ => rfl,
    me (fun h => h.traps.status) fun _ _ => rfl, fun a => ?_, fun r u sc hd hr hu hh hw => ?_⟩
  · rw [ht, State.trapHandler_eq, State.modHart_mem, mem]
  · rw [ht, State.trapHandler_eq, State.modHart_holds, State.dropRun]
    unfold State.me at hr ⊢
    simp only [hr, hu]
    exact State.tget_fenceBySelf hh hw

end Sys2Proof.Machine
end

section
/-! O7: heads that are not accepted. An instruction that a line holds runs under a table of who accepts it, and a hart or
context that the table leaves out takes ILLEGAL with the head (R38, R43, R209, R210). -/

namespace Sys2Proof.Machine

section
variable {i : Instr} {s : State} {P : Accept → Prop}

/-- Instruction i runs under a table of who accepts it that meets P, with its own head as the head that is named. -/
def RunsUnder (P : Accept → Prop) (i : Instr) (s : State) : Prop :=
  ∃ e a xs vs p m, encode i = some e ∧ exec i s = runHead a e.head xs vs p m s ∧ P a

/-- A hart or context that the table leaves out takes ILLEGAL, and nothing else happens. -/
theorem RunsUnder.illegal (h : RunsUnder (fun a => a.ok s = false) i s) :
    ∃ e, encode i = some e ∧
      exec i s = .next (s.takeTrap (BitVec.ofNat 64 0x03) s.pc (BitVec.ofNat 64 e.head)) := by
  obtain ⟨e, a, xs, vs, p, m, he, hr, ha⟩ := h
  exact ⟨e, he, hr.trans (runHead_illegal (by simp [ha]))⟩

theorem RunsUnder.imp {Q : Accept → Prop} (h : RunsUnder P i s) (hq : ∀ a, P a → Q a) : RunsUnder Q i s := by
  obtain ⟨e, a, xs, vs, p, m, he, hr, ha⟩ := h
  exact ⟨e, a, xs, vs, p, m, he, hr, hq a ha⟩

/-! ## Whom a table leaves out -/

theorem Accept.ok_handler (a : Accept) (hk : kindOf s.cur = 0) (hc : s.ctx = .handler) : a.ok s = a.handler := by
  simp [Accept.ok, hk, hc]

theorem Accept.ok_companion (a : Accept) (hk : kindOf s.cur = 1 ∨ kindOf s.cur = 2) : a.ok s = a.companion := by
  rcases hk with hk | hk <;> simp [Accept.ok, hk]

theorem Accept.ok_service (a : Accept) (hk : kindOf s.cur = 3) : a.ok s = a.service := by
  simp [Accept.ok, hk]

/-- The handler context alone accepts HRET (R284). -/
theorem Accept.ok_handlerOnly (h : ¬ (kindOf s.cur = 0 ∧ s.ctx = .handler)) :
    (⟨false, true, false, false⟩ : Accept).ok s = false := by
  unfold Accept.ok
  split
  · rfl
  · next hk hc => exact absurd ⟨hk, hc⟩ h
  · rfl
  · rfl

/-- A table that accepts no handler context and no service core, or no companion either, leaves out who is none of these. -/
theorem Accept.ok_false (a : Accept)
    (h : (kindOf s.cur = 0 ∧ s.ctx = .handler) ∧ a.handler = false ∨ (kindOf s.cur = 1 ∨ kindOf s.cur = 2) ∧ a.companion = false ∨
      kindOf s.cur = 3 ∧ a.service = false) : a.ok s = false := by
  rcases h with ⟨⟨hk, hc⟩, h⟩ | ⟨hk, h⟩ | ⟨hk, h⟩
  · rw [a.ok_handler hk hc, h]
  · rw [a.ok_companion hk, h]
  · rw [a.ok_service hk, h]

end

/-! ## Heads that are turned away by their meaning -/

section
variable {i : Instr} {s : State}

/-! The conversions with error feedback need predicate registers, which a handler context has none of (R308, R338). -/

theorem vcvt_runsUnder {d : BitVec 5} {er : BitVec 3} {ef rz : BitVec 1} {part : BitVec 4} {p : BitVec 3}
    {toF fromF : BitVec 4} {b : BitVec 5} :
    RunsUnder (fun a => a.companion = false ∧ (ef = 1 → a.handler = false)) (.vcvt d er ef rz part p toF fromF b) s := by
  by_cases h : ef = 1
  · exact ⟨_, _, _, _, _, _, rfl, if_pos h, rfl, fun _ => rfl⟩
  · exact ⟨_, _, _, _, _, _, rfl, if_neg h, rfl, fun e => absurd e h⟩

theorem venc_runsUnder {d : BitVec 5} {er : BitVec 3} {ef : BitVec 1} {part : BitVec 4} {p : BitVec 3}
    {toF fromF : BitVec 4} {b : BitVec 5} :
    RunsUnder (fun a => a.companion = false ∧ (ef = 1 → a.handler = false)) (.venc d er ef part p toF fromF b) s := by
  by_cases h : ef = 1
  · exact ⟨_, _, _, _, _, _, rfl, if_pos h, rfl, fun _ => rfl⟩
  · exact ⟨_, _, _, _, _, _, rfl, if_neg h, rfl, fun e => absurd e h⟩

/-- A queue access to a vector register on a hart without any (R356). -/
theorem queueHead_vector_traps {d : BitVec 6} {m : M Unit} (hk : kindOf s.cur = 1 ∨ kindOf s.cur = 2)
    (he : exec i s = queueHead d 1 m s) :
    Traps i s (BitVec.ofNat 64 0x03) (BitVec.ofNat 64 (headOf 0x57 1 d.toNat)) := by
  refine traps_of_run (he.trans (runHead_ok (by rw [Accept.ok_companion _ hk]) (by cases hc : s.ctx <;> simp [State.visible, hc]))) ?_
  rw [bind_get, if_pos ⟨rfl, by omega⟩, run_illegalM]

/-- A copy command that names a queue where there is none (R369). -/
theorem copyM_queue_illegal {b : BitVec 6} {gather : Bool} {qd qs : Option (BitVec 3)} {bell : Option (BitVec 2)} {head : Nat}
    (hq : qd.isSome = true ∨ qs.isSome = true) (hs : kindOf s.cur = 3 ∨ s.ctx = .handler) :
    (copyM b gather qd qs bell head).run s =
      (.error (.trap (BitVec.ofNat 64 0x03) (BitVec.ofNat 64 head)), s) := by
  unfold copyM
  rw [bind_get, if_pos (by rcases hq with h | h <;> rcases hs with k | k <;> simp [h, k]), run_illegalM]

theorem queueField_isSome (q : BitVec 3) : (queueField 1 q).isSome = true := rfl

/-- One x register below x16 is seen everywhere (R38). -/
theorem State.visible_low {b : BitVec 6} (h : s.ctx = .handler → b.toNat < 16) : s.visible [b] [] 0 = true := by
  cases hc : s.ctx <;> simp [State.visible, hc, h]

/-- Registers that a handler context has not are not seen there (R38, R308). -/
theorem State.visible_handler {xs : List (BitVec 6)} {vs : List (BitVec 5)} {p : BitVec 3} (hc : s.ctx = .handler)
    (h : (∃ n ∈ xs, 16 ≤ n.toNat) ∨ (∃ n ∈ vs, 8 ≤ n.toNat) ∨ p ≠ 0) : s.visible xs vs p = false := by
  unfold State.visible
  rw [hc]
  simp only [Bool.and_eq_false_iff, List.all_eq_false, decide_eq_true_eq, not_lt, beq_eq_false_iff_ne]
  rcases h with h | h | h
  exacts [.inl (.inl h), .inl (.inr h), .inr h]

end

/-- Settles O7: each group of heads by the table it runs under, and the rest by the first check of its meaning. -/
theorem headsNotAcceptedAreIllegal : Obligations.HeadsNotAcceptedAreIllegal := by
  unfold Obligations.HeadsNotAcceptedAreIllegal
  intro mainOnly computeOrService noHandlerNoCompanion noService mainOrCompanion noCompanion illegal turnedAway
    handler companion service
  have ofMain (i : Instr) (s : State) (h : mainOnly i = true) :
      RunsUnder (fun a => a.handler = false ∧ a.companion = false ∧ a.service = false) i s := by
    cases i <;> cases h <;> exact ⟨_, _, _, _, _, _, rfl, rfl, rfl, rfl, rfl⟩
  have ofCompute (i : Instr) (s : State) (h : computeOrService i = true) : RunsUnder (fun a => a.companion = false) i s := by
    cases i
    case vcvt => exact vcvt_runsUnder.imp fun _ h => h.1
    case venc => exact venc_runsUnder.imp fun _ h => h.1
    all_goals cases h <;> exact ⟨_, _, _, _, _, _, rfl, rfl, rfl⟩
  have ofPredicates (i : Instr) (s : State) (h : noHandlerNoCompanion i = true) :
      RunsUnder (fun a => a.handler = false ∧ a.companion = false) i s := by
    cases i <;> cases h <;> exact ⟨_, _, _, _, _, _, rfl, rfl, rfl, rfl⟩
  have ofFullEmpty (i : Instr) (s : State) (h : noService i = true) : RunsUnder (fun a => a.service = false) i s := by
    cases i <;> cases h <;> exact ⟨_, _, _, _, _, _, rfl, rfl, rfl⟩
  have ofQueues (i : Instr) (s : State) (h : mainOrCompanion i = true) :
      RunsUnder (fun a => a.handler = false ∧ a.service = false) i s := by
    cases i <;> cases h <;> exact ⟨_, _, _, _, _, _, rfl, rfl, rfl, rfl⟩
  have ofTasks (i : Instr) (s : State) (h : noCompanion i = true) : RunsUnder (fun a => a.companion = false) i s := by
    cases i <;> cases h <;> exact ⟨_, _, _, _, _, _, rfl, rfl, rfl⟩
  refine ⟨fun i s h hs => ((ofMain i s h).imp fun a ha => a.ok_false ?_).illegal,
    fun i s h hs => ((ofCompute i s h).imp fun a ha => (a.ok_companion hs).trans ha).illegal,
    fun i s h hs => ((ofPredicates i s h).imp fun a ha => a.ok_false ?_).illegal,
    fun i s h hs => ((ofFullEmpty i s h).imp fun a ha => (a.ok_service hs).trans ha).illegal,
    fun i s h hs => ((ofQueues i s h).imp fun a ha => a.ok_false ?_).illegal,
    fun i s h hs => ((ofTasks i s h).imp fun a ha => (a.ok_companion hs).trans ha).illegal,
    fun d b s hs => RunsUnder.illegal ⟨_, _, _, _, _, _, rfl, rfl, Accept.ok_false _ ?_⟩, fun i s hi hs => ?_,
    fun s hs => RunsUnder.illegal ⟨_, _, _, _, _, _, rfl, rfl, Accept.ok_false _ ?_⟩,
    fun s hs => RunsUnder.illegal ⟨_, _, _, _, _, _, rfl, rfl, Accept.ok_companion _ hs⟩,
    fun d er rz part p toF fromF b s hs => (vcvt_runsUnder.imp fun a ha => (a.ok_handler hs.1 hs.2).trans (ha.2 rfl)).illegal,
    fun d er part p toF fromF b s hs => (venc_runsUnder.imp fun a ha => (a.ok_handler hs.1 hs.2).trans (ha.2 rfl)).illegal,
    fun i d w q s hi hs => ?_, fun b qdv qd qsv qs s hq hs => ?_, fun b qd s hk hc => ?_, fun s hs => ?_,
    fun d c b s hs h => ?_, fun d sc t p c b s hs h => ?_⟩
  · rcases hs with h | h | h
    exacts [.inl ⟨h, ha.1⟩, .inr (.inl ⟨h, ha.2.1⟩), .inr (.inr ⟨h, ha.2.2⟩)]
  · rcases hs with h | h
    exacts [.inl ⟨h, ha.1⟩, .inr (.inl ⟨h, ha.2⟩)]
  · rcases hs with h | h
    exacts [.inl ⟨h, ha.1⟩, .inr (.inr ⟨h, ha.2⟩)]
  · rcases hs with h | h
    exacts [.inr (.inl ⟨h, rfl⟩), .inr (.inr ⟨h, rfl⟩)]
  · rcases hi with rfl | ⟨imm, rfl⟩ <;>
      exact RunsUnder.illegal ⟨_, _, _, _, _, _, rfl, rfl, Accept.ok_handler _ hs.1 hs.2⟩
  · rcases hs with h | h | h
    exacts [.inl ⟨h, rfl⟩, .inr (.inl ⟨h, rfl⟩), .inr (.inr ⟨h, rfl⟩)]
  · rcases hi with rfl | rfl <;> exact ⟨_, rfl, queueHead_vector_traps hs rfl⟩
  · refine ⟨_, rfl, traps_of_run (runHead_ok (a := acceptAll) ?_ (State.visible_low ?_)) (copyM_queue_illegal ?_ ?_)⟩
    · rcases hs with ⟨h, -⟩ | ⟨h, -⟩
      exacts [Accept.ok_handler _ h.1 h.2, Accept.ok_service _ h]
    · rcases hs with ⟨-, h⟩ | ⟨-, h⟩
      exacts [fun _ => h, fun hc => nomatch h.symm.trans hc]
    · exact hq.imp (fun h => by rw [h]; rfl) fun h => by rw [h]; rfl
    · exact hs.symm.imp (fun h => h.1) fun h => h.1.2
  · exact ⟨_, rfl, traps_of_run (runHead_ok (a := ⟨true, false, false, true⟩) (Accept.ok_service _ hk)
      (State.visible_low fun h => nomatch hc.symm.trans h)) (copyM_queue_illegal (.inl rfl) (.inl hk))⟩
  · exact RunsUnder.illegal ⟨_, _, _, _, _, _, rfl, rfl, Accept.ok_handlerOnly hs⟩
  · refine ⟨_, rfl, runHead_illegal ?_⟩
    rw [State.visible_handler hs.2 (.inl ?_), Bool.and_false]
    simpa using h
  · refine ⟨_, rfl, runHead_illegal ?_⟩
    rw [State.visible_handler hs.2 (.inr ?_), Bool.and_false]
    rcases h with h | h | h
    exacts [.inl ⟨d, by simp, h⟩, .inl ⟨b, by simp, h⟩, .inr h]

end Sys2Proof.Machine
end

section
/-! O45: the commands of the matrix engine. Each checks, samples and joins the queue; the parts that they share are said
once (R52, R189, R401, R402). -/

namespace Sys2Proof.Machine

section
variable {s t u : State} {i : Instr} {c : MatCmd}

/-! ## Joining the queue -/

/-- A command stands last in the queue of the executing core's engine (R52). -/
def State.queueCmd (s : State) (c : MatCmd) : State :=
  s.modMe fun h => { h with engine := { h.engine with queue := h.engine.queue ++ [c] } }

theorem submitM_done (h : s.me.engine.queue.length < 2) : (submitM c).run s = (.ok (), (s.queueCmd c).retire) := by
  unfold submitM
  rw [bind_get, if_neg (by omega)]
  rfl

theorem submitM_waits (h : 2 ≤ s.me.engine.queue.length) : (submitM c).run s = (.error (.park .engine none), s) := by
  unfold submitM
  rw [bind_get, if_pos h, run_parkM]

theorem engineM_done (h : s.subArrays s.cur ≠ 0) : engineM.run s = (.ok (), s) := by
  unfold engineM
  rw [bind_get, if_neg h, run_pure]

theorem engineM_fenced (h : s.subArrays s.cur = 0) : engineM.run s = (.error (.trap (BitVec.ofNat 64 0x07) 0), s) := by
  unfold engineM
  rw [bind_get, if_pos h, run_trapM]
  rfl

/-- A head whose command joined the queue ends as heads do. -/
theorem endsAs_queueCmd (he : exec i s = .next (u.queueCmd c).retire) :
    EndsAs i s u (u.modMe fun h => { h with engine := { h.engine with queue := h.engine.queue ++ [c] } }) [] [] [] 0 fun t =>
      t.me.engine.queue = u.me.engine.queue ++ [c] :=
  endsAs_retire he (State.pc_modMe rfl rfl) (State.image_modMe rfl rfl) (by simp) ⟨by simp, by simp⟩

/-! ## The accumulator (R402) -/

theorem accBase_done {a : Word} {p rows off : Nat} (hw : s.windowOf s.cur a.toNat = (.pad, off)) (ha : a.toNat % 64 = 0)
    (hr : off + (rows - 1) * p + 64 ≤ 0xF_C000) : (accBase a p rows).run s = (.ok off, s) := by
  unfold accBase
  rw [bind_get, hw]
  exact (congrArg (fun m : M Nat => m.run s) (if_neg (by omega))).trans rfl

theorem accStack_done {off p rows : Nat} (hr : off + (rows - 1) * p + 64 ≤ 0xF_C000) :
    (accStack off p rows).run s = (.ok (), s) := by
  have low (k : Nat) (hk : k < rows) : off + k * p + 64 ≤ 0xF_C000 := by
    have := Nat.mul_le_mul_right p (show k ≤ rows - 1 by omega)
    omega
  unfold accStack
  rw [bind_get, List.find?_eq_none.2 fun k hk => by simpa using low k (List.mem_range.1 hk)]
  rfl

/-! ## Commands without operands in memory -/

theorem exec_pswap (ha : Accepted acceptMain .pswap [] [] 0 s) (hf : s.subArrays s.cur ≠ 0)
    (hq : s.me.engine.queue.length < 2) : exec .pswap s = .next (s.queueCmd (s.sample .pswap none)).retire := by
  refine exec_of_run (ha.exec_eq rfl) ?_
  rw [bind_ok (engineM_done hf), bind_get, submitM_done hq]

theorem exec_quiz (ha : Accepted acceptMain .quiz [] [] 0 s) (hf : s.subArrays s.cur ≠ 0)
    (hq : s.me.engine.queue.length < 2) : exec .quiz s = .next (s.queueCmd (s.sample .quiz none)).retire := by
  refine exec_of_run (ha.exec_eq rfl) ?_
  rw [bind_ok (engineM_done hf), bind_get, submitM_done hq]

theorem pswap_traps (ha : Accepted acceptMain .pswap [] [] 0 s) (hf : s.subArrays s.cur = 0) :
    Traps .pswap s (BitVec.ofNat 64 0x07) 0 := traps_of_run (ha.exec_eq rfl) (bind_error (engineM_fenced hf))

theorem quiz_traps (ha : Accepted acceptMain .quiz [] [] 0 s) (hf : s.subArrays s.cur = 0) :
    Traps .quiz s (BitVec.ofNat 64 0x07) 0 := traps_of_run (ha.exec_eq rfl) (bind_error (engineM_fenced hf))

theorem pswap_waits (ha : Accepted acceptMain .pswap [] [] 0 s) (hf : s.subArrays s.cur ≠ 0)
    (hq : 2 ≤ s.me.engine.queue.length) : Waits .pswap s .engine := by
  refine waits_of_run (ha.exec_eq rfl) (t := s) (l := none) ?_ rfl
  rw [bind_ok (engineM_done hf), bind_get, submitM_waits hq]

theorem quiz_waits (ha : Accepted acceptMain .quiz [] [] 0 s) (hf : s.subArrays s.cur ≠ 0)
    (hq : 2 ≤ s.me.engine.queue.length) : Waits .quiz s .engine := by
  refine waits_of_run (ha.exec_eq rfl) (t := s) (l := none) ?_ rfl
  rw [bind_ok (engineM_done hf), bind_get, submitM_waits hq]

/-! ## Multiplication (R406) -/

/-- The format of operand A as the executing core's registers name it (R398). -/
abbrev State.fmtA (s : State) : BitVec 4 := BitVec.ofNat 4 (bits s.me.mat.afmt 3 0)
/-- The format of operand B. -/
abbrev State.fmtB (s : State) : BitVec 4 := BitVec.ofNat 4 (bits s.me.mat.bfmt 3 0)

section
variable {d k a p : BitVec 6} {cp : BitVec 4} {z ce : BitVec 1} {mc tb ta : BitVec 3} {off : Nat} {rows : List Spans}

theorem exec_tmma (ha : Accepted acceptMain (.tmma d cp z tb ta) [d] [] 0 s) (hf : s.subArrays s.cur ≠ 0)
    (hq : s.me.engine.queue.length < 2) (hw : s.windowOf s.cur (s.x d).toNat = (.pad, off)) (hd : (s.x d).toNat % 64 = 0)
    (hr : off + 15 * (64 * 2 ^ cp.toNat) + 64 ≤ 0xF_C000) (h1 : (s.tile ta).tag = s.fmtA) (h2 : (s.tile tb).tag = s.fmtB)
    (f1 : Gives (matFmtM s.fmtA) s () s) (f2 : Gives (matFmtM s.fmtB) s () s) :
    exec (.tmma d cp z tb ta) s = .next (s.queueCmd (s.sample
      (.mma off (64 * 2 ^ cp.toNat) 16 (z == 1) (.tile (s.tile ta)) (.tile (s.tile tb)) false) none)).retire := by
  refine exec_of_run (ha.exec_eq rfl) ?_
  rw [bind_get]
  dsimp only
  rw [bind_ok f1, bind_ok f2, if_neg (by simpa [State.fmtA, State.fmtB] using ⟨h1, h2⟩),
    bind_ok (accBase_done hw hd hr), bind_ok (engineM_done hf), bind_ok (accStack_done hr), submitM_done hq]
  rfl

theorem tmma_tags_trap (ha : Accepted acceptMain (.tmma d cp z tb ta) [d] [] 0 s) (f1 : Gives (matFmtM s.fmtA) s () s)
    (f2 : Gives (matFmtM s.fmtB) s () s) (h : (s.tile ta).tag ≠ s.fmtA ∨ (s.tile tb).tag ≠ s.fmtB) :
    Traps (.tmma d cp z tb ta) s (BitVec.ofNat 64 0x05) 0 := by
  refine traps_of_run (ha.exec_eq rfl) ?_
  rw [bind_get]
  dsimp only
  rw [bind_ok f1, bind_ok f2, if_pos h, run_operandM]

theorem depthOk_of {k : Word} {fb : BitVec 4} (h1 : k.toNat % 16 = 0) (h2 : 16 ≤ k.toNat) (h3 : k.toNat ≤ 8192 / fmtBits fb) :
    depthOk k fb = true := by simp [depthOk, h1, h2, h3]

theorem exec_tmmaP (ha : Accepted acceptMain (.tmmaP d cp ce mc z k a p) [d, k, a, p] [] 0 s) (hf : s.subArrays s.cur ≠ 0)
    (hq : u.me.engine.queue.length < 2) (hw : s.windowOf s.cur (s.x d).toNat = (.pad, off)) (hd : (s.x d).toNat % 64 = 0)
    (hr : off + 15 * (64 * 2 ^ cp.toNat) + 64 ≤ 0xF_C000) (f1 : Gives (matFmtM s.fmtA) s () s)
    (f2 : Gives (matFmtM s.fmtB) s () s) (hk : depthOk (s.x k) s.fmtB = true)
    (hp : Gives (panelM (s.x a) (s.x p) (s.x k).toNat (fmtBits s.fmtA)) s rows u) :
    exec (.tmmaP d cp ce mc z k a p) s = .next (u.queueCmd (s.sample
      (.mma off (64 * 2 ^ cp.toNat) (s.x k).toNat (z == 1) (.panel rows) .plane false) (if ce = 1 then some mc else none))).retire := by
  refine exec_of_run (ha.exec_eq rfl) ?_
  rw [bind_get]
  dsimp only
  rw [bind_ok f1, bind_ok f2, if_neg (by simpa using hk), bind_ok (accBase_done hw hd hr),
    bind_ok (engineM_done hf), bind_ok hp, bind_ok (accStack_done hr), submitM_done hq]
  rfl

end

/-! ## PLOAD, TDRAIN and TBLLD (R409, R416, R418) -/

theorem exec_pload {ce : BitVec 1} {mc : BitVec 3} {n b : BitVec 6} {l : List Spans}
    (ha : Accepted acceptMain (.pload ce mc n b) [n, b] [] 0 s) (hf : s.subArrays s.cur ≠ 0)
    (hq : u.me.engine.queue.length < 2) (hb : (s.x b).toNat % 64 = 0) (hn : (s.x n).toNat % 64 = 0)
    (h1 : 64 ≤ (s.x n).toNat) (h2 : (s.x n).toNat ≤ 16384)
    (hl : Gives (rangesM false true [⟨.load, 0, 0, (s.x b).toNat, (s.x n).toNat⟩]) s l u) :
    exec (.pload ce mc n b) s = .next (u.queueCmd (s.sample (.pload l.flatten (s.x n).toNat)
      (if ce = 1 then some mc else none))).retire := by
  refine exec_of_run (ha.exec_eq rfl) ?_
  rw [bind_get, if_neg (by omega), if_neg (by omega), bind_ok (engineM_done hf), bind_ok hl, submitM_done hq]
  rfl

theorem tdrainM_done {d c : BitVec 6} {pitch : Word} {cp nr : BitVec 4} {hz : BitVec 1} {handler : Option Word} {off : Nat}
    {l : List Spans} (hf : s.subArrays s.cur ≠ 0) (hq : u.me.engine.queue.length < 2)
    (hc : (BitVec.ofNat 4 (bits s.me.mat.cfmt 3 0)).toNat < 3) (hw : s.windowOf s.cur (s.x c).toNat = (.pad, off))
    (ha : (s.x c).toNat % 64 = 0) (hr : off + 15 * (64 * 2 ^ cp.toNat) + 64 ≤ 0xF_C000)
    (hd : (s.x d).toNat % (fmtBits (BitVec.ofNat 4 (bits s.me.mat.cfmt 3 0)) / 8) = 0)
    (hp : pitch.toNat % (fmtBits (BitVec.ofNat 4 (bits s.me.mat.cfmt 3 0)) / 8) = 0)
    (hl : Gives (rangesM false true ((List.range (nr.toNat + 1)).map fun k => ⟨.store, 0, 0,
      (s.x d + BitVec.ofNat 64 k * pitch).toNat, 16 * (fmtBits (BitVec.ofNat 4 (bits s.me.mat.cfmt 3 0)) / 8)⟩)) s l u) :
    (tdrainM d c pitch cp nr hz handler).run s = (.ok (), (u.queueCmd (s.sample (.drain off (64 * 2 ^ cp.toNat) (nr.toNat + 1)
      (hz == 1) handler (BitVec.ofNat 2 s.prv) (s.x d) pitch l) none)).retire) := by
  unfold tdrainM
  rw [bind_get, if_neg (by omega), bind_ok (accBase_done hw ha hr), if_neg (by rw [hd, hp]; simp),
    bind_ok (engineM_done hf), bind_ok hl, bind_ok (accStack_done hr), submitM_done hq]
  rfl

theorem exec_tblld {slot : BitVec 2} {id : BitVec 8} {b : BitVec 6} {v : State} {l : List Spans} {tb : DecodeTable}
    (ha : Accepted acceptMain (.tblld slot id b) [b] [] 0 s) (hf : s.subArrays s.cur ≠ 0) (hb : (s.x b).toNat % 16 = 0)
    (hl : Gives (rangesM false true [⟨.load, 0, 0, (s.x b).toNat, 1040⟩]) s l u) (he : u.me.mem.sb = [])
    (hw : Gives (engineWaitM l.flatten) u () v) (hp : v.poisonSpans l.flatten = none)
    (ht : readTable (v.engineReadSpans l.flatten).1 = .ok tb)
    (hq : (v.engineReadSpans l.flatten).2.me.engine.queue.length < 2) :
    exec (.tblld slot id b) s = .next ((v.engineReadSpans l.flatten).2.queueCmd
      ((v.engineReadSpans l.flatten).2.sample (.tblld slot id tb) none)).retire := by
  refine exec_of_run (ha.exec_eq rfl) ?_
  rw [bind_get, bind_ok (engineM_done hf), if_neg (by omega), bind_ok hl, bind_ok (emptyBufferM_done he), bind_ok hw, bind_get,
    hp]
  simp only [ht]
  rw [bind_set, submitM_done hq]

end

/-- Settles O45: each command's checks pass, and it joins the queue. -/
theorem matrixCommands : Obligations.MatrixCommands := by
  unfold Obligations.MatrixCommands
  intro enters free room fa fb
  refine ⟨fun c cp z tb ta s off ha hf hr h1 h2 f1 f2 => endsAs_queueCmd (exec_tmma ha hf.1 hf.2 hr.1 hr.2.1 hr.2.2 h1 h2 f1 f2),
    fun c cp z tb ta s ha f1 f2 h => tmma_tags_trap ha f1 f2 h,
    fun c cp ce mc z k a p s off u rows ha hf hr f1 f2 k1 k2 k3 hp _ hu _ _ _ _ => endsAs_queueCmd
      (exec_tmmaP ha hf.1 (by rw [hu]; exact hf.2) hr.1 hr.2.1 hr.2.2 f1 f2 (depthOk_of k1 k2 k3) hp),
    fun ce mc n b s u l ha hf hb hn h1 h2 hl _ hu _ _ _ => endsAs_queueCmd
      (exec_pload ha hf.1 (by rw [hu]; exact hf.2) hb hn h1 h2 hl),
    fun s ha hf => endsAs_queueCmd (exec_pswap ha hf.1 hf.2), fun s ha hf => endsAs_queueCmd (exec_quiz ha hf.1 hf.2),
    fun s hf => ⟨fun ha => pswap_traps ha hf, fun ha => quiz_traps ha hf⟩,
    fun s hf hq => ⟨fun ha => pswap_waits ha hf hq, fun ha => quiz_waits ha hf hq⟩,
    fun d cp nr hz nh h c dp s u off l => ⟨fun ha hfit => ?_, fun imm ha hfit => ?_⟩,
    fun slot id b s u v l tb ha hf hb hl he hw hp ht hq => endsAs_queueCmd (exec_tblld ha hf hb hl he hw hp ht hq)⟩
  · obtain ⟨hf, hc, hr, hd, hp, hl, -, hu, -⟩ := hfit
    exact endsAs_queueCmd (exec_of_run (ha.exec_eq rfl)
      (tdrainM_done hf.1 (by rw [hu]; exact hf.2) hc hr.1 hr.2.1 hr.2.2 hd hp hl))
  · obtain ⟨hf, hc, hr, hd, hp, hl, -, hu, -⟩ := hfit
    exact endsAs_queueCmd (exec_of_run (ha.exec_eq rfl)
      (tdrainM_done hf.1 (by rw [hu]; exact hf.2) hc hr.1 hr.2.1 hr.2.2 hd hp hl))

end Sys2Proof.Machine
end

section
/-! O46: gangs. An instruction of a gang waits with what it asks for recorded, and one step of the device answers the
sixteen cores together; the step changes each core by a function of that core alone (R58, R59, R411 to R414). -/

namespace Sys2Proof.Machine

/-! ## Lists of numbers, and steps over all cores of a cluster -/

theorem upFrom_eq_range' (a n : Nat) : upFrom a n = List.range' a n := by
  induction n generalizing a with
  | zero => rfl
  | succ n ih => rw [upFrom, List.range'_succ, ih]

theorem mem_upFrom {a n x : Nat} : x ∈ upFrom a n ↔ a ≤ x ∧ x < a + n := by
  rw [upFrom_eq_range', List.mem_range'_1]

theorem nodup_upFrom (a n : Nat) : (upFrom a n).Nodup := by
  rw [upFrom_eq_range']
  exact List.nodup_range'

/-- A fold whose step at a core changes that core alone, and by a function of it, changes each core of the list once. -/
theorem hart_foldl_own {g : State → Nat → State} {F : Nat → Hart → Hart} {l : List Nat} (nd : l.Nodup)
    (own : ∀ t, ∀ c ∈ l, (g t c).hart c = F c (t.hart c)) (other : ∀ t c j, j ≠ c → (g t c).hart j = t.hart j)
    (s : State) (j : Nat) : (l.foldl g s).hart j = if j ∈ l then F j (s.hart j) else s.hart j := by
  induction l generalizing s with
  | nil => rfl
  | cons c l ih =>
    obtain ⟨hc, nd⟩ := List.nodup_cons.1 nd
    rw [List.foldl_cons, ih nd fun t d hd => own t d (List.mem_cons_of_mem _ hd)]
    by_cases e : j = c
    · subst e
      rw [if_neg hc, own _ _ List.mem_cons_self, if_pos List.mem_cons_self]
    · rw [other _ _ _ e]
      simp only [List.mem_cons, e, false_or]

theorem nodup_coresOf (k : Nat) : (coresOf k).Nodup := nodup_upFrom _ _

/-- A fold whose steps leave memory leaves memory. -/
theorem mem_foldl {α : Type} {g : State → α → State} (h : ∀ t a, (g t a).mem = t.mem) (l : List α) (s : State) :
    (l.foldl g s).mem = s.mem :=
  List.foldlRecOn (motive := fun t : State => t.mem = s.mem) l g rfl fun t ht a _ => (h t a).trans ht

section
variable {s t u : State} {i : Instr} {n : BitVec 4}

/-! ## The answer that the sixteen cores have met -/

/-- The answer is taken. -/
def State.takeAnswer (s : State) : State := s.modMe fun h => { h with answer := none }

theorem gangAnswerM_done (h : s.me.answer = some .done) : gangAnswerM.run s = (.ok true, s.takeAnswer) := by
  have noTrap : answerM.run s = (.ok (), s) := by
    unfold answerM
    rw [bind_get, h]
    rfl
  unfold gangAnswerM
  rw [bind_ok noTrap, bind_get, h]
  rfl

theorem gangAnswerM_none (h : s.me.answer = none) : gangAnswerM.run s = (.ok false, s) := by
  have noTrap : answerM.run s = (.ok (), s) := by
    unfold answerM
    rw [bind_get, h]
    rfl
  unfold gangAnswerM
  rw [bind_ok noTrap, bind_get, h]
  rfl

theorem gangAnswerM_trap {c v : Word} (h : s.me.answer = some (.trap c v false)) :
    gangAnswerM.run s = (.error (.trap c v), s.takeAnswer) := by
  have trap : answerM.run s = (.error (.trap c v), s.takeAnswer) := by
    unfold answerM
    rw [bind_get, h]
    rfl
  unfold gangAnswerM
  rw [bind_error trap]

/-- An instruction of a gang whose answer has come: it completes, or takes the trap that it was given. -/
theorem gang_answered {m : Bool → M Unit}
    (he : exec i s = finish ((gangAnswerM >>= m).run s)) (hm : m true = modify State.retire) :
    (s.me.answer = some .done →
      EndsAs i s s (s.modMe fun h => { h with answer := none }) [] [] [] 0 fun t => t.me.answer = none) ∧
    ∀ c v, s.me.answer = some (.trap c v false) →
      exec i s = .next ((s.modMe fun h => { h with answer := none }).dropReply.takeTrap c s.pc v) := by
  refine ⟨fun h => ?_, fun c v h => ?_⟩
  · refine endsAs_retire (b := s.takeAnswer) ?_ (State.pc_modMe rfl rfl) (State.image_modMe rfl rfl)
      (by simp [State.takeAnswer]) ⟨by simp [State.takeAnswer], by simp [State.takeAnswer]⟩
    refine exec_of_run he ?_
    rw [bind_ok (gangAnswerM_done h), hm, run_modify]
  · have hr : (gangAnswerM >>= m).run s = (.error (.trap c v), s.takeAnswer) := bind_error (gangAnswerM_trap h)
    rw [exec_trap_of_run he hr, show s.takeAnswer.pc = s.pc from State.pc_modMe rfl rfl]
    rfl

/-! ## Instructions that wait for the gang -/

theorem exec_gbind_waits (ha : Accepted acceptMain (.gbind n) [] [] 0 s) (h : s.me.answer = none) :
    exec (.gbind n) s = .next ((s.modMe fun h => { h with gang := { h.gang with bind := some n } }).parkCtx .gang none) := by
  rw [ha.exec_eq rfl, bind_ok (gangAnswerM_none h)]
  rfl

theorem gunbind_run (h : s.me.answer = none) (ha : Accepted acceptMain (.gunbind n) [] [] 0 s) :
    exec (.gunbind n) s = finish ((if s.me.gang.lost = none ∧ s.me.gang.gang ≠ some n then operandM 0 else do
      lostM
      modify fun s => s.modMe fun h => { h with gang := { h.gang with unbind := some n } }
      parkM .gang : M Unit).run s) := by
  rw [ha.exec_eq rfl, bind_ok (gangAnswerM_none h)]
  rfl

theorem lostM_done (h : s.me.gang.lost = none) : lostM.run s = (.ok (), s) := by
  unfold lostM
  rw [bind_get, h]
  rfl

theorem lostM_traps (h : s.me.gang.lost = some n) :
    lostM.run s = (.error (.trap (BitVec.ofNat 64 0x06) (n.setWidth 64)), s) := by
  unfold lostM
  rw [bind_get, h]
  rfl

theorem exec_gunbind_waits (ha : Accepted acceptMain (.gunbind n) [] [] 0 s) (h : s.me.answer = none)
    (hl : s.me.gang.lost = none) (hg : s.me.gang.gang = some n) :
    exec (.gunbind n) s = .next ((s.modMe fun h => { h with gang := { h.gang with unbind := some n } }).parkCtx .gang none) := by
  rw [gunbind_run h ha, if_neg (by simp [hg]), bind_ok (lostM_done hl)]
  rfl

theorem gunbind_other_traps (ha : Accepted acceptMain (.gunbind n) [] [] 0 s) (h : s.me.answer = none)
    (hl : s.me.gang.lost = none) (hg : s.me.gang.gang ≠ some n) : Traps (.gunbind n) s (BitVec.ofNat 64 0x05) 0 := by
  refine traps_of_run (gunbind_run h ha) ?_
  rw [if_pos ⟨hl, hg⟩, run_operandM]

theorem gunbind_lost_traps {g : BitVec 4} (ha : Accepted acceptMain (.gunbind n) [] [] 0 s) (h : s.me.answer = none)
    (hl : s.me.gang.lost = some g) : Traps (.gunbind n) s (BitVec.ofNat 64 0x06) (g.setWidth 64) := by
  refine traps_of_run (gunbind_run h ha) ?_
  rw [if_neg (by simp [hl]), bind_error (lostM_traps hl)]

/-- A core that parks has changed its parked context alone. -/
theorem State.parkCtx_part {α : Type} (f : Hart → α) (hf : ∀ h p q, f { h with park := p, hpark := q } = f h) (w : Why)
    (l : Option Nat) : f (s.parkCtx w l).me = f s.me := by
  unfold State.parkCtx
  split
  · rw [State.me_modMe]; exact hf _ _ s.me.hpark
  · rw [State.me_modMe]; exact hf _ s.me.park _

@[simp] theorem State.parkCtx_mem (w : Why) (l : Option Nat) : (s.parkCtx w l).mem = s.mem := by
  unfold State.parkCtx
  split <;> rfl

theorem State.parkCtx_x (w : Why) (l : Option Nat) (r : BitVec 6) : (s.parkCtx w l).x r = s.x r := by
  have ctx : (s.parkCtx w l).ctx = s.ctx := by
    unfold State.parkCtx
    split <;> rfl
  unfold State.x
  rw [ctx, State.parkCtx_part (fun h => h.main) fun _ _ _ => rfl, State.parkCtx_part (fun h => h.handler) fun _ _ _ => rfl]

/-! ## TMMA.G (R414) -/

section
variable {d k a p : BitVec 6} {cp : BitVec 4} {z ce : BitVec 1} {mc : BitVec 3} {off : Nat} {rows : List Spans}

theorem tmmaG_waits (ha : Accepted acceptMain (.tmmaG d cp ce mc z k a p) [d, k, a, p] [] 0 s) (h : s.me.answer = none)
    (hc : s.me.gang.command.isSome = true) : Waits (.tmmaG d cp ce mc z k a p) s .gang := by
  refine waits_of_run (ha.exec_eq rfl) (t := s) (l := none) ?_ rfl
  rw [bind_ok (gangAnswerM_none h), if_neg (by simp), bind_get, if_pos hc, run_parkM]

/-- TMMA.G as its operands have been checked: what is left is the gang, the engine and the panel. -/
theorem tmmaG_run (ha : Accepted acceptMain (.tmmaG d cp ce mc z k a p) [d, k, a, p] [] 0 s) (h : s.me.answer = none)
    (hc : s.me.gang.command = none) (f1 : Gives (matFmtM s.fmtA) s () s) (f2 : Gives (matFmtM s.fmtB) s () s)
    (hk : depthOk (s.x k) s.fmtB = true) (hw : s.windowOf s.cur (s.x d).toNat = (.pad, off)) (hd : (s.x d).toNat % 64 = 0)
    (hr : off + 15 * (64 * 2 ^ cp.toNat) + 64 ≤ 0xF_C000) :
    exec (.tmmaG d cp ce mc z k a p) s = finish ((if s.me.gang.gang = none ∧ s.me.gang.lost = none then operandM 0 else do
      lostM
      engineM
      let rows ← if s.cur % 4 = 0 then panelM (s.x a) (s.x p) (s.x k).toNat (fmtBits s.fmtA) else pure []
      accStack off (64 * 2 ^ cp.toNat) 16
      modify fun t => t.modMe fun h => { h with gang := { h.gang with command := some (s.sample
        (.mma off (64 * 2 ^ cp.toNat) (s.x k).toNat (z == 1) (.panel rows) .plane true) (if ce = 1 then some mc else none)) } }
      parkM .gang : M Unit).run s) := by
  rw [ha.exec_eq rfl, bind_ok (gangAnswerM_none h), if_neg (by simp), bind_get, if_neg (by simp [hc])]
  dsimp only
  rw [bind_ok f1, bind_ok f2, if_neg (by simpa using hk), bind_ok (accBase_done hw hd hr)]
  rfl

/-- TMMA.G on a member of a gang arrives: its command is recorded, with the rows of the panel that it names if it is the first
of its row of members. -/
theorem exec_tmmaG_arrives (ha : Accepted acceptMain (.tmmaG d cp ce mc z k a p) [d, k, a, p] [] 0 s) (h : s.me.answer = none)
    (hc : s.me.gang.command = none) (f1 : Gives (matFmtM s.fmtA) s () s) (f2 : Gives (matFmtM s.fmtB) s () s)
    (hk : depthOk (s.x k) s.fmtB = true) (hw : s.windowOf s.cur (s.x d).toNat = (.pad, off)) (hd : (s.x d).toNat % 64 = 0)
    (hr : off + 15 * (64 * 2 ^ cp.toNat) + 64 ≤ 0xF_C000) (hg : s.me.gang.gang ≠ none) (hl : s.me.gang.lost = none)
    (hf : s.subArrays s.cur ≠ 0)
    (hp : if s.cur % 4 = 0 then Gives (panelM (s.x a) (s.x p) (s.x k).toNat (fmtBits s.fmtA)) s rows u else rows = [] ∧ u = s) :
    exec (.tmmaG d cp ce mc z k a p) s = .next ((u.modMe fun h => { h with gang := { h.gang with command := some (s.sample
      (.mma off (64 * 2 ^ cp.toNat) (s.x k).toNat (z == 1) (.panel rows) .plane true)
        (if ce = 1 then some mc else none)) } }).parkCtx .gang none) := by
  rw [tmmaG_run ha h hc f1 f2 hk hw hd hr, if_neg (by simp [hg]), bind_ok (lostM_done hl), bind_ok (engineM_done hf)]
  dsimp only
  split at hp
  · next e =>
    rw [if_pos e, bind_ok hp, bind_ok (accStack_done hr), bind_modify]
    rfl
  · next e =>
    obtain ⟨rfl, rfl⟩ := hp
    rw [if_neg e, bind_ok (run_pure _ _), bind_ok (accStack_done hr), bind_modify]
    rfl

end

/-! ## The steps of the device (R411 to R414) -/

section
variable {k c j : Nat}

theorem State.giveAnswer_hart (a : Answer) : (s.giveAnswer c a).hart j =
    if j = c then { s.hart c with answer := some a } else s.hart j := State.hart_modHart ..

theorem lead_mem_coresOf : 16 * k ∈ coresOf k := mem_upFrom.2 ⟨le_rfl, by omega⟩

theorem row_mem_coresOf (c : Nat) : 16 * k + c % 16 / 4 * 4 ∈ coresOf k := mem_upFrom.2 ⟨by omega, by omega⟩

end
end

/-- A core after the sixteen GBINDs have met (R411). -/
def Hart.bound (ok : Bool) (g : Option (BitVec 4)) (h : Hart) : Hart :=
  { h with
    gang := if ok then { h.gang with gang := g, lost := none, bind := none } else { h.gang with bind := none }
    answer := some (if ok then .done else .trap (faultCause 0x05 0) ((h.gang.bind.getD 0).setWidth 64) false) }

theorem exec_gangBindComplete {s : State} {k : Nat} {m : Nat → BitVec 4}
    (hb : ∀ c ∈ coresOf k, (s.hart c).gang.bind = some (m c)) :
    let ok := (coresOf k).all fun c => decide ((s.hart c).gang.bind = (s.hart (16 * k)).gang.bind) &&
      (s.hart c).gang.gang.isNone && s.subArrays c == 4
    ∃ t, exec (.gangBindComplete k) s = .next t ∧ t.mem = s.mem ∧
      ∀ c ∈ coresOf k, t.hart c = (s.hart c).bound ok (some (m (16 * k))) := by
  intro ok
  have all : (coresOf k).all (fun c => (s.hart c).gang.bind.isSome) = true := by
    rw [List.all_eq_true]
    exact fun c hc => by simp [hb c hc]
  rw [show exec (.gangBindComplete k) s = execGangBindComplete k s from rfl, execGangBindComplete]
  dsimp only
  rw [if_neg (ne_false_of_eq_true all)]
  refine ⟨_, rfl, mem_foldl (fun _ _ => by rfl) _ _, fun c hc => ?_⟩
  rw [hart_foldl_own (F := fun _ => Hart.bound ok (s.hart (16 * k)).gang.bind) (nodup_coresOf k) (fun t c _ => ?_)
    (fun t c j hj => ?_), if_pos hc, hb _ lead_mem_coresOf]
  · rw [State.giveAnswer_hart, if_pos rfl, State.hart_modHart_same]
    rfl
  · rw [State.giveAnswer_hart, if_neg hj, State.hart_modHart_ne _ _ _ _ hj]

theorem exec_gangUnbindComplete {s : State} {k : Nat} {n : BitVec 4}
    (h : ∀ c ∈ coresOf k, (s.hart c).gang.unbind = some n ∧ (s.hart c).gang.gang = some n ∧
      (s.hart c).engine.queue.any MatCmd.isGang = false ∧ ∀ r, (s.hart c).engine.run = some r → r.1.isGang = false) :
    ∃ t, exec (.gangUnbindComplete k) s = .next t ∧ t.mem = s.mem ∧ ∀ c ∈ coresOf k,
      (t.hart c).gang.gang = none ∧ (t.hart c).gang.unbind = none ∧ (t.hart c).answer = some .done := by
  have ready : (coresOf k).all (fun c => (s.hart c).gang.unbind.isSome &&
      decide ((s.hart c).gang.unbind = (s.hart c).gang.gang) && !(s.hart c).engine.queue.any MatCmd.isGang &&
      (match (s.hart c).engine.run with | some r => !r.1.isGang | none => true)) = true := by
    rw [List.all_eq_true]
    intro c hc
    obtain ⟨h1, h2, h3, h4⟩ := h c hc
    cases hr : (s.hart c).engine.run with
    | none => simp [h1, h2, h3]
    | some r => simp [h1, h2, h3, h4 r hr]
  rw [show exec (.gangUnbindComplete k) s = execGangUnbindComplete k s from rfl, execGangUnbindComplete]
  dsimp only
  refine ⟨_, congrArg Host.Outcome.next (if_pos ready), mem_foldl (fun _ _ => by rfl) _ _, fun c hc => ?_⟩
  rw [hart_foldl_own (F := fun _ h => { h with gang := { h.gang with gang := none, unbind := none }, answer := some .done })
    (nodup_coresOf k) (fun t c _ => ?_) (fun t c j hj => ?_), if_pos hc]
  · exact ⟨rfl, rfl, rfl⟩
  · rw [State.giveAnswer_hart, if_pos rfl, State.hart_modHart_same]
  · rw [State.giveAnswer_hart, if_neg hj, State.hart_modHart_ne _ _ _ _ hj]

/-- A core after the sixteen gang commands have met: with a command it enters the queue (R414). -/
def Hart.gangStarted (ok : Bool) (m : MatCmd) (h : Hart) : Hart :=
  { h with
    gang := { h.gang with command := none }
    engine := if ok then { h.engine with queue := h.engine.queue ++ [m] } else h.engine
    answer := some (if ok then .done else .trap (faultCause 0x05 0) 0 false) }

/-- The sixteen commands agree in depth, formats and scales. -/
def State.gangAgrees (s : State) (k : Nat) : Bool := (coresOf k).all fun c => decide
  ((((s.hart c).gang.command).map (s.resample c)).map (fun m => (m.panel.2, m.fa, m.fb, m.ea, m.eb)) =
    (((s.hart (16 * k)).gang.command).map (s.resample (16 * k))).map (fun m => (m.panel.2, m.fa, m.fb, m.ea, m.eb)))

theorem exec_gangTmmaStart {s : State} {k : Nat} {m : Nat → MatCmd}
    (h : ∀ c ∈ coresOf k, (s.hart c).gang.command = some (m c) ∧ (s.hart c).engine.queue.length < 2 ∧
      s.sameFormats c (m c) = true) :
    let r (c : Nat) : MatCmd := s.resample c (m c)
    let agree := ∀ c ∈ coresOf k, (r c).panel.2 = (r (16 * k)).panel.2 ∧ (r c).fa = (r (16 * k)).fa ∧
      (r c).fb = (r (16 * k)).fb ∧ (r c).ea = (r (16 * k)).ea ∧ (r c).eb = (r (16 * k)).eb
    ∃ t ok, (ok = true ↔ agree) ∧ exec (.gangTmmaStart k) s = .next t ∧ t.mem = s.mem ∧ ∀ c ∈ coresOf k,
      t.hart c = (s.hart c).gangStarted ok ((r c).withPanel (r (16 * k + c % 16 / 4 * 4)).panel.1) := by
  intro r agree
  have cmd (c : Nat) (hc : c ∈ coresOf k) : ((s.hart c).gang.command).map (s.resample c) = some (r c) := by
    rw [(h c hc).1]
    rfl
  have ready : (coresOf k).all (fun c => (((s.hart c).gang.command).map (s.resample c)).isSome &&
      decide ((s.hart c).engine.queue.length < 2)) = true := by
    rw [List.all_eq_true]
    exact fun c hc => by simp [h c hc]
  have formats : (coresOf k).all (fun c => (((s.hart c).gang.command).map (s.resample c)).all (s.sameFormats c)) = true := by
    rw [List.all_eq_true]
    intro c hc
    rw [cmd c hc]
    exact (h c hc).2.2
  rw [show exec (.gangTmmaStart k) s = execGangTmmaStart k s from rfl, execGangTmmaStart]
  dsimp only
  rw [if_neg (ne_false_of_eq_true ready), if_neg (ne_false_of_eq_true formats)]
  refine ⟨_, s.gangAgrees k, ?_, rfl, mem_foldl (fun _ _ => by rfl) _ _, fun c hc => ?_⟩
  · unfold State.gangAgrees
    simp only [List.all_eq_true, decide_eq_true_eq]
    refine forall₂_congr fun c hc => ?_
    rw [cmd c hc, cmd _ lead_mem_coresOf]
    simp
  · rw [hart_foldl_own (F := fun c => Hart.gangStarted (s.gangAgrees k) ((r c).withPanel (r (16 * k + c % 16 / 4 * 4)).panel.1))
      (nodup_coresOf k) (fun t d hd => ?_) (fun t c j hj => ?_), if_pos hc]
    · rw [State.giveAnswer_hart, if_pos rfl, State.hart_modHart_same, cmd d hd, cmd _ (row_mem_coresOf d)]
      rfl
    · rw [State.giveAnswer_hart, if_neg hj, State.hart_modHart_ne _ _ _ _ hj]

/-- Settles O46: the answer, the waits and the three meetings. -/
theorem gangInstructions : Obligations.GangInstructions := by
  unfold Obligations.GangInstructions
  intro done
  refine ⟨fun n s ha => gang_answered (ha.exec_eq rfl) rfl, fun n s ha => gang_answered (ha.exec_eq rfl) rfl,
    fun c cp ce mc z k a p s ha => gang_answered (ha.exec_eq rfl) rfl, fun n s ha h => ⟨?_, _, exec_gbind_waits ha h, ?_, ?_⟩,
    fun n s ha h hl => ⟨fun hg => ⟨?_, _, exec_gunbind_waits ha h hl hg, ?_⟩, gunbind_other_traps ha h hl⟩,
    fun n g s ha h hl => gunbind_lost_traps ha h hl, fun c cp ce mc z k a p s u off rows => ?_, fun s k m hb => ?_,
    fun s k n h => exec_gangUnbindComplete h, fun s k m h => ?_⟩
  · exact ⟨_, exec_gbind_waits ha h, by rw [State.pc_parkCtx, State.pc_modMe rfl rfl], State.parkedAs_parkCtx _ _⟩
  · rw [State.parkCtx_part (fun h => h.gang.bind) fun _ _ _ => rfl]
    simp
  · simp
  · exact ⟨_, exec_gunbind_waits ha h hl hg, by rw [State.pc_parkCtx, State.pc_modMe rfl rfl], State.parkedAs_parkCtx _ _⟩
  · rw [State.parkCtx_part (fun h => h.gang.unbind) fun _ _ _ => rfl]
    simp
  · intro fa fb i ha h
    refine ⟨tmmaG_waits ha h, fun hc f1 f2 k1 k2 k3 hw hd hr => ?_⟩
    have run := tmmaG_run ha h hc f1 f2 (depthOk_of k1 k2 k3) hw hd hr
    refine ⟨fun hg hl => traps_of_run run ?_, fun g hl => traps_of_run run ?_, fun hg hl hf hp => ?_⟩
    · rw [if_pos ⟨hg, hl⟩, run_operandM]
    · rw [if_neg (by simp [hl]), bind_error (lostM_traps hl)]
    · have arrives := exec_tmmaG_arrives ha h hc f1 f2 (depthOk_of k1 k2 k3) hw hd hr hg hl hf hp
      refine ⟨_, arrives, by rw [State.pc_parkCtx, State.pc_modMe rfl rfl], State.parkedAs_parkCtx _ _, ?_, ?_, fun r => ?_⟩
      · rw [State.parkCtx_part (fun h => h.gang.command) fun _ _ _ => rfl]
        simp
      · simp
      · rw [State.parkCtx_x]
        simp [State.x]
  · intro good
    obtain ⟨t, he, hm, ht⟩ := exec_gangBindComplete hb
    refine ⟨t, he, hm, fun c hc => ?_⟩
    have hok := show ((coresOf k).all fun c => decide ((s.hart c).gang.bind = (s.hart (16 * k)).gang.bind) &&
        (s.hart c).gang.gang.isNone && s.subArrays c == 4) = true ↔ good by
      rw [List.all_eq_true]
      refine forall₂_congr fun c hc => ?_
      rw [hb c hc, hb _ lead_mem_coresOf]
      simp [and_assoc]
    rw [ht c hc]
    refine ⟨?_, fun hg => ?_, fun hg => ?_⟩
    · unfold Hart.bound
      split <;> rfl
    · rw [hok.2 hg]
      exact ⟨congrArg some (hg c hc).1.symm, rfl⟩
    · rw [Bool.eq_false_iff.2 (mt hok.1 hg), Hart.bound, hb c hc]
      exact ⟨rfl, rfl⟩
  · intro r agree
    obtain ⟨t, ok, hok, he, hm, ht⟩ := exec_gangTmmaStart h
    refine ⟨t, he, hm, fun c hc => ?_⟩
    rw [ht c hc]
    refine ⟨rfl, fun ha => ?_, fun ha => ?_⟩
    · obtain rfl : ok = true := hok.2 ha
      exact ⟨rfl, rfl⟩
    · obtain rfl : ok = false := by simpa using mt hok.1 ha
      exact ⟨rfl, rfl⟩

end Sys2Proof.Machine
end

section
/-! O32: scalar stores. A store checks, asks the search unit for its trail entry, and its bytes join the store buffer,
one entry for the one word that they lie in (R40, R66, R72, R92, R97, R343, R437). -/

namespace Sys2Proof.Machine

/-! ## The bytes of one word are one entry -/

theorem cellsAt_cons (a : Nat) (b : Byte) (d : List Byte) : cellsAt a (b :: d) = ⟨a, b, 0xFF⟩ :: cellsAt (a + 1) d := rfl

/-- Bytes that lie in one aligned word form one group (R93). -/
theorem groupWords_cellsAt {a : Nat} {d : List Byte} (hd : d ≠ []) (h : a % 8 + d.length ≤ 8) :
    groupWords (cellsAt a d) = [cellsAt a d] := by
  induction d generalizing a with
  | nil => exact absurd rfl hd
  | cons b d ih =>
    rw [cellsAt_cons, groupWords]
    cases d with
    | nil => rfl
    | cons c d =>
      simp only [List.length_cons] at h
      rw [ih (by simp) (by simp only [List.length_cons]; omega), cellsAt_cons]
      dsimp only
      rw [if_pos (by unfold wordAt; omega)]

section
variable {s t u w : State} {va : Word} {n home : Nat} {q : BitVec 8} {cells : List MaskedByte} {sync : Bool} {p : Place}

/-! ## What joins the buffer leaves the contexts and memory -/

theorem State.pushCells_induct {P : State → Prop} (h0 : P s) (h1 : ∀ t op, P t → P (t.pushStore op q sync)) :
    P (s.pushCells cells q sync) :=
  List.foldlRecOn (motive := P) _ _ h0 fun t ht _ _ => h1 t _ ht

@[simp] theorem State.pushCells_pc : (s.pushCells cells q sync).pc = s.pc :=
  State.pushCells_induct (P := fun t => t.pc = s.pc) rfl fun _ _ h => h ▸ State.pc_modMe rfl rfl

@[simp] theorem State.pushCells_image : (s.pushCells cells q sync).image = s.image :=
  State.pushCells_induct (P := fun t => t.image = s.image) rfl fun _ _ h => h ▸ State.image_modMe rfl rfl

@[simp] theorem State.pushCells_sys : (s.pushCells cells q sync).me.sys = s.me.sys :=
  State.pushCells_induct (P := fun t => t.me.sys = s.me.sys) rfl fun t op h => by rw [State.pushStore_me_sys, h]

@[simp] theorem State.pushCells_mem : (s.pushCells cells q sync).mem = s.mem :=
  State.pushCells_induct (P := fun t => t.mem = s.mem) rfl fun _ _ h => h

/-- Without a search the bytes of one word join as one plain entry. -/
theorem State.pushCells_word {d : List Byte} (hs : s.mySearch = none) (hd : d ≠ []) (h : home % 8 + d.length ≤ 8) :
    s.pushCells (cellsAt home d) q sync = s.pushStore (.write (cellsAt home d)) q sync := by
  unfold State.mySearch at hs
  rw [State.pushCells, groupWords_cellsAt hd h, List.foldl_cons, List.foldl_nil, State.storeOpOf, hs]

/-! ## Local places (R64 to R66) -/

theorem windowCheck_ok {h va n : Nat} {x : Window × Nat} (hc : windowCheck s h va n = .ok x) : s.windowOf h va = x := by
  unfold windowCheck at hc
  rcases hw : s.windowOf h va with ⟨a, o⟩
  rw [hw] at hc
  dsimp only at hc
  split at hc
  · cases hc
  · split at hc
    · cases hc
    · split at hc
      · cases hc
      · cases hc; rfl

/-- An offset in a window counts from an address that is a multiple of 32 KiB. -/
theorem windowOf_offset {h va o : Nat} {a : Window} (hw : s.windowOf h va = (a, o)) (ha : a = .tcm ∨ a = .pad) :
    o % 0x8000 = va % 0x8000 := by
  unfold State.windowOf at hw
  dsimp only at hw
  split at hw
  · rcases ha with rfl | rfl <;> cases hw
  · split at hw
    · split at hw
      · rcases ha with rfl | rfl <;> cases hw
      · split at hw
        · cases hw; omega
        · split at hw
          · cases hw; omega
          · rcases ha with rfl | rfl <;> cases hw
    · rcases ha with rfl | rfl <;> cases hw

/-- An aligned local address has an aligned home. -/
theorem LocalAt.aligned (hl : LocalAt s va n home) {k : Nat} (hk : k ∣ 0x8000) (ha : va.toNat % k = 0) : home % k = 0 := by
  obtain ⟨o, ⟨hc, rfl⟩ | ⟨hc, rfl⟩⟩ := hl.window
  all_goals
    have ho : o % k = va.toNat % k := by
      have := windowOf_offset (windowCheck_ok hc) (by simp)
      rw [← Nat.mod_mod_of_dvd o hk, this, Nat.mod_mod_of_dvd _ hk]
  · have : k ∣ 0x1_0000_0000_0000 + coreOf s.cur * 0x8000 := dvd_add (hk.trans (by decide)) (hk.mul_left _)
    rw [tcmHome, Nat.add_mod, Nat.mod_eq_zero_of_dvd this, ho, ha]
    simp
  · have : k ∣ 0x1_0000_4000_0000 + clusterOf s.cur * 0x10_0000 :=
      dvd_add (hk.trans (by decide)) ((hk.trans (by decide)).mul_left _)
    rw [padHome, Nat.add_mod, Nat.mod_eq_zero_of_dvd this, ho, ha]
    simp

theorem LocalAt.above (hl : LocalAt s va n home) : 0x1_0000_0000_0000 ≤ home := by
  obtain ⟨o, ⟨-, rfl⟩ | ⟨-, rfl⟩⟩ := hl.window
  · unfold tcmHome; omega
  · unfold padHome; omega

/-- A local address is its own place (R66). -/
theorem LocalAt.place {acc : Acc} (hl : LocalAt s va n home) : (myPlace acc va n).run s = (.ok ⟨home, false⟩, s) := by
  unfold myPlace placeOf
  rw [bind_get, bind_get]
  obtain ⟨o, ⟨hc, rfl⟩ | ⟨hc, rfl⟩⟩ := hl.window <;> rw [hc] <;> rfl

theorem storeCheck_local (h : 0x1_0000_0000_0000 ≤ home) (ho : outsideStack home n) (hn : 1 ≤ n) :
    (storeCheck ⟨home, false⟩ n va).run s = (.ok (), s) := by
  unfold storeCheck
  rw [if_neg, if_neg]
  · rfl
  · rintro ⟨hw, -⟩
    simp only [inHartWindow, decide_eq_true_eq] at hw
    omega
  · rintro ⟨hp, hs⟩
    have := ho hp
    dsimp only at hs
    omega

theorem trailStore_none {stt now : Bool} (hs : s.mySearch = none) : (trailStore home stt now).run s = (.ok (), s) := by
  unfold trailStore
  rw [bind_get, hs]
  rfl

/-! ## ST and STT (R343, R437) -/

/-- The meaning of a scalar store, trailed or not. -/
def scalarStoreM (stt : Bool) (src : BitVec 6) (size : Nat) (q : BitVec 8) (addr : State → Word) : M Unit :=
  if stt then storeTrailedM src size q addr else storeM src size q addr

variable {stt : Bool} {src : BitVec 6} {size : Nat} {addr : State → Word}

/-- A scalar store to an aligned address goes on to its place. -/
theorem scalarStoreM_run (ha : (addr s).toNat % size = 0) (hw : stt = true → (s.windowOf s.cur (addr s).toNat).1 = .tcm) :
    (scalarStoreM stt src size q addr).run s =
      (myPlace .store (addr s) size >>= fun p => storeAtM p size (s.x src) q (addr s) stt).run s := by
  cases stt
  · unfold scalarStoreM storeM
    rw [if_neg (by simp), bind_get]
    dsimp only
    rw [if_neg (by simp [ha])]
  · unfold scalarStoreM storeTrailedM
    rw [if_pos rfl, bind_get]
    dsimp only
    rw [if_neg (by simp [hw rfl]), if_neg (by simp [ha])]

theorem scalarStoreM_misaligned (ha : (addr s).toNat % size ≠ 0)
    (hw : stt = true → (s.windowOf s.cur (addr s).toNat).1 = .tcm) :
    (scalarStoreM stt src size q addr).run s = (.error (.trap (BitVec.ofNat 64 0x08) (addr s)), s) := by
  cases stt
  · unfold scalarStoreM storeM
    rw [if_neg (by simp), bind_get]
    dsimp only
    rw [if_pos ha, run_trapM]
    rfl
  · unfold scalarStoreM storeTrailedM
    rw [if_pos rfl, bind_get]
    dsimp only
    rw [if_neg (by simp [hw rfl]), if_pos ha, run_trapM]
    rfl

theorem scalarStoreM_outside (hw : (s.windowOf s.cur (addr s).toNat).1 ≠ .tcm) :
    (scalarStoreM true src size q addr).run s = (.error (.trap (BitVec.ofNat 64 0x05) (addr s)), s) := by
  unfold scalarStoreM storeTrailedM
  rw [if_pos rfl, bind_get]
  dsimp only
  rw [if_pos hw, run_operandM]

/-- A store that is not ordered joins the buffer once its trail entry is made. -/
theorem storeAtM_buffered {v a : Word} (hq : qualOrd q ≠ 3) (hc : Gives (storeCheck p size a) s () s)
    (ht : Gives (trailStore p.home stt false) s () w) :
    (storeAtM p size v q a stt).run s = (.ok (), (w.pushCells (cellsAt p.home (bytesOf v.toNat size)) q p.sync).retire) := by
  have order : (storeOrder q).run s = (.ok (), s) := by
    unfold storeOrder
    rw [if_neg hq, run_pure]
  have ord : (qualOrd q == 3) = false := by simpa using hq
  unfold storeAtM
  rw [bind_ok hc, bind_ok order]
  dsimp only
  rw [if_neg hq, ord, bind_ok ht, storeCells, if_neg hq, bind_modify, run_modify]

/-- An ordered store is performed at its head. -/
theorem storeAtM_ordered {v a : Word} {y z r : State} (hq : qualOrd q = 3) (hc : Gives (storeCheck p size a) s () s)
    (hd : Gives (drainM (qualScope q)) s () u) (hm : Gives (meetTag p.home p.sync false) u () y)
    (ht : Gives (trailStore p.home stt true) y () z)
    (hw : Gives (meetCells (cellsAt p.home (bytesOf v.toNat size)) p.sync) z () r) :
    (storeAtM p size v q a stt).run s = (.ok (), (r.storeNow (cellsAt p.home (bytesOf v.toNat size)) q p.sync).retire) := by
  have order : (storeOrder q).run s = (.ok (), u) := by
    unfold storeOrder
    rw [if_pos hq]
    exact hd
  have ord : (qualOrd q == 3) = true := by simpa using hq
  have now : (storeCells (cellsAt p.home (bytesOf v.toNat size)) q p.sync).run z =
      (.ok (), r.storeNow (cellsAt p.home (bytesOf v.toNat size)) q p.sync) := by
    rw [storeCells, if_pos hq, bind_ok hw, run_modify]
  unfold storeAtM
  rw [bind_ok hc, bind_ok order]
  dsimp only
  rw [if_pos hq, ord, bind_ok hm, bind_ok ht, bind_ok now, run_modify]

/-! ## How a scalar store ends -/

variable {a : Accept} {i : Instr} {xs : List (BitVec 6)}

/-- A store to a local address buffers exactly its bytes. -/
theorem scalarStore_local (he : exec i s = finish ((scalarStoreM stt src size q addr).run s)) (h8 : size ∣ 8)
    (ha : (addr s).toNat % size = 0) (hw : stt = true → (s.windowOf s.cur (addr s).toNat).1 = .tcm) (hq : qualOrd q = 0)
    (hl : LocalAt s (addr s) size home) (ho : outsideStack home size) (hs : s.mySearch = none) :
    EndsAs i s s (s.pushCells (cellsAt home (bytesOf (s.x src).toNat size)) q false) [] [] [] 0 fun t =>
      (∀ b, memGet t.mem b = memGet s.mem b) ∧ ∃ e, t.me.mem.sb = [e] ∧
        e.op = .write (cellsAt home (bytesOf (s.x src).toNat size)) ∧ e.qual = q ∧ e.sync = false := by
  have pos : 1 ≤ size := Nat.pos_of_dvd_of_pos h8 (by decide)
  have word : s.pushCells (cellsAt home (bytesOf (s.x src).toNat size)) q false =
      s.pushStore (.write (cellsAt home (bytesOf (s.x src).toNat size))) q false := by
    have len : (bytesOf (s.x src).toNat size).length = size := bytesOf_length _ _
    refine State.pushCells_word hs (fun e => ?_) ?_
    · rw [e] at len
      simp at len
      omega
    · rw [len]
      have al := hl.aligned (h8.trans (by decide)) ha
      obtain ⟨k, hk⟩ := h8
      have : home % (size * k) % size = 0 := by rw [Nat.mod_mul_right_mod, al]
      have lt : home % (size * k) < size * k := Nat.mod_lt _ (by omega)
      obtain ⟨m, hm⟩ := Nat.dvd_of_mod_eq_zero this
      have : m < k := by rw [hm] at lt; exact Nat.lt_of_mul_lt_mul_left lt
      have := Nat.mul_le_mul_left size (show m + 1 ≤ k by omega)
      rw [Nat.mul_add] at this
      rw [hk, hm]
      omega
  have run := scalarStoreM_run (src := src) (q := q) ha hw
  rw [bind_ok hl.place, storeAtM_buffered (p := ⟨home, false⟩) (by omega) (storeCheck_local hl.above ho pos) (trailStore_none hs)]
    at run
  refine endsAs_retire (exec_of_run he run) State.pushCells_pc State.pushCells_image (by simp) ⟨⟨fun b => by simp, ?_⟩,
    fun b => by simp, ?_⟩ <;> rw [word] <;>
    exact ⟨⟨.write (cellsAt home (bytesOf (s.x src).toNat size)), q, false, s.me.mem.serial⟩,
      by simp [State.pushStore, hl.buffer], rfl, rfl, rfl⟩

/-- A store whose checks gave its place joins the buffer behind its trail entry. -/
theorem scalarStore_buffered (he : exec i s = finish ((scalarStoreM stt src size q addr).run s))
    (ha : (addr s).toNat % size = 0) (hw : stt = true → (s.windowOf s.cur (addr s).toNat).1 = .tcm) (hq : qualOrd q ≠ 3)
    (hp : Gives (myPlace .store (addr s) size) s p u) (hc : Gives (storeCheck p size (addr s)) u () u)
    (ht : Gives (trailStore p.home stt false) u () w) :
    EndsAs i s w (w.pushCells (cellsAt p.home (bytesOf (s.x src).toNat size)) q p.sync) [] [] [] 0 fun t =>
      ∀ b, memGet t.mem b = memGet w.mem b := by
  have run := scalarStoreM_run (src := src) (q := q) ha hw
  rw [bind_ok hp, storeAtM_buffered hq hc ht] at run
  exact endsAs_retire (exec_of_run he run) State.pushCells_pc State.pushCells_image (by simp)
    ⟨fun b => by simp, fun b => by simp⟩

/-- An ordered store is performed at its head once its waits are over. -/
theorem scalarStore_ordered {v y z r : State} (he : exec i s = finish ((scalarStoreM stt src size q addr).run s))
    (ha : (addr s).toNat % size = 0) (hw : stt = true → (s.windowOf s.cur (addr s).toNat).1 = .tcm) (hq : qualOrd q = 3)
    (hp : Gives (myPlace .store (addr s) size) s p u) (hc : Gives (storeCheck p size (addr s)) u () u)
    (hd : Gives (drainM (qualScope q)) u () v) (hm : Gives (meetTag p.home p.sync false) v () y)
    (ht : Gives (trailStore p.home stt true) y () z)
    (hr : Gives (meetCells (cellsAt p.home (bytesOf (s.x src).toNat size)) p.sync) z () r) :
    EndsAs i s (r.storeNow (cellsAt p.home (bytesOf (s.x src).toNat size)) q p.sync)
      (r.storeNow (cellsAt p.home (bytesOf (s.x src).toNat size)) q p.sync) [] [] [] 0 fun _ => True := by
  have run := scalarStoreM_run (src := src) (q := q) ha hw
  rw [bind_ok hp, storeAtM_ordered hq hc hd hm ht hr] at run
  exact endsAs_retire (exec_of_run he run) rfl rfl rfl ⟨trivial, trivial⟩

end

/-- Settles O32: ST and STT are one meaning, whose five ends are those of every form. -/
theorem scalarStores : Obligations.ScalarStores := by
  unfold Obligations.ScalarStores
  intro writes short long named
  have all (a : Accept) (stt : Bool) (i : Instr) (xs : List (BitVec 6)) (src : BitVec 6) (size : Nat) (q : BitVec 8)
      (addr : State → Word) (head : Nat) (h8 : size ∣ 8)
      (he : ∀ s, exec i s = runHead a head xs [] 0 (scalarStoreM stt src size q addr) s) : writes a stt i xs src size q addr := by
    refine ⟨fun s home ha hh hq hl ho hs => scalarStore_local (ha.exec_eq (he s)) h8 hh.1 hh.2 hq hl ho hs,
      fun s p u w ha hh hq hp hc ht => scalarStore_buffered (ha.exec_eq (he s)) hh.1 hh.2 hq hp hc ht,
      fun s p u v y z w ha hh hq hp hc hd hm ht hr =>
        scalarStore_ordered (ha.exec_eq (he s)) hh.1 hh.2 hq hp hc hd hm ht hr,
      fun s ha hw hn => traps_of_run (ha.exec_eq (he s)) (scalarStoreM_misaligned hn hw),
      fun s ha hs hw => ?_⟩
    subst hs
    exact traps_of_run (ha.exec_eq (he s)) (scalarStoreM_outside hw)
  have d1 : 1 ∣ 8 := by decide
  have d2 : 2 ∣ 8 := by decide
  have d4 : 4 ∣ 8 := by decide
  have d8 : 8 ∣ 8 := by decide
  refine ⟨fun r off b q => all _ _ _ _ _ _ _ _ _ d1 fun s => rfl, fun r off b q => all _ _ _ _ _ _ _ _ _ d2 fun s => rfl,
    fun r off b q => all _ _ _ _ _ _ _ _ _ d4 fun s => rfl, fun r off b q => all _ _ _ _ _ _ _ _ _ d8 fun s => rfl,
    fun r p off b q => all _ _ _ _ _ _ _ _ _ d1 fun s => rfl, fun r p off b q => all _ _ _ _ _ _ _ _ _ d2 fun s => rfl,
    fun r p off b q => all _ _ _ _ _ _ _ _ _ d4 fun s => rfl, fun r p off b q => all _ _ _ _ _ _ _ _ _ d8 fun s => rfl,
    fun r off b q => all _ _ _ _ _ _ _ _ _ d1 fun s => rfl, fun r off b q => all _ _ _ _ _ _ _ _ _ d2 fun s => rfl,
    fun r off b q => all _ _ _ _ _ _ _ _ _ d4 fun s => rfl, fun r off b q => all _ _ _ _ _ _ _ _ _ d8 fun s => rfl,
    fun r off b q => all _ _ _ _ _ _ _ _ _ d1 fun s => rfl, fun r off b q => all _ _ _ _ _ _ _ _ _ d2 fun s => rfl,
    fun r off b q => all _ _ _ _ _ _ _ _ _ d4 fun s => rfl, fun r off b q => all _ _ _ _ _ _ _ _ _ d8 fun s => rfl⟩

end Sys2Proof.Machine
end

section
/-! What a write leaves in memory, and where an access need not wait: rules that the steps of queues, store buffers and
engines share (R51, R68, R101). -/

namespace Sys2Proof.Machine

section
variable {s t : State} {a n w : Nat} {d : List Byte} {b : Bool}

/-! ## The bytes of memory after a write -/

@[simp] theorem State.poke_mem : (s.poke a d).mem = memPutList s.mem a d := rfl

@[simp] theorem State.deliver_mem : (s.deliver w).mem = s.mem := by
  unfold State.deliver
  split <;> rfl

@[simp] theorem State.setFull_mem : (s.setFull w b).mem = s.mem := by
  unfold State.setFull
  split
  · dsimp only
    split
    · rw [State.deliver_mem]
    · rfl
  · rfl

@[simp] theorem State.putBytes_mem : (s.putBytes a d).mem = memPutList s.mem a d := by
  unfold State.putBytes
  dsimp only
  split
  · rw [mem_foldl fun _ _ => State.setFull_mem]
    rfl
  · rfl

@[simp] theorem State.clearTags_mem : (s.clearTags a n).mem = s.mem := rfl

/-- A byte that was written reads as it was written. -/
theorem memGet_memPutList_in {m : List Host.Cell} (wf : Memory.wf m = true) {j : Nat} (hj : j < d.length) :
    memGet (memPutList m a d) (a + j) = (d[j]?).getD 0 := by
  rw [memGet_memPutList _ wf, dif_pos (by omega)]
  simp [hj]

/-! ## Where nothing is held, nothing waits -/

/-- A party that stands in no line need not wait where a waiter need not (R101). -/
theorem State.mustWait_of_none {h u : Nat} (free : s.mustWait h u none = false) (w : Option Waiter) :
    s.mustWait h u w = false := by
  unfold State.mustWait at free ⊢
  cases hold : tget s.holds u with
  | some d => rw [hold] at free; exact free
  | none =>
    rw [hold] at free
    dsimp only at free ⊢
    cases line : s.waitersAt u with
    | nil => rfl
    | cons x l => rw [line] at free; exact absurd free (by simp)

/-- A word of the scratchpad or the TCM needs no room in a cache (R101). -/
theorem State.waitAt_word {h : Nat} {w : Option Waiter} (local_ : homeOf a = .pad ∨ homeOf a = .tcm) (h8 : a % 8 = 0)
    (free : s.mustWait h a w = false) : s.waitAt h w a false = (none, s) := by
  have unit : unitOf a false = a := by
    unfold unitOf wordAt
    rcases local_ with e | e <;> rw [e] <;> dsimp only <;> omega
  have room : s.blockedAt a = none := by
    unfold State.blockedAt
    rcases local_ with e | e <;> rw [e]
  have closed : s.openBlock a = s := by
    unfold State.openBlock
    exact if_neg (by rcases local_ with e | e <;> rw [e] <;> decide)
  unfold State.waitAt
  dsimp only
  rw [unit, free, if_neg (by decide), if_neg (by decide), room, closed]

/-- An acquire at a word that is held by nobody and tagged for it goes ahead (R101). -/
theorem meetTag_word (local_ : homeOf a = .pad ∨ homeOf a = .tcm) (h8 : a % 8 = 0)
    (free : s.mustWait s.cur a none = false) (seen : ∀ g, tget s.tags a = some g → inScope g.writer g.scope s.cur = true)
    (acquire : Bool) : (meetTag a false acquire).run s = (.ok (), s) := by
  have unit : unitOf a false = a := by
    unfold unitOf wordAt
    rcases local_ with e | e <;> rw [e] <;> dsimp only <;> omega
  have go : s.waitAt s.cur (some (Waiter.access s.cur s.ctx)) a false = (none, s) :=
    State.waitAt_word local_ h8 (State.mustWait_of_none free _)
  unfold meetTag
  rw [bind_get]
  dsimp only
  rw [unit]
  cases tag : tget s.tags a with
  | none =>
    simp only [Bool.false_and, Bool.false_eq_true, if_false]
    rw [go]
    rfl
  | some g =>
    simp only [seen g tag, Bool.not_true, Bool.and_false, Bool.false_and, Bool.false_eq_true, if_false]
    rw [go]
    rfl

theorem forM_done {α : Type} {f : α → M Unit} {l : List α} (h : ∀ x ∈ l, (f x).run s = (.ok (), s)) :
    (l.forM f).run s = (.ok (), s) := by
  induction l with
  | nil => rfl
  | cons x l ih =>
    show (f x >>= fun _ => l.forM f).run s = _
    rw [bind_ok (h x List.mem_cons_self)]
    exact ih fun y hy => h y (List.mem_cons_of_mem _ hy)

/-- A check that is made under a condition, and passes, is no step. -/
theorem run_iteBind {α : Type} {c : Prop} [Decidable c] {m : M Unit} {k : Unit → M α} (h : c → m.run s = (.ok (), s)) :
    (if c then m >>= k else k ()).run s = (k ()).run s := by
  split
  · next hc => exact bind_ok (h hc)
  · rfl

end

end Sys2Proof.Machine
end

section
/-! O37: queues. A queue access checks its role and its queue, and then takes an element at its head, or sends one
through the store buffer; a queue that is disabled answers the companions blocked on it (R47 to R51, R355 to R357). -/

namespace Sys2Proof.Machine

section
variable {s t : State} {d : BitVec 6} {w : BitVec 2} {v : BitVec 1} {q : BitVec 3} {i : Instr} {m : M Unit} {c n : Nat}

/-! ## Queue registers (R47) -/

@[simp] theorem State.qctl_setQctl {x : Word} {h : Nat} : (s.setQctl c q x h).qctl c q = x := by
  have hq := q.isLt
  unfold State.qctl State.setQctl
  rw [State.hart_modHart_same]
  simp [hq]

theorem State.setQctl_part {α : Type} (f : Hart → α) (hf : ∀ h z, f { h with queues := z } = f h) {x : Word} {h : Nat}
    (j : Nat) : f ((s.setQctl c q x h).hart j) = f (s.hart j) := State.part_modHart f (fun _ => hf _ _) j

theorem State.setQctl_pc {x : Word} {h : Nat} : (s.setQctl c q x h).pc = s.pc := by
  unfold State.pc
  rw [show (s.setQctl c q x h).ctx = s.ctx from rfl,
    show (s.setQctl c q x h).me.main = s.me.main from State.setQctl_part (·.main) (fun _ _ => by rfl) _,
    show (s.setQctl c q x h).me.handler = s.me.handler from State.setQctl_part (·.handler) (fun _ _ => by rfl) _]

theorem State.setQctl_image {x : Word} {h : Nat} : (s.setQctl c q x h).image = s.image := by
  unfold State.image
  rw [show (s.setQctl c q x h).ctx = s.ctx from rfl,
    show (s.setQctl c q x h).me.main = s.me.main from State.setQctl_part (·.main) (fun _ _ => by rfl) _,
    show (s.setQctl c q x h).me.handler = s.me.handler from State.setQctl_part (·.handler) (fun _ _ => by rfl) _]

theorem State.setQctl_sys {x : Word} {h : Nat} : (s.setQctl c q x h).me.sys = s.me.sys :=
  State.setQctl_part (·.sys) (fun _ _ => by rfl) _

/-! ## The words of an element (R47, R68) -/

theorem queueSize_le (x : Word) : queueSize x ≤ 64 := by
  unfold queueSize
  split <;> decide

theorem queueOffset_lt (i : Nat) : s.queueOffset c q i < 0x40_0000 := by
  have base : bits (s.qctl c q) 19 6 < 2 ^ 14 := bits_lt
  have depth : queueDepth (s.qctl c q) ≤ 2 ^ 15 :=
    Nat.pow_le_pow_right (by decide) (Nat.le_of_lt_succ (bits_lt : bits (s.qctl c q) 31 28 < 2 ^ 4))
  have place : ∀ x, x % queueDepth (s.qctl c q) < 2 ^ 15 := fun x =>
    Nat.lt_of_lt_of_le (Nat.mod_lt _ (Nat.two_pow_pos _)) depth
  have within := Nat.mul_le_mul (Nat.le_of_lt_succ (Nat.lt_succ_of_lt (place (((s.hart c).queues.head[q.toNat]?).getD 0 + i))))
    (queueSize_le (s.qctl c q))
  show bits (s.qctl c q) 19 6 * 64 + (((s.hart c).queues.head[q.toNat]?).getD 0 + i) % queueDepth (s.qctl c q) *
    queueSize (s.qctl c q) < _
  omega

/-- The words of an element lie in the scratchpad. -/
theorem homeOf_queue {h u i : Nat} (hn : n ≤ 64) (hu : u ∈ unitsOver 8 (padOf (coreOf h) (s.queueOffset (coreOf h) q i)) n) :
    homeOf (8 * u) = .pad := by
  have off := queueOffset_lt (s := s) (c := coreOf h) (q := q) i
  have cluster : clusterOf (coreOf h) < 256 := by unfold clusterOf coreOf; omega
  unfold unitsOver padOf padHome at hu
  rw [mem_upFrom] at hu
  unfold homeOf
  rw [if_neg (by omega), if_neg (by omega), if_neg (by omega), if_neg (by omega), if_neg (by omega), if_pos (by omega)]

/-! ## Checks (R49, R356) -/

theorem queueHead_run (ha : Accepted ⟨true, false, true, false⟩ i [] [] 0 s) (he : exec i s = queueHead d v m s)
    (hv : v = 1 → kindOf s.cur = 0) : exec i s = finish (m.run s) := by
  refine (ha.exec_eq he).trans ?_
  rw [bind_get, if_neg fun h => h.2 (hv h.1)]

theorem answerM_done (h : s.me.answer = none) : answerM.run s = (.ok (), s) := by
  unfold answerM
  rw [bind_get, h]
  rfl

/-- The queue's role is the executing hart's, and its elements have the size of the access (R49). -/
def State.serves (s : State) (q : BitVec 3) (write : Bool) (w : BitVec 2) : Prop :=
  (if write then bits (s.qctl (coreOf s.cur) q) 33 32 else bits (s.qctl (coreOf s.cur) q) 35 34) = queueCode s.cur ∧
    queueSize (s.qctl (coreOf s.cur) q) = queueWidth w

theorem queueOperandM_done {write : Bool} (h : s.me.answer = none) (mine : s.serves q write w) :
    (queueOperandM q write (queueWidth w)).run s = (.ok (), s) := by
  unfold queueOperandM
  rw [bind_ok (answerM_done h), bind_get]
  dsimp only
  rw [if_neg (fun e => e.elim (fun e => e mine.1) (fun e => e mine.2))]
  rfl

theorem queueOperandM_traps {write : Bool} (h : s.me.answer = none) (other : ¬ s.serves q write w) :
    (queueOperandM q write (queueWidth w)).run s = (.error (.trap (BitVec.ofNat 64 0x05) 0), s) := by
  unfold queueOperandM
  rw [bind_ok (answerM_done h), bind_get]
  dsimp only
  rw [if_pos (not_and_or.1 other)]
  rfl

theorem queueEnabledM_done (h : bit (s.qctl (coreOf s.cur) q) 63 = true) :
    (queueEnabledM q).run s = (.ok (s.qctl (coreOf s.cur) q), s) := by
  unfold queueEnabledM
  rw [bind_get]
  dsimp only
  rw [if_neg (ne_false_of_eq_true h)]
  rfl

theorem queueEnabledM_traps (h : ¬ bit (s.qctl (coreOf s.cur) q) 63 = true) :
    (queueEnabledM q).run s = (.error (.trap (BitVec.ofNat 64 0x0E) (q.setWidth 64)), s) := by
  unfold queueEnabledM
  rw [bind_get]
  dsimp only
  rw [if_pos (by simpa using h)]
  rfl

theorem noStreamM_done {ds : List (BitVec 5)} (h : s.plainV ds) : (noStreamM ds).run s = (.ok (), s) := by
  unfold noStreamM
  rw [bind_get, if_neg]
  · rfl
  · simp only [List.any_eq_true, not_exists, not_and]
    intro r hr
    simp [h r hr]

/-! ## Reading (R356) -/

/-- The queue register and the head's place as QRD leaves them. -/
def State.queueTaken (s : State) (c : Nat) (q : BitVec 3) : State :=
  s.setQctl c q (setBits (s.qctl c q) 48 36 (bits (s.qctl c q) 48 36 - 1))
    ((((s.hart c).queues.head[q.toNat]?).getD 0 + 1) % 2 ^ bits (s.qctl c q) 31 28)

/-- What QRD does once its checks have passed, ctl being the queue's register. -/
def qrdTakeM (d : BitVec 6) (v : BitVec 1) (q : BitVec 3) (ctl : Word) : M Unit := do
  let s ← get
  let c := coreOf s.cur
  if queueCount ctl = 0 then parkM (.queue q)
  else
  (unitsOver 8 (padOf c (s.queueOffset c q 0)) (queueSize ctl)).forM fun u => meetTag (8 * u) false true
  let s ← get
  match s.poisonIn (padOf c (s.queueOffset c q 0)) (queueSize ctl) with
    | some a => trapM 0x0F 0 (s.padVa s.cur (a - padOf c 0))
    | none =>
      let (b, s) := s.queueTake c q
      set (if v = 1 then s.setV (d.setWidth 5) (BitVec.ofNat 512 (natOf b)) else s.setX d (BitVec.ofNat 64 (natOf b))).retire

theorem qrd_run (ha : Accepted ⟨true, false, true, false⟩ (.qrd d w v q) [] [] 0 s)
    (hv : v = 1 → kindOf s.cur = 0 ∧ s.plainV [d.setWidth 5]) (hn : s.me.answer = none) (mine : s.serves q false w)
    (on : bit (s.qctl (coreOf s.cur) q) 63 = true) :
    exec (.qrd d w v q) s = finish ((qrdTakeM d v q (s.qctl (coreOf s.cur) q)).run s) := by
  rw [queueHead_run ha rfl fun e => (hv e).1]
  refine congrArg finish ((run_iteBind fun e => noStreamM_done (hv e).2).trans ?_)
  rw [bind_ok (queueOperandM_done hn mine), bind_ok (queueEnabledM_done on)]
  rfl

/-- QRD takes the oldest element of a queue that holds one. -/
theorem exec_qrd (ha : Accepted ⟨true, false, true, false⟩ (.qrd d w v q) [] [] 0 s)
    (hv : v = 1 → kindOf s.cur = 0 ∧ s.plainV [d.setWidth 5]) (hn : s.me.answer = none) (mine : s.serves q false w)
    (on : bit (s.qctl (coreOf s.cur) q) 63 = true) (held : queueCount (s.qctl (coreOf s.cur) q) ≠ 0)
    (free : ∀ u ∈ unitsOver 8 (padOf (coreOf s.cur) (s.queueOffset (coreOf s.cur) q 0)) (queueWidth w),
      s.mustWait s.cur (8 * u) none = false ∧ ∀ g, tget s.tags (8 * u) = some g → inScope g.writer g.scope s.cur = true)
    (clean : s.poisonIn (padOf (coreOf s.cur) (s.queueOffset (coreOf s.cur) q 0)) (queueWidth w) = none) :
    exec (.qrd d w v q) s =
      .next (if v = 1 then (s.queueTaken (coreOf s.cur) q).setV (d.setWidth 5) (BitVec.ofNat 512
          (natOf (s.getBytes (padOf (coreOf s.cur) (s.queueOffset (coreOf s.cur) q 0)) (queueWidth w))))
        else (s.queueTaken (coreOf s.cur) q).setX d (BitVec.ofNat 64
          (natOf (s.getBytes (padOf (coreOf s.cur) (s.queueOffset (coreOf s.cur) q 0)) (queueWidth w))))).retire := by
  refine exec_of_run (qrd_run ha hv hn mine on) ?_
  have size : queueWidth w ≤ 64 := mine.2 ▸ queueSize_le _
  rw [qrdTakeM, bind_get]
  dsimp only
  rw [if_neg held, mine.2, bind_ok (forM_done fun u hu => meetTag_word (.inl (homeOf_queue size hu)) (by omega)
    (free u hu).1 (free u hu).2 true), bind_get, clean]
  dsimp only
  rw [State.queueTake, mine.2]
  rfl

theorem qrd_waits (ha : Accepted ⟨true, false, true, false⟩ (.qrd d w v q) [] [] 0 s)
    (hv : v = 1 → kindOf s.cur = 0 ∧ s.plainV [d.setWidth 5]) (hn : s.me.answer = none) (mine : s.serves q false w)
    (on : bit (s.qctl (coreOf s.cur) q) 63 = true) (bare : queueCount (s.qctl (coreOf s.cur) q) = 0) :
    Waits (.qrd d w v q) s (.queue q) := by
  refine waits_of_run (qrd_run ha hv hn mine on) (t := s) (l := none) ?_ rfl
  rw [qrdTakeM, bind_get]
  dsimp only
  rw [if_pos bare, run_parkM]

theorem State.queueTaken_head : (s.queueTaken c q).pc = s.pc ∧ (s.queueTaken c q).image = s.image ∧
    (s.queueTaken c q).me.sys = s.me.sys :=
  ⟨State.setQctl_pc, State.setQctl_image, State.setQctl_sys⟩

/-- What QRD leaves: the queue without its oldest element, and the register that it names. -/
theorem endsAs_qrd {e : Nat} (hc : s.ctx = .main) (hx : exec i s = .next (if v = 1
      then (s.queueTaken c q).setV (d.setWidth 5) (BitVec.ofNat 512 e)
      else (s.queueTaken c q).setX d (BitVec.ofNat 64 e)).retire) :
    EndsAs i s s (s.queueTaken c q) (if v = 1 then [] else [d]) (if v = 1 then [d.setWidth 5] else []) [] 0 fun t =>
      (v = 1 → t.v (d.setWidth 5) = BitVec.ofNat 512 e) ∧ (v = 0 → t.x d = if d = 0 then 0 else BitVec.ofNat 64 e) := by
  obtain ⟨pc, image, sys⟩ := State.queueTaken_head (s := s) (c := c) (q := q)
  have main : ∀ x : State, x.ctx = s.ctx → x.ctx ≠ .handler := fun x hx => by rw [hx, hc]; decide
  by_cases e1 : v = 1
  · subst e1
    have hasV : (s.queueTaken c q).hasV (d.setWidth 5) := fun h => absurd h (main _ rfl)
    simp only [if_true] at hx ⊢
    refine endsAs_of_retire hx (State.flows_congr (by simp [pc]) (by simp [image]))
      (State.linkNext_congr (by simp [pc]) (by simp [image])) (by simp [pc]) (by simp [sys]) ?_ (.setV _ _ _ hasV)
    simp [State.v_setV _ _ _ _ hasV]
  · have e0 : v = 0 := (BitVec.eq_zero_or_eq_one v).resolve_right e1
    subst e0
    have hasX : (s.queueTaken c q).hasX d := fun h => absurd h (main _ rfl)
    simp only [if_neg e1] at hx ⊢
    refine endsAs_of_retire hx (State.flows_congr (by simp [pc]) (by simp [image]))
      (State.linkNext_congr (by simp [pc]) (by simp [image])) (by simp [pc]) (by simp [sys]) ?_ (.setX _ _ _ hasX)
    simp [State.x_setX _ _ _ _ hasX]

/-! ## Writing (R356) -/

/-- A source that is no stream is the register, and is not popped (R306). -/
theorem source_plain {n : BitVec 5} (h : s.plainV [n]) :
    (sourceFaultM n).run s = (.ok (), s) ∧ (readSource n).run s = (.ok (s.v n), s) ∧ s.popSource n = s := by
  have slot : s.streamSlot n = none := h n (List.mem_singleton_self n)
  refine ⟨?_, ?_, ?_⟩
  · unfold sourceFaultM
    rw [bind_get, slot]
    rfl
  · unfold readSource
    rw [bind_get, slot]
    rfl
  · unfold State.popSource
    rw [slot]

/-- What QWR does once its checks have passed, c being its core and ctl the queue's register. -/
def qwrPutM (d : BitVec 6) (w : BitVec 2) (v : BitVec 1) (q : BitVec 3) (s : State) (c : Nat) (ctl : Word) : M Unit := do
  if queueDepth ctl ≤ queueCount ctl + s.queuePending c q then parkM (.queue q) else
  let x ← if v = 1 then readSource (d.setWidth 5) else pure ((s.x d).setWidth 512)
  modify fun s =>
    let s := if v = 1 then s.popSource (d.setWidth 5) else s
    let (ring, len) := s.queueRing c q
    (s.pushStore (.queue q (bytesOf x.toNat (queueWidth w)) ring len) 0 false).retire

theorem qwr_run (ha : Accepted ⟨true, false, true, false⟩ (.qwr d w v q) [] [] 0 s)
    (hv : v = 1 → kindOf s.cur = 0 ∧ s.plainV [d.setWidth 5]) (hn : s.me.answer = none) (mine : s.serves q true w)
    (on : bit (s.qctl (coreOf s.cur) q) 63 = true) (low : s.queueStack (coreOf s.cur) q 1 = none) :
    exec (.qwr d w v q) s = finish ((qwrPutM d w v q s (coreOf s.cur) (s.qctl (coreOf s.cur) q)).run s) := by
  rw [queueHead_run ha rfl fun e => (hv e).1]
  refine congrArg finish ((bind_ok (queueOperandM_done hn mine)).trans ?_)
  refine (run_iteBind fun e => (source_plain (hv e).2).1).trans ?_
  rw [bind_get]
  dsimp only
  rw [if_pos on, low]
  dsimp only
  rw [bind_ok (queueEnabledM_done on)]
  rfl

/-- QWR sends its element through the store buffer where there is room. -/
theorem exec_qwr (ha : Accepted ⟨true, false, true, false⟩ (.qwr d w v q) [] [] 0 s)
    (hv : v = 1 → kindOf s.cur = 0 ∧ s.plainV [d.setWidth 5]) (hn : s.me.answer = none) (mine : s.serves q true w)
    (on : bit (s.qctl (coreOf s.cur) q) 63 = true) (low : s.queueStack (coreOf s.cur) q 1 = none)
    (room : queueCount (s.qctl (coreOf s.cur) q) + s.queuePending (coreOf s.cur) q < queueDepth (s.qctl (coreOf s.cur) q)) :
    exec (.qwr d w v q) s = .next (s.pushStore (.queue q (bytesOf (if v = 1 then (s.v (d.setWidth 5)).toNat
      else (s.x d).toNat) (queueWidth w)) (s.queueRing (coreOf s.cur) q).1 (s.queueRing (coreOf s.cur) q).2) 0 false).retire := by
  refine exec_of_run (qwr_run ha hv hn mine on low) ?_
  rw [qwrPutM, if_neg (by omega)]
  by_cases e : v = 1
  · obtain ⟨-, read, pop⟩ := source_plain (hv e).2
    simp only [if_pos e]
    rw [bind_ok read, run_modify, pop]
  · simp only [if_neg e]
    rw [bind_ok (run_pure _ _), run_modify, BitVec.toNat_setWidth_of_le (by decide)]

theorem qwr_waits (ha : Accepted ⟨true, false, true, false⟩ (.qwr d w v q) [] [] 0 s)
    (hv : v = 1 → kindOf s.cur = 0 ∧ s.plainV [d.setWidth 5]) (hn : s.me.answer = none) (mine : s.serves q true w)
    (on : bit (s.qctl (coreOf s.cur) q) 63 = true) (low : s.queueStack (coreOf s.cur) q 1 = none)
    (full : queueDepth (s.qctl (coreOf s.cur) q) ≤ queueCount (s.qctl (coreOf s.cur) q) + s.queuePending (coreOf s.cur) q) :
    Waits (.qwr d w v q) s (.queue q) :=
  waits_of_run (qwr_run ha hv hn mine on low) (t := s) (l := none) (by rw [qwrPutM, if_pos full, run_parkM]) rfl

/-! ## What the checks refuse (R49) -/

theorem qrd_traps (ha : Accepted ⟨true, false, true, false⟩ (.qrd d w 0 q) [] [] 0 s) (hn : s.me.answer = none) :
    (¬ s.serves q false w → Traps (.qrd d w 0 q) s (BitVec.ofNat 64 0x05) 0) ∧
    (s.serves q false w → ¬ bit (s.qctl (coreOf s.cur) q) 63 = true →
      Traps (.qrd d w 0 q) s (BitVec.ofNat 64 0x0E) (q.setWidth 64)) := by
  have he := queueHead_run ha rfl fun e => absurd e (by decide)
  refine ⟨fun other => traps_of_run he ?_, fun mine off => traps_of_run he ?_⟩
  · refine (run_iteBind fun e => absurd e (by decide)).trans ?_
    rw [bind_error (queueOperandM_traps hn other)]
  · refine (run_iteBind fun e => absurd e (by decide)).trans ?_
    rw [bind_ok (queueOperandM_done hn mine), bind_error (queueEnabledM_traps off)]

theorem qwr_traps (ha : Accepted ⟨true, false, true, false⟩ (.qwr d w 0 q) [] [] 0 s) (hn : s.me.answer = none) :
    (¬ s.serves q true w → Traps (.qwr d w 0 q) s (BitVec.ofNat 64 0x05) 0) ∧
    (s.serves q true w → ¬ bit (s.qctl (coreOf s.cur) q) 63 = true →
      Traps (.qwr d w 0 q) s (BitVec.ofNat 64 0x0E) (q.setWidth 64)) := by
  have he := queueHead_run ha rfl fun e => absurd e (by decide)
  refine ⟨fun other => traps_of_run he ?_, fun mine off => traps_of_run he ?_⟩
  · exact bind_error (queueOperandM_traps hn other)
  · refine (bind_ok (queueOperandM_done hn mine)).trans ((run_iteBind fun e => absurd e (by decide)).trans ?_)
    rw [bind_get]
    dsimp only
    rw [if_neg off]
    exact bind_error (queueEnabledM_traps off)

/-! ## Retirement of an element (R50, R51) -/

theorem State.qctl_congr (h : (t.hart c).queues = (s.hart c).queues) : t.qctl c q = s.qctl c q := by
  unfold State.qctl
  rw [h]

theorem State.queueOffset_congr (h : (t.hart c).queues = (s.hart c).queues) (i : Nat) :
    t.queueOffset c q i = s.queueOffset c q i := by
  unfold State.queueOffset
  rw [State.qctl_congr h, h]

theorem State.dropEntry_queues {h k j : Nat} : ((s.dropEntry h k).hart j).queues = (s.hart j).queues :=
  State.part_modHart (·.queues) (fun _ => by rfl) j

/-- An entry that is no update and no release, and may go, is performed at its home. -/
theorem exec_retire {h k : Nat} {e : StoreEntry} (he : (s.hart h).mem.sb[k]? = some e)
    (op : ∀ a n v, e.op ≠ .update a n v) (plain : qualOrd e.qual < 2) (ready : s.entryReady h k e = true)
    (go : s.entryWaits h e = (false, s)) :
    exec (.storeBufferRetire h k) s = .next ((s.dropEntry h k).performEntry h e) := by
  show execStoreBufferRetire h k s = _
  unfold execStoreBufferRetire
  rw [he]
  dsimp only
  split
  · next a n v e => exact absurd e (op a n v)
  · rw [if_neg (Nat.not_le.2 plain), if_neg (ne_false_of_eq_true ready), go]

/-- A queue write that retires appends its element. -/
theorem queueWrite_retires {h ring len : Nat} {e : StoreEntry} {l : List Byte} (he : (s.hart h).mem.sb[0]? = some e)
    (op : e.op = .queue q l ring len) (plain : e.qual = 0) (ready : s.entryReady h 0 e = true)
    (go : s.entryWaits h e = (false, s)) (on : bit (s.qctl (coreOf h) q) 63 = true) :
    exec (.storeBufferRetire h 0) s = .next ((s.dropEntry h 0).queuePut (coreOf h) q l) := by
  have on' : bit ((s.dropEntry h 0).qctl (coreOf h) q) 63 = true := by
    rwa [State.qctl_congr State.dropEntry_queues]
  rw [exec_retire he (by simp [op]) (by rw [plain]; decide) ready go, State.performEntry, op]
  exact congrArg _ (if_pos on')

/-- What an append writes: the register, and the bytes of the place behind the youngest element. -/
theorem State.queuePut_spec {l : List Byte} (wf : Memory.wf s.mem = true) :
    let a := padHome (clusterOf c) (s.queueOffset c q (queueCount (s.qctl c q)))
    (s.queuePut c q l).qctl c q = setBits (s.qctl c q) 48 36 (queueCount (s.qctl c q) + 1) ∧
    (∀ j, j < l.length → memGet (s.queuePut c q l).mem (a + j) = (l[j]?).getD 0) ∧
    ∀ b, (b < a ∨ a + l.length ≤ b) → memGet (s.queuePut c q l).mem b = memGet s.mem b := by
  have mem : (s.queuePut c q l).mem =
      memPutList s.mem (padHome (clusterOf c) (s.queueOffset c q (queueCount (s.qctl c q)))) l := by
    have keep : ∀ (u : State) v i, (u.setQctl c q v i).mem = u.mem := fun _ _ _ => rfl
    unfold State.queuePut padOf
    dsimp only
    rw [keep, State.clearTags_mem, State.putBytes_mem]
  refine ⟨by unfold State.queuePut; exact State.qctl_setQctl, fun j hj => ?_, fun b hb => ?_⟩
  · rw [mem, memGet_memPutList_in wf hj]
  · rw [mem, memGet_memPutList_out _ wf _ _ hb]

/-! ## Reconfiguration (R48, R357) -/

theorem State.endQueueXfers_part {α : Type} (f : Hart → α) (hf : ∀ h z, f { h with copy := z } = f h) (j : Nat) :
    f ((s.endQueueXfers c q).hart j) = f (s.hart j) :=
  List.foldlRecOn (motive := fun t : State => f (t.hart j) = f (s.hart j)) _ _ rfl fun _ ht _ _ =>
    (State.part_modHart f (fun _ => hf _ _) j).trans ht

theorem State.dropQueue_part {α : Type} (f : Hart → α) (hf : ∀ h z, f { h with copy := z } = f h)
    (hg : ∀ h z r, f { h with mem := z, answer := r } = f h) (j : Nat) :
    f ((s.dropQueue c q).hart j) = f (s.hart j) :=
  List.foldlRecOn (motive := fun t : State => f (t.hart j) = f (s.hart j)) _ _ (State.endQueueXfers_part f hf j)
    fun _ ht _ _ => (State.part_modHart f (fun _ => hg _ _ _) j).trans ht

theorem State.endQueueXfers_who : (s.endQueueXfers c q).cur = s.cur ∧ (s.endQueueXfers c q).ctx = s.ctx :=
  List.foldlRecOn (motive := fun t : State => t.cur = s.cur ∧ t.ctx = s.ctx) _ _ ⟨rfl, rfl⟩ fun _ ht _ _ => ht

theorem State.dropQueue_who : (s.dropQueue c q).cur = s.cur ∧ (s.dropQueue c q).ctx = s.ctx :=
  List.foldlRecOn (motive := fun t : State => t.cur = s.cur ∧ t.ctx = s.ctx) _ _ State.endQueueXfers_who fun _ ht _ _ => ht

/-- A hart of the triple that is blocked on the queue takes QUEUE_DISABLED (R48). -/
theorem State.dropQueue_answer {j : Nat} {p : Park} (hj : j ∈ [c, 4096 + c, 8192 + c]) (hp : (s.hart j).park = some p)
    (why : p.why = .queue q) :
    ((s.dropQueue c q).hart j).answer = some (.trap (BitVec.ofNat 64 0x0E) (q.setWidth 64) false) := by
  have nd : [c, 4096 + c, 8192 + c].Nodup := by simp
  have park : ((s.endQueueXfers c q).hart j).park = some p := (State.endQueueXfers_part (·.park) (fun _ _ => rfl) j).trans hp
  unfold State.dropQueue
  rw [hart_foldl_own nd (fun t j _ => State.hart_modHart_same t j _) (fun t c j h => State.hart_modHart_ne t c j _ h),
    if_pos hj]
  dsimp only
  rw [park]
  exact if_pos why

/-- The queue as QCFG finds it, cleared where it was enabled. -/
def State.clearedQueue (s : State) (c : Nat) (q : BitVec 3) : State := if bit (s.qctl c q) 63 then s.dropQueue c q else s

theorem State.clearedQueue_part {α : Type} (f : Hart → α) (hf : ∀ h z, f { h with copy := z } = f h)
    (hg : ∀ h z r, f { h with mem := z, answer := r } = f h) (j : Nat) :
    f ((s.clearedQueue c q).hart j) = f (s.hart j) := by
  unfold State.clearedQueue
  split
  · exact State.dropQueue_part f hf hg j
  · rfl

theorem State.clearedQueue_who : (s.clearedQueue c q).cur = s.cur ∧ (s.clearedQueue c q).ctx = s.ctx := by
  unfold State.clearedQueue
  split
  · exact State.dropQueue_who
  · exact ⟨rfl, rfl⟩

theorem exec_qcfg {b : BitVec 6} (ha : Accepted acceptMain (.qcfg q b) [b] [] 0 s)
    (fits : bit (s.x b) 63 = true → queueRangeOk (s.x b) = true)
    (bare : bit (s.qctl s.cur q) 63 = true → queueCount (s.qctl s.cur q) = 0 ∧ s.queuePending s.cur q = 0) :
    exec (.qcfg q b) s = .next ((s.clearedQueue s.cur q).setQctl s.cur q (s.x b &&& 0x8000_000F_FC0F_FFC0) 0).retire := by
  refine exec_of_run (ha.exec_eq rfl) ?_
  rw [bind_get]
  dsimp only
  rw [if_neg fun h => h.2.elim (fun e => e (bare h.1).1) (fun e => e (bare h.1).2), if_neg]
  · rfl
  · cases e : bit (s.x b) 63 with
    | false => simp
    | true => simp [fits e]

theorem qcfg_waits {b : BitVec 6} (ha : Accepted acceptMain (.qcfg q b) [b] [] 0 s) (on : bit (s.qctl s.cur q) 63 = true)
    (held : queueCount (s.qctl s.cur q) ≠ 0) : Waits (.qcfg q b) s .queueEmpty := by
  refine waits_of_run (ha.exec_eq rfl) (t := s) (l := none) ?_ rfl
  rw [bind_get]
  dsimp only
  rw [if_pos ⟨on, .inl held⟩, run_parkM]

/-- A queue register is the same once a head has ended, and so is another hart. -/
theorem SameBut.qctl {xs vs ps fl} (h : SameBut s t xs vs ps fl) : t.qctl s.cur q = s.qctl s.cur q :=
  State.qctl_congr (by simpa only [State.me, h.who.1] using h.queues)

theorem qcfg_ends {b : BitVec 6} (ha : Accepted acceptMain (.qcfg q b) [b] [] 0 s)
    (fits : bit (s.x b) 63 = true → queueRangeOk (s.x b) = true)
    (bare : bit (s.qctl s.cur q) 63 = true → queueCount (s.qctl s.cur q) = 0 ∧ s.queuePending s.cur q = 0) :
    EndsAs (.qcfg q b) s s ((s.clearedQueue s.cur q).setQctl s.cur q (s.x b &&& 0x8000_000F_FC0F_FFC0) 0) [] [] [] 0 fun t =>
      t.qctl s.cur q = s.x b &&& 0x8000_000F_FC0F_FFC0 ∧
        ∀ h ∈ [4096 + s.cur, 8192 + s.cur], ∀ p, bit (s.qctl s.cur q) 63 = true → (s.hart h).park = some p → p.why = .queue q →
          (t.hart h).answer = some (.trap (BitVec.ofNat 64 0x0E) (q.setWidth 64) false) := by
  have part : ∀ {α : Type} (f : Hart → α), (∀ h z, f { h with copy := z } = f h) →
      (∀ h z r, f { h with mem := z, answer := r } = f h) → f (s.clearedQueue s.cur q).me = f s.me := fun f hf hg => by
    unfold State.me
    rw [State.clearedQueue_who.1]
    exact State.clearedQueue_part f hf hg s.cur
  have pc : (s.clearedQueue s.cur q).pc = s.pc := by
    unfold State.pc
    rw [State.clearedQueue_who.2, part (·.main) (fun _ _ => rfl) (fun _ _ _ => rfl),
      part (·.handler) (fun _ _ => rfl) (fun _ _ _ => rfl)]
  have image : (s.clearedQueue s.cur q).image = s.image := by
    unfold State.image
    rw [State.clearedQueue_who.2, part (·.main) (fun _ _ => rfl) (fun _ _ _ => rfl),
      part (·.handler) (fun _ _ => rfl) (fun _ _ _ => rfl)]
  have sys : (s.clearedQueue s.cur q).me.sys = s.me.sys := part (·.sys) (fun _ _ => rfl) (fun _ _ _ => rfl)
  refine endsAs_retire (exec_qcfg ha fits bare) (State.setQctl_pc.trans pc) (State.setQctl_image.trans image)
    (by rw [State.setQctl_sys, sys]) ?_
  have cur : ((s.clearedQueue s.cur q).setQctl s.cur q (s.x b &&& 0x8000_000F_FC0F_FFC0) 0).cur = s.cur :=
    State.clearedQueue_who.1
  have told : ∀ t, SameBut ((s.clearedQueue s.cur q).setQctl s.cur q (s.x b &&& 0x8000_000F_FC0F_FFC0) 0) t [] [] [] 0 →
      t.qctl s.cur q = s.x b &&& 0x8000_000F_FC0F_FFC0 ∧
        ∀ h ∈ [4096 + s.cur, 8192 + s.cur], ∀ p, bit (s.qctl s.cur q) 63 = true → (s.hart h).park = some p → p.why = .queue q →
          (t.hart h).answer = some (.trap (BitVec.ofNat 64 0x0E) (q.setWidth 64) false) := by
    refine fun t same => ⟨?_, fun h hh p on hp why => ?_⟩
    · have kept := same.qctl (q := q)
      rw [cur] at kept
      rw [kept, State.qctl_setQctl]
    · have apart : h ≠ s.cur := by
        simp only [List.mem_cons, List.not_mem_nil, or_false] at hh
        omega
      rw [same.others h (fun e => apart (e.trans cur)), State.setQctl_part (·.answer) (fun _ _ => by rfl), State.clearedQueue, if_pos on]
      exact State.dropQueue_answer (List.mem_cons_of_mem _ hh) hp why
  exact ⟨told _ (SameBut.goto _ _), told _ (SameBut.countHead _)⟩

end

/-- Settles O37: a queue access is its checks, and then the take at the head or the entry of the store buffer, whose
retirement appends; QCFG clears a queue that is enabled, which answers those blocked on it, and writes the register. -/
theorem queueAccess : Obligations.QueueAccess := by
  unfold Obligations.QueueAccess
  refine ⟨fun d w v q s ha hc hv hn mine on free held clean => ?_, fun d w v q s ha hv hn mine on bare => ?_,
    fun d w v q s ha hc hv hn mine on low room => ?_, fun d w q s ha hn mine on low full => ?_,
    fun d w q s ha hn => qrd_traps ha hn, fun d w q s ha hn => qwr_traps ha hn,
    fun s h ring len q e l wf he op plain ready go => ?_, fun q b s ha fits bare => qcfg_ends ha fits bare,
    fun q b s ha on held => qcfg_waits ha on held⟩
  · exact endsAs_qrd hc (exec_qrd ha hv hn mine on held free clean)
  · exact qrd_waits ha hv hn mine on bare
  · refine endsAs_retire (exec_qwr ha hv hn mine on low room) (State.pc_modMe rfl rfl) (State.image_modMe rfl rfl)
      (by simp) ⟨⟨_, by simp [State.pushStore]; rfl, rfl⟩, ⟨_, by simp [State.pushStore]; rfl, rfl⟩⟩
  · exact qwr_waits ha (fun e => absurd e (by decide)) hn mine on low full
  · intro c v on size some_
    have kept : ((s.dropEntry h 0).hart (coreOf h)).queues = (s.hart (coreOf h)).queues := State.dropEntry_queues
    have spec := State.queuePut_spec (s := s.dropEntry h 0) (c := coreOf h) (q := q) (l := l) wf
    rw [State.qctl_congr kept, State.queueOffset_congr kept] at spec
    exact ⟨_, queueWrite_retires he op plain ready go on, spec⟩

end Sys2Proof.Machine
end

section
/-! O33: retirement of a plain store. The bytes of its one word are merged into what the word held; a load before that
takes them from the youngest entry of the buffer (R62, R68, R92, R110, R184). -/

namespace Sys2Proof.Machine

section
variable {s t : State} {a b n w : Nat} {d : List Byte} {v : Byte}

/-! ## Whole bytes from an address on -/

theorem mem_cellsAt {m : MaskedByte} : m ∈ cellsAt a d ↔ ∃ i, ∃ h : i < d.length, m = ⟨a + i, d[i], 0xFF⟩ := by
  induction d generalizing a with
  | nil => simp [cellsAt]
  | cons x d ih =>
    rw [cellsAt_cons, List.mem_cons, ih]
    constructor
    · rintro (rfl | ⟨i, h, rfl⟩)
      · exact ⟨0, by simp, rfl⟩
      · exact ⟨i + 1, by simpa using h, by simp; omega⟩
    · rintro ⟨_ | i, h, rfl⟩
      · exact .inl rfl
      · exact .inr ⟨i, by simpa using h, by simp; omega⟩

/-- Whole bytes over what a byte was. -/
theorem maskedOver_cellsAt : maskedOver (cellsAt a d) b v = if h : a ≤ b ∧ b - a < d.length then d[b - a]'h.2 else v := by
  induction d generalizing a v with
  | nil => simp [cellsAt, maskedOver]
  | cons x d ih =>
    have whole : (x &&& 0xFF ||| v &&& ~~~(0xFF : Byte)) = x := by
      rw [show (0xFF : Byte) = BitVec.allOnes 8 from rfl]
      simp only [BitVec.not_allOnes, BitVec.and_zero, BitVec.or_zero, BitVec.and_allOnes]
    have step : maskedOver (cellsAt a (x :: d)) b v = maskedOver (cellsAt (a + 1) d) b (if a = b then x else v) := by
      rw [cellsAt_cons, maskedOver, List.foldl_cons, whole]
      rfl
    rw [step, ih]
    by_cases e : a = b
    · subst e
      rw [dif_neg (by omega), dif_pos (by simp)]
      simp
    · by_cases h : a + 1 ≤ b ∧ b - (a + 1) < d.length
      · rw [dif_pos h, dif_pos (by simp only [List.length_cons]; omega)]
        have : b - a = b - (a + 1) + 1 := by omega
        simp only [this, List.getElem_cons_succ]
      · rw [dif_neg h, dif_neg (by simp only [List.length_cons]; omega), if_neg e]

/-! ## The merge into a word (R68, R93, R184) -/

theorem mem_sortedAdd {l : List Nat} : a ∈ sortedAdd l a := by
  induction l with
  | nil => exact List.mem_singleton_self a
  | cons b l ih =>
    unfold sortedAdd
    split
    · exact List.mem_cons_self
    · split
      · next e => exact e ▸ List.mem_cons_self
      · exact List.mem_cons_of_mem _ ih

@[simp] theorem State.deliver_full : (s.deliver w).full = s.full := by
  unfold State.deliver
  split <;> rfl

@[simp] theorem State.deliver_poison : (s.deliver w).poison = s.poison := by
  unfold State.deliver
  split <;> rfl

@[simp] theorem State.setFull_poison {b : Bool} : (s.setFull w b).poison = s.poison := by
  unfold State.setFull
  dsimp only
  split
  · split
    · rw [State.deliver_poison]
    · rfl
  · rfl

theorem State.isFull_setFull (h : hasFullBit w = true) : (s.setFull w true).isFull w = true := by
  unfold State.isFull State.setFull
  rw [if_pos h]
  dsimp only
  split
  · rw [State.deliver_full]
    exact List.contains_iff_mem.2 mem_sortedAdd
  · exact List.contains_iff_mem.2 mem_sortedAdd

/-- The bytes of one word, merged: each reads as it was stored, and every other byte as before. -/
theorem State.mergeWord_bytes (wf : Memory.wf s.mem = true) (one : a % 8 + d.length ≤ 8) (c : Nat) :
    memGet (s.mergeWord (wordAt a) (cellsAt a d)).mem c =
      if h : a ≤ c ∧ c - a < d.length then d[c - a]'h.2 else memGet s.mem c := by
  have base : wordAt a = a - a % 8 := by unfold wordAt; omega
  have mem : (s.mergeWord (wordAt a) (cellsAt a d)).mem = memPutList s.mem (wordAt a)
      ((upFrom (wordAt a) 8).map fun x => maskedOver (cellsAt a d) x (memGet s.mem x)) := by
    unfold State.mergeWord
    dsimp only
    rw [State.setFull_mem]
    rfl
  rw [mem, memGet_memPutList _ wf]
  by_cases inside : wordAt a ≤ c ∧ c - wordAt a < 8
  · rw [dif_pos (by simpa [upFrom_eq_range'] using inside)]
    have place : wordAt a + (c - wordAt a) = c := by omega
    simp only [upFrom_eq_range', List.getElem_map, List.getElem_range', one_mul, place]
    exact maskedOver_cellsAt
  · rw [dif_neg (by simpa [upFrom_eq_range'] using inside), dif_neg (by omega)]

theorem foldl_mask {l : List MaskedByte} (some_ : l ≠ []) (all : ∀ c ∈ l, c.mask = 0xFF) (m : Byte) :
    l.foldl (fun m c => m ||| c.mask) m = 0xFF := by
  have ones : ∀ x : Byte, x ||| 0xFF = 0xFF := fun x => by
    rw [show (0xFF : Byte) = BitVec.allOnes 8 from rfl, BitVec.or_allOnes]
  induction l generalizing m with
  | nil => exact absurd rfl some_
  | cons c l ih =>
    rw [List.foldl_cons, all c List.mem_cons_self, ones]
    by_cases e : l = []
    · rw [e]
      rfl
    · exact ih e (fun x hx => all x (List.mem_cons_of_mem _ hx)) _

/-- A word that is covered whole loses its poison (R184). -/
theorem State.mergeWord_poison (pad : homeOf (wordAt a) ≠ .pad) (h8 : a % 8 + d.length ≤ 8) (whole : d.length = 8) :
    wordAt a ∉ (s.mergeWord (wordAt a) (cellsAt a d)).poison := by
  have start : wordAt a = a := by unfold wordAt; omega
  have mask : ∀ x, a ≤ x → x < a + 8 →
      ((cellsAt a d).filter fun c => c.addr == x).foldl (fun m c => m ||| c.mask) 0 = (0xFF : Byte) := by
    intro x low high
    refine foldl_mask (List.ne_nil_of_mem (a := ⟨x, d[x - a], 0xFF⟩) ?_) ?_ _
    · rw [List.mem_filter]
      exact ⟨mem_cellsAt.2 ⟨x - a, by omega, by simp; omega⟩, by simp⟩
    · intro c hc
      obtain ⟨i, h, rfl⟩ := mem_cellsAt.1 (List.mem_filter.1 hc).1
      rfl
  rw [start] at pad ⊢
  unfold State.mergeWord
  dsimp only
  rw [State.setFull_poison, List.mem_filter, not_and, Bool.not_eq_true', Bool.not_eq_false, Bool.and_eq_true]
  intro _
  refine ⟨by simp [start], List.all_eq_true.2 fun x hx => ?_⟩
  have size : secdedSize a = 8 := if_neg pad
  rw [size, mem_upFrom] at hx
  rw [mask x hx.1 hx.2]
  rfl

/-! ## The write of an entry (R77, R100, R110) -/

@[simp] theorem State.fillL2_mem {k : Nat} {x : L2Line} : (s.fillL2 k x).mem = s.mem := by
  unfold State.fillL2
  dsimp only
  split
  · rfl
  · split
    · split <;> rfl
    · rfl

theorem State.touch_mem {q : BitVec 8} {store : Bool} {r : Option Reader} (out : homeOf a ≠ .loft) :
    (s.touch a q store r).mem = s.mem := by
  unfold State.touch
  split
  · exact State.fillL2_mem
  · next e => exact absurd e out
  · rfl

theorem State.applyLine_idle (idle : (s.die (homeDie a)).gutter = []) : s.applyLine a = s := by
  unfold State.applyLine State.applyEntries
  dsimp only
  rw [idle]
  split
  · exact if_pos rfl
  · rfl

theorem not_inHartWindow (home : homeOf a = .dram ∨ homeOf a = .tcm ∨ homeOf a = .pad) : inHartWindow a = false := by
  unfold inHartWindow
  unfold homeOf at home
  refine decide_eq_false ?_
  split_ifs at home <;> simp at home <;> omega

/-- A plain write without updates of its line pending, and outside every spill area, is the merge of its bytes. -/
theorem State.performWrite_plain {q : BitVec 8} {h : Nat} {sync : Bool} (some_ : d ≠ [])
    (out : inHartWindow a = false) (idle : (s.die (homeDie a)).gutter = []) (dry : s.inSpill a = false)
    (plain : qualOrd q < 2) :
    s.performWrite h (cellsAt a d) q sync =
      let t := (if sync then s else s.touch a q true none).mergeWord (wordAt a) (cellsAt a d)
      { t with tags := tdel t.tags (unitOf a sync) } := by
  cases d with
  | nil => exact absurd rfl some_
  | cons x d =>
    unfold State.performWrite
    rw [cellsAt_cons]
    dsimp only
    rw [out, if_neg (by decide), State.applyLine_idle idle, dry, if_neg (by decide)]
    exact if_neg (by omega)

/-- The word that a plain write leaves. -/
theorem State.performWrite_spec {q : BitVec 8} {h : Nat} {sync : Bool} (wf : Memory.wf s.mem = true) (some_ : d ≠ [])
    (one : a % 8 + d.length ≤ 8) (home : homeOf a = .dram ∨ homeOf a = .tcm ∨ homeOf a = .pad)
    (idle : (s.die (homeDie a)).gutter = []) (dry : s.inSpill a = false) (plain : qualOrd q < 2) :
    let t := s.performWrite h (cellsAt a d) q sync
    (∀ j, j < d.length → memGet t.mem (a + j) = (d[j]?).getD 0) ∧
    (∀ b, b < a ∨ a + d.length ≤ b → memGet t.mem b = memGet s.mem b) ∧
    (homeOf a ≠ .dram → t.isFull (wordAt a) = true) ∧
    (homeOf a ≠ .pad → d.length = 8 → wordAt a ∉ t.poison) := by
  have out := not_inHartWindow home
  have homeWord : homeOf (wordAt a) = homeOf a := by
    have edge : ∀ c, c % 8 = 0 → (a / 8 * 8 < c ↔ a < c) := fun c hc => by omega
    unfold homeOf wordAt
    simp only [edge 0x40_0000_0000 rfl, edge 0x1_0000_0000_0000 rfl, edge 0x1_0000_1000_0000 rfl,
      edge 0x1_0000_2000_0000 rfl, edge 0x1_0000_4000_0000 rfl, edge 0x1_0002_0000_0000 rfl]
  have touched : (if sync then s else s.touch a q true none).mem = s.mem := by
    split
    · rfl
    · exact State.touch_mem (by rcases home with e | e | e <;> rw [e] <;> decide)
  rw [State.performWrite_plain some_ out idle dry plain]
  have bytes := State.mergeWord_bytes (s := if sync then s else s.touch a q true none) (a := a) (d := d)
    (by rwa [touched]) one
  rw [touched] at bytes
  refine ⟨fun j hj => ?_, fun b hb => ?_, fun local_ => ?_, fun pad whole => ?_⟩
  · refine (bytes (a + j)).trans ?_
    rw [dif_pos (by omega)]
    simp [hj]
  · exact (bytes b).trans (dif_neg (by omega))
  · refine State.isFull_setFull ?_
    unfold hasFullBit
    rw [homeWord]
    rcases home with e | e | e
    · exact absurd e local_
    · rw [e]; rfl
    · rw [e]; rfl
  · exact State.mergeWord_poison (homeWord ▸ pad) one whole

/-! ## Forwarding (R92) -/

theorem find_cellsAt {j : Nat} (hj : j < d.length) :
    (cellsAt a d).reverse.find? (fun m => m.addr == a + j && m.mask == 0xFF) = some ⟨a + j, d[j], 0xFF⟩ := by
  cases found : (cellsAt a d).reverse.find? (fun m => m.addr == a + j && m.mask == 0xFF) with
  | none =>
    have there : (⟨a + j, d[j], 0xFF⟩ : MaskedByte) ∈ (cellsAt a d).reverse := List.mem_reverse.2 (mem_cellsAt.2 ⟨j, hj, rfl⟩)
    exact absurd (List.find?_eq_none.1 found _ there) (by simp)
  | some m =>
    obtain ⟨i, hi, rfl⟩ := mem_cellsAt.1 (List.mem_reverse.1 (List.mem_of_find?_eq_some found))
    have same : i = j := by simpa using List.find?_some found
    subst same
    rfl

/-- A load of exactly the bytes of the youngest entry gets them. -/
theorem forwardFrom_youngest {e : StoreEntry} {r : List StoreEntry} (op : e.op = .write (cellsAt a d)) (some_ : d ≠ []) :
    forwardFrom a d.length (e :: r) = .all (natOf d) := by
  have seen : (upFrom a d.length).map (fun x => (cellsAt a d).reverse.find? fun m => m.addr == x && m.mask == 0xFF) =
      (List.range d.length).map fun j => some ⟨a + j, (d[j]?).getD 0, 0xFF⟩ := by
    refine List.ext_getElem (by simp [upFrom_eq_range']) fun j h1 h2 => ?_
    have hj : j < d.length := by simpa using h2
    simp only [upFrom_eq_range', List.getElem_map, List.getElem_range', List.getElem_range, one_mul]
    rw [find_cellsAt hj]
    simp [hj]
  have hit : (upFrom a d.length).filter (fun x => (cellsAt a d).any fun m => m.addr == x) ≠ [] := by
    refine List.ne_nil_of_mem (a := a) ?_
    have pos : 0 < d.length := List.length_pos_iff.2 some_
    rw [List.mem_filter, mem_upFrom]
    refine ⟨by omega, List.any_eq_true.2 ⟨⟨a + 0, d[0], 0xFF⟩, mem_cellsAt.2 ⟨0, pos, rfl⟩, by simp⟩⟩
  have vals : ((List.range d.length).map fun j => (d[j]?).getD 0) = d :=
    List.ext_getElem (by simp) fun j h1 h2 => by simp [h2]
  unfold forwardFrom
  rw [op]
  simp only [StoreOp.hides, StoreOp.cells, Bool.false_eq_true, if_false, if_neg hit, seen]
  rw [if_pos (by simp), List.map_map]
  exact congrArg _ (congrArg _ vals)

theorem loadAt_forwarded {l : List StoreEntry} {e : StoreEntry} {q : BitVec 8} {va : Word} (sb : s.me.mem.sb = l ++ [e])
    (op : e.op = .write (cellsAt a d)) (some_ : d ≠ []) (out : inHartWindow a = false)
    (clear : waitsForUpdate a d.length s.me.mem.sb = false) (ord : qualOrd q ≠ 3) :
    Gives (loadAt ⟨a, false⟩ d.length q va) s (natOf d) s := by
  have order : (orderBeforeLoad q).run s = (.ok (), s) := by
    unfold orderBeforeLoad
    rw [if_neg ord]
    rfl
  unfold Gives loadAt loadCore
  rw [bind_get]
  dsimp only
  rw [if_neg (by simp), bind_ok order, bind_get, out, if_neg (by decide), clear, if_neg (by decide), sb, List.reverse_append]
  rw [show [e].reverse ++ l.reverse = e :: l.reverse from rfl, forwardFrom_youngest op some_]
  rfl

end

/-- Settles O33: a plain entry that goes is the merge of its bytes into their word, which changes nothing of the harts; a
load asks the youngest entry before the others. -/
theorem storeRetirement : Obligations.StoreRetirement := by
  unfold Obligations.StoreRetirement
  refine ⟨fun s h k a d e wf he op some_ one home idle dry plain ready go => ?_,
    fun s l e home n d q va sb op len _ _ out clear ord => ?_⟩
  · have ord : qualOrd e.qual < 2 := by unfold qualOrd; omega
    have perform : (s.dropEntry h k).performEntry h e = (s.dropEntry h k).performWrite h (cellsAt a d) e.qual e.sync := by
      rw [State.performEntry, op]
    have calm : (s.dropEntry h k).Calm ((s.dropEntry h k).performEntry h e) := by
      rw [perform, State.performWrite_plain (s := s.dropEntry h k) some_ (not_inHartWindow home) idle dry ord]
      have same := State.Calm.refl (s.dropEntry h k)
      exact (State.Calm.mergeWord (.ite same same.touch)).update
    have left : ((s.dropEntry h k).hart h).mem.sb = dropAt (s.hart h).mem.sb k := by
      rw [State.dropEntry, State.hart_modHart_same]
    obtain ⟨stored, others, full, clean⟩ := State.performWrite_spec (h := h) (q := e.qual) (sync := e.sync)
      (s := s.dropEntry h k) wf some_ one home idle dry ord
    refine ⟨_, exec_retire he (by simp [op]) ord ready go, ?_⟩
    rw [perform] at calm ⊢
    refine ⟨stored, others, full, clean, (calm.part h (·.mem.sb) fun _ => by rfl).trans left, fun j => ⟨?_, ?_, ?_⟩⟩
    · exact (calm.part j (·.main) fun _ => by rfl).trans (State.part_modHart (·.main) (fun _ => by rfl) j)
    · exact (calm.part j (·.handler) fun _ => by rfl).trans (State.part_modHart (·.handler) (fun _ => by rfl) j)
    · exact (calm.part j (·.p) fun _ => by rfl).trans (State.part_modHart (·.p) (fun _ => by rfl) j)
  · subst len
    exact loadAt_forwarded sb op (fun e => by simp [e] at *) out clear ord

end Sys2Proof.Machine
end

section
/-! O23: task instructions. SPAWN offers its record to a queue and writes what came of it; ENQ and LAUNCHG send one
request; TASKEND stops a companion and parks a core (R54, R155 to R160, R290 to R295). -/

namespace Sys2Proof.Machine

section
variable {s t u w : State} {k q : Nat} {r : TaskRecord} {i : Instr} {j : Nat}

/-! ## A record that joins a queue (R157) -/

/-- A queue of a cluster with one more task. -/
def Cluster.hold (c : Cluster) (q : Nat) (t : Task) (place : Option Nat) : Cluster :=
  { c with disp := { c.disp with tasks := c.disp.tasks ++ [{ t with queue := q, order := c.disp.order, overflow := place }]
                                 order := c.disp.order + 1 } }

/-- Beside its queue a task that joins changes what a write to DRAM changes. -/
theorem State.holdTask_eq (t : Task) (place : Option Nat) :
    ∃ v, s.Calm v ∧ s.holdTask k q t place = v.modCluster k fun c => c.hold q t place := by
  refine ⟨_, ?_, rfl⟩
  split
  · dsimp only
    exact .ite (State.Calm.refl s).dramWrite (.refl s)
  · exact .refl s

theorem State.holdTask_disp (t : Task) (place : Option Nat) :
    ((s.holdTask k q t place).cluster k).disp = ((s.cluster k).hold q t place).disp := by
  obtain ⟨v, calm, e⟩ := State.holdTask_eq (s := s) (k := k) (q := q) t place
  rw [e, State.cluster_modCluster_same]
  unfold Cluster.hold
  dsimp only
  rw [calm.disp k]

/-- What an offer leaves of the offering hart. -/
theorem State.offerTask_hart : (s.offerTask k q r).2.cur = s.cur ∧ (s.offerTask k q r).2.ctx = s.ctx ∧
    (s.offerTask k q r).2.me.calm = s.me.calm := by
  have same : s.cur = s.cur ∧ s.ctx = s.ctx ∧ s.me.calm = s.me.calm := ⟨rfl, rfl, rfl⟩
  unfold State.offerTask
  dsimp only
  split
  · exact same
  · split
    · exact same
    · split
      · exact same
      · obtain ⟨v, calm, e⟩ := State.holdTask_eq (s := s) (k := k) (q := q) _ _
        dsimp only
        rw [e]
        exact ⟨calm.cur, calm.ctx, calm.mine Hart.calm fun _ => rfl⟩

/-- A head that leaves b with one x register written ends as heads do. -/
theorem headEnds_setX_of {u b : State} {d : BitVec 6} {v : Word} (he : exec i s = .next (b.setX d v).retire)
    (pc : b.pc = u.pc) (image : b.image = u.image) (sys : b.me.sys = u.me.sys) (hx : b.hasX d) :
    ∃ t, HeadEnds i s u t ∧ t.x d = (if d = 0 then 0 else v) ∧ SameBut b t [d] [] [] 0 :=
  endsAs_of_retire he (State.flows_congr (by simp [pc]) (by simp [image]))
    (State.linkNext_congr (by simp [pc]) (by simp [image])) (by simp [pc]) (by simp [sys])
    (by simp [State.x_setX _ _ _ _ hx]) (.setX b d v hx)

/-! ## SPAWN (R155, R160, R290) -/

theorem spawn_traps {d b : BitVec 6} (ha : Accepted ⟨true, true, false, false⟩ (.spawn d b) [d, b] [] 0 s)
    (hb : (s.x b).toNat % 32 ≠ 0) : Traps (.spawn d b) s (BitVec.ofNat 64 0x05) (s.x b) := by
  refine traps_of_run (ha.exec_eq rfl) ?_
  rw [if_pos hb, run_operandM]

theorem exec_spawn {d b : BitVec 6} (ha : Accepted ⟨true, true, false, false⟩ (.spawn d b) [d, b] [] 0 s)
    (hb : (s.x b).toNat % 32 = 0) (read : Gives (recordM (s.x b)) s r u) (drained : u.drained u.cur 4 = true) :
    let p := u.queuePlace (clusterOf u.cur) (recordPrio r)
    exec (.spawn d b) s =
      .next ((u.offerTask p.1 p.2 r).2.setX d (BitVec.ofNat 64 (u.offerTask p.1 p.2 r).1)).retire := by
  refine exec_of_run (ha.exec_eq rfl) ?_
  rw [if_neg (by simpa using hb), bind_ok read, bind_ok (drainM_done drained)]
  rfl

theorem offerTask_spec {tq : TaskQueue} (hq : (u.cluster k).disp.queue q = some tq) :
    let o := u.offerTask k q r
    (recordBad r = true → o.1 = 3 ∧ (o.2.cluster k).disp = (u.cluster k).disp) ∧
    (recordBad r = false → (u.cluster k).disp.room q = none → o.1 = 2 ∧ (o.2.cluster k).disp = (u.cluster k).disp) ∧
    ∀ pl, recordBad r = false → (u.cluster k).disp.room q = some pl → o.1 = 0 ∧
      ∃ x, (o.2.cluster k).disp.tasks = (u.cluster k).disp.tasks ++ [x] ∧ x.record = r ∧ x.queue = q ∧ x.overflow = pl ∧
        x.ready = if tq.live then some u.clock else none := by
  dsimp only
  unfold State.offerTask
  dsimp only
  rw [hq]
  dsimp only
  refine ⟨fun bad => ?_, fun good full => ?_, fun pl good room => ?_⟩
  · rw [if_pos bad]
    exact ⟨rfl, rfl⟩
  · rw [if_neg (ne_true_of_eq_false good), full]
    exact ⟨rfl, rfl⟩
  · rw [if_neg (ne_true_of_eq_false good), room]
    dsimp only
    rw [State.holdTask_disp]
    exact ⟨rfl, _, rfl, rfl, rfl, rfl, rfl⟩

theorem spawn_ends {d b : BitVec 6} (ha : Accepted ⟨true, true, false, false⟩ (.spawn d b) [d, b] [] 0 s)
    (hb : (s.x b).toNat % 32 = 0) (read : Gives (recordM (s.x b)) s r u) (drained : u.drained u.cur 4 = true) :
    let p := u.queuePlace (clusterOf u.cur) (recordPrio r)
    let o := u.offerTask p.1 p.2 r
    ∃ t, HeadEnds (.spawn d b) s u t ∧ (∀ e, e ≠ d → t.x e = u.x e) ∧ (∀ j, t.cluster j = o.2.cluster j) ∧
      t.x d = if d = 0 then 0 else BitVec.ofNat 64 o.1 := by
  intro p o
  obtain ⟨cur, ctx, mine⟩ := State.offerTask_hart (s := u) (k := p.1) (q := p.2) (r := r)
  have calm : u.Calm u := .refl u
  have readCtx : u.ctx = s.ctx := ((loadWords_quiet (r := s)).bind fun _ => .pure).calm read |>.ctx
  have part : ∀ {α : Type} (f : Hart → α), (∀ h, f h.calm = f h) → f o.2.me = f u.me := fun f hf => by
    rw [← hf o.2.me, ← hf u.me, mine]
  have main : o.2.me.main = u.me.main := part (·.main) fun _ => rfl
  have handler : o.2.me.handler = u.me.handler := part (·.handler) fun _ => rfl
  have pc : o.2.pc = u.pc := by rw [State.pc, State.pc, ctx, main, handler]
  have image : o.2.image = u.image := by rw [State.image, State.image, ctx, main, handler]
  have x : ∀ e, o.2.x e = u.x e := fun e => by rw [State.x, State.x, ctx, main, handler]
  have sys : o.2.me.sys = u.me.sys := part (·.sys) fun _ => rfl
  have hasX : o.2.hasX d := fun h => State.hasX_of_visible ha.sees List.mem_cons_self (readCtx ▸ ctx ▸ h)
  obtain ⟨t, ends, val, same⟩ := headEnds_setX_of (exec_spawn ha hb read drained) pc image sys hasX
  exact ⟨t, ends, fun e he => (same.x e (by simpa using he)).trans (x e), same.clusters, val⟩

/-! ## ENQ and LAUNCHG (R292, R295) -/

/-- Without a table a service core's address is refused or is the home itself, and nothing is looked up (R463). -/
theorem myPlace_bare {acc : Acc} {a : Word} {n : Nat} (service : kindOf s.cur = 3) (bare : s.rootOf s.cur = 0) :
    (∃ c v, (myPlace acc a n).run s = (.error (.trap c v), s)) ∨ (myPlace acc a n).run s = (.ok ⟨a.toNat, false⟩, s) := by
  have sees : s.windowOf s.cur a.toNat = (.global false, a.toNat) := by
    unfold State.windowOf
    dsimp only
    rw [if_pos service]
  unfold myPlace placeOf
  rw [bind_get, bind_get]
  unfold windowCheck
  rw [sees]
  dsimp only
  split
  · exact .inl ⟨_, _, rfl⟩
  · split
    · exact .inl ⟨_, _, rfl⟩
    · rw [if_neg (by decide), show ∀ x, (placeOf.liftExcept (.ok x) : M (Window × Nat)) = pure x from fun _ => rfl,
        bind_ok (run_pure _ _)]
      dsimp only
      unfold translate
      rw [bind_get, if_pos ⟨service, bare⟩]
      split
      · exact .inl ⟨_, _, rfl⟩
      · exact .inr rfl

theorem statusM_refuses {a : Word} (h : a.toNat % 8 ≠ 0 ∨ (kindOf s.cur = 0 ∧ (s.windowOf s.cur a.toNat).1 ≠ .tcm) ∨
    (kindOf s.cur = 3 ∧ s.rootOf s.cur = 0 ∧ (a.toNat < 0xFFC0_0100_0000 ∨ 0xFFC0_01FF_FFFF < a.toNat))) :
    (statusM a).run s = (.error (.trap (BitVec.ofNat 64 0x05) a), s) := by
  unfold statusM
  rw [bind_get]
  by_cases odd : a.toNat % 8 ≠ 0
  · rw [if_pos odd, run_operandM]
  · rw [if_neg odd]
    rcases h.resolve_left odd with ⟨core, out⟩ | ⟨service, bare, out⟩
    · rw [if_neg (by omega)]
      dsimp only
      rw [if_pos out, run_operandM]
    · rw [if_pos service]
      rcases myPlace_bare (acc := .store) (a := a) (n := 8) service bare with ⟨c, v, no⟩ | yes
      · rw [no]
        rfl
      · rw [yes]
        dsimp only
        rw [bind_set, if_pos out, run_operandM]

theorem request_traps {st : BitVec 6} {l : List (BitVec 6)}
    (hi : (∃ h mc b, i = .enq h mc st b ∧ l = [h, st, b]) ∨ (∃ mc p g, i = .launchg st mc p g ∧ l = [st, p, g]))
    (ha : Accepted ⟨true, true, false, true⟩ i l [] 0 s)
    (h : (s.x st).toNat % 8 ≠ 0 ∨ (kindOf s.cur = 0 ∧ (s.windowOf s.cur (s.x st).toNat).1 ≠ .tcm) ∨
      (kindOf s.cur = 3 ∧ s.rootOf s.cur = 0 ∧ ((s.x st).toNat < 0xFFC0_0100_0000 ∨ 0xFFC0_01FF_FFFF < (s.x st).toNat))) :
    Traps i s (BitVec.ofNat 64 0x05) (s.x st) := by
  rcases hi with ⟨h', mc, b, rfl, rfl⟩ | ⟨mc, p, g, rfl, rfl⟩
  · exact traps_of_run (ha.exec_eq rfl) (bind_error (statusM_refuses h))
  · exact traps_of_run (ha.exec_eq rfl) (bind_error (statusM_refuses h))

/-- A head that sends a packet ends as heads do. -/
theorem endsAs_send {p : Packet} (he : exec i s = .next (w.send p).retire) :
    EndsAs i s w (w.send p) [] [] [] 0 fun t => t.net = w.net ++ [p] :=
  endsAs_retire he rfl rfl rfl ⟨(SameBut.goto _ _).net, (SameBut.countHead _).net⟩

theorem exec_enq {h st b : BitVec 6} {mc : BitVec 3} {home : Nat}
    (ha : Accepted ⟨true, true, false, true⟩ (.enq h mc st b) [h, st, b] [] 0 s) (status : Gives (statusM (s.x st)) s home u)
    (hb : (s.x b).toNat % 32 = 0) (read : Gives (recordM (s.x b)) u r w) (drained : w.drained w.cur 4 = true)
    (room : w.repliesDue w.cur < 64) : exec (.enq h mc st b) s = .next (w.send (.enq w.cur (w.x h) r home mc)).retire := by
  refine exec_of_run (ha.exec_eq rfl) ?_
  rw [bind_ok status, if_neg (by simpa using hb), bind_ok read, bind_ok (drainM_done drained), bind_get,
    if_neg (Nat.not_le.2 room), run_set]

theorem exec_launchg {st p g : BitVec 6} {mc : BitVec 3} {home : Nat} {l : List Word}
    (ha : Accepted ⟨true, true, false, true⟩ (.launchg st mc p g) [st, p, g] [] 0 s)
    (status : Gives (statusM (s.x st)) s home u) (read : Gives (patchM (s.x p)) u l w) (drained : w.drained w.cur 4 = true)
    (room : w.repliesDue w.cur < 64) :
    exec (.launchg st mc p g) s = .next (w.send (.launchg w.cur (w.x g) l home mc)).retire := by
  refine exec_of_run (ha.exec_eq rfl) ?_
  rw [bind_ok status, bind_ok read, bind_ok (drainM_done drained), bind_get, if_neg (Nat.not_le.2 room), run_set]

/-! ## TASKEND (R54) -/

/-- TASKEND on a hart that accepts it. -/
theorem taskend_run (hc : s.ctx = .main) (hk : kindOf s.cur < 3) :
    exec .taskend s = finish ((if s.prv = 2 then illegalM 0x5840
      else if kindOf s.cur ≠ 0 then
        set (s.countHead.modMe fun h => { h with act := .stopped false, park := none })
      else do
        if s.prv = 1 then set (s.endRuns s.cur)
        parkM .taskend : M Unit).run s) := by
  refine (runHead_ok (a := ⟨true, false, true, false⟩) ?_ (by simp [State.visible, hc])).trans ?_
  · unfold Accept.ok
    rw [hc]
    interval_cases kindOf s.cur <;> rfl
  · rw [bind_get]
    rfl

theorem taskend_illegal (hs : s.onCore) (hp : s.prv = 2) : Traps .taskend s (BitVec.ofNat 64 0x03) 0x5840 := by
  refine traps_of_run (taskend_run hs.2 (by rw [hs.1]; decide)) ?_
  rw [if_pos hp, run_illegalM]
  rfl

theorem exec_taskend_companion (hc : s.ctx = .main) (hk : kindOf s.cur = 1 ∨ kindOf s.cur = 2) (hp : s.prv ≠ 2) :
    exec .taskend s = .next (s.countHead.modMe fun h => { h with act := .stopped false, park := none }) := by
  refine exec_of_run (taskend_run hc (by omega)) ?_
  rw [if_neg hp, if_pos (by omega), run_set]

/-- A core's TASKEND parks it; a supervisor's ends its runs before. -/
theorem taskend_core (hs : s.onCore) (hp : s.prv = 0 ∨ s.prv = 1) :
    exec .taskend s = .next ((if s.prv = 1 then s.endRuns s.cur else s).parkCtx .taskend none) := by
  rw [taskend_run hs.2 (by rw [hs.1]; decide), if_neg (by omega), if_neg (by simp [hs.1])]
  split <;> rfl

/-- A scope-miss run among the discarded makes the fence that the lift of a unit held toward its core needs (R103). -/
def State.fenceRuns (s : State) (c : Nat) (l : List Run) : State :=
  l.foldl (fun s r => match r.kind with
    | .scopeMiss u _ => s.fenceBySelf c u (s.hart c).mem.serial
    | .drain _ => s) s

theorem State.fenceRuns_eq (c : Nat) (l : List Run) : ∃ h, s.fenceRuns c l = { s with holds := h } := by
  refine List.foldlRecOn (motive := fun t : State => ∃ h, t = { s with holds := h }) l _ ⟨s.holds, rfl⟩ ?_
  rintro t ⟨h, rfl⟩ r -
  split
  · exact ⟨_, rfl⟩
  · exact ⟨h, rfl⟩

theorem State.tget_fenceBySelf_ne {c unit u n : Nat} (ne : unit ≠ u) :
    tget (s.fenceBySelf c u n).holds unit = tget s.holds unit := by
  unfold State.fenceBySelf
  cases tget s.holds u with
  | none => rfl
  | some h =>
    dsimp only
    split
    · exact tget_tput_ne _ _ _ _ ne
    · rfl

/-- A unit held toward the core is fenced once a run that missed there is discarded. -/
theorem State.fenceRuns_hold {c unit n : Nat} {h : Hold} (hw : h.writer = c) (l : List Run) :
    ∀ s : State, (s.hart c).mem.serial = n → (∃ a, tget s.holds unit = some { h with auto := a } ∧
      (a = some n ∨ ∃ r ∈ l, ∃ sc, r.kind = .scopeMiss unit sc)) →
      tget (s.fenceRuns c l).holds unit = some { h with auto := some n } := by
  induction l with
  | nil =>
    rintro s - ⟨a, held, rfl | ⟨r, hr, -⟩⟩
    · exact held
    · exact absurd hr List.not_mem_nil
  | cons r l ih =>
    rintro s rfl ⟨a, held, fenced⟩
    cases kind : r.kind with
    | drain row =>
      have step : s.fenceRuns c (r :: l) = s.fenceRuns c l := by
        simp only [State.fenceRuns, List.foldl_cons, kind]
      rw [step]
      refine ih s rfl ⟨a, held, fenced.imp_right ?_⟩
      rintro ⟨x, hx, sc, e⟩
      rcases List.mem_cons.1 hx with rfl | hx
      · rw [kind] at e; cases e
      · exact ⟨x, hx, sc, e⟩
    | scopeMiss u sc =>
      have step : s.fenceRuns c (r :: l) = (s.fenceBySelf c u (s.hart c).mem.serial).fenceRuns c l := by
        simp only [State.fenceRuns, List.foldl_cons, kind]
      rw [step]
      refine ih _ rfl ?_
      by_cases e : unit = u
      · subst e
        exact ⟨_, State.tget_fenceBySelf (hd := { h with auto := a }) held hw, .inl rfl⟩
      · refine ⟨a, (State.tget_fenceBySelf_ne e).trans held, fenced.imp_right ?_⟩
        rintro ⟨x, hx, sc', k⟩
        rcases List.mem_cons.1 hx with rfl | hx
        · rw [kind] at k
          cases k
          exact absurd rfl e
        · exact ⟨x, hx, sc', k⟩

theorem State.parkCtx_holds (w : Why) (l : Option Nat) : (s.parkCtx w l).holds = s.holds := by
  unfold State.parkCtx
  split <;> rfl

/-- What a supervisor's TASKEND leaves before it waits (R54). -/
theorem State.endRuns_spec :
    (s.endRuns s.cur).ctx = s.ctx ∧ (s.endRuns s.cur).cur = s.cur ∧ (s.endRuns s.cur).me.main = s.me.main ∧
    (s.endRuns s.cur).me.runs.fifo = [] ∧ (s.endRuns s.cur).me.runs.port = [] ∧
    (s.endRuns s.cur).holds = (s.fenceRuns s.cur (s.me.runs.fifo ++ s.me.runs.port)).holds := by
  have whole : ∃ F : Hart → Hart, (∀ t, (F t).main = t.main ∧ (F t).runs.fifo = [] ∧ (F t).runs.port = []) ∧
      s.endRuns s.cur = (((s.fenceRuns s.cur (s.me.runs.fifo ++ s.me.runs.port)).modHart s.cur F).stopCompanion
        (4096 + s.cur)).stopCompanion (8192 + s.cur) := by
    refine ⟨_, ?_, rfl⟩
    exact fun _ => ⟨rfl, rfl, rfl⟩
  obtain ⟨F, hF, e⟩ := whole
  obtain ⟨h, eq⟩ := State.fenceRuns_eq (s := s) s.cur (s.me.runs.fifo ++ s.me.runs.port)
  have cur : (s.endRuns s.cur).cur = s.cur := by rw [e, eq]; rfl
  have me : (s.endRuns s.cur).me = F s.me := by
    unfold State.me
    rw [cur, e, eq]
    unfold State.stopCompanion
    rw [State.hart_modHart_ne _ _ _ _ (by omega), State.hart_modHart_ne _ _ _ _ (by omega), State.hart_modHart_same]
    rfl
  obtain ⟨main, fifo, port⟩ := hF s.me
  exact ⟨by rw [e, eq]; rfl, cur, me ▸ main, me ▸ fifo, me ▸ port, by rw [e]; rfl⟩

end

/-- Settles O23: each instruction is its checks and reads and then one change: an offer to a queue, a packet under way, a
stop, or a wait that has ended the runs before. -/
theorem taskInstructions : Obligations.TaskInstructions := by
  unfold Obligations.TaskInstructions
  refine ⟨fun d b s r u ha hb read drained => ?_, fun d b s ha hb => spawn_traps ha hb,
    fun h mc st b s home u r w ha status hb read drained room => endsAs_send (exec_enq ha status hb read drained room),
    fun st mc p g s home u l w ha status read drained room => endsAs_send (exec_launchg ha status read drained room),
    fun i st l s hi ha h => request_traps hi ha h, fun s hc _ hk hp => ?_, fun s hs hp => ?_, fun s hs hp => ?_,
    fun s hs hp => taskend_illegal hs hp⟩
  · intro place d0 tq hq
    obtain ⟨t, ends, others, clusters, val⟩ := spawn_ends ha hb read drained
    obtain ⟨bad, full, held⟩ := offerTask_spec (r := r) hq
    refine ⟨t, ends, others, fun h => ?_, fun g h => ?_, fun pl g h => ?_⟩
    · rw [val, clusters, (bad h).1, (bad h).2]
      exact ⟨rfl, rfl⟩
    · rw [val, clusters, (full g h).1, (full g h).2]
      exact ⟨rfl, rfl⟩
    · obtain ⟨zero, k, spec⟩ := held pl g h
      rw [val, clusters, zero]
      exact ⟨ite_self _, k, spec⟩
  · refine ⟨_, exec_taskend_companion hc hk hp, by simp, ?_, fun _ => by simp⟩
    rw [State.pc_modMe rfl rfl, State.countHead, State.pc_modMe rfl rfl]
  · have he := taskend_core hs (.inl hp)
    rw [if_neg (by omega)] at he
    refine ⟨⟨_, he, State.pc_parkCtx _ _, State.parkedAs_parkCtx _ _⟩, fun a t ht => ?_⟩
    rw [he] at ht
    cases ht
    rw [State.parkCtx_mem]
  · have he := taskend_core hs (.inr hp)
    rw [if_pos hp] at he
    obtain ⟨ctx, cur, main, fifo, port, holds⟩ := State.endRuns_spec (s := s)
    have pc : (s.endRuns s.cur).pc = s.pc := by
      unfold State.pc
      rw [ctx, hs.2, main]
    have runs : ((s.endRuns s.cur).parkCtx .taskend none).me.runs = (s.endRuns s.cur).me.runs :=
      State.parkCtx_part (·.runs) (fun _ _ _ => by rfl) _ _
    refine ⟨⟨_, he, (State.pc_parkCtx _ _).trans pc, State.parkedAs_parkCtx _ _⟩, _, he, by rw [runs, fifo],
      by rw [runs, port], fun r hr u sc h kind held mine => ?_⟩
    rw [State.parkCtx_holds, holds]
    exact State.fenceRuns_hold mine _ s rfl ⟨h.auto, held, .inr ⟨r, hr, sc, kind⟩⟩

end Sys2Proof.Machine
end

section
/-! O42: registrars. A request is performed in one step at its registrar, whose reply ends the head that waits for it
(R112, R113, R382, R383). -/

namespace Sys2Proof.Machine

section
variable {s t u : State} {r : RegRequest} {v : RegReply} {i : Instr} {p : Place} {a n unit j : Nat}

/-! ## Tags change no byte of memory (R100, R101) -/

@[simp] theorem State.sendScopeMiss_mem {w : Nat} {sc : BitVec 3} : (s.sendScopeMiss w unit sc).mem = s.mem := by
  unfold State.sendScopeMiss
  dsimp only
  split
  · obtain ⟨_, _, e⟩ := State.liftHold_eq (s := s) unit sc
    rw [e]
  · split <;> rfl

@[simp] theorem State.holdAcquire_mem {h : Nat} : (s.holdAcquire h unit).mem = s.mem := by
  unfold State.holdAcquire
  split
  · rfl
  · split
    · rfl
    · exact State.sendScopeMiss_mem

@[simp] theorem State.holdWaiting_mem : (s.holdWaiting unit).mem = s.mem := by
  unfold State.holdWaiting
  dsimp only
  refine mem_foldl (fun t e => ?_) _ _
  split
  · split
    · exact State.holdAcquire_mem
    · rfl
  · rfl

@[simp] theorem State.tagWrite_mem {h : Nat} {q : BitVec 8} {sync : Bool} : (s.tagWrite h unit q sync).mem = s.mem := by
  unfold State.tagWrite
  split
  · exact State.holdWaiting_mem
  · rfl

/-! ## A request performed (R112, R383) -/

/-- What a request leaves in its word. -/
def RegOp.new (old : Word) : RegOp → Word
  | .load _ _ => old
  | .swap _ _ v => v
  | .cas _ _ o v => if old = o then v else old
  | .fadd _ _ v => old + v

theorem State.registrarDo_value : (s.registrarDo r).1 = BitVec.ofNat 64 (memNat s.mem r.op.place.1 r.op.place.2) := by
  unfold State.registrarDo
  cases r.op <;> rfl

/-- A request performed changes nothing, or its word to its value. -/
theorem State.registrarDo_mem : let q := s.registrarDo r
    let new := r.op.new (BitVec.ofNat 64 (memNat s.mem r.op.place.1 r.op.place.2))
    (q.2.mem = s.mem ∧ new = BitVec.ofNat 64 (memNat s.mem r.op.place.1 r.op.place.2)) ∨
      q.2.mem = memPutList s.mem r.op.place.1 (bytesOf new.toNat r.op.place.2) := by
  unfold State.registrarDo
  cases r.op with
  | load a n => exact .inl ⟨rfl, rfl⟩
  | swap a n v => exact .inr State.tagWrite_mem
  | cas a n o v =>
    dsimp only [RegOp.place, RegOp.new]
    split
    · exact .inr State.tagWrite_mem
    · exact .inl ⟨rfl, rfl⟩
  | fadd a n v => exact .inr State.tagWrite_mem

theorem State.registrarDo_calm : s.Calm (s.registrarDo r).2 := by
  have same := State.Calm.refl s
  unfold State.registrarDo
  cases r.op with
  | load a n => exact same
  | swap a n v => exact same.poke.tagWrite
  | cas a n o v => exact .ite same.poke.tagWrite same
  | fadd a n v => exact same.poke.tagWrite

theorem memNat_lt (m : List Host.Cell) (a n : Nat) : memNat m a n < 2 ^ (8 * n) := by
  induction n generalizing a with
  | zero => simp [memNat]
  | succ n ih =>
    have low := (memGet m a).isLt
    have high := ih (a + 1)
    have e : 2 ^ (8 * (n + 1)) = 256 * 2 ^ (8 * n) := by rw [Nat.mul_add, Nat.pow_add]; omega
    rw [memNat, e]
    omega

theorem memNat_congr {m m' : List Host.Cell} {a n : Nat} (h : ∀ x, a ≤ x → x < a + n → memGet m x = memGet m' x) :
    memNat m a n = memNat m' a n := by
  induction n generalizing a with
  | zero => rfl
  | succ n ih => rw [memNat, memNat, h a (Nat.le_refl a) (by omega), ih fun x lo hi => h x (by omega) (by omega)]

theorem memNat_toNat (m : List Host.Cell) (a : Nat) (hn : n ≤ 8) : (BitVec.ofNat 64 (memNat m a n)).toNat = memNat m a n := by
  have lt := memNat_lt m a n
  have le : 2 ^ (8 * n) ≤ 2 ^ 64 := Nat.pow_le_pow_right (by decide) (by omega)
  rw [BitVec.toNat_ofNat, Nat.mod_eq_of_lt (by omega)]

/-- The word after a request performed, and every other byte. -/
theorem State.registrarDo_word (wf : Memory.wf s.mem = true) (hn : r.op.place.2 ≤ 8) :
    let a := r.op.place.1
    let n := r.op.place.2
    memNat (s.registrarDo r).2.mem a n = (r.op.new (BitVec.ofNat 64 (memNat s.mem a n))).toNat % 2 ^ (8 * n) ∧
      ∀ b, (b < a ∨ a + n ≤ b) → memGet (s.registrarDo r).2.mem b = memGet s.mem b := by
  rcases State.registrarDo_mem (s := s) (r := r) with ⟨same, new⟩ | put
  · dsimp only
    rw [same, new, memNat_toNat _ _ hn, Nat.mod_eq_of_lt (memNat_lt ..)]
    exact ⟨rfl, fun _ _ => rfl⟩
  · dsimp only
    rw [put]
    refine ⟨?_, fun b hb => memGet_memPutList_out _ wf _ _ (by rwa [bytesOf_length])⟩
    rw [memNat_memPutList_bytesOf _ wf, show (256 : Nat) = 2 ^ 8 from rfl, ← Nat.pow_mul]

/-! ## The answer of a registrar (R113, R184) -/

/-- What a registrar answers to a request that it has not answered before, and what it leaves. -/
def State.answered (s : State) (r : RegRequest) : RegReply × State :=
  match s.poisonIn r.op.place.1 r.op.place.2 with
  | some w => (.poisoned w, s)
  | none => (.value (s.registrarDo r).1, (s.registrarDo r).2)

theorem State.answered_calm : s.Calm (s.answered r).2 := by
  unfold State.answered
  split
  · exact .refl s
  · exact State.registrarDo_calm

/-- The answer joins those that the registrars remember for the hart. -/
def Hart.recordReply (h : Hart) (seq : BitVec 16) (v : RegReply) : Hart :=
  { h with mem := { h.mem with replies := (h.mem.replies ++ [(seq, v)]).drop (h.mem.replies.length + 1 - 64) } }

theorem Hart.mem_recordReply (h : Hart) (seq : BitVec 16) (v : RegReply) : (seq, v) ∈ (h.recordReply seq v).mem.replies := by
  have few : h.mem.replies.length + 1 - 64 ≤ h.mem.replies.length := by omega
  unfold Hart.recordReply
  dsimp only
  rw [List.drop_append_of_le_length few]
  exact List.mem_append_right _ (List.mem_singleton_self _)

theorem State.registrarServe_new (fresh : ∀ e ∈ (s.hart r.hart).mem.replies, e.1 ≠ r.seq) :
    s.registrarServe r = ((s.answered r).2.modHart r.hart (·.recordReply r.seq (s.answered r).1)).giveReply r (s.answered r).1 := by
  have none_ : (s.hart r.hart).mem.replies.find? (fun e => e.1 == r.seq) = none :=
    List.find?_eq_none.2 fun e he => by simpa using fresh e he
  unfold State.registrarServe
  rw [none_]
  unfold State.answered
  dsimp only
  cases s.poisonIn r.op.place.1 r.op.place.2 <;> rfl

theorem State.giveReply_part {α : Type} (f : Hart → α) (hf : ∀ h m, f { h with mem := m } = f h) (j : Nat) :
    f ((s.giveReply r v).hart j) = f (s.hart j) := by
  refine State.part_modHart f (fun h => ?_) j
  split
  · split
    · exact hf _ _
    · rfl
  · rfl

/-- A hart that waits for the request has the reply. -/
theorem State.giveReply_waiting (hw : (s.hart r.hart).mem.regWait = some r) :
    ((s.giveReply r v).hart r.hart).mem = { (s.hart r.hart).mem with regWait := none, regReply := some v } := by
  unfold State.giveReply
  rw [State.hart_modHart_same, hw]
  dsimp only
  rw [if_pos rfl]

/-- A request that is new to its registrar is answered, and the answer is remembered. -/
theorem State.registrarServe_spec (fresh : ∀ e ∈ (s.hart r.hart).mem.replies, e.1 ≠ r.seq)
    (hw : (s.hart r.hart).mem.regWait = some r) :
    let t := s.registrarServe r
    (t.hart r.hart).mem.regWait = none ∧ (t.hart r.hart).mem.regReply = some (s.answered r).1 ∧
    (r.seq, (s.answered r).1) ∈ (t.hart r.hart).mem.replies ∧ t.mem = (s.answered r).2.mem ∧
    ∀ d, (t.die d).registrar = (s.die d).registrar := by
  have calm := State.answered_calm (s := s) (r := r)
  have waits : (((s.answered r).2.modHart r.hart (·.recordReply r.seq (s.answered r).1)).hart r.hart).mem.regWait = some r := by
    rw [State.hart_modHart_same]
    exact (calm.part r.hart (·.mem.regWait) fun _ => by rfl).trans hw
  dsimp only
  rw [State.registrarServe_new fresh, State.giveReply_waiting waits, State.hart_modHart_same]
  exact ⟨rfl, rfl, Hart.mem_recordReply _ _ _, rfl, fun d => calm.registrar d⟩

/-- A request changes, beside memory, what registrars and harts remember of it. -/
theorem State.registrarServe_part {α : Type} (f : Hart → α) (hc : ∀ h, f h.calm = f h) (hf : ∀ h m, f { h with mem := m } = f h)
    (j : Nat) : f ((s.registrarServe r).hart j) = f (s.hart j) := by
  unfold State.registrarServe
  split
  · exact State.giveReply_part f hf j
  · dsimp only
    rw [State.giveReply_part f hf]
    refine (State.part_modHart f (fun _ => hf _ _) j).trans ?_
    split
    · rfl
    · exact State.registrarDo_calm.part j f hc

theorem State.registrarServe_who : (s.registrarServe r).cur = s.cur ∧ (s.registrarServe r).ctx = s.ctx := by
  unfold State.registrarServe
  split
  · exact ⟨rfl, rfl⟩
  · dsimp only
    split
    · exact ⟨rfl, rfl⟩
    · exact ⟨State.registrarDo_calm.cur, State.registrarDo_calm.ctx⟩

/-! ## REGISTRAR_SERVE -/

theorem exec_registrarServe {d k : Nat} (hr : (s.die d).registrar[k]? = some r)
    (first : ∀ e ∈ (s.die d).registrar.take k, wordAt e.op.place.1 ≠ wordAt r.op.place.1) :
    exec (.registrarServe d k) s =
      .next ((s.modDie d fun d => { d with registrar := dropAt d.registrar k }).registrarServe r) := by
  show execRegistrarServe d k s = _
  unfold execRegistrarServe
  dsimp only
  rw [hr]
  dsimp only
  rw [if_neg]
  simp only [List.any_eq_true, beq_iff_eq, not_exists, not_and]
  exact first

/-! ## The access of an AMO through its registrar (R112, R383) -/

/-- A sync-class access meets nothing where nothing is held. -/
theorem meetTag_sync (free : s.mustWait s.cur (unitOf a true) none = false) : (meetTag a true false).run s = (.ok (), s) := by
  have go : s.waitAt s.cur (some (Waiter.access s.cur s.ctx)) a true = (none, s) := by
    unfold State.waitAt
    dsimp only
    rw [State.mustWait_of_none free, if_neg (by decide), if_pos rfl]
  unfold meetTag
  rw [bind_get]
  dsimp only
  cases tget s.tags (unitOf a true) with
  | none =>
    simp only [Bool.false_and, Bool.false_eq_true, if_false]
    rw [go]
    rfl
  | some g =>
    simp only [Bool.false_and, Bool.false_eq_true, if_false]
    rw [go]
    rfl

/-- The request that the executing context sends. -/
def State.regRequest (s : State) (op : RegOp) (q : BitVec 8) : RegRequest := ⟨s.cur, s.me.mem.regSeq, op, q⟩

/-- The request is under way. -/
def State.sendRequest (s : State) (op : RegOp) (q : BitVec 8) : State :=
  s.modMe fun h => { h with mem := { h.mem with
    regSeq := h.mem.regSeq + 1, regWait := some (s.regRequest op q), regCtx := s.ctx, regLast := some (s.regRequest op q) } }

/-- The reply is taken. -/
def State.takeReply (s : State) : State := s.modMe fun h => { h with mem := { h.mem with regReply := none } }

theorem replyM_value {home : Nat} {va x : Word} : (replyM home va (.value x)).run s = (.ok x, s.takeReply) := rfl

theorem replied {home : Nat} {va x : Word} (given : t.me.mem.regReply = some (.value x)) :
    (match t.me.mem.regReply with
      | some v => replyM home va v
      | none => parkM .registrar : M Word).run t = (.ok x, t.takeReply) := by
  rw [given]
  rfl

/-- An idle registrar serves a request at once, and the head has the word's old value. -/
theorem registrarM_done {op : RegOp} {q : BitVec 8} {home : Nat} {va : Word} (busy : s.registrarBusy = false)
    (bare : (s.die (homeDie home)).registrar = []) (fresh : ∀ e ∈ s.me.mem.replies, e.1 ≠ s.me.mem.regSeq)
    (clean : s.poisonIn op.place.1 op.place.2 = none) :
    (registrarM op q home va).run s = (.ok (BitVec.ofNat 64 (memNat s.mem op.place.1 op.place.2)),
      ((s.sendRequest op q).registrarServe (s.regRequest op q)).takeReply) := by
  have wait : s.me.mem.regWait = none := by
    unfold State.registrarBusy at busy
    simpa using (Bool.or_eq_false_iff.1 busy).1
  have reply : s.me.mem.regReply = none := by
    unfold State.registrarBusy at busy
    simpa using (Bool.or_eq_false_iff.1 busy).2
  have mem : (s.sendRequest op q).me.mem = { s.me.mem with
      regSeq := s.me.mem.regSeq + 1
      regWait := some (s.regRequest op q)
      regCtx := s.ctx
      regLast := some (s.regRequest op q) } := by
    rw [State.sendRequest, State.me_modMe]
  have mine : (s.sendRequest op q).hart (s.regRequest op q).hart = (s.sendRequest op q).me := rfl
  obtain ⟨-, given, -⟩ := State.registrarServe_spec (s := s.sendRequest op q) (r := s.regRequest op q)
    (by rw [mine, mem]; exact fresh) (by rw [mine, mem])
  have value : ((s.sendRequest op q).answered (s.regRequest op q)).1 =
      .value (BitVec.ofNat 64 (memNat s.mem op.place.1 op.place.2)) := by
    unfold State.answered
    rw [show (s.sendRequest op q).poisonIn (s.regRequest op q).op.place.1 (s.regRequest op q).op.place.2 = none from clean]
    dsimp only
    rw [State.registrarDo_value]
    rfl
  have got : ((s.sendRequest op q).registrarServe (s.regRequest op q)).me.mem.regReply =
      some (.value (BitVec.ofNat 64 (memNat s.mem op.place.1 op.place.2))) := by
    rw [← value, ← given, State.me, State.registrarServe_who.1]
    rfl
  unfold registrarM
  rw [bind_get, if_neg (by simp [busy]), reply]
  dsimp only
  rw [wait, if_neg (by simp)]
  refine (congrArg (fun m : M Word => m.run s) (if_pos (c := ((s.sendRequest op q).die (homeDie home)).registrar = [])
    bare)).trans ?_
  exact bind_set.trans (replied (t := (s.sendRequest op q).registrarServe (s.regRequest op q)) got)

/-- What an access through an idle registrar leaves: its word, and of the executing hart all but its memory interface. -/
def State.accessed (s : State) (op : RegOp) (q : BitVec 8) : State :=
  ((s.sendRequest op q).registrarServe (s.regRequest op q)).takeReply

theorem State.accessed_who {op : RegOp} {q : BitVec 8} : (s.accessed op q).cur = s.cur ∧ (s.accessed op q).ctx = s.ctx :=
  State.registrarServe_who

theorem State.accessed_part {α : Type} (f : Hart → α) (hc : ∀ h, f h.calm = f h) (hf : ∀ h m, f { h with mem := m } = f h)
    {op : RegOp} {q : BitVec 8} : f (s.accessed op q).me = f s.me := by
  unfold State.me
  rw [State.accessed_who.1]
  refine (State.part_modHart f (fun _ => hf _ _) _).trans ((State.registrarServe_part f hc hf _).trans ?_)
  exact State.part_modHart f (fun _ => hf _ _) _

theorem State.accessed_same {op : RegOp} {q : BitVec 8} : (s.accessed op q).pc = s.pc ∧ (s.accessed op q).image = s.image ∧
    (s.accessed op q).me.sys = s.me.sys ∧ (∀ r, (s.accessed op q).x r = s.x r) ∧ ∀ r, (s.accessed op q).v r = s.v r := by
  have main : (s.accessed op q).me.main = s.me.main := State.accessed_part (·.main) (fun _ => by rfl) (fun _ _ => by rfl)
  have handler : (s.accessed op q).me.handler = s.me.handler :=
    State.accessed_part (·.handler) (fun _ => by rfl) (fun _ _ => by rfl)
  have ctx := State.accessed_who (s := s) (op := op) (q := q) |>.2
  refine ⟨?_, ?_, State.accessed_part (·.sys) (fun _ => by rfl) (fun _ _ => by rfl), fun r => ?_, fun r => ?_⟩
  · rw [State.pc, State.pc, ctx, main, handler]
  · rw [State.image, State.image, ctx, main, handler]
  · rw [State.x, State.x, ctx, main, handler]
  · rw [State.v, State.v, ctx, main, handler]

theorem State.accessed_mem {op : RegOp} {q : BitVec 8} (fresh : ∀ e ∈ s.me.mem.replies, e.1 ≠ s.me.mem.regSeq)
    (clean : s.poisonIn op.place.1 op.place.2 = none) :
    (s.accessed op q).mem = ((s.sendRequest op q).registrarDo (s.regRequest op q)).2.mem := by
  have mine : (s.sendRequest op q).hart (s.regRequest op q).hart = (s.sendRequest op q).me := rfl
  have same : (s.sendRequest op q).me.mem.replies = s.me.mem.replies := by rw [State.sendRequest, State.me_modMe]
  have wait : (s.sendRequest op q).me.mem.regWait = some (s.regRequest op q) := by rw [State.sendRequest, State.me_modMe]
  obtain ⟨-, -, -, mem, -⟩ := State.registrarServe_spec (s := s.sendRequest op q) (r := s.regRequest op q)
    (by rw [mine, same]; exact fresh) (by rw [mine, wait])
  refine mem.trans ?_
  unfold State.answered
  rw [show (s.sendRequest op q).poisonIn (s.regRequest op q).op.place.1 (s.regRequest op q).op.place.2 = none from clean]

/-! ## AMOs (R382, R383) -/

variable {d b : BitVec 6} {w : BitVec 1} {q : BitVec 8} {xs : List (BitVec 6)} {op : State → Nat → Nat → RegOp}

/-- The bytes of an AMO's word. -/
def amoSize (w : BitVec 1) : Nat := if w = 1 then 8 else 4

theorem amoSize_le : amoSize w ≤ 8 := by
  unfold amoSize
  split <;> decide

theorem amoM_misaligned (ha : (s.x b).toNat % amoSize w ≠ 0) :
    (amoM d b w q op).run s = (.error (.trap (BitVec.ofNat 64 0x08) (s.x b)), s) := by
  unfold amoM
  rw [bind_get]
  dsimp only
  rw [show (if w = 1 then 8 else 4) = amoSize w from rfl, if_pos ha, run_trapM]
  rfl

/-- The place of a head whose request is not sent yet. -/
theorem sentPlaceM_new {m : M Place} (new : s.registrarMine = false) : (sentPlaceM m).run s = m.run s := by
  unfold sentPlaceM
  rw [bind_get, if_neg (ne_true_of_eq_false new)]

theorem amoM_outside (ha : (s.x b).toNat % amoSize w = 0) (new : s.registrarMine = false)
    (place : Gives (globalPlace (s.x b) (amoSize w)) s p u) (plain : p.sync = false) :
    (amoM d b w q op).run s = (.error (.trap (BitVec.ofNat 64 0x0C) (s.x b)), u) := by
  have refused : (sentPlaceM (amoPlace (s.x b) (amoSize w))).run s = (.error (.trap (BitVec.ofNat 64 0x0C) (s.x b)), u) := by
    rw [sentPlaceM_new new, amoPlace, bind_ok place, if_neg (ne_true_of_eq_false plain)]
    rfl
  unfold amoM
  rw [bind_get]
  dsimp only
  rw [show (if w = 1 then 8 else 4) = amoSize w from rfl, if_neg (by simpa using ha), bind_error refused]

/-- The word is idle for an AMO of the executing hart: nothing buffered, waiting, held, poisoned or recorded. -/
def State.amoIdle (s : State) (p : Place) (size : Nat) : Prop :=
  Memory.wf s.mem = true ∧ p.sync = true ∧ s.me.mem.sb = [] ∧
    s.registrarBusy = false ∧ s.mustWait s.cur (unitOf p.home true) none = false ∧ s.poisonIn p.home size = none ∧
    (s.die (homeDie p.home)).registrar = [] ∧ ∀ e ∈ s.me.mem.replies, e.1 ≠ s.me.mem.regSeq

theorem amoM_done (hop : (op u p.home (amoSize w)).place = (p.home, amoSize w)) (ha : (s.x b).toNat % amoSize w = 0)
    (new : s.registrarMine = false) (plain : qualOrd q = 0) (place : Gives (globalPlace (s.x b) (amoSize w)) s p u)
    (idle : u.amoIdle p (amoSize w)) :
    (amoM d b w q op).run s = (.ok (), ((u.accessed (op u p.home (amoSize w)) q).setX d
      (BitVec.ofNat 64 (memNat u.mem p.home (amoSize w)))).retire) := by
  obtain ⟨-, sync, empty, busy, free, clean, bare, fresh⟩ := idle
  have got : (sentPlaceM (amoPlace (s.x b) (amoSize w))).run s = (.ok p, u) := by
    rw [sentPlaceM_new new, amoPlace, bind_ok place, if_pos sync, run_pure]
  have mine : u.registrarMine = false := by rw [State.registrarMine, busy, Bool.false_and]
  have reply := registrarM_done (op := op u p.home (amoSize w)) (q := q) (va := s.x b) busy bare fresh (by rw [hop]; exact clean)
  rw [hop] at reply
  have back : (BitVec.ofNat 64 (memNat u.mem p.home (amoSize w))).toNat % 2 ^ (8 * amoSize w) = memNat u.mem p.home (amoSize w) := by
    rw [memNat_toNat _ _ amoSize_le, Nat.mod_eq_of_lt (memNat_lt ..)]
  unfold amoM
  rw [bind_get]
  dsimp only
  rw [show (if w = 1 then 8 else 4) = amoSize w from rfl, if_neg (by simpa using ha), bind_ok got, bind_get,
    if_neg (ne_true_of_eq_false mine), bind_ok (emptyBufferM_done empty), if_neg (by omega),
    show (qualOrd q % 2 == 1) = false by rw [plain]; rfl, bind_ok (meetTag_sync free), bind_get, bind_ok reply,
    run_modify, back]
  rfl

/-- What an AMO does, the value that it leaves in its word being given by the old one. -/
def AmoActs (i : Instr) (d b : BitVec 6) (w : BitVec 1) (q : BitVec 8) (xs : List (BitVec 6)) (new : State → Nat → Nat) :
    Prop :=
  (∀ s p u, Accepted acceptAll i xs [] 0 s → s.registrarMine = false → (s.x b).toNat % amoSize w = 0 → qualOrd q = 0 →
    Gives (globalPlace (s.x b) (amoSize w)) s p u → u.cur = s.cur → u.ctx = s.ctx → u.amoIdle p (amoSize w) →
    ∃ t, HeadEnds i s u t ∧
      t.x d = (if d = 0 then 0 else BitVec.ofNat 64 (memNat u.mem p.home (amoSize w))) ∧ (∀ r, r ≠ d → t.x r = u.x r) ∧
      (∀ r, t.v r = u.v r) ∧
      memNat t.mem p.home (amoSize w) = new u (memNat u.mem p.home (amoSize w)) % 2 ^ (8 * amoSize w) ∧
      ∀ a, (a < p.home ∨ p.home + amoSize w ≤ a) → memGet t.mem a = memGet u.mem a) ∧
  (∀ s, Accepted acceptAll i xs [] 0 s → (s.x b).toNat % amoSize w ≠ 0 → Traps i s (BitVec.ofNat 64 0x08) (s.x b)) ∧
  (∀ s p u, Accepted acceptAll i xs [] 0 s → s.registrarMine = false → (s.x b).toNat % amoSize w = 0 →
    Gives (globalPlace (s.x b) (amoSize w)) s p u → p.sync = false →
    exec i s = .next (u.dropReply.takeTrap (BitVec.ofNat 64 0x0C) u.pc (s.x b)))

theorem amo_acts {head : Nat} {new : State → Nat → Nat}
    (he : ∀ s, exec i s = runHead acceptAll head xs [] 0 (amoM d b w q op) s) (hd : d ∈ xs)
    (hop : ∀ s a n, (op s a n).place = (a, n))
    (hnew : ∀ s a old, old < 2 ^ (8 * amoSize w) → ((op s a (amoSize w)).new (BitVec.ofNat 64 old)).toNat % 2 ^ (8 * amoSize w) =
      new s old % 2 ^ (8 * amoSize w)) : AmoActs i d b w q xs new := by
  refine ⟨fun s p u ha mine al plain place cur ctx idle => ?_, fun s ha odd => traps_of_run (ha.exec_eq (he s)) (amoM_misaligned odd),
    fun s p u ha mine al place plain => exec_trap_of_run (ha.exec_eq (he s)) (amoM_outside al mine place plain)⟩
  obtain ⟨wf, -, -, -, -, clean, -, fresh⟩ := id idle
  obtain ⟨pc, image, sys, x, v⟩ := State.accessed_same (s := u) (op := op u p.home (amoSize w)) (q := q)
  have hasX : (u.accessed (op u p.home (amoSize w)) q).hasX d := fun h =>
    State.hasX_of_visible ha.sees hd (ctx ▸ State.accessed_who.2 ▸ h)
  obtain ⟨t, ends, val, same⟩ := headEnds_setX_of
    (exec_of_run (ha.exec_eq (he s)) (amoM_done (hop _ _ _) al mine plain place idle)) pc image sys hasX
  have place' : (u.regRequest (op u p.home (amoSize w)) q).op.place = (p.home, amoSize w) := hop _ _ _
  have mem := State.accessed_mem (s := u) (op := op u p.home (amoSize w)) (q := q) fresh (by rw [hop]; exact clean)
  have word := State.registrarDo_word (s := u.sendRequest (op u p.home (amoSize w)) q)
    (r := u.regRequest (op u p.home (amoSize w)) q) wf (by rw [place']; exact amoSize_le)
  dsimp only at word
  rw [place'] at word
  obtain ⟨stored, others⟩ := word
  have bytes : ∀ a, memGet t.mem a = memGet (u.accessed (op u p.home (amoSize w)) q).mem a := same.bytes
  have nat : memNat t.mem p.home (amoSize w) = memNat (u.accessed (op u p.home (amoSize w)) q).mem p.home (amoSize w) :=
    memNat_congr fun a _ _ => bytes a
  refine ⟨t, ends, val, fun r hr => (same.x r (by simpa using hr)).trans (x r),
    fun r => (same.v r (List.not_mem_nil)).trans (v r), ?_, fun a out => ?_⟩
  · rw [nat, mem, stored]
    exact hnew u p.home _ (memNat_lt ..)
  · rw [bytes, mem]
    exact others a out

/-- An AMO.FADD whose reply has come. -/
theorem amoFadd_replied {c : BitVec 6} {v : Word} (ha : Accepted acceptAll (.amoFadd d w c b q) [d, c, b] [] 0 s)
    (al : (s.x b).toNat % amoSize w = 0) (ctx : s.me.mem.regCtx = s.ctx) (reply : s.me.mem.regReply = some (.value v)) :
    EndsAs (.amoFadd d w c b q) s s s.takeReply [d] [] [] 0 fun t =>
      t.x d = if d = 0 then 0 else BitVec.ofNat 64 (v.toNat % 2 ^ (8 * amoSize w)) := by
  have mine : s.registrarMine = true := by simp [State.registrarMine, State.registrarBusy, reply, ctx]
  have got : (sentPlaceM (amoPlace (s.x b) (amoSize w))).run s = (.ok ⟨s.sentHome, true⟩, s) := by
    unfold sentPlaceM
    rw [bind_get, if_pos mine, run_pure]
  have value : ∀ o home va, (registrarM o q home va).run s = (.ok v, s.takeReply) := fun o home va => by
    unfold registrarM
    rw [bind_get, if_neg (by simp [ctx]), reply]
    rfl
  have done : (amoM d b w q fun s a n => .fadd a n (lowBytes (s.x c) n)).run s =
      (.ok (), (s.takeReply.setX d (BitVec.ofNat 64 (v.toNat % 2 ^ (8 * amoSize w)))).retire) := by
    unfold amoM
    rw [bind_get]
    dsimp only
    rw [show (if w = 1 then 8 else 4) = amoSize w from rfl, if_neg (by simpa using al), bind_ok got, bind_get, if_pos mine,
      bind_get, bind_ok (value _ _ _), run_modify]
  have hasX : s.takeReply.hasX d := State.hasX_of_visible ha.sees List.mem_cons_self
  obtain ⟨t, ends, val, same⟩ := headEnds_setX_of (u := s) (exec_of_run (ha.exec_eq rfl) done) (State.pc_modMe rfl rfl)
    (State.image_modMe rfl rfl) (by simp [State.takeReply]) hasX
  exact ⟨t, ends, val, same⟩

/-! ## The operands (R383) -/

theorem amoSize_bits : 8 * amoSize w = if w = 1 then 64 else 32 := by
  unfold amoSize
  split <;> rfl

theorem lowBytes_toNat {v : Word} (hn : n ≤ 8) : (lowBytes v n).toNat = v.toNat % 2 ^ (8 * n) := by
  have le : 2 ^ (8 * n) ≤ 2 ^ 64 := Nat.pow_le_pow_right (by decide) (by omega)
  have lt : v.toNat % 2 ^ (8 * n) < 2 ^ (8 * n) := Nat.mod_lt _ (Nat.two_pow_pos _)
  unfold lowBytes
  rw [BitVec.toNat_ofNat, Nat.mod_eq_of_lt (by omega)]

theorem ofNat_toNat {old : Nat} (hn : n ≤ 8) (ho : old < 2 ^ (8 * n)) : (BitVec.ofNat 64 old).toNat = old := by
  have le : 2 ^ (8 * n) ≤ 2 ^ 64 := Nat.pow_le_pow_right (by decide) (by omega)
  rw [BitVec.toNat_ofNat, Nat.mod_eq_of_lt (by omega)]

theorem lowBytes_eq {v : Word} {old : Nat} (hn : n ≤ 8) (ho : old < 2 ^ (8 * n)) :
    BitVec.ofNat 64 old = lowBytes v n ↔ old = v.toNat % 2 ^ (8 * n) := by
  rw [← BitVec.toNat_inj, lowBytes_toNat hn, ofNat_toNat hn ho]

theorem amoSwap_acts (c : BitVec 6) :
    AmoActs (.amoSwap d w c b q) d b w q [d, c, b] fun s _ => (s.x c).toNat := by
  refine amo_acts (fun _ => rfl) List.mem_cons_self (fun _ _ _ => rfl) fun s a old _ => ?_
  rw [RegOp.new, lowBytes_toNat amoSize_le, Nat.mod_mod]

theorem amoCas_acts (n c : BitVec 6) : AmoActs (.amoCas d w n c b q) d b w q [d, n, c, b] fun s old =>
    if old = (s.x c).toNat % 2 ^ (if w = 1 then 64 else 32) then (s.x n).toNat else old := by
  refine amo_acts (fun _ => rfl) List.mem_cons_self (fun _ _ _ => rfl) fun s a old ho => ?_
  rw [← amoSize_bits, RegOp.new]
  by_cases e : old = (s.x c).toNat % 2 ^ (8 * amoSize w)
  · rw [if_pos e, if_pos ((lowBytes_eq amoSize_le ho).2 e), lowBytes_toNat amoSize_le, Nat.mod_mod]
  · rw [if_neg e, if_neg fun h => e ((lowBytes_eq amoSize_le ho).1 h), ofNat_toNat amoSize_le ho]

theorem amoFadd_acts (c : BitVec 6) :
    AmoActs (.amoFadd d w c b q) d b w q [d, c, b] fun s old => old + (s.x c).toNat := by
  refine amo_acts (fun _ => rfl) List.mem_cons_self (fun _ _ _ => rfl) fun s a old ho => ?_
  have fits : 2 ^ (8 * amoSize w) ∣ 2 ^ 64 := Nat.pow_dvd_pow 2 (by have := amoSize_le (w := w); omega)
  rw [RegOp.new, BitVec.toNat_add, ofNat_toNat amoSize_le ho, lowBytes_toNat amoSize_le, Nat.mod_mod_of_dvd _ fits,
    Nat.add_mod_mod]

end

/-- Settles O42: an AMO is its checks and one request, which an idle registrar serves at once; a request is served by one
change of its word and the reply that its hart waits for. -/
theorem registrarAtomics : Obligations.RegistrarAtomics := by
  unfold Obligations.RegistrarAtomics
  refine ⟨fun d w c b q => amoSwap_acts c, fun d w n c b q => amoCas_acts n c, fun d w c b q => amoFadd_acts c,
    fun s d k r wf hr first hw => ?_, fun d b w c q s v => amoFadd_replied⟩
  · intro a n old new served
    let u := s.modDie d fun d => { d with registrar := dropAt d.registrar k }
    have he : exec (.registrarServe d k) s = .next (u.registrarServe r) := exec_registrarServe hr first
    have left : (u.die d).registrar = (s.die d).registrar.take k ++ (s.die d).registrar.drop (k + 1) := by
      show ((s.modDie d _).die d).registrar = _
      rw [State.die_modDie_same]
      rfl
    refine ⟨fun fresh clean hn => ?_, fun w fresh bad => ?_, fun v known => ?_⟩
    · obtain ⟨wait, reply, noted, mem, queues⟩ := State.registrarServe_spec (s := u) fresh hw
      have ans : u.answered r = (.value (u.registrarDo r).1, (u.registrarDo r).2) := by
        unfold State.answered
        rw [show u.poisonIn r.op.place.1 r.op.place.2 = none from clean]
      rw [ans, State.registrarDo_value] at reply noted
      rw [ans] at mem
      obtain ⟨stored, others⟩ := State.registrarDo_word (s := u) (r := r) wf hn
      refine ⟨_, ⟨he, (queues d).trans left, wait, reply⟩, ?_, fun b hb => ?_, noted⟩
      · rw [mem]
        exact stored
      · rw [mem]
        exact others b hb
    · obtain ⟨wait, reply, noted, mem, queues⟩ := State.registrarServe_spec (s := u) fresh hw
      have ans : u.answered r = (.poisoned w, u) := by
        unfold State.answered
        rw [show u.poisonIn r.op.place.1 r.op.place.2 = some w from bad]
      rw [ans] at reply noted mem
      exact ⟨_, ⟨he, (queues d).trans left, wait, reply⟩, mem, noted⟩
    · have again : u.registrarServe r = u.giveReply r v := by
        unfold State.registrarServe
        rw [show (u.hart r.hart).mem.replies.find? (fun e => e.1 == r.seq) = some (r.seq, v) from known]
      have got := State.giveReply_waiting (s := u) (v := v) hw
      rw [again] at he
      exact ⟨_, ⟨he, left, by rw [got], by rw [got]⟩, rfl⟩

end Sys2Proof.Machine
end

section
/-! What stopping, halting and fencing leave of the machine: each operation of containment said once, for parts of a hart,
parts of a cluster and the rest of the state (R157, R190 to R194, R464). -/

namespace Sys2Proof.Machine

section
variable {s t : State} {c h j k q : Nat} {α : Type}

/-! ## Stopping a core with its companions (R191) -/

/-- Between s and t only harts, clusters, tags and holds differ. -/
def State.SameDevice (s t : State) : Prop :=
  ∃ harts clusters tags holds, t = { s with harts := harts, clusters := clusters, tags := tags, holds := holds }

theorem State.SameDevice.refl (s : State) : s.SameDevice s := ⟨_, _, _, _, rfl⟩

theorem State.SameDevice.trans {u : State} (h : s.SameDevice t) (g : t.SameDevice u) : s.SameDevice u := by
  obtain ⟨_, _, _, _, rfl⟩ := h
  obtain ⟨_, _, _, _, rfl⟩ := g
  exact ⟨_, _, _, _, rfl⟩

theorem State.SameDevice.modHart {f : Hart → Hart} (h : s.SameDevice t) : s.SameDevice (t.modHart c f) :=
  h.trans ⟨_, _, _, _, rfl⟩

theorem State.SameDevice.modCluster {f : Cluster → Cluster} (h : s.SameDevice t) : s.SameDevice (t.modCluster k f) :=
  h.trans ⟨_, _, _, _, rfl⟩

theorem State.SameDevice.liftToward (h : s.SameDevice t) : s.SameDevice (t.liftToward c) := by
  obtain ⟨_, _, e⟩ := State.liftToward_eq (s := t) (h := c)
  exact h.trans ⟨_, _, _, _, e⟩

theorem State.SameDevice.unbindGang {self : Bool} (h : s.SameDevice t) : s.SameDevice (t.unbindGang c self) := by
  obtain ⟨_, e⟩ := State.unbindGang_eq (s := t) (c := c) self
  exact h.trans ⟨_, _, _, _, e⟩

theorem State.SameDevice.stopTriple (h : s.SameDevice t) : s.SameDevice (t.stopTriple c) := by
  unfold State.stopTriple
  exact h.unbindGang.liftToward.liftToward.liftToward.modCluster.modHart.modHart.modHart

theorem State.SameDevice.mem (h : s.SameDevice t) : t.mem = s.mem := by
  obtain ⟨_, _, _, _, rfl⟩ := h
  rfl

theorem State.SameDevice.dev (h : s.SameDevice t) : t.dev = s.dev := by
  obtain ⟨_, _, _, _, rfl⟩ := h
  rfl

theorem State.SameDevice.time (h : s.SameDevice t) : t.clock = s.clock ∧ t.nanos = s.nanos := by
  obtain ⟨_, _, _, _, rfl⟩ := h
  exact ⟨rfl, rfl⟩

/-- What a hart keeps that no stop touches. -/
theorem State.stopTriple_part (f : Hart → α) (hg : ∀ h g e, f { h with gang := g, engine := e } = f h)
    (hs : ∀ h a, f (h.stopAt a) = f h) (j : Nat) : f ((s.stopTriple c).hart j) = f (s.hart j) := by
  unfold State.stopTriple
  dsimp only
  rw [State.part_modHart f fun h => hs h _, State.part_modHart f fun h => hs h _, State.part_modHart f fun h => hs h _]
  rw [State.modCluster_hart, State.liftToward_hart, State.liftToward_hart, State.liftToward_hart, State.unbindGang_part f hg]

/-- The triple's activities: the core is idle, and its companions are stopped. -/
theorem State.stopTriple_act : ((s.stopTriple c).hart c).act = .idle ∧
    ((s.stopTriple c).hart (4096 + c)).act = .stopped false ∧ ((s.stopTriple c).hart (8192 + c)).act = .stopped false := by
  refine ⟨congrArg Prod.fst (State.stopTriple_stance (s := s) (c := c)), ?_, ?_⟩
  · unfold State.stopTriple
    rw [State.hart_modHart_ne _ _ _ _ (by omega), State.hart_modHart_same]
    rfl
  · unfold State.stopTriple
    rw [State.hart_modHart_same]
    rfl

/-- A cluster without what one of its cores has under way in its shared units. -/
def Cluster.dropCore (k : Cluster) (c : Nat) : Cluster :=
  { k with treeWait := k.treeWait.filter (fun w => w.core != c)
           treeRun := match k.treeRun with
             | some r => if r.core = c then none else some r
             | none => none
           screener := k.screener.filter (fun r => r.core != c)
           copyl := k.copyl.filter (fun x => coreOf x.hart != c) }

theorem State.stopTriple_cluster :
    (s.stopTriple c).cluster j = if j = clusterOf c then (s.cluster j).dropCore c else s.cluster j := by
  unfold State.stopTriple
  dsimp only
  rw [State.modHart_cluster, State.modHart_cluster, State.modHart_cluster]
  by_cases e : j = clusterOf c
  · subst e
    rw [State.cluster_modCluster_same, if_pos rfl]
    simp only [State.liftToward_cluster, State.unbindGang_cluster]
    rfl
  · rw [State.cluster_modCluster_ne _ _ _ _ e, if_neg e]
    simp only [State.liftToward_cluster, State.unbindGang_cluster]

/-! ## A task that is put back or lost (R157, R193) -/

/-- What of a hart a task that is put back or lost leaves alone. -/
theorem State.loseTask_part (f : Hart → α) (hc : ∀ h, f h.calm = f h)
    (hm : ∀ h m p q, f { h with mc := m, park := p, hpark := q } = f h) (t : Task) (j : Nat) :
    f ((s.loseTask k t).hart j) = f (s.hart j) := by
  unfold State.loseTask
  split
  · obtain ⟨v, calm, e⟩ := State.holdTask_eq (s := s) (k := k) (q := bits t.record.w2 1 0) { t with ready := some s.clock }
      (((s.cluster k).disp.room (bits t.record.w2 1 0)).getD (some ((s.cluster k).disp.freePlace (bits t.record.w2 1 0))))
    dsimp only
    rw [e]
    exact calm.part j f hc
  · unfold State.notifyDone
    split
    · dsimp only
      split
      · rfl
      · exact State.bumpCounter_part f hm _
    · rfl

theorem State.notifyDone_cluster {r : TaskRecord} : (s.notifyDone r).cluster j = s.cluster j := by
  unfold State.notifyDone
  split
  · dsimp only
    split
    · rfl
    · obtain ⟨_, e⟩ := State.bumpCounter_eq (s := s) (h := bits r.w3 11 0) (BitVec.ofNat 3 (bits r.w3 14 12))
      rw [e]
      rfl
  · rfl

/-- What of a cluster a task that joins leaves alone. -/
theorem State.holdTask_cluster (f : Cluster → α) (hc : ∀ c, f c.calm = f c) (hd : ∀ c d, f { c with disp := d } = f c)
    (t : Task) (place : Option Nat) (j : Nat) : f ((s.holdTask k q t place).cluster j) = f (s.cluster j) := by
  obtain ⟨v, calm, e⟩ := State.holdTask_eq (s := s) (k := k) (q := q) t place
  rw [e]
  refine (State.part_modCluster f (g := fun c => c.hold q t place) (fun c => hd c _) j).trans ?_
  rw [← hc (v.cluster j), calm.clusters j, hc]

theorem State.loseTask_cluster (f : Cluster → α) (hc : ∀ c, f c.calm = f c) (hd : ∀ c d, f { c with disp := d } = f c)
    (t : Task) (j : Nat) : f ((s.loseTask k t).cluster j) = f (s.cluster j) := by
  unfold State.loseTask
  split
  · exact State.holdTask_cluster f hc hd _ _ j
  · rw [State.notifyDone_cluster]
    rfl

/-! ## Fencing a core (R191) -/

/-- What of a hart the fence of a core leaves alone. -/
theorem State.fenceHart_part (f : Hart → α) (hc : ∀ h, f h.calm = f h)
    (hm : ∀ h m p q, f { h with mc := m, park := p, hpark := q } = f h)
    (hg : ∀ h g e, f { h with gang := g, engine := e } = f h) (hs : ∀ h a, f (h.stopAt a) = f h)
    (hk : kindOf c = 0) (hj : j ≠ c) : f ((s.fenceHart c).hart j) = f (s.hart j) := by
  by_cases hf : s.fencedCore c = true
  · unfold State.fenceHart
    rw [if_neg (by omega), coreOf_of_core hk]
    dsimp only
    rw [if_pos hf]
  · have triple : f ((s.fencedTriple c).hart j) = f (s.hart j) := by
      rw [State.fencedTriple, State.logEvent_hart, State.hart_modHart_ne _ _ _ _ hj]
      exact State.stopTriple_part f hg hs j
    rw [State.fenceHart_core hk (by simpa using hf)]
    split
    · exact (State.loseTask_part f hc hm _ j).trans triple
    · exact triple

/-- The fenced core's own registers and activity. -/
theorem State.fenceHart_fenced (hk : kindOf c = 0) : (s.fenceHart c).fencedCore c = true := by
  by_cases hf : s.fencedCore c = true
  · unfold State.fenceHart
    rw [if_neg (by omega), coreOf_of_core hk]
    dsimp only
    rw [if_pos hf, hf]
  · rw [State.fencedCore_of_stance (State.fenceHart_stance (.inl hk) (by simpa using hf)), bit_setBit (by decide), if_pos rfl]

/-- A fence bit that is set stays set. -/
theorem State.fenceHart_bit (hk : kindOf c = 0) {n : Nat} (h : bit (s.hart j).sys.fence n = true) :
    bit ((s.fenceHart c).hart j).sys.fence n = true := by
  by_cases hj : j = c
  · subst hj
    by_cases hf : s.fencedCore j = true
    · unfold State.fenceHart
      rw [if_neg (by omega), coreOf_of_core hk]
      dsimp only
      rwa [if_pos hf]
    · have sys := congrArg Prod.snd (State.fenceHart_stance (s := s) (.inl hk) (by simpa using hf))
      rw [Hart.stance] at sys
      dsimp only at sys
      rw [sys, bit_setBit (by decide)]
      split
      · rfl
      · exact h
  · have sys : ((s.fenceHart c).hart j).sys = (s.hart j).sys :=
      State.fenceHart_part (·.sys) (fun _ => by rfl) (fun _ _ _ _ => by rfl) (fun _ _ _ => by rfl) (fun _ _ => by rfl) hk hj
    rwa [sys]

/-- What of a cluster the fence of a core leaves alone: all but its queues, its loft and what its units do for the core. -/
theorem State.fenceHart_cluster {P : Cluster → Prop} (hc : ∀ c, P c.calm ↔ P c) (hd : ∀ c d, P { c with disp := d } ↔ P c)
    (hu : ∀ k c, P k → P (k.dropCore c)) (hk : kindOf c = 0) (h : P (s.cluster j)) : P ((s.fenceHart c).cluster j) := by
  by_cases hf : s.fencedCore c = true
  · unfold State.fenceHart
    rw [if_neg (by omega), coreOf_of_core hk]
    dsimp only
    rwa [if_pos hf]
  · have triple : P ((s.fencedTriple c).cluster j) := by
      rw [State.fencedTriple, State.logEvent_cluster, State.modHart_cluster, State.stopTriple_cluster]
      split
      · exact hu _ _ h
      · exact h
    rw [State.fenceHart_core hk (by simpa using hf)]
    split
    · exact (State.loseTask_cluster P (fun c => propext (hc c)) (fun c d => propext (hd c d)) _ j).mpr triple
    · exact triple

/-- What a core was fenced with: an idle core with its companions stopped and no task. -/
theorem State.fencedTriple_rest : ((s.fencedTriple c).hart c).task = none ∧
    ((s.fencedTriple c).hart c).search = none ∧ ((s.fencedTriple c).hart (4096 + c)).act = .stopped false ∧
    ((s.fencedTriple c).hart (8192 + c)).act = .stopped false := by
  obtain ⟨-, loader, storer⟩ := State.stopTriple_act (s := s) (c := c)
  simp only [State.fencedTriple, State.logEvent_hart, State.hart_modHart_same]
  rw [State.hart_modHart_ne _ _ _ _ (by omega), State.hart_modHart_ne _ _ _ _ (by omega)]
  exact ⟨trivial, trivial, loader, storer⟩

/-- The event-log record that is written last. -/
theorem State.logEvent_last (n : Nat) (w a : Word) : (s.logEvent n w a).dev.log.getLast? = some ⟨n, s.nanos, w, a⟩ := by
  unfold State.logEvent
  dsimp only
  rw [State.modDev_dev]
  split
  · next full =>
    dsimp only
    rw [List.getLast?_drop, if_neg (by omega), List.getLast?_append]
    rfl
  · dsimp only
    rw [List.getLast?_append]
    rfl

/-! ## Halting a hart (R464) -/

theorem State.haltHart_device : s.SameDevice (s.haltHart h) := by
  have same := State.SameDevice.refl s
  unfold State.haltHart
  split
  · exact same
  · refine State.SameDevice.modHart ?_
    split
    · exact same.stopTriple.modHart
    · split
      · exact State.SameDevice.modHart (State.SameDevice.modHart same.liftToward)
      · exact State.SameDevice.modHart (State.SameDevice.modHart same.liftToward)

theorem State.haltHart_halted : ((s.haltHart h).hart h).halted = true := by
  unfold State.haltHart
  split
  · assumption
  · rw [State.hart_modHart_same]

/-- A halt lets no other hart go. -/
theorem State.haltHart_keeps (hj : (s.hart j).halted = true) : ((s.haltHart h).hart j).halted = true := by
  by_cases e : j = h
  · subst e
    exact State.haltHart_halted
  · unfold State.haltHart
    split
    · exact hj
    · rw [State.hart_modHart_ne _ _ _ _ e]
      split
      · rw [State.hart_modHart_ne _ _ _ _ e, State.stopTriple_part (·.halted) (fun _ _ _ => by rfl) (fun _ _ => by rfl)]
        exact hj
      · split
        · rw [State.hart_modHart_ne _ _ _ _ e, State.cutService, State.part_modHart (·.halted) (fun _ => by rfl),
            State.liftToward_hart]
          exact hj
        · rw [State.hart_modHart_ne _ _ _ _ e, State.cutCompanion, State.part_modHart (·.halted) (fun _ => by rfl),
            State.liftToward_hart]
          exact hj

/-- A compute core that is halted has no task, and its companions are stopped. -/
theorem State.haltHart_core (hk : kindOf h = 0) (hh : (s.hart h).halted = false) :
    ((s.haltHart h).hart h).task = none ∧ ((s.haltHart h).hart h).search = none ∧
    ((s.haltHart h).hart (4096 + h)).act = .stopped false ∧ ((s.haltHart h).hart (8192 + h)).act = .stopped false := by
  obtain ⟨-, loader, storer⟩ := State.stopTriple_act (s := s) (c := h)
  unfold State.haltHart
  rw [if_neg (by simp [hh]), if_pos hk]
  simp only [State.hart_modHart_same]
  rw [State.hart_modHart_ne _ _ _ _ (by omega), State.hart_modHart_ne _ _ _ _ (by omega),
    State.hart_modHart_ne _ _ _ _ (by omega), State.hart_modHart_ne _ _ _ _ (by omega)]
  exact ⟨trivial, trivial, loader, storer⟩

end

end Sys2Proof.Machine
end

section
/-! O56: control from outside, and containment. A write from outside is the register's own write; a halt and a fence stop
their harts by the rules of the operations they are made of (R46, R48, R64, R168, R171, R190 to R194, R351, R457, R464). -/

namespace Sys2Proof.Machine

section
variable {s t : State} {c h j k num : Nat} {v : Word} {q : BitVec 3} {α : Type}

/-! ## Halting, releasing and the hart control window (R464) -/

theorem canRun_of_stopped {trapped : Bool} (hk : kindOf h ≠ 0) (ha : (t.hart h).act = .stopped trapped) :
    t.canRun h = false := by
  simp [State.canRun, ha, hk]

theorem canRun_of_halted (hh : (t.hart h).halted = true) : t.canRun h = false := by
  simp [State.canRun, hh]

theorem kindOf_companion (hk : kindOf c = 0) : kindOf (4096 + c) = 1 ∧ kindOf (8192 + c) = 2 := by
  unfold kindOf at *
  omega

theorem hartHalt_spec (he : hartExists h = true) (hh : (s.hart h).halted = false) :
    ∃ t, exec (.hartHalt h) s = .next t ∧ ((t.hart h).halted = true ∧ t.canRun h = false ∧
      (kindOf h = 0 → (t.hart h).task = none ∧ (t.hart h).search = none ∧
        t.canRun (4096 + h) = false ∧ t.canRun (8192 + h) = false)) ∧ t.mem = s.mem := by
  refine ⟨s.haltHart h, ?_, ⟨State.haltHart_halted, canRun_of_halted State.haltHart_halted, fun hk => ?_⟩,
    State.haltHart_device.mem⟩
  · show Host.Outcome.next (if hartExists h = true then s.haltHart h else s) = _
    rw [if_pos he]
  · obtain ⟨task, search, loader, storer⟩ := State.haltHart_core hk hh
    obtain ⟨k1, k2⟩ := kindOf_companion hk
    exact ⟨task, search, canRun_of_stopped (by omega) loader, canRun_of_stopped (by omega) storer⟩

theorem hartRelease_spec (he : hartExists h = true) (hh : (s.hart h).halted = true) :
    ∃ t, exec (.hartRelease h) s = .next t ∧ ((t.hart h).halted = false ∧ (t.hart h).mem.sb = [] ∧
      (kindOf h = 3 → (t.hart h).act = .running ∧ (t.hart h).main.pc = targetOf (s.hart h).traps.mach.epc) ∧
      ∀ j, j ≠ h → t.hart j = s.hart j) ∧ t.mem = s.mem := by
  refine ⟨s.releaseHart h, ?_, ?_⟩
  · show Host.Outcome.next (if hartExists h = true then s.releaseHart h else s) = _
    rw [if_pos he]
  · unfold State.releaseHart
    rw [if_neg (by simp [hh])]
    refine ⟨?_, rfl⟩
    rw [State.hart_modHart_same]
    refine ⟨?_, ?_, fun hk => ?_, fun j hj => State.hart_modHart_ne _ _ _ _ hj⟩
    · dsimp only
      split <;> rfl
    · dsimp only
      split <;> rfl
    · dsimp only
      rw [if_pos hk]
      exact ⟨rfl, rfl⟩

theorem window_idle : (hartExists h = true → (s.hart h).halted = true → exec (.hartHalt h) s = .next s) ∧
    (hartExists h = true → (s.hart h).halted = false → exec (.hartRelease h) s = .next s) ∧
    ∀ off, exec (.hartWindowRegisterAccess h off none) s = .next s := by
  refine ⟨fun he hh => ?_, fun he hh => ?_, fun off => rfl⟩
  · show Host.Outcome.next (if hartExists h = true then s.haltHart h else s) = _
    rw [if_pos he, State.haltHart, if_pos hh]
  · show Host.Outcome.next (if hartExists h = true then s.releaseHart h else s) = _
    rw [if_pos he, State.releaseHart, if_pos hh]

/-- No register of R278 has a number above 0x63. -/
theorem crRule_le {r : CrRule} (hr : crRule num = some r) : num ≤ 0x63 := by
  unfold crRule at hr
  by_contra above
  simp only [show ¬ num = 0 by omega, show ¬ num ≤ 3 by omega, show ¬ num = 0x10 by omega, show ¬ num ≤ 0x14 by omega,
    show ¬ num = 0x15 by omega, show ¬ num = 0x16 by omega, show ¬ num = 0x17 by omega, show ¬ num = 0x20 by omega,
    show ¬ num = 0x21 by omega, show ¬ num = 0x22 by omega, show ¬ num = 0x23 by omega, show ¬ num = 0x24 by omega,
    show ¬ num = 0x26 by omega, show ¬ num = 0x29 by omega, show ¬ num = 0x27 by omega, show ¬ num = 0x28 by omega,
    show ¬ num = 0x2A by omega, show ¬ num = 0x2B by omega, show ¬ num ≤ 0x34 by omega, show ¬ num = 0x35 by omega,
    show ¬ num ≤ 0x3D by omega, show ¬ num ≤ 0x43 by omega, show ¬ num ≤ 0x4F by omega, show ¬ num ≤ 0x53 by omega,
    show ¬ num ≤ 0x5F by omega, show ¬ num = 0x60 by omega, show ¬ num = 0x61 by omega, show ¬ num = 0x62 by omega,
    show ¬ num = 0x63 by omega, and_false, or_self, if_false, reduceCtorEq] at hr

/-- A store to a register of the window is the register's own write. -/
theorem windowWrite_register {r : CrRule} (he : hartExists h = true) (hr : crRule num = some r)
    (holds : r.holds (kindOf h) = true) (queue : num < 0x48 ∨ 0x4F < num ∨ kindOf h = 0) :
    s.windowWrite h (8 * num) v = if r.write = none then s else (s.crWrite h 2 num v).getD s := by
  have le := crRule_le hr
  have number : 8 * num / 8 = num := by omega
  unfold State.windowWrite
  rw [if_neg (by simp [he]), if_pos (by omega), number, hr]
  dsimp only
  have free : (decide (0x48 ≤ num ∧ num ≤ 0x4F) && kindOf h != 0) = false := by
    rcases queue with q | q | q
    · simp [show ¬ 0x48 ≤ num by omega]
    · simp [show ¬ num ≤ 0x4F by omega]
    · simp [q]
  cases w : r.write with
  | none => simp
  | some p =>
    rw [holds, free]
    rfl

theorem registerWrite_exec {r : CrRule} {num : BitVec 12} (he : hartExists h = true) (hr : crRule num.toNat = some r)
    (holds : r.holds (kindOf h) = true) (queue : num.toNat < 0x48 ∨ 0x4F < num.toNat ∨ kindOf h = 0) :
    let w := if r.write = none then s else (s.crWrite h 2 num.toNat v).getD s
    exec (.controlRegisterWrite h num v) s = .next w ∧
      exec (.hartWindowRegisterAccess h (8 * num.toNat) (some v)) s = .next w := by
  have le := crRule_le hr
  refine ⟨?_, ?_⟩
  · show Host.Outcome.next (if num.toNat ≤ 0xFF then s.windowWrite h (8 * num.toNat) v else s) = _
    rw [if_pos (by omega), windowWrite_register he hr holds queue]
  · show Host.Outcome.next (if 8 * num.toNat < 4096 ∧ 8 * num.toNat % 8 = 0 then s.windowWrite h (8 * num.toNat) v else s) = _
    rw [if_pos (by omega), windowWrite_register he hr holds queue]

/-- The supervisor copies of the trap registers, in the window. -/
theorem windowWrite_sup (he : hartExists h = true) (hk : kindOf h = 0 ∨ kindOf h = 3) :
    s.windowWrite h 0x808 v = s.modTrap h 1 (fun r => { r with epc := v }) ∧
      s.windowWrite h 0x818 v = s.modTrap h 1 (fun r => { r with tvec := v }) := by
  have there : ¬ hartExists h = false := by simp [he]
  have kind : ¬ (kindOf h = 1 ∨ kindOf h = 2) := by omega
  refine ⟨?_, ?_⟩
  · exact (if_neg there).trans (if_neg kind)
  · exact (if_neg there).trans (if_neg kind)

theorem modTrap_spec (f : TrapRegs → TrapRegs) : ((s.modTrap h 1 f).hart h).traps.sup = f (s.hart h).traps.sup ∧
    ((s.modTrap h 1 f).hart h).traps.mach = (s.hart h).traps.mach ∧ ((s.modTrap h 1 f).hart h).main = (s.hart h).main := by
  unfold State.modTrap
  rw [State.hart_modHart_same]
  exact ⟨rfl, rfl, rfl⟩

theorem windowSup_spec (he : hartExists h = true) (hk : kindOf h = 0 ∨ kindOf h = 3) :
    (∃ t, exec (.hartWindowRegisterAccess h 0x808 (some v)) s = .next t ∧ ((t.hart h).traps.sup.epc = v ∧
      (t.hart h).traps.mach = (s.hart h).traps.mach ∧ (t.hart h).main = (s.hart h).main) ∧ t.mem = s.mem) ∧
    ∃ t, exec (.hartWindowRegisterAccess h 0x818 (some v)) s = .next t ∧ ((t.hart h).traps.sup.tvec = v ∧
      (t.hart h).traps.mach = (s.hart h).traps.mach ∧ (t.hart h).main = (s.hart h).main) ∧ t.mem = s.mem := by
  obtain ⟨epc, tvec⟩ := windowWrite_sup (s := s) (v := v) he hk
  have store : ∀ off, off < 4096 ∧ off % 8 = 0 →
      exec (.hartWindowRegisterAccess h off (some v)) s = .next (s.windowWrite h off v) := fun off ho => by
    show Host.Outcome.next (if off < 4096 ∧ off % 8 = 0 then s.windowWrite h off v else s) = _
    rw [if_pos ho]
  refine ⟨⟨_, (store 0x808 (by decide)).trans (congrArg _ epc), ?_, rfl⟩,
    ⟨_, (store 0x818 (by decide)).trans (congrArg _ tvec), ?_, rfl⟩⟩
  · obtain ⟨sup, mach, main⟩ := modTrap_spec (s := s) (h := h) fun r => { r with epc := v }
    exact ⟨by rw [sup], mach, main⟩
  · obtain ⟨sup, mach, main⟩ := modTrap_spec (s := s) (h := h) fun r => { r with tvec := v }
    exact ⟨by rw [sup], mach, main⟩

/-! ## A core's own register written from outside (R282) -/

theorem coreWrite_some (hk : kindOf c = 0) (hw : s.crWrite c 2 num v = some t) : s.coreWrite c num v = t := by
  unfold State.coreWrite
  rw [if_neg (by simp [hk]), hw]

theorem coreWrite_none (hk : kindOf c = 0) (hw : s.crWrite c 2 num v = none) (run : s.canRun c = true) :
    s.coreWrite c num v = s.trapMain c (BitVec.ofNat 64 0x05) (s.hart c).main.pc 0 := by
  unfold State.coreWrite
  rw [if_neg (by simp [hk]), hw]
  exact if_pos run

/-! ### Queues (R48) -/

theorem crWrite_qctl (hk : kindOf c = 0) : s.crWrite c 2 (0x48 + q.toNat) v = s.writeQctl c q v := by
  have hq := q.isLt
  unfold State.crWrite
  rw [if_pos (by omega), coreOf_of_core hk, Nat.add_sub_cancel_left, BitVec.ofNat_toNat, BitVec.setWidth_eq]

theorem State.qctl_setQctl_ne {q' : BitVec 3} {x : Word} {n : Nat} (ne : q' ≠ q) :
    (s.setQctl c q x n).qctl c q' = s.qctl c q' := by
  have apart : q.toNat ≠ q'.toNat := fun e => ne (BitVec.eq_of_toNat_eq e.symm)
  unfold State.qctl State.setQctl
  rw [State.hart_modHart_same]
  simp [apart]

theorem queueEnable_spec (hk : kindOf c = 0) (off : bit (s.qctl c q) 63 = false) :
    (queueRangeOk (setBit v 63 true) = true → ∃ t, exec (.queueEnable c q v) s = .next t ∧
      (t.qctl c q = setBit v 63 true &&& 0x8000_000F_FC0F_FFC0 ∧ ∀ k, k ≠ q → t.qctl c k = s.qctl c k) ∧ t.mem = s.mem) ∧
    (queueRangeOk (setBit v 63 true) = false → s.canRun c = true → exec (.queueEnable c q v) s =
      .next (s.trapMain c (BitVec.ofNat 64 0x05) (s.hart c).main.pc 0)) ∧ exec (.queueDisable c q) s = .next s := by
  have on : bit (setBit v 63 true) 63 = true := by rw [bit_setBit (by decide), if_pos rfl]
  refine ⟨fun ok => ?_, fun bad run => ?_, ?_⟩
  · refine ⟨s.setQctl c q (setBit v 63 true &&& queueFields) 0, congrArg _ (coreWrite_some hk ?_),
      ⟨State.qctl_setQctl, fun k hne => State.qctl_setQctl_ne hne⟩, rfl⟩
    rw [crWrite_qctl hk, State.writeQctl, if_neg (ne_true_of_eq_false off), if_neg (by simp [ok])]
  · refine congrArg _ (coreWrite_none hk ?_ run)
    rw [crWrite_qctl hk, State.writeQctl, if_neg (ne_true_of_eq_false off), if_pos (by simp [on, bad])]
  · exact congrArg _ (if_neg (ne_true_of_eq_false off))

theorem State.dropQueue_mem : (s.dropQueue c q).mem = s.mem := by
  unfold State.dropQueue
  refine (mem_foldl (fun _ _ => by rfl) _ _).trans ?_
  exact mem_foldl (fun _ _ => by rfl) _ _

theorem queueDisable_spec (hk : kindOf c = 0) (on : bit (s.qctl c q) 63 = true) :
    ∃ t, exec (.queueDisable c q) s = .next t ∧ (bit (t.qctl c q) 63 = false ∧ bits (t.qctl c q) 48 36 = 0 ∧
      (∀ k, k < 64 → k ≠ 63 → (k < 36 ∨ 48 < k) → bit (t.qctl c q) k = bit (s.qctl c q) k) ∧
      ∀ k, k ≠ q → t.qctl c k = s.qctl c k) ∧ t.mem = s.mem := by
  have write : s.crWrite c 2 (0x48 + q.toNat) 0 =
      some ((s.setQctl c q (setBits (setBit (s.qctl c q) 63 false) 48 36 0) 0).dropQueue c q) := by
    rw [crWrite_qctl hk, State.writeQctl, if_pos on, if_neg (by decide)]
  have kept : ∀ k, ((s.setQctl c q (setBits (setBit (s.qctl c q) 63 false) 48 36 0) 0).dropQueue c q).qctl c k =
      (s.setQctl c q (setBits (setBit (s.qctl c q) 63 false) 48 36 0) 0).qctl c k := fun k =>
    State.qctl_congr (State.dropQueue_part (·.queues) (fun _ _ => rfl) (fun _ _ _ => rfl) c)
  refine ⟨_, congrArg Host.Outcome.next ((if_pos on).trans (coreWrite_some hk write)), ⟨?_, ?_, fun k hk h63 out => ?_, fun k hne => ?_⟩, ?_⟩
  · rw [kept, State.qctl_setQctl, bit_setBits, if_neg (by omega), bit_setBit (by decide), if_pos rfl]
  · rw [kept, State.qctl_setQctl, bits_setBits_same (by decide) (by decide)]
  · rw [kept, State.qctl_setQctl, bit_setBits, if_neg (by omega), bit_setBit (by decide), if_neg h63]
  · rw [kept, State.qctl_setQctl_ne hne]
  · rw [State.dropQueue_mem]
    rfl

/-! ### Companions (R46) -/

/-- The companion of a core that a register controls. -/
def companionOf (c : Nat) (st : Bool) : Nat := if st then 8192 + c else 4096 + c

theorem crWrite_companion (st : Bool) :
    s.crWrite c 2 (companionNum st) v = s.writeCompanionCtl (companionOf c st) v := by
  cases st <;> rfl

theorem companionStart_exec {st : Bool} {pc : BitVec 12} : exec (.companionStart c st pc) s =
    .next (s.coreWrite c (companionNum st) (BitVec.ofNat 64 (2 ^ 63 + 2 * pc.toNat))) := rfl

/-- The value that starts a companion at a head. -/
theorem startValue (pc : BitVec 12) : bit (BitVec.ofNat 64 (2 ^ 63 + 2 * pc.toNat)) 63 = true ∧
    headIndex (BitVec.ofNat 64 (2 ^ 63 + 2 * pc.toNat)) = pc.toNat % 32 ∧
    BitVec.ofNat 64 (2 ^ 63 + 2 * pc.toNat) &&& 0x1FFE#64 = BitVec.ofNat 64 (2 * pc.toNat) := by
  have hp := pc.isLt
  have nat : (BitVec.ofNat 64 (2 ^ 63 + 2 * pc.toNat)).toNat = 2 ^ 63 + 2 * pc.toNat := by
    rw [BitVec.toNat_ofNat, Nat.mod_eq_of_lt (by omega)]
  refine ⟨?_, ?_, BitVec.eq_of_toNat_eq ?_⟩
  · unfold bit
    rw [← BitVec.testBit_toNat, nat, Nat.testBit_eq_decide_div_mod_eq]
    exact decide_eq_true (by omega)
  · unfold headIndex bits
    rw [nat]
    omega
  · have twice : ∀ x : Nat, 2 * x = x <<< 1 := fun x => by rw [Nat.shiftLeft_eq]; omega
    rw [BitVec.toNat_and, nat, show (0x1FFE#64).toNat = (2 ^ 12 - 1) <<< 1 from rfl,
      show 2 ^ 63 + 2 * pc.toNat = (2 ^ 62 + pc.toNat) <<< 1 by rw [← twice]; omega, ← Nat.shiftLeft_and_distrib,
      Nat.and_two_pow_sub_one_eq_mod, ← twice, BitVec.toNat_ofNat]
    omega

theorem companionCtl_spec (hk : kindOf c = 0) (st : Bool) (pc : BitVec 12) :
    let h := companionOf c st
    ((s.hart h).act ≠ .running → pc.toNat % 32 ≠ 0 → ∃ t, exec (.companionStart c st pc) s = .next t ∧
      ((t.hart h).act = .running ∧ (t.hart h).main.pc = BitVec.ofNat 64 (2 * pc.toNat) ∧
        bits (t.hart h).traps.status 1 0 = 0 ∧ (t.hart h).main.x = (s.hart h).main.x) ∧ t.mem = s.mem) ∧
    ((s.hart h).act ≠ .running → pc.toNat % 32 = 0 → s.canRun c = true → exec (.companionStart c st pc) s =
      .next (s.trapMain c (BitVec.ofNat 64 0x05) (s.hart c).main.pc 0)) ∧
    ((s.hart h).act = .running → exec (.companionStart c st pc) s = .next s ∧
      ((s.hart h).mem.regWait = none → (s.hart h).mem.regReply = none → ∃ t, exec (.companionStop c st) s = .next t ∧
        ((t.hart h).act = .stopped false ∧ (t.hart h).main = (s.hart h).main) ∧ t.mem = s.mem)) ∧
    ((s.hart h).act ≠ .running → exec (.companionStop c st) s = .next s) := by
  obtain ⟨run, index, place⟩ := startValue pc
  dsimp only
  refine ⟨fun idle hp => ?_, fun idle hp can => ?_, fun running => ⟨?_, fun wait reply => ?_⟩, fun idle => ?_⟩
  · have write : s.crWrite c 2 (companionNum st) (BitVec.ofNat 64 (2 ^ 63 + 2 * pc.toNat)) =
        some (s.startCompanion (companionOf c st) (BitVec.ofNat 64 (2 * pc.toNat))) := by
      rw [crWrite_companion, State.writeCompanionCtl]
      rw [run, beq_eq_false_iff_ne.2 idle, if_neg (by decide), if_neg (by decide), index, if_neg hp, place]
    refine ⟨_, congrArg Host.Outcome.next (coreWrite_some hk write), ?_, rfl⟩
    unfold State.startCompanion
    rw [State.hart_modHart_same]
    exact ⟨rfl, rfl, bits_setBits_same (by decide) (by decide), rfl⟩
  · refine congrArg Host.Outcome.next (coreWrite_none hk ?_ can)
    rw [crWrite_companion, State.writeCompanionCtl]
    rw [run, beq_eq_false_iff_ne.2 idle, if_neg (by decide), if_neg (by decide), index, if_pos hp]
  · refine congrArg Host.Outcome.next (coreWrite_some hk ?_)
    rw [crWrite_companion, State.writeCompanionCtl]
    rw [run, running]
    rfl
  · have write : s.crWrite c 2 (companionNum st) 0 = some (s.stopCompanion (companionOf c st)) := by
      rw [crWrite_companion, State.writeCompanionCtl]
      rw [running, if_neg (by decide)]
      rfl
    refine ⟨_, congrArg Host.Outcome.next (coreWrite_some hk write), ?_, rfl⟩
    unfold State.stopCompanion
    rw [State.hart_modHart_same, if_neg (by simp [running]), wait, reply]
    exact ⟨rfl, rfl⟩
  · refine congrArg Host.Outcome.next (coreWrite_some hk ?_)
    rw [crWrite_companion, State.writeCompanionCtl]
    rw [beq_eq_false_iff_ne.2 idle]
    rfl

/-! ### Preemption, streams, counters, the window map and the limit (R64, R168, R171, R351) -/

/-- A value of cr.preempt, taken apart. -/
theorem preemptValue_spec (req park : Bool) (floor : BitVec 2) : bit (preemptValue req park floor) 63 = req ∧
    preemptValue req park floor &&& 7#64 = BitVec.ofNat 64 ((if park then 4 else 0) + floor.toNat) := by
  revert floor
  cases req <;> cases park <;> decide

theorem bit_preempt_low (x : Word) : bit (setBit x 63 true) 63 = true ∧ setBit x 63 true &&& 7 = x &&& 7 := by
  refine ⟨by rw [bit_setBit (by decide), if_pos rfl], BitVec.eq_of_getLsbD_eq fun i hi => ?_⟩
  show bit (setBit x 63 true &&& 7) i = bit (x &&& 7) i
  rw [bit_and, bit_and, bit_setBit (by decide)]
  split
  · next e =>
    subst e
    simp [bit]
  · rfl

theorem preempt_spec (hk : kindOf c = 0) (park : Bool) (floor : BitVec 2) :
    let low : Word := BitVec.ofNat 64 ((if park then 4 else 0) + floor.toNat)
    ((s.hart c).task ≠ none → ∃ t, exec (.preemptRequest c park floor) s = .next t ∧
      (bit (t.hart c).sys.preempt 63 = true ∧ (t.hart c).sys.preemptNext = low ∧
        (t.hart c).sys.preempt &&& 7 = (s.hart c).sys.preempt &&& 7) ∧ t.mem = s.mem) ∧
    ((s.hart c).task = none → ∃ t, exec (.preemptRequest c park floor) s = .next t ∧ (t.hart c).sys.preempt = low ∧ t.mem = s.mem) ∧
    ∃ t, exec (.preemptCancel c park floor) s = .next t ∧
      ((t.hart c).sys.preempt = low ∧ (t.hart c).sys.preemptNext = 0) ∧ t.mem = s.mem := by
  obtain ⟨reqBit, reqLow⟩ := preemptValue_spec true park floor
  obtain ⟨cancelBit, cancelLow⟩ := preemptValue_spec false park floor
  have write : ∀ v, s.coreWrite c 0x62 v = s.writePreempt c v := fun v => coreWrite_some hk rfl
  dsimp only
  refine ⟨fun busy => ?_, fun free => ?_, ?_⟩
  · refine ⟨_, congrArg Host.Outcome.next (write _), ?_, rfl⟩
    unfold State.writePreempt
    rw [State.hart_modHart_same, reqBit, Option.isSome_iff_ne_none.2 busy]
    exact ⟨(bit_preempt_low _).1, reqLow, (bit_preempt_low _).2⟩
  · refine ⟨_, congrArg Host.Outcome.next (write _), ?_, rfl⟩
    unfold State.writePreempt
    rw [State.hart_modHart_same, free]
    simpa using reqLow
  · refine ⟨_, congrArg Host.Outcome.next (write _), ?_, rfl⟩
    unfold State.writePreempt
    rw [State.hart_modHart_same, cancelBit]
    exact ⟨cancelLow, rfl⟩

theorem State.stream_modStream {slot : BitVec 2} (f : Stream → Stream) :
    (s.modStream c slot f).stream c slot = f (s.stream c slot) := by
  have hs := slot.isLt
  unfold State.stream State.modStream
  rw [State.hart_modHart_same]
  simp [hs]

theorem State.stream_modStream_ne {slot k : BitVec 2} (f : Stream → Stream) (ne : k ≠ slot) :
    (s.modStream c slot f).stream c k = s.stream c k := by
  have apart : slot.toNat ≠ k.toNat := fun e => ne (BitVec.eq_of_toNat_eq e.symm)
  unfold State.stream State.modStream
  rw [State.hart_modHart_same]
  simp [apart]

theorem streamSlotDisable_spec (hk : kindOf c = 0) (slot : BitVec 2) :
    ∃ t, exec (.streamSlotDisable c slot) s = .next t ∧ ((t.stream c slot).en = false ∧
      ((s.stream c slot).en = true → (t.stream c slot).held = []) ∧ ∀ k, k ≠ slot → t.stream c k = s.stream c k) ∧
      t.mem = s.mem := by
  have hs := slot.isLt
  have write : s.crWrite c 2 (0x50 + slot.toNat) 0 = some (s.modStream c slot Stream.off) := by
    unfold State.crWrite
    rw [if_neg (by omega), if_pos (by omega), Nat.add_sub_cancel_left, BitVec.ofNat_toNat, BitVec.setWidth_eq]
    rfl
  refine ⟨_, congrArg Host.Outcome.next (coreWrite_some hk write), ⟨?_, fun on => ?_, fun k ne => ?_⟩, rfl⟩
  · rw [State.stream_modStream, Stream.off]
    split
    · rfl
    · next off => simpa using off
  · rw [State.stream_modStream, Stream.off, if_pos on]
  · exact State.stream_modStream_ne _ ne

theorem mailboxCounterWrite_spec (hk : kindOf c = 0) (mc : BitVec 3) :
    ∃ t, exec (.mailboxCounterWrite c mc v) s = .next t ∧ (((t.hart c).mc[mc.toNat]?).getD 0 = v.setWidth 32 ∧
      ∀ k, k ≠ mc.toNat → (t.hart c).mc[k]? = (s.hart c).mc[k]?) ∧ t.mem = s.mem := by
  have hm := mc.isLt
  have owner : counterOwner c = c := by
    unfold counterOwner
    rw [if_neg (by omega), coreOf_of_core hk]
  have write : s.crWrite c 2 (0x58 + mc.toNat) v =
      some (s.modHart c fun t => { t with mc := t.mc.setIfInBounds mc.toNat (v.setWidth 32) }) := by
    unfold State.crWrite
    rw [if_neg (by omega), if_neg (by omega), if_pos (by omega), Nat.add_sub_cancel_left, owner]
  refine ⟨_, congrArg Host.Outcome.next (coreWrite_some hk write), ⟨?_, fun k ne => ?_⟩, rfl⟩
  · rw [State.hart_modHart_same]
    simp [hm]
  · rw [State.hart_modHart_same]
    simp [ne.symm]

theorem winmapWrite_spec (hk : kindOf c = 0) : ∃ t, exec (.winmapWrite c v) s = .next t ∧ (t.hart c).sys.winmap =
    (if bit (s.hart c).sys.winmap 0 then (s.hart c).sys.winmap else v &&& 0xFFFF_FFFF_FE00_0001) ∧ t.mem = s.mem := by
  have write : s.crWrite c 2 0x17 v = some (s.modSys c fun r => { r with winmap := winmapWrite r.winmap v }) := by
    rw [← congrArg (fun x => some (s.modSys x fun r => { r with winmap := winmapWrite r.winmap v })) (coreOf_of_core hk)]
    rfl
  refine ⟨_, congrArg Host.Outcome.next (coreWrite_some hk write), ?_, rfl⟩
  rw [State.modSys, State.hart_modHart_same]
  rfl

theorem tasklimWrite_spec (hk : kindOf c = 0) : ∃ t, exec (.tasklimWrite c v) s = .next t ∧ (t.hart c).sys.tasklim =
    (if (v &&& 0xFFFF_FFFF_FFFF).toNat < 0x1000 then 0x1000 else v &&& 0xFFFF_FFFF_FFFF) ∧ t.mem = s.mem := by
  refine ⟨_, congrArg Host.Outcome.next (coreWrite_some hk rfl), ?_, rfl⟩
  rw [State.writeTasklim, State.hart_modHart_same]
  exact tasklimWrite_eq v

theorem serviceCoreStart_spec {i : Nat} (h1 : 1 ≤ i) (h3 : i ≤ 3) (idle : (s.hart (12288 + i)).act = .idle)
    (free : (s.hart (12288 + i)).halted = false) (whole : bit (s.hart (12288 + i)).sys.fence 8 = false) :
    ∃ t, exec (.serviceCoreStart i) s = .next t ∧ ((t.hart (12288 + i)).act = .running ∧
      bit (t.hart (12288 + i)).main.pc 0 = false) ∧ t.mem = s.mem := by
  refine ⟨_, if_pos ⟨h1, h3, idle, free, whole⟩, ?_, rfl⟩
  rw [State.hart_modHart_same]
  refine ⟨rfl, ?_⟩
  show bit (targetOf _) 0 = false
  rw [targetOf, bit_and, show bit (~~~1#64) 0 = false by decide, Bool.and_false]

/-! ## The fence of a core (R191, R193) -/

theorem hartExists_core (hk : kindOf c = 0) : hartExists c = true := by
  unfold kindOf at hk
  unfold hartExists
  exact decide_eq_true (by omega)

/-- A live queue has room in SRAM while SRAM has room. -/
theorem Dispatcher.room_sram {d : Dispatcher} {q : Nat} (live : d.live q = true) (few : d.sram < 1024) :
    d.room q = some none := by
  unfold Dispatcher.live at live
  unfold Dispatcher.room
  cases hq : d.queue q with
  | none => rw [hq] at live; exact absurd live (by decide)
  | some tq =>
    rw [hq] at live
    exact if_pos ⟨live, few⟩

theorem State.logEvent_time {n : Nat} {w a : Word} :
    (s.logEvent n w a).clock = s.clock ∧ (s.logEvent n w a).nanos = s.nanos := ⟨rfl, rfl⟩

theorem State.fencedTriple_time : (s.fencedTriple c).clock = s.clock ∧ (s.fencedTriple c).nanos = s.nanos := by
  obtain ⟨clock, nanos⟩ := (State.SameDevice.stopTriple (c := c) (State.SameDevice.refl s)).time
  rw [State.fencedTriple, State.logEvent_time.1, State.logEvent_time.2, State.modHart_clock, State.modHart_nanos]
  exact ⟨clock, nanos⟩

theorem State.fencedTriple_last : (s.fencedTriple c).dev.log.getLast? = some ⟨2, s.nanos, BitVec.ofNat 64 c, 0⟩ := by
  have nanos := (State.SameDevice.stopTriple (c := c) (State.SameDevice.refl s)).time.2
  rw [State.fencedTriple, State.logEvent_last, State.modHart_nanos, nanos]

theorem State.notifyDone_dev {r : TaskRecord} : (s.notifyDone r).dev = s.dev := by
  unfold State.notifyDone
  split
  · dsimp only
    split
    · rfl
    · obtain ⟨_, e⟩ := State.bumpCounter_eq (s := s) (h := bits r.w3 11 0) (BitVec.ofNat 3 (bits r.w3 14 12))
      rw [e]
  · rfl

/-- A task that may restart goes back to its queue, and another is logged as lost. -/
theorem State.loseTask_spec (r : Task) :
    (bit r.record.w2 5 = true → ∃ x, ((s.loseTask k r).cluster k).disp.tasks = (s.cluster k).disp.tasks ++ [x] ∧
      x.record = r.record ∧ x.ready = some s.clock) ∧
    (bit r.record.w2 5 = false → (s.loseTask k r).dev.log.getLast? = some ⟨1, s.nanos, r.record.w0, r.record.w1⟩ ∧
      ((s.loseTask k r).cluster k).disp = (s.cluster k).disp) := by
  unfold State.loseTask
  refine ⟨fun restart => ?_, fun lost => ?_⟩
  · rw [if_pos restart]
    dsimp only
    rw [State.holdTask_disp]
    exact ⟨_, rfl, rfl, rfl⟩
  · rw [if_neg (ne_true_of_eq_false lost), State.notifyDone_dev, State.logEvent_last, State.notifyDone_cluster]
    exact ⟨rfl, rfl⟩

theorem coreFence_spec (hk : kindOf c = 0) (hf : s.fencedCore c = false) :
    ∃ t, exec (.coreFence c) s = .next t ∧ t.fencedCore c = true ∧
    ((∀ r, (s.hart c).task = some r → bit r.task.record.w2 5 = true → (s.cluster (clusterOf c)).disp.sram < 1024 ∧
      (s.cluster (clusterOf c)).disp.live (bits r.task.record.w2 1 0) = true) → t.mem = s.mem) ∧
    t.canRun c = false ∧ t.canRun (4096 + c) = false ∧ t.canRun (8192 + c) = false ∧ (t.hart c).task = none ∧
    (t.hart c).search = none ∧
    ((s.hart c).task = none → t.dev.log.getLast? = some ⟨2, s.nanos, BitVec.ofNat 64 c, 0⟩) ∧
    ∀ r, (s.hart c).task = some r →
      (bit r.task.record.w2 5 = true → ∃ x, (t.cluster (clusterOf c)).disp.tasks =
        (s.cluster (clusterOf c)).disp.tasks ++ [x] ∧ x.record = r.task.record ∧ x.ready = some s.clock) ∧
      (bit r.task.record.w2 5 = false → t.dev.log.getLast? = some ⟨1, s.nanos, r.task.record.w0, r.task.record.w1⟩ ∧
        (t.cluster (clusterOf c)).disp = (s.cluster (clusterOf c)).disp) := by
  have fence := State.fenceHart_core hk hf
  obtain ⟨task, search, loader, storer⟩ := State.fencedTriple_rest (s := s) (c := c)
  obtain ⟨k1, k2⟩ := kindOf_companion hk
  have part : ∀ {α : Type} (f : Hart → α), (∀ h, f h.calm = f h) → (∀ h m p q, f { h with mc := m, park := p, hpark := q } = f h) →
      ∀ j, f ((s.fenceHart c).hart j) = f ((s.fencedTriple c).hart j) := fun f hc hm j => by
    rw [fence]
    split
    · exact State.loseTask_part f hc hm _ j
    · rfl
  have fenced := State.fenceHart_fenced (s := s) hk
  refine ⟨s.fenceHart c, congrArg Host.Outcome.next (if_pos (hartExists_core hk)), fenced, fun fits => ?_,
    State.canRun_of_fenced fenced, canRun_of_stopped (by omega) ((part (·.act) (fun _ => rfl) (fun _ _ _ _ => rfl) _).trans loader),
    canRun_of_stopped (by omega) ((part (·.act) (fun _ => rfl) (fun _ _ _ _ => rfl) _).trans storer),
    (part (·.task) (fun _ => rfl) (fun _ _ _ _ => rfl) _).trans task,
    (part (·.search) (fun _ => rfl) (fun _ _ _ _ => rfl) _).trans search, fun idle => ?_, fun r running => ?_⟩
  · exact State.fenceHart_mem (.inl hk) hf fun r hr hb => Dispatcher.room_sram (fits r hr hb).2 (fits r hr hb).1
  · rw [fence, idle]
    exact State.fencedTriple_last
  · rw [fence, running]
    have spec := State.loseTask_spec (s := s.fencedTriple c) (k := clusterOf c) r.task
    rwa [State.fencedTriple_time.1, State.fencedTriple_time.2, State.fencedTriple_disp] at spec

theorem coreFence_again (hk : kindOf c = 0) (hf : s.fencedCore c = true) : exec (.coreFence c) s = .next s := by
  refine congrArg Host.Outcome.next ((if_pos (hartExists_core hk)).trans ?_)
  unfold State.fenceHart
  rw [if_neg (by omega), coreOf_of_core hk]
  dsimp only
  rw [if_pos hf]

/-! ## The fence of a cluster (R192, R468) -/

/-- What the queues that a cluster holds have nothing to do with. -/
def Cluster.units (c : Cluster) : Bool × Option TreeRun × List ScreenReq × Word := (c.fenced, c.treeRun, c.screener, c.wear)

/-- From s to t queues and records have moved, and no fence and no unit of a cluster has changed. -/
structure State.Moved (s t : State) : Prop where
  sys : ∀ j, (t.hart j).sys = (s.hart j).sys
  units : ∀ j, (t.cluster j).units = (s.cluster j).units

theorem State.Moved.refl (s : State) : s.Moved s := ⟨fun _ => rfl, fun _ => rfl⟩

theorem State.Moved.trans {u : State} (h : s.Moved t) (g : t.Moved u) : s.Moved u :=
  ⟨fun j => (g.sys j).trans (h.sys j), fun j => (g.units j).trans (h.units j)⟩

theorem State.Moved.foldl {f : State → α → State} (hf : ∀ (t : State) (x : α), t.Moved (f t x)) (l : List α) (s : State) :
    s.Moved (l.foldl f s) :=
  List.foldlRecOn (motive := fun t : State => s.Moved t) l f (.refl s) fun _ ht _ _ => ht.trans (hf _ _)

theorem State.Moved.modDisp (s : State) (k : Nat) (f : Dispatcher → Dispatcher) : s.Moved (s.modDisp k f) :=
  ⟨fun _ => rfl, State.part_modCluster Cluster.units fun _ => by rfl⟩

theorem State.Moved.modDie (s : State) (k : Nat) (f : Die → Die) : s.Moved (s.modDie k f) := ⟨fun _ => rfl, fun _ => rfl⟩

theorem State.Moved.holdTask (s : State) (k q : Nat) (t : Task) (place : Option Nat) : s.Moved (s.holdTask k q t place) := by
  refine ⟨fun j => ?_, State.holdTask_cluster Cluster.units (fun _ => rfl) (fun _ _ => rfl) t place⟩
  obtain ⟨v, calm, e⟩ := State.holdTask_eq (s := s) (k := k) (q := q) t place
  rw [e]
  exact calm.part j (·.sys) fun _ => rfl

theorem State.Moved.joinQueue (s : State) (j q : Nat) (l : List Task) : s.Moved (s.joinQueue j q l) :=
  .foldl (fun t _ => .holdTask t j q _ _) l s

theorem State.Moved.moveDefault (s : State) (k j q : Nat) : s.Moved (s.moveDefault k j q) := by
  unfold State.moveDefault
  exact ((State.Moved.modDisp s k _).trans (.joinQueue _ j q _)).trans (.modDie _ _ _)

theorem State.Moved.choose (s : State) (n : Nat) : s.Moved (s.choose n).2 := by
  unfold State.choose
  split <;> exact ⟨fun _ => rfl, fun _ => rfl⟩

theorem State.Moved.moveQueue (s : State) (k j q : Nat) : s.Moved (s.moveQueue k j q) := by
  unfold State.moveQueue
  split
  · exact .refl s
  · dsimp only
    split
    · exact .refl s
    · exact ((((State.Moved.choose s _).trans (.modDisp _ k _)).trans (.modDisp _ j _)).trans (.joinQueue _ j _ _)).trans
        (.modDie _ _ _)

/-- A cluster without a task, and memory as it was. -/
def State.Bare (s t : State) (k : Nat) : Prop := (t.cluster k).disp.tasks = [] ∧ t.mem = s.mem

theorem State.Bare.modDisp {u : State} {i : Nat} {f : Dispatcher → Dispatcher} (hf : ∀ d, d.tasks = [] → (f d).tasks = [])
    (h : s.Bare u k) : s.Bare (u.modDisp i f) k := by
  refine ⟨?_, h.2⟩
  unfold State.modDisp
  by_cases e : k = i
  · subst e
    rw [State.cluster_modCluster_same]
    exact hf _ h.1
  · rw [State.cluster_modCluster_ne _ _ _ _ e]
    exact h.1

theorem State.Bare.modDie {u : State} {i : Nat} {f : Die → Die} (h : s.Bare u k) : s.Bare (u.modDie i f) k := h

theorem State.Bare.joinQueue {u : State} {i n : Nat} {l : List Task} (hl : l = []) (h : s.Bare u k) :
    s.Bare (u.joinQueue i n l) k := by
  subst hl
  exact h

/-- A cluster without a task has none to give. -/
theorem filter_of_nil {l : List α} {p : α → Bool} (h : l = []) : l.filter p = [] := by
  rw [h, List.filter_nil]

theorem State.Bare.moveDefault {u : State} {i n : Nat} (h : s.Bare u k) : s.Bare (u.moveDefault k i n) k := by
  unfold State.moveDefault
  dsimp only
  refine State.Bare.modDie (State.Bare.joinQueue ?_ (State.Bare.modDisp (fun _ => filter_of_nil) h))
  rw [filter_of_nil h.1, List.map_nil]

theorem State.Bare.choose {u : State} {n : Nat} (h : s.Bare u k) : s.Bare (u.choose n).2 k := by
  unfold State.choose
  split <;> exact h

theorem State.Bare.moveQueue {u : State} {i n : Nat} (h : s.Bare u k) : s.Bare (u.moveQueue k i n) k := by
  unfold State.moveQueue
  split
  · exact h
  · dsimp only
    split
    · exact h
    · exact State.Bare.modDie (State.Bare.joinQueue (filter_of_nil h.choose.1) (State.Bare.modDisp (fun _ hd => hd)
        (State.Bare.modDisp (fun _ => filter_of_nil) h.choose)))

theorem State.Bare.foldl {f : State → α → State} (hf : ∀ (u : State) (x : α), s.Bare u k → s.Bare (f u x) k) (l : List α)
    (h : s.Bare t k) : s.Bare (l.foldl f t) k :=
  List.foldlRecOn (motive := fun u : State => s.Bare u k) l f h fun u hu x _ => hf u x hu

theorem mem_coresOf : c ∈ coresOf k ↔ 16 * k ≤ c ∧ c < 16 * k + 16 := by
  unfold coresOf
  rw [mem_upFrom]

theorem kindOf_coresOf (hk : k < 256) (hc : c ∈ coresOf k) : kindOf c = 0 := by
  obtain ⟨-, lt⟩ := mem_coresOf.1 hc
  unfold kindOf
  omega

/-- The state once a cluster is marked fenced, with its shared units stopped and R192's bit in each core's cr.fence. -/
def State.markCluster (s : State) (k : Nat) : State :=
  (coresOf k).foldl (fun s c => s.modSys c fun r => { r with fence := setBit r.fence 9 true })
    (s.modCluster k fun c => { c with fenced := true, treeWait := [], treeRun := none, screener := [], copyl := [] })

/-- The state once every core of the cluster is fenced and the fence is in the log. -/
def State.closeCluster (s : State) (k : Nat) : State :=
  ((coresOf k).foldl State.fenceHart (s.markCluster k)).logEvent 3 (BitVec.ofNat 64 (16 * k)) 0

/-- The fence of a cluster closes it, and then its queues move. -/
theorem State.fenceCluster_spec (hf : (s.cluster k).fenced = false) : (s.closeCluster k).Moved (s.fenceCluster k) ∧
    (s.Bare (s.closeCluster k) k → s.Bare (s.fenceCluster k) k) := by
  unfold State.fenceCluster
  rw [if_neg (by simp [hf])]
  change (s.closeCluster k).Moved (match (s.closeCluster k).receiver k with | none => _ | some j => _) ∧
    (s.Bare (s.closeCluster k) k → s.Bare (match (s.closeCluster k).receiver k with | none => _ | some j => _) k)
  split
  · exact ⟨.refl _, id⟩
  · next j _ => exact ⟨(State.Moved.foldl (fun t q => .moveDefault t k j q) _ _).trans
        (.foldl (fun t q => .moveQueue t k j q) _ _),
      fun h => .foldl (fun _ _ hu => hu.moveQueue) _ (.foldl (fun _ _ hu => hu.moveDefault) _ h)⟩

theorem State.markCluster_cluster : (s.markCluster k).cluster k =
    { s.cluster k with fenced := true, treeWait := [], treeRun := none, screener := [], copyl := [] } := by
  unfold State.markCluster
  exact List.foldlRecOn (motive := fun t : State => t.cluster k = _) (coresOf k) _ (State.cluster_modCluster_same _ _ _)
    fun t ht _ _ => ht

theorem State.markCluster_mem : (s.markCluster k).mem = s.mem := by
  unfold State.markCluster
  exact List.foldlRecOn (motive := fun t : State => t.mem = s.mem) (coresOf k) _ rfl fun t ht _ _ => ht

theorem State.markCluster_hart : (s.markCluster k).hart c = if c ∈ coresOf k then
    { s.hart c with sys := { (s.hart c).sys with fence := setBit (s.hart c).sys.fence 9 true } } else s.hart c :=
  hart_foldl_own (F := fun _ h => { h with sys := { h.sys with fence := setBit h.sys.fence 9 true } }) (nodup_coresOf k)
    (fun _ _ _ => State.hart_modHart_same _ _ _) (fun _ _ _ ne => State.hart_modHart_ne _ _ _ _ ne) _ c

/-- A fold of fences leaves of a cluster what one fence leaves, and every bit of cr.fence that is set. -/
theorem State.fences_cluster {P : Cluster → Prop} (hc : ∀ c, P c.calm ↔ P c) (hd : ∀ c d, P { c with disp := d } ↔ P c)
    (hu : ∀ k c, P k → P (k.dropCore c)) {l : List Nat} (hl : ∀ c ∈ l, kindOf c = 0) (h : P (s.cluster j)) :
    P ((l.foldl State.fenceHart s).cluster j) :=
  List.foldlRecOn (motive := fun t : State => P (t.cluster j)) l State.fenceHart h fun _ ht c hm =>
    State.fenceHart_cluster hc hd hu (hl c hm) ht

theorem State.fences_bit {n : Nat} {l : List Nat} (hl : ∀ c ∈ l, kindOf c = 0) (h : bit (s.hart j).sys.fence n = true) :
    bit ((l.foldl State.fenceHart s).hart j).sys.fence n = true :=
  List.foldlRecOn (motive := fun t : State => bit (t.hart j).sys.fence n = true) l State.fenceHart h fun _ ht c hm =>
    State.fenceHart_bit (hl c hm) ht

theorem State.fences_fenced {l : List Nat} (hl : ∀ c ∈ l, kindOf c = 0) (hc : c ∈ l) :
    (l.foldl State.fenceHart s).fencedCore c = true := by
  induction l generalizing s with
  | nil => cases hc
  | cons d l ih =>
    rw [List.foldl_cons]
    cases hc with
    | head => exact State.fences_bit (fun e he => hl e (.tail _ he)) (State.fenceHart_fenced (hl c (.head _)))
    | tail _ hm => exact ih (fun e he => hl e (.tail _ he)) hm

/-- A core without a task is fenced without a byte, a queue or another core's task changed. -/
theorem State.fenceHart_idle (hk : kindOf c = 0) (none : (s.hart c).task = none) (hj : kindOf j = 0)
    (idle : (s.hart j).task = .none) : (s.fenceHart c).mem = s.mem ∧
    ((s.fenceHart c).cluster k).disp = (s.cluster k).disp ∧ ((s.fenceHart c).hart j).task = .none := by
  by_cases hf : s.fencedCore c = true
  · unfold State.fenceHart
    rw [if_neg (by omega), coreOf_of_core hk]
    dsimp only
    rw [if_pos hf]
    exact ⟨rfl, rfl, idle⟩
  · rw [State.fenceHart_core hk (by simpa using hf), none]
    refine ⟨State.fencedTriple_mem, State.fencedTriple_disp, ?_⟩
    by_cases e : j = c
    · subst e
      exact State.fencedTriple_rest.1
    · rw [State.fencedTriple, State.logEvent_hart, State.hart_modHart_ne _ _ _ _ e, State.stopTriple]
      unfold kindOf at hk hj
      rw [State.hart_modHart_ne _ _ _ _ (by omega), State.hart_modHart_ne _ _ _ _ (by omega), State.hart_modHart_ne _ _ _ _ e,
        State.modCluster_hart, State.liftToward_hart, State.liftToward_hart, State.liftToward_hart,
        State.unbindGang_part (·.task) fun _ _ _ => by rfl]
      exact idle

/-- A cluster without tasks is closed without a byte of memory changed. -/
theorem State.closeCluster_bare (hk : k < 256) (tasks : (s.cluster k).disp.tasks = [])
    (idle : ∀ c ∈ coresOf k, (s.hart c).task = none) : s.Bare (s.closeCluster k) k := by
  have base : s.Bare (s.markCluster k) k ∧ ∀ c ∈ coresOf k, ((s.markCluster k).hart c).task = none := by
    refine ⟨⟨by rw [State.markCluster_cluster]; exact tasks, State.markCluster_mem⟩, fun c hc => ?_⟩
    rw [State.markCluster_hart, if_pos hc]
    exact idle c hc
  have closed := List.foldlRecOn (motive := fun t : State => s.Bare t k ∧ ∀ c ∈ coresOf k, (t.hart c).task = none)
    (coresOf k) State.fenceHart base fun t ⟨bare, calm⟩ c hc => by
      have step := fun j hj => State.fenceHart_idle (k := k) (kindOf_coresOf hk hc) (calm c hc) (kindOf_coresOf hk hj) (calm j hj)
      obtain ⟨mem, disp, -⟩ := step c hc
      exact ⟨⟨by rw [disp]; exact bare.1, mem.trans bare.2⟩, fun j hj => (step j hj).2.2⟩
  obtain ⟨⟨empty, mem⟩, -⟩ := closed
  exact ⟨by rw [State.closeCluster, State.logEvent_cluster]; exact empty, by rw [State.closeCluster, State.logEvent_mem]; exact mem⟩

/-- What a fenced cluster is. -/
theorem State.fenceCluster_fenced (hk : k < 256) (hf : (s.cluster k).fenced = false) :
    ((s.fenceCluster k).cluster k).units = (true, none, [], (s.cluster k).wear) ∧
    ((s.cluster k).disp.tasks = [] → (∀ c ∈ coresOf k, (s.hart c).task = none) → (s.fenceCluster k).mem = s.mem) ∧
    ∀ c ∈ coresOf k, (s.fenceCluster k).fencedCore c = true ∧ bit ((s.fenceCluster k).hart c).sys.fence 9 = true := by
  obtain ⟨moved, bare⟩ := State.fenceCluster_spec hf
  have cores : ∀ c ∈ coresOf k, kindOf c = 0 := fun c hc => kindOf_coresOf hk hc
  refine ⟨?_, fun tasks idle => (bare (State.closeCluster_bare hk tasks idle)).2, fun c hc => ?_⟩
  · rw [moved.units, State.closeCluster, State.logEvent_cluster]
    refine State.fences_cluster (P := fun c => c.units = (true, none, [], (s.cluster k).wear)) (fun _ => Iff.rfl)
      (fun _ _ => Iff.rfl) (fun d c hd => ?_) cores ?_
    · simp only [Cluster.units, Prod.mk.injEq] at hd
      obtain ⟨fenced, run, screener, wear⟩ := hd
      simp [Cluster.units, Cluster.dropCore, fenced, run, screener, wear]
    · rw [State.markCluster_cluster]
      rfl
  · rw [State.fencedCore, moved.sys, State.closeCluster, State.logEvent_hart]
    refine ⟨State.fences_fenced cores hc, State.fences_bit cores ?_⟩
    rw [State.markCluster_hart, if_pos hc]
    dsimp only
    rw [bit_setBit (by decide), if_pos rfl]

theorem clusterFence_spec (hk : k < 256) (hf : (s.cluster k).fenced = false) : ∃ t, exec (.clusterFence k) s = .next t ∧
    (t.cluster k).fenced = true ∧
    ((s.cluster k).disp.tasks = [] ∧ (∀ c ∈ coresOf k, (s.hart c).task = none) → t.mem = s.mem) ∧
    (t.cluster k).treeRun = none ∧ (t.cluster k).screener = [] ∧
    ∀ c ∈ coresOf k, t.fencedCore c = true ∧ bit (t.hart c).sys.fence 9 = true ∧ t.canRun c = false := by
  obtain ⟨units, mem, cores⟩ := State.fenceCluster_fenced hk hf
  simp only [Cluster.units, Prod.mk.injEq] at units
  obtain ⟨fenced, run, screener, -⟩ := units
  refine ⟨_, congrArg Host.Outcome.next (if_pos hk), fenced, fun h => mem h.1 h.2, run, screener, fun c hc => ?_⟩
  obtain ⟨eight, nine⟩ := cores c hc
  exact ⟨eight, nine, State.canRun_of_fenced eight⟩

/-! ## The wear snapshot (R468) -/

/-- The state with a wear snapshot replaced. -/
def State.withWear (s : State) (k : Nat) (w : Word) : State := s.modCluster k fun c => { c with wear := w }

theorem wearUpdate_exec (hk : k < 256) : exec (.wearUpdate k v) s =
    .next (if bits v 15 8 < 4 then
      (s.withWear k (0x8000_0000_0000_0000 ||| (v &&& 0x0000_FFFF_FFFF_FFFF))).fenceCluster k
      else s.withWear k (0x8000_0000_0000_0000 ||| (v &&& 0x0000_FFFF_FFFF_FFFF))) := by
  have margin : bits (0x8000_0000_0000_0000 ||| (v &&& 0x0000_FFFF_FFFF_FFFF)) 15 8 = bits v 15 8 := by
    refine Nat.eq_of_testBit_eq fun i => ?_
    rw [testBit_bits, testBit_bits]
    by_cases hi : i < 8
    · have top : bit 0x8000_0000_0000_0000 (8 + i) = false ∧ bit 0x0000_FFFF_FFFF_FFFF (8 + i) = true := by
        interval_cases i <;> decide
      rw [bit_or, bit_and, top.1, top.2, Bool.false_or, Bool.and_true]
    · rw [decide_eq_false (by omega), Bool.false_and, Bool.false_and]
  refine (if_neg (by omega)).trans ?_
  rw [margin]
  rfl

theorem wearUpdate_spec (hk : k < 256) {w : Word} (hw : w = 0x8000_0000_0000_0000 ||| (v &&& 0x0000_FFFF_FFFF_FFFF)) :
    (4 ≤ bits v 15 8 → ∃ t, exec (.wearUpdate k v) s = .next t ∧ ((t.cluster k).wear = w ∧
      (t.cluster k).fenced = (s.cluster k).fenced ∧ t.harts = s.harts) ∧ t.mem = s.mem) ∧
    (bits v 15 8 < 4 → ∃ t, exec (.wearUpdate k v) s = .next t ∧ (t.cluster k).wear = w ∧ (t.cluster k).fenced = true ∧
      ((s.cluster k).disp.tasks = [] ∧ (∀ c ∈ coresOf k, (s.hart c).task = none) → t.mem = s.mem)) := by
  subst hw
  have self : ∀ w, (s.withWear k w).cluster k = { s.cluster k with wear := w } := fun w => State.cluster_modCluster_same _ _ _
  refine ⟨fun high => ⟨_, (wearUpdate_exec hk).trans (congrArg _ (if_neg (by omega))), ⟨?_, ?_, rfl⟩, rfl⟩,
    fun low => ⟨_, (wearUpdate_exec hk).trans (congrArg _ (if_pos low)), ?_⟩⟩
  · rw [self]
  · rw [self]
  · by_cases hf : (s.cluster k).fenced = true
    · have kept : ∀ w, (s.withWear k w).fenceCluster k = s.withWear k w := fun w => by
        unfold State.fenceCluster
        rw [self, if_pos hf]
      rw [kept, self]
      exact ⟨rfl, hf, fun _ => rfl⟩
    · obtain ⟨units, mem, -⟩ := State.fenceCluster_fenced (s := s.withWear k (0x8000_0000_0000_0000 ||| (v &&& 0x0000_FFFF_FFFF_FFFF)))
        hk (by rw [self]; simpa using hf)
      simp only [Cluster.units, Prod.mk.injEq] at units
      obtain ⟨fenced, -, -, wear⟩ := units
      exact ⟨wear.trans (by rw [self]), fenced, fun h => mem (by rw [self]; exact h.1) h.2⟩

/-! ## Recovery from a die failure (R194, R457) -/

/-- A fold of halts changes harts, clusters, tags and holds alone, and halts every hart of the list. -/
theorem State.halts_device {l : List Nat} : s.SameDevice (l.foldl State.haltHart s) :=
  List.foldlRecOn (motive := fun t : State => s.SameDevice t) l State.haltHart (.refl s) fun _ ht _ _ =>
    ht.trans State.haltHart_device

theorem State.halts_keep {l : List Nat} (hj : (s.hart j).halted = true) :
    ((l.foldl State.haltHart s).hart j).halted = true :=
  List.foldlRecOn (motive := fun t : State => (t.hart j).halted = true) l State.haltHart hj fun _ ht _ _ =>
    State.haltHart_keeps ht

theorem State.halts_halt {l : List Nat} (hj : j ∈ l) : ((l.foldl State.haltHart s).hart j).halted = true := by
  induction l generalizing s with
  | nil => cases hj
  | cons d l ih =>
    rw [List.foldl_cons]
    cases hj with
    | head => exact State.halts_keep State.haltHart_halted
    | tail _ hm => exact ih hm

/-- A recovery that halts the harts of a list. -/
def State.recoverOver (s : State) (l : List Nat) : State :=
  (l.foldl State.haltHart s).modDev fun d => { d with tierOp := (d.tier.getLast?).map (fun i => .recover i.1 i.2.1) }

theorem State.recoverOver_spec {l : List Nat} : (s.recoverOver l).mem = s.mem ∧
    (s.recoverOver l).dev = { s.dev with tierOp := (s.dev.tier.getLast?).map (fun i => .recover i.1 i.2.1) } ∧
    ∀ h ∈ l, ((s.recoverOver l).hart h).halted = true := by
  have same := State.halts_device (s := s) (l := l)
  refine ⟨same.mem, ?_, fun h hh => State.halts_halt hh⟩
  rw [State.recoverOver, State.modDev_dev, same.dev]

theorem State.recover_spec : s.recover.mem = s.mem ∧
    s.recover.dev = { s.dev with tierOp := (s.dev.tier.getLast?).map (fun i => .recover i.1 i.2.1) } ∧
    ∀ h, h < 12288 → (s.recover.hart h).halted = true := by
  obtain ⟨mem, dev, halted⟩ := State.recoverOver_spec (s := s) (l := upFrom 0 12288)
  exact ⟨mem, dev, fun h hh => halted h (mem_upFrom.2 ⟨Nat.zero_le h, by omega⟩)⟩

/-- A record that is written changes of the device the log alone. -/
theorem State.logEvent_dev (n : Nat) (w a : Word) :
    ∃ log lost, (s.logEvent n w a).dev = { s.dev with log := log, logOverflow := lost } := by
  unfold State.logEvent
  rw [State.modDev_dev]
  dsimp only
  split
  · exact ⟨_, _, rfl⟩
  · exact ⟨_, _, rfl⟩

theorem State.stopOthers_dev : s.stopOthers.dev =
    { s.dev with stops := s.dev.stops ++ (List.range s.dev.podM).filter (fun n => n != s.dev.podN) } := State.modDev_dev ..

theorem dieFailure_spec {d : Nat} (hd : d < 4) : ∃ t, exec (.dieFailure d) s = .next t ∧
    (t.dev.log.getLast? = some ⟨4, s.nanos, BitVec.ofNat 64 (1024 * d), 0⟩ ∧ (∀ h, h < 12288 → (t.hart h).halted = true) ∧
    t.dev.stops = s.dev.stops ++ (List.range s.dev.podM).filter (fun n => n != s.dev.podN) ∧
    t.dev.tierOp = (s.dev.tier.getLast?).map (fun i => .recover i.1 i.2.1)) ∧ t.mem = s.mem := by
  have last := State.logEvent_last (s := s) 4 (BitVec.ofNat 64 (1024 * d)) 0
  obtain ⟨log, lost, rest⟩ := State.logEvent_dev (s := s) 4 (BitVec.ofNat 64 (1024 * d)) 0
  obtain ⟨mem, dev, halted⟩ := State.recover_spec (s := (s.logEvent 4 (BitVec.ofNat 64 (1024 * d)) 0).stopOthers)
  rw [State.stopOthers_dev, rest] at dev
  rw [rest] at last
  exact ⟨_, congrArg Host.Outcome.next (if_pos hd), ⟨by rw [dev]; exact last, halted, by rw [dev], by rw [dev]⟩, mem⟩

theorem recoveryStop_spec : ∃ t, exec .recoveryStopMessage s = .next t ∧ (t.dev.log = s.dev.log ∧ t.dev.stops = s.dev.stops ∧
    (∀ h, h < 12288 → (t.hart h).halted = true) ∧
    t.dev.tierOp = (s.dev.tier.getLast?).map (fun i => .recover i.1 i.2.1)) ∧ t.mem = s.mem := by
  obtain ⟨mem, dev, halted⟩ := State.recover_spec (s := s)
  exact ⟨_, rfl, ⟨by rw [dev], by rw [dev], halted, by rw [dev]⟩, mem⟩

end

/-- Settles O56: each event from outside is the register write, the halt or the fence that the spec says, and none of them
writes a byte of memory but for a task's record that finds its dispatcher's SRAM full. -/
theorem controlAndContainmentEvents : Obligations.ControlAndContainmentEvents := by
  unfold Obligations.ControlAndContainmentEvents
  intro still calm
  exact ⟨fun s h => hartHalt_spec, fun s h => hartRelease_spec, fun s h => window_idle,
    fun s h num v r he hr holds queue => registerWrite_exec he hr holds queue, fun s h v => windowSup_spec,
    fun s c q v => queueEnable_spec, fun s c q => queueDisable_spec, fun s c st pc hk => companionCtl_spec hk st pc,
    fun s c park floor hk => preempt_spec hk park floor, fun s c slot hk => streamSlotDisable_spec hk slot,
    fun s c mc v hk => mailboxCounterWrite_spec hk mc, fun s c v => winmapWrite_spec, fun s c v => tasklimWrite_spec,
    fun s i => serviceCoreStart_spec, fun s c => coreFence_spec, fun s c => coreFence_again, fun s k => clusterFence_spec,
    fun s k v hk => wearUpdate_spec hk rfl, fun s d => dieFailure_spec, fun s => recoveryStop_spec⟩

end Sys2Proof.Machine
end

section
/-! An engine's write, a delivery's and a transfer's: cut at its lines, each byte reads as it was written, every other byte
as before, and the words of the TCM and the scratchpad are full (R68, R76, R81, R100, R106, R110, R387). -/

namespace Sys2Proof.Machine

section
variable {s t u : State} {a b n k w : Nat} {d : List Byte} {q : BitVec 8} {α : Type}

/-! ## What decides how a line is written -/

/-- Block b of cluster k is expanded in the eaves buffer (R76). -/
def State.expanded (s : State) (k b : Nat) : Bool := (s.cluster k).loft.eaves.any (fun e => e.1 == b)

/-- From s to t no spill area, no pending update and no full bit has gone, and every expanded block is expanded. -/
structure State.SameLines (s t : State) : Prop where
  spill : ∀ a, t.inSpill a = s.inSpill a
  gutter : ∀ d, (t.die d).gutter = (s.die d).gutter
  expanded : ∀ k b, s.expanded k b = true → t.expanded k b = true
  full : ∀ w, s.isFull w = true → t.isFull w = true

theorem State.SameLines.refl (s : State) : s.SameLines s := ⟨fun _ => rfl, fun _ => rfl, fun _ _ => id, fun _ => id⟩

theorem State.SameLines.trans (h : s.SameLines t) (g : t.SameLines u) : s.SameLines u :=
  ⟨fun a => (g.spill a).trans (h.spill a), fun d => (g.gutter d).trans (h.gutter d),
    fun k b e => g.expanded k b (h.expanded k b e), fun w e => g.full w (h.full w e)⟩

theorem State.SameLines.ite {c : Prop} [Decidable c] (ht : s.SameLines t) (hu : s.SameLines u) :
    s.SameLines (if c then t else u) := by
  split
  · exact ht
  · exact hu

theorem State.SameLines.foldl {f : State → α → State} (hf : ∀ (t : State) (x : α), t.SameLines (f t x)) (l : List α) (s : State) :
    s.SameLines (l.foldl f s) :=
  List.foldlRecOn (motive := fun t : State => s.SameLines t) l f (.refl s) fun _ ht _ _ => ht.trans (hf _ _)

/-- Bytes, poison, tags and what is under way may change. -/
theorem State.SameLines.update {mem poison tags holds waiters net past free} : s.SameLines
    { s with mem := mem, poison := poison, tags := tags, holds := holds, waiters := waiters, net := net, past := past, free := free } :=
  ⟨fun _ => rfl, fun _ => rfl, fun _ _ => id, fun _ => id⟩

theorem State.SameLines.modHart {f : Hart → Hart} : s.SameLines (s.modHart k f) :=
  ⟨fun _ => rfl, fun _ => rfl, fun _ _ => id, fun _ => id⟩

/-- An entry that is replaced by one alike leaves what any entry says. -/
theorem any_tput {l : Table α} {x : α} {p : Nat × α → Bool} (h : p (k, x) = ((tget l k).map fun y => p (k, y)).getD false) :
    (tput l k x).any p = l.any p := by
  induction l with
  | nil => simpa [tput, tget] using h
  | cons e l ih =>
    obtain ⟨j, y⟩ := e
    unfold tput
    unfold tget at h
    by_cases e : j = k
    · subst e
      rw [if_neg (by omega), if_pos rfl]
      rw [if_pos rfl] at h
      rw [List.any_cons, List.any_cons, h]
      rfl
    · rw [if_neg e] at h
      split
      · rw [List.any_cons, h]
        cases found : tget l k with
        | none => rfl
        | some z =>
          have mem : (k, z) ∈ l := by
            clear ih h
            induction l with
            | nil => cases found
            | cons f l ih =>
              obtain ⟨i, v⟩ := f
              unfold tget at found
              split at found
              · next here => cases here; cases found; exact .head _
              · exact .tail _ (ih found)
          cases hp : p (k, z) with
          | false => simp [hp]
          | true =>
            have : l.any p = true := List.any_eq_true.2 ⟨_, mem, hp⟩
            simp [hp, this]
      · rw [List.any_cons, List.any_cons, ih h]

theorem State.inSpill_modDie {f : Die → Die} (hf : ∀ x, (f x).regions = x.regions) : (s.modDie k f).inSpill a = s.inSpill a := by
  unfold State.inSpill
  refine congrArg (homeOf a == .dram && ·) (any_tput ?_)
  unfold State.die
  dsimp only
  rw [hf]
  cases tget s.dies k with
  | none => rfl
  | some x => rfl

/-- A die's caches may change. -/
theorem State.SameLines.modDie {f : Die → Die} (hr : ∀ x, (f x).regions = x.regions) (hg : ∀ x, (f x).gutter = x.gutter) :
    s.SameLines (s.modDie k f) := by
  refine ⟨fun _ => State.inSpill_modDie hr, fun d => ?_, fun _ _ => id, fun _ => id⟩
  by_cases e : d = k
  · subst e
    rw [State.die_modDie_same, hg]
  · rw [State.die_modDie_ne _ _ _ _ e]

/-- A loft may change as long as its expanded blocks stay expanded. -/
theorem State.SameLines.modLoft {f : Loft → Loft}
    (h : ∀ b, s.expanded k b = true → (f (s.cluster k).loft).eaves.any (fun e => e.1 == b) = true) : s.SameLines (s.modLoft k f) := by
  refine ⟨fun _ => rfl, fun _ => rfl, fun j b e => ?_, fun _ => id⟩
  unfold State.expanded State.modLoft
  by_cases i : j = k
  · subst i
    rw [State.cluster_modCluster_same]
    exact h b e
  · rw [State.cluster_modCluster_ne _ _ _ _ i]
    exact e

theorem State.SameLines.modDieLoft {j : Nat} {f : Die → Die} {g : Loft → Loft} (hr : ∀ x, (f x).regions = x.regions)
    (hg : ∀ x, (f x).gutter = x.gutter)
    (h : ∀ b, s.expanded k b = true → (g (s.cluster k).loft).eaves.any (fun e => e.1 == b) = true) :
    s.SameLines ((s.modDie j f).modLoft k g) :=
  (State.SameLines.modDie hr hg).trans (.modLoft h)

/-! ## What an access does to the caches -/

theorem State.SameLines.fillL2 {x : L2Line} : s.SameLines (s.fillL2 k x) := by
  have die : ∀ f : Die → List L2Line, s.SameLines (s.modDie k fun t => { t with l2 := f t }) := fun f =>
    .modDie (fun _ => rfl) (fun _ => rfl)
  unfold State.fillL2
  dsimp only
  split
  · exact die _
  · split
    · split
      · exact die _
      · exact (die _).trans .update
    · exact .refl s

/-- A block that is expanded already is read and written where it is. -/
theorem State.fillEaves_expanded {x : Nat × Bool × BitVec 3 × Nat} (here : s.expanded k x.1 = true) :
    s.fillEaves k x = s.modLoft k fun l => { l with eaves := l.eaves.filter (fun e => e.1 != x.1) ++ [x] } := by
  have raw : s.heldRaw k x.1 = false := by
    unfold State.heldRaw
    dsimp only
    rw [show (s.cluster k).loft.eaves.any (fun e => e.1 == x.1) = true from here]
    simp
  unfold State.fillEaves Loft.ways
  dsimp only
  rw [if_pos (.inl here), raw, if_neg (by decide)]

theorem State.SameLines.readAhead {r : Reader} : s.SameLines (s.readAhead k b a r) := by
  unfold State.readAhead
  split
  · exact .refl s
  · dsimp only
    split
    · refine .modDieLoft (fun _ => ?_) (fun _ => ?_) fun _ e => ?_
      · rfl
      · rfl
      · exact e
    · refine .modLoft fun _ e => ?_
      exact e

theorem State.SameLines.dirtyBlock : s.SameLines (s.dirtyBlock k b) := by
  unfold State.dirtyBlock
  refine .modDieLoft (fun _ => ?_) (fun _ => ?_) fun _ e => ?_
  · rfl
  · rfl
  · split
    · exact e
    · exact e

@[simp] theorem State.readAhead_mem {r : Reader} : (s.readAhead k b a r).mem = s.mem := by
  unfold State.readAhead
  split
  · rfl
  · dsimp only
    split <;> rfl

/-- The line at a home can be written as it stands: a loft block is expanded, and no update of a DRAM line pends. -/
def State.ready (s : State) (a : Nat) : Prop :=
  s.inSpill a = false ∧ (homeOf a = .dram → (s.die (homeDie a)).gutter = []) ∧
    (homeOf a = .loft → s.expanded (loftPlace a).1 (loftPlace a).2 = true)

theorem State.SameLines.ready (h : s.SameLines t) (hr : s.ready a) : t.ready a := by
  obtain ⟨dry, idle, loft⟩ := hr
  exact ⟨(h.spill a).trans dry, fun e => (h.gutter _).trans (idle e), fun e => h.expanded _ _ (loft e)⟩

/-- An access of a ready line leaves memory. -/
theorem State.touch_ready {store : Bool} {r : Option Reader} (hr : s.ready a) :
    s.SameLines (s.touch a q store r) ∧ (s.touch a q store r).mem = s.mem := by
  unfold State.touch
  split
  · exact ⟨.fillL2, State.fillL2_mem⟩
  · next loft =>
    have here := hr.2.2 loft
    have fill : ∀ x : Nat × Bool × BitVec 3 × Nat, x.1 = (loftPlace a).2 →
        s.SameLines (s.fillEaves (loftPlace a).1 x) ∧ (s.fillEaves (loftPlace a).1 x).mem = s.mem := by
      intro x hx
      rw [State.fillEaves_expanded (hx ▸ here)]
      refine ⟨.modLoft fun b hb => ?_, rfl⟩
      dsimp only
      rw [List.any_append, Bool.or_eq_true]
      by_cases e : x.1 = b
      · exact .inr (by simp [e])
      · obtain ⟨y, hy, yb⟩ := List.any_eq_true.1 hb
        refine .inl (List.any_eq_true.2 ⟨y, List.mem_filter.2 ⟨hy, ?_⟩, yb⟩)
        rw [beq_iff_eq] at yb
        rw [bne_iff_ne, yb]
        exact fun h => e h.symm
    unfold State.touchLoft
    dsimp only
    have f := fill ((loftPlace a).2, store || (s.cluster (loftPlace a).1).loft.eaves.any
      (fun e => e.1 == (loftPlace a).2 && e.2.1), q.setWidth 3, s.clock) rfl
    split
    · exact ⟨f.1.trans .dirtyBlock, f.2⟩
    · split
      · exact ⟨f.1.trans .readAhead, State.readAhead_mem.trans f.2⟩
      · exact f
  · exact ⟨.refl s, rfl⟩

theorem State.applyLine_ready (hr : s.ready a) : s.applyLine a = s := by
  by_cases e : homeOf a = .dram
  · exact State.applyLine_idle (hr.2.1 e)
  · exact if_neg e

/-! ## The bytes of one line -/

theorem mem_sortedAdd_of_mem {l : List Nat} {x : Nat} (h : x ∈ l) : x ∈ sortedAdd l a := by
  induction l with
  | nil => cases h
  | cons b l ih =>
    unfold sortedAdd
    split
    · exact .tail _ h
    · split
      · exact h
      · cases h with
        | head => exact .head _
        | tail _ h => exact .tail _ (ih h)

theorem State.SameLines.deliver : s.SameLines (s.deliver w) := by
  unfold State.deliver
  split
  · exact .refl s
  · exact ⟨fun _ => rfl, fun _ => rfl, fun _ _ => id, fun _ => id⟩

theorem State.SameLines.setFull : s.SameLines (s.setFull w true) := by
  have mark : s.SameLines { s with full := sortedAdd s.full w } :=
    ⟨fun _ => rfl, fun _ => rfl, fun _ _ => id, fun _ h => List.contains_iff_mem.2 (mem_sortedAdd_of_mem (List.contains_iff_mem.1 h))⟩
  unfold State.setFull
  exact .ite (.ite (mark.trans .deliver) mark) (.refl s)

theorem State.SameLines.putBytes : s.SameLines (s.putBytes a d) := by
  have base : s.SameLines { s.poke a d with
      poison := s.poison.filter (fun w => !(decide (a ≤ w ∧ w + secdedSize w ≤ a + d.length))) } := .update
  unfold State.putBytes
  dsimp only
  split
  · exact base.trans (.foldl (fun _ _ => .setFull) _ _)
  · exact base

/-- The words that the write of bytes touches are full, where words have a full bit. -/
theorem State.putBytes_full (local_ : hasFullBit a = true) (low : a ≤ b) (high : b < a + d.length)
    (word : hasFullBit (wordAt b) = true) : (s.putBytes a d).isFull (wordAt b) = true := by
  have some_ : d ≠ [] := by
    rintro rfl
    simp only [List.length_nil] at high
    omega
  have hit : b / 8 ∈ unitsOver 8 a d.length := by
    unfold unitsOver
    rw [mem_upFrom]
    omega
  have set : ∀ (l : List Nat) (t : State), b / 8 ∈ l → ((l.foldl (fun s w => s.setFull (8 * w) true) t)).isFull (wordAt b) = true := by
    intro l
    induction l with
    | nil => exact fun _ h => absurd h List.not_mem_nil
    | cons x l ih =>
      intro t h
      rw [List.foldl_cons]
      cases h with
      | head =>
        refine (State.SameLines.foldl (fun _ _ => .setFull) l _).full _ ?_
        rw [show wordAt b = 8 * (b / 8) by unfold wordAt; omega] at word ⊢
        exact State.isFull_setFull word
      | tail _ h => exact ih _ h
  unfold State.putBytes
  dsimp only
  rw [if_pos ⟨local_, some_⟩]
  exact set _ _ hit

/-! ## The write of all lines -/

/-- One line's part of a write. -/
def State.writeLine (s : State) (v : Via) (sync : Bool) (a : Nat) (d : List Byte) (q : Nat × Nat) : State :=
  if s.inSpill q.1 then s else
    ((if sync then s else (s.applyLine q.1).touch q.1 v.qual true none).putBytes q.1 ((d.drop (q.1 - a)).take q.2)).clearTags q.1 q.2

theorem State.engineWriteAs_eq (v : Via) (sync : Bool) :
    s.engineWriteAs v sync a d = (linePartsOf a d.length).foldl (fun s q => s.writeLine v sync a d q) s := rfl

theorem State.writeLine_ready {v : Via} {sync : Bool} {p : Nat × Nat} (hr : s.ready p.1) :
    s.SameLines (s.writeLine v sync a d p) ∧
    (s.writeLine v sync a d p).mem = memPutList s.mem p.1 ((d.drop (p.1 - a)).take p.2) ∧
    ∀ b, hasFullBit p.1 = true → p.1 ≤ b → b < p.1 + ((d.drop (p.1 - a)).take p.2).length → hasFullBit (wordAt b) = true →
      (s.writeLine v sync a d p).isFull (wordAt b) = true := by
  have open_ : s.SameLines (if sync then s else (s.applyLine p.1).touch p.1 v.qual true none) ∧
      (if sync then s else (s.applyLine p.1).touch p.1 v.qual true none).mem = s.mem := by
    rw [State.applyLine_ready hr]
    split
    · exact ⟨.refl s, rfl⟩
    · exact State.touch_ready hr
  unfold State.writeLine
  rw [if_neg (by simp [hr.1])]
  refine ⟨(open_.1.trans .putBytes).trans .update, ?_, fun b local_ low high word => ?_⟩
  · rw [State.clearTags_mem, State.putBytes_mem, open_.2]
  · exact State.putBytes_full local_ low high word

/-- A line of the parts of a write. -/
theorem mem_linePartsOf {p : Nat × Nat} (h : p ∈ linePartsOf a n) : a ≤ p.1 ∧ p.1 + p.2 ≤ a + n ∧
    p.1 = max a (p.1 / 64 * 64) ∧ (p.1 ≤ a ∨ p.1 < a + n) ∧
    p.1 + p.2 ≤ p.1 / 64 * 64 + 64 ∧ ∀ b, a ≤ b → b < a + n → b / 64 = p.1 / 64 → p.1 ≤ b ∧ b < p.1 + p.2 := by
  unfold linePartsOf at h
  obtain ⟨l, hl, rfl⟩ := List.mem_map.1 h
  unfold unitsOver at hl
  rw [mem_upFrom] at hl
  dsimp only
  refine ⟨by omega, by omega, by omega, by omega, by omega, fun b _ _ _ => by omega⟩

theorem exists_linePart (low : a ≤ b) (high : b < a + n) : ∃ p ∈ linePartsOf a n, p.1 / 64 = b / 64 := by
  unfold linePartsOf unitsOver
  refine ⟨_, List.mem_map.2 ⟨b / 64, mem_upFrom.2 (by omega), rfl⟩, ?_⟩
  dsimp only
  omega

/-- What an engine's write leaves, when each of its lines is ready: its bytes, every other byte, and full words. -/
theorem State.engineWriteAs_spec {v : Via} {sync : Bool} (wf : Memory.wf s.mem = true)
    (ready : ∀ b, a ≤ b → b ≤ a ∨ b < a + d.length → s.ready b) :
    let t := s.engineWriteAs v sync a d
    s.SameLines t ∧ Memory.wf t.mem = true ∧
    (∀ b, memGet t.mem b = if h : a ≤ b ∧ b - a < d.length then d[b - a]'h.2 else memGet s.mem b) ∧
    ∀ b, a ≤ b → b < a + d.length → hasFullBit (max a (b / 64 * 64)) = true → hasFullBit (wordAt b) = true →
      t.isFull (wordAt b) = true := by
  have fold : ∀ (l : List (Nat × Nat)), (∀ p ∈ l, p ∈ linePartsOf a d.length) → ∀ t : State, s.SameLines t →
      Memory.wf t.mem = true →
      let u := l.foldl (fun s q => s.writeLine v sync a d q) t
      t.SameLines u ∧ Memory.wf u.mem = true ∧
      (∀ b, memGet u.mem b = if h : (a ≤ b ∧ b - a < d.length) ∧ ∃ p ∈ l, p.1 / 64 = b / 64 then d[b - a]'h.1.2
        else memGet t.mem b) ∧
      ∀ b, a ≤ b → b < a + d.length → (∃ p ∈ l, p.1 / 64 = b / 64) → hasFullBit (max a (b / 64 * 64)) = true →
        hasFullBit (wordAt b) = true → u.isFull (wordAt b) = true := by
    intro l
    induction l with
    | nil =>
      intro _ t same wf
      refine ⟨.refl t, wf, fun b => ?_, fun b _ _ ⟨p, hp, _⟩ => absurd hp List.not_mem_nil⟩
      rw [dif_neg fun ⟨_, p, hp, _⟩ => absurd hp List.not_mem_nil]
      rfl
    | cons p l ih =>
      intro all t same wf
      obtain ⟨low, high, line, pos, fits, whole⟩ := mem_linePartsOf (all p (.head _))
      obtain ⟨lines, mem, full⟩ := State.writeLine_ready (v := v) (sync := sync) (a := a) (d := d)
        (same.ready (ready p.1 low pos))
      have len : ((d.drop (p.1 - a)).take p.2).length = p.2 := by
        rw [List.length_take, List.length_drop]
        omega
      have wf' : Memory.wf (t.writeLine v sync a d p).mem = true := by
        rw [mem]
        exact Memory.wf_memPutList _ _ wf
      obtain ⟨rest, wfr, bytes, fulls⟩ := ih (fun q hq => all q (.tail _ hq)) _ (same.trans lines) wf'
      refine ⟨lines.trans rest, wfr, fun b => ?_, fun b hlow hhigh hex local_ word => ?_⟩
      · have step : memGet (t.writeLine v sync a d p).mem b =
            if h : (a ≤ b ∧ b - a < d.length) ∧ p.1 / 64 = b / 64 then d[b - a]'h.1.2 else memGet t.mem b := by
          rw [mem, memGet_memPutList _ wf]
          by_cases inside : (a ≤ b ∧ b - a < d.length) ∧ p.1 / 64 = b / 64
          · obtain ⟨⟨above, below⟩, here⟩ := inside
            obtain ⟨lo, hi⟩ := whole b above (by omega) here.symm
            rw [dif_pos ⟨lo, by rw [len]; omega⟩, dif_pos ⟨⟨above, below⟩, here⟩, List.getElem_take, List.getElem_drop]
            congr 1
            omega
          · rw [dif_neg inside, dif_neg]
            rintro ⟨lo, hi⟩
            rw [len] at hi
            exact inside (by omega)
        rw [List.foldl_cons, bytes b, step]
        split
        · next h =>
          obtain ⟨inside, q, hq, at_⟩ := h
          rw [dif_pos ⟨inside, q, .tail _ hq, at_⟩]
        · next out =>
          split
          · next h => rw [dif_pos ⟨h.1, p, .head _, h.2⟩]
          · next h =>
            rw [dif_neg]
            rintro ⟨inside, q, hq, at_⟩
            cases hq with
            | head => exact h ⟨inside, at_⟩
            | tail _ hq => exact out ⟨inside, q, hq, at_⟩
      · rw [List.foldl_cons]
        by_cases inner : ∃ q ∈ l, q.1 / 64 = b / 64
        · exact fulls b hlow hhigh inner local_ word
        · obtain ⟨q, hq, at_⟩ := hex
          cases hq with
          | tail _ hq => exact absurd ⟨q, hq, at_⟩ inner
          | head =>
            obtain ⟨lo, hi⟩ := whole b hlow hhigh at_.symm
            rw [← at_, ← line] at local_
            exact rest.full _ (full b local_ lo (by omega) word)
  obtain ⟨same, wft, bytes, full⟩ := fold _ (fun _ h => h) s (.refl s) wf
  refine ⟨same, wft, fun b => ?_, fun b low high => full b low high (exists_linePart low high)⟩
  rw [State.engineWriteAs_eq, bytes b]
  exact dite_congr (propext ⟨fun h => h.1, fun h => ⟨h, exists_linePart h.1 (by omega)⟩⟩) (fun _ => rfl) (fun _ => rfl)

/-- A word of the TCM or the scratchpad, or service SRAM, is written where it is. -/
theorem State.ready_local (home : homeOf a ≠ .dram ∧ homeOf a ≠ .loft) : s.ready a := by
  refine ⟨?_, fun e => absurd e home.1, fun e => absurd e home.2⟩
  unfold State.inSpill
  rw [beq_eq_false_iff_ne.2 home.1, Bool.false_and]

/-- A write of bytes of a core's TCM: each is there, in a full word, and no other byte has changed. -/
theorem State.engineWrite_tcm {c off : Nat} (wf : Memory.wf s.mem = true) (core : c < 4096) (fits : off + d.length ≤ 0x8000) :
    let t := s.engineWrite (tcmHome c off) d
    Memory.wf t.mem = true ∧
    (∀ j, j < d.length → memGet t.mem (tcmHome c off + j) = (d[j]?).getD 0 ∧ t.isFull (wordAt (tcmHome c off + j)) = true) ∧
    ∀ a, (a < tcmHome c off ∨ tcmHome c off + d.length ≤ a) → memGet t.mem a = memGet s.mem a := by
  have place : ∀ x, 0x1_0000_0000_0000 ≤ x → x < 0x1_0000_1000_0000 → homeOf x = .tcm := by
    intro x low high
    unfold homeOf
    rw [if_neg (by omega), if_neg (by omega), if_pos high]
  have base : tcmHome c off = 0x1_0000_0000_0000 + c * 0x8000 + off := rfl
  obtain ⟨-, wft, bytes, full⟩ := State.engineWriteAs_spec (s := s) (a := tcmHome c off) (d := d) (v := ⟨0, 0, none⟩)
    (sync := false) wf fun b low high => State.ready_local (by
      by_cases e : b < 0x1_0000_1000_0000
      · rw [place b (by omega) e]
        exact ⟨by decide, by decide⟩
      · unfold homeOf
        rw [if_neg (by omega), if_neg (by omega), if_neg e, if_pos (by omega)]
        exact ⟨by decide, by decide⟩)
  refine ⟨wft, fun j hj => ⟨?_, ?_⟩, fun a out => ?_⟩
  · refine (bytes _).trans ?_
    rw [dif_pos (by omega)]
    simp [hj]
  · refine full _ (by omega) (by omega) ?_ ?_
    · unfold hasFullBit
      rw [place _ (by omega) (by omega)]
      rfl
    · unfold hasFullBit wordAt
      rw [place _ (by omega) (by omega)]
      rfl
  · exact (bytes a).trans (dif_neg (by omega))

end

end Sys2Proof.Machine
end

section
/-! O55: scope misses hold and lift, messages land once in order, waits wake or expire, and interrupts are taken in their
order (R60, R101 to R103, R113, R178, R183, R186, R286, R299, R380, R472). -/

namespace Sys2Proof.Machine

section
variable {s t : State} {h u n k c j : Nat} {sc : BitVec 3} {α : Type}

/-! ## Tables whose key is given up -/

theorem tget_tdel_ne {l : Table α} (ne : j ≠ k) : tget (tdel l k) j = tget l j := by
  induction l with
  | nil => rfl
  | cons e l ih =>
    obtain ⟨i, x⟩ := e
    unfold tdel
    split
    · next i_k => subst i_k; rw [tget, if_neg (by omega)]
    · rw [tget, tget, ih]

theorem tget_none_iff {l : Table α} : tget l k = none ↔ k ∉ l.map (·.1) := by
  induction l with
  | nil => simp [tget]
  | cons e l ih =>
    obtain ⟨i, x⟩ := e
    rw [tget]
    split
    · next i_k => simp [i_k]
    · next i_k => simp [ih, Ne.symm i_k]

/-- An entry that no second one hides is gone when it is deleted. -/
theorem tget_tdel_same {l : Table α} (nodup : (l.map (·.1)).Nodup) : tget (tdel l k) k = none := by
  induction l with
  | nil => rfl
  | cons e l ih =>
    obtain ⟨i, x⟩ := e
    rw [List.map_cons, List.nodup_cons] at nodup
    rw [tdel]
    split
    · next i_k => exact tget_none_iff.2 (i_k ▸ nodup.1)
    · next i_k => rw [tget, if_neg i_k, ih nodup.2]

/-- An entry that was new is gone when it is deleted. -/
theorem tget_tdel_tput {l : Table α} {x : α} (new : tget l k = none) : tget (tdel (tput l k x) k) k = none := by
  induction l with
  | nil => simp [tput, tdel, tget]
  | cons e l ih =>
    obtain ⟨i, y⟩ := e
    have rest : i ≠ k ∧ tget l k = none := by
      rw [tget] at new
      split at new
      · cases new
      · exact ⟨‹_›, new⟩
    rw [tput]
    split
    · rw [tdel, if_pos rfl]
      exact new
    · rw [if_neg rest.1, tdel, if_neg rest.1, tget, if_neg rest.1, ih rest.2]

/-! ## The hold and its message (R101, R472) -/

/-- The lift of a unit's hold, said once. -/
theorem State.liftHold_some {d : Hold} (hd : tget s.holds u = some d) : s.liftHold u sc =
    { s with tags := match tget s.tags u with
               | some t => if t.writer = d.writer then
                   tput s.tags u { t with scope := if sc.toNat < t.scope.toNat then t.scope else sc, freed := t.freed || d.fill }
                 else s.tags
               | none => s.tags
             holds := tdel s.holds u } := by
  unfold State.liftHold
  rw [hd] <;> rfl

@[simp] theorem State.fenceBySelf_hart {w : Nat} : (s.fenceBySelf w u n).hart j = s.hart j := rfl

/-- The run that a scope-miss message asks for. -/
def scopeMissRun (u : Nat) (sync : Bool) (sc : BitVec 3) : Run :=
  ⟨.scopeMiss u sc, 0, 1, (unitName u sync).1, BitVec.ofNat 64 sc.toNat, (unitName u sync).2⟩

/-- The state with a unit newly held toward its tag's writer. -/
def State.holdNew (s : State) (t : Tag) (h u : Nat) : State :=
  { s with holds := tput s.holds u ⟨t.writer, t.scope, smallestScope t.writer h, false, true, false, none⟩ }

theorem exec_scopeMissHold {g : Tag} (tag : tget s.tags u = some g) (waits : (s.hart h).waitsHeld u = true)
    (out : inScope g.writer g.scope h = false) (free : tget s.holds u = none) :
    exec (.scopeMissHold h u) s = .next ((s.holdNew g h u).sendScopeMiss g.writer u (smallestScope g.writer h)) := by
  have guard : ((s.hart h).waitsHeld u && !inScope g.writer g.scope h) = true := by rw [waits, out]; rfl
  have hold : s.holdAcquire h u = (s.holdNew g h u).sendScopeMiss g.writer u (smallestScope g.writer h) := by
    unfold State.holdAcquire
    rw [tag]
    dsimp only
    rw [free]
    rfl
  show (match tget s.tags u with | some t => Host.Outcome.next _ | none => _) = _
  rw [tag]
  dsimp only
  rw [guard, if_pos rfl, hold]

/-- A message toward a writer that is there: a run in its FIFO, or at its port. -/
theorem State.sendScopeMiss_there {w : Nat} {g : Tag} (there : s.writerGone w = false) (tag : tget s.tags u = some g) :
    s.sendScopeMiss w u sc =
      let s' := s.modHart w fun t =>
        if kindOf w = 0 ∧ t.runs.fifo.length < 16 ∧ t.runs.port = [] then
          { t with runs := { t.runs with fifo := t.runs.fifo ++ [scopeMissRun u g.sync sc] } }
        else { t with runs := { t.runs with port := t.runs.port ++ [scopeMissRun u g.sync sc] } }
      if kindOf w = 0 then s' else s'.fenceBySelf w u (s.hart w).mem.serial := by
  unfold State.sendScopeMiss
  dsimp only
  rw [there, if_neg (by decide), tag]
  rfl

theorem scopeMissHold_spec {g : Tag} (tag : tget s.tags u = some g) (waits : (s.hart h).waitsHeld u = true)
    (out : inScope g.writer g.scope h = false) (free : tget s.holds u = none) :
    let sc := smallestScope g.writer h
    let isRun (r : Run) : Prop := r.kind = .scopeMiss u sc ∧ r.prv = 1 ∧ r.x4 = (unitName u g.sync).1 ∧
      r.x5 = BitVec.ofNat 64 sc.toNat ∧ r.x6 = (unitName u g.sync).2
    (s.writerGone g.writer = false → kindOf g.writer = 0 → (s.hart g.writer).runs.fifo.length < 16 →
      (s.hart g.writer).runs.port = [] → ∃ v r, exec (.scopeMissHold h u) s = .next v ∧
        tget v.holds u = some ⟨g.writer, g.scope, sc, false, true, false, none⟩ ∧ tget v.tags u = some g ∧ isRun r ∧
        (v.hart g.writer).runs.fifo = (s.hart g.writer).runs.fifo ++ [r] ∧ v.mem = s.mem) ∧
    (s.writerGone g.writer = false → (kindOf g.writer ≠ 0 ∨ 16 ≤ (s.hart g.writer).runs.fifo.length) →
      ∃ v r, exec (.scopeMissHold h u) s = .next v ∧ tget v.tags u = some g ∧ isRun r ∧
        tget v.holds u = some ⟨g.writer, g.scope, sc, false, true, false,
          if kindOf g.writer = 0 then none else some (s.hart g.writer).mem.serial⟩ ∧
        (v.hart g.writer).runs.port = (s.hart g.writer).runs.port ++ [r] ∧ v.mem = s.mem) ∧
    (s.writerGone g.writer = true → ∃ v, exec (.scopeMissHold h u) s = .next v ∧ tget v.holds u = none ∧
      tget v.tags u = some { g with scope := if sc.toNat < g.scope.toNat then g.scope else sc } ∧ v.harts = s.harts ∧
      v.mem = s.mem) := by
  have runs := exec_scopeMissHold tag waits out free
  have held : tget (s.holdNew g h u).holds u = some ⟨g.writer, g.scope, smallestScope g.writer h, false, true, false, none⟩ :=
    tget_tput_same _ _ _
  have isRun : ∀ sc, (scopeMissRun u g.sync sc).kind = .scopeMiss u sc ∧ (scopeMissRun u g.sync sc).prv = 1 ∧
      (scopeMissRun u g.sync sc).x4 = (unitName u g.sync).1 ∧ (scopeMissRun u g.sync sc).x5 = BitVec.ofNat 64 sc.toNat ∧
      (scopeMissRun u g.sync sc).x6 = (unitName u g.sync).2 := fun _ => ⟨rfl, rfl, rfl, rfl, rfl⟩
  dsimp only
  refine ⟨fun there core room port => ?_, fun there full => ?_, fun gone => ?_⟩
  · have send := State.sendScopeMiss_there (s := s.holdNew g h u) (sc := smallestScope g.writer h) there tag
    refine ⟨_, scopeMissRun u g.sync (smallestScope g.writer h), runs.trans (congrArg _ (send.trans (if_pos core))), held, tag, isRun _, ?_, rfl⟩
    rw [State.hart_modHart_same]
    exact congrArg (fun x : Hart => x.runs.fifo) (if_pos ⟨core, room, port⟩)
  · have send := State.sendScopeMiss_there (s := s.holdNew g h u) (sc := smallestScope g.writer h) there tag
    have joins : ¬ (kindOf g.writer = 0 ∧ (s.hart g.writer).runs.fifo.length < 16 ∧ (s.hart g.writer).runs.port = []) := by
      omega
    refine ⟨_, scopeMissRun u g.sync (smallestScope g.writer h), runs.trans (congrArg _ send), ?_⟩
    dsimp only
    by_cases core : kindOf g.writer = 0
    · rw [if_pos core, if_pos core]
      refine ⟨tag, isRun _, held, ?_, rfl⟩
      rw [State.hart_modHart_same]
      exact congrArg (fun x : Hart => x.runs.port) (if_neg joins)
    · rw [if_neg core, if_neg core]
      refine ⟨tag, isRun _, ?_, ?_, rfl⟩
      · exact State.tget_fenceBySelf held rfl
      · rw [State.fenceBySelf_hart, State.hart_modHart_same]
        exact congrArg (fun x : Hart => x.runs.port) (if_neg joins)
  · have send : (s.holdNew g h u).sendScopeMiss g.writer u (smallestScope g.writer h) =
        (s.holdNew g h u).liftHold u (smallestScope g.writer h) := if_pos gone
    rw [send, State.liftHold_some held] at runs
    refine ⟨_, runs, tget_tdel_tput free, ?_, rfl, rfl⟩
    show tget (match tget s.tags u with | some t => _ | none => _) u = _
    rw [tag]
    dsimp only
    rw [if_pos rfl, tget_tput_same, Bool.or_false]

/-! ## A scope-miss run starts (R38, R102) -/

theorem scopeMissRunStart_spec {r : Run} (next : s.nextRun c = some r) (kind : r.kind = .scopeMiss u sc) :
    ∃ t, exec (.scopeMissRunStart c) s = .next t ∧ (t.hart c).handler.run = some r ∧
      (t.hart c).handler.pc = targetOf (s.hart c).sys.smvec ∧ ((t.hart c).handler.x[4]?).getD 0 = r.x4 ∧
      ((t.hart c).handler.x[5]?).getD 0 = r.x5 ∧ ((t.hart c).handler.x[6]?).getD 0 = r.x6 ∧
      (t.hart c).main = (s.hart c).main ∧ t.mem = s.mem := by
  have starts : exec (.scopeMissRunStart c) s = .next (s.startRun c r) := by
    show (match s.nextRun c with | some r => _ | none => _) = _
    rw [next]
    dsimp only
    rw [kind]
  have handler : ((s.startRun c r).hart c).handler = { (s.hart c).handler with
      run := some r, pc := targetOf (s.hart c).sys.smvec, image := none, fenced := false
      x := (((s.hart c).handler.x.setIfInBounds 4 r.x4).setIfInBounds 5 r.x5).setIfInBounds 6 r.x6 } := by
    unfold State.startRun
    rw [State.fillFifo_hart (·.handler) (fun _ _ _ => rfl), State.hart_modHart_same, kind]
  have main : ((s.startRun c r).hart c).main = (s.hart c).main := by
    unfold State.startRun
    rw [State.fillFifo_hart (·.main) (fun _ _ _ => rfl), State.hart_modHart_same]
  refine ⟨_, starts, ?_, ?_, ?_, ?_, ?_, main, (State.fillFifo_rest _).1⟩
  · rw [handler]
  · rw [handler]
  · rw [handler]; simp
  · rw [handler]; simp
  · rw [handler]; simp

/-! ## A memory interface serves a message (R472) -/

theorem State.podFence_near (near : sc.toNat < 5) : s.podFence sc = s := if_pos (.inl near)

theorem companionScopeMiss_spec {r : Run} {rest : List Run} {d : Hold} (hk : kindOf h ≠ 0)
    (port : (s.hart h).runs.port = r :: rest) (kind : r.kind = .scopeMiss u sc) (near : sc.toNat < 5) (dnear : d.scope.toNat < 5)
    (hd : tget s.holds u = some d) :
    (d.writer ≠ h → ∃ t, exec (.companionScopeMiss h) s = .next t ∧ (t.hart h).runs.port = rest ∧ t.holds = s.holds) ∧
    (d.writer = h → d.auto = some n → s.performedBelow h n = true → ∃ t, exec (.companionScopeMiss h) s = .next t ∧
      (t.hart h).runs.port = rest ∧ tget t.holds u = some { d with lifted := true } ∧ t.mem = s.mem) ∧
    (d.writer = h → d.auto = some n → s.performedBelow h n = false → exec (.companionScopeMiss h) s = .next s) := by
  obtain ⟨k, e, p, x4, x5, x6⟩ := r
  dsimp only at kind
  subst kind
  have step : exec (.companionScopeMiss h) s = .next (
      if d.writer ≠ h then s.modHart h fun t => { t with runs := { t.runs with port := rest } }
      else if s.fenceMade d then { s.modHart h fun t => { t with runs := { t.runs with port := rest } } with
        holds := tput s.holds u { d with lifted := true } } else s) := by
    refine (if_neg hk).trans ?_
    rw [port]
    dsimp only
    rw [State.podFence_near near, hd]
  have made : d.writer = h → d.auto = some n → s.fenceMade d = s.performedBelow h n := by
    rintro rfl auto
    unfold State.fenceMade
    rw [auto]
    simp [dnear]
  refine ⟨fun ne => ⟨_, step.trans (congrArg _ (if_pos ne)), ?_, rfl⟩, fun own auto done => ?_, fun own auto todo => ?_⟩
  · rw [State.hart_modHart_same]
  · rw [if_neg (by simp [own]), made own auto, done, if_pos rfl] at step
    exact ⟨_, step, congrArg (fun x : Hart => x.runs.port)
      (State.hart_modHart_same s h fun t => { t with runs := { t.runs with port := rest } }), tget_tput_same _ _ _, rfl⟩
  · rw [if_neg (by simp [own]), made own auto, todo, if_neg (by decide)] at step
    exact step

/-! ## The lift reaches the home (R102, R103) -/

theorem scopeMissLift_spec {d : Hold} (hd : tget s.holds u = some d) (nodup : (s.holds.map (·.1)).Nodup)
    (near : d.scope.toNat < 5) :
    let lifts : Prop := ∃ v, exec (.scopeMissLift u) s = .next v ∧ tget v.holds u = none ∧ v.mem = s.mem ∧
      (tget s.tags u = none → v.tags = s.tags) ∧ ∀ t, tget s.tags u = some t → tget v.tags u = some (if t.writer = d.writer then
        { t with scope := if d.scope.toNat < t.scope.toNat then t.scope else d.scope, freed := t.freed || d.fill } else t)
    (d.lifted = true → lifts) ∧ (d.lifted = false → d.auto = none → exec (.scopeMissLift u) s = .next s) ∧
    (∀ n, d.lifted = false → d.auto = some n → kindOf d.writer = 0 → (s.performedBelow d.writer n = true → lifts) ∧
      (s.performedBelow d.writer n = false → exec (.scopeMissLift u) s = .next s)) := by
  have step : exec (.scopeMissLift u) s = .next (if d.lifted ∨ ((kindOf d.writer == 0 && d.auto.isSome) ∧ s.fenceMade d) then
      s.liftHold u d.scope else s) := by
    show (match tget s.holds u with | some hd => Host.Outcome.next _ | none => _) = _
    rw [hd]
    dsimp only
    rw [State.podFence_near near, ite_self]
  have lift : ∃ v, s.liftHold u d.scope = v ∧ tget v.holds u = none ∧ v.mem = s.mem ∧
      (tget s.tags u = none → v.tags = s.tags) ∧ ∀ t, tget s.tags u = some t → tget v.tags u = some (if t.writer = d.writer then
        { t with scope := if d.scope.toNat < t.scope.toNat then t.scope else d.scope, freed := t.freed || d.fill } else t) := by
    refine ⟨_, State.liftHold_some hd, tget_tdel_same nodup, rfl, fun none => ?_, fun t tag => ?_⟩
    · dsimp only
      rw [none]
    · dsimp only
      rw [tag]
      dsimp only
      split
      · exact tget_tput_same _ _ _
      · exact tag
  obtain ⟨v, ev, rest⟩ := lift
  rw [ev] at step
  intro lifts
  have goes : (d.lifted ∨ ((kindOf d.writer == 0 && d.auto.isSome) ∧ s.fenceMade d)) → lifts := fun guard =>
    ⟨v, step.trans (congrArg _ (if_pos guard)), rest⟩
  refine ⟨fun yes => goes (.inl yes), fun no auto => ?_, fun n no auto core => ⟨fun done => goes (.inr ?_), fun todo => ?_⟩⟩
  · rw [if_neg (by simp [no, auto])] at step
    exact step
  · refine ⟨by simp [core, auto], ?_⟩
    unfold State.fenceMade
    rw [auto]
    simp [done, near]
  · have made : s.fenceMade d = false := by
      unfold State.fenceMade
      rw [auto]
      simp [todo]
    rw [if_neg (by simp [no, made])] at step
    exact step

/-! ## The fabric repeats a request (R113) -/

theorem linkReplay_spec (h : Nat) : ∃ t, exec (.linkReplay h) s = .next t ∧ t.board.replays = s.board.replays + 1 ∧
    t.mem = s.mem ∧ t.harts = s.harts ∧ ∀ r, (s.hart h).mem.regLast = some r → (t.die (homeDie r.op.place.1)).registrar =
      (s.die (homeDie r.op.place.1)).registrar ++ [r] := by
  have step : exec (.linkReplay h) s = match (s.hart h).mem.regLast with
      | some r => .next ({ s with board := { s.board with replays := s.board.replays + 1 } }.modDie (homeDie r.op.place.1)
          fun d => { d with registrar := d.registrar ++ [r] })
      | none => .next { s with board := { s.board with replays := s.board.replays + 1 } } := rfl
  cases last : (s.hart h).mem.regLast with
  | none =>
    rw [last] at step
    exact ⟨_, step, rfl, rfl, rfl, fun r hr => by cases hr⟩
  | some r =>
    rw [last] at step
    refine ⟨_, step, rfl, rfl, rfl, fun q hq => ?_⟩
    cases hq
    rw [State.die_modDie_same]
    rfl

/-! ## A message lands (R60, R68, R191) -/

/-- A message whose sender's earlier ones to the same target are gone is delivered, or discarded at a fenced core. -/
theorem exec_messageDelivery {src core slot serial : Nat} {data : List Byte} {mc : BitVec 3}
    (packet : s.net[k]? = some (.msg src core slot data mc serial))
    (first_ : ∀ p ∈ s.net.take k, ∀ a b c d, p ≠ .msg src core a b c d) :
    exec (.messageDelivery k) s =
      if s.fencedCore core then .next { s with net := dropAt s.net k }
      else match s.partyWaits src [⟨tcmHome core (256 * slot), data.length, tcmHome core (256 * slot), false⟩] with
        | (true, s) => .next s
        | (false, s) => .next (({ s with net := dropAt s.net k }.engineWrite (tcmHome core (256 * slot)) data).bumpCounter core mc) := by
  have earlier : (s.net.take k).any (fun p => match p with
      | .msg a b _ _ _ _ => a == src && b == core
      | _ => false) = false := by
    rw [List.any_eq_false]
    intro p hp
    have ne := first_ p hp
    split
    · simp only [Bool.and_eq_true, beq_iff_eq, not_and]
      rintro rfl rfl
      exact ne _ _ _ _ rfl
    · exact Bool.false_ne_true
  show (match s.net[k]? with | some (.msg _ _ _ _ _ _) => _ | _ => _) = _
  rw [packet]
  exact if_neg (Bool.not_eq_true _ ▸ earlier)

/-- The counter that an increment reaches. -/
theorem State.mc_bumpCounter (n : BitVec 3) : (((s.bumpCounter c n).hart c).mc[n.toNat]?).getD 0 =
    (((s.hart c).mc[n.toNat]?).getD 0) + 1 := by
  have own : ((s.bumpCounter c n).hart c).mc = (s.hart c).mc.setIfInBounds n.toNat ((((s.hart c).mc[n.toNat]?).getD 0) + 1) := by
    unfold State.bumpCounter
    dsimp only
    split
    · rw [State.hart_modHart_ne _ _ _ _ (by omega), State.hart_modHart_ne _ _ _ _ (by omega), State.hart_modHart_same]
    · rw [State.hart_modHart_same]
  rw [own]
  simp [n.isLt]

theorem messageDelivery_spec {src core slot serial : Nat} {data : List Byte} {mc : BitVec 3} (wf : Memory.wf s.mem = true)
    (packet : s.net[k]? = some (.msg src core slot data mc serial)) (hc : core < 4096) (fits : 256 * slot + data.length ≤ 0x8000)
    (first_ : ∀ p ∈ s.net.take k, ∀ a b c d, p ≠ .msg src core a b c d) :
    (s.fencedCore core = false →
      s.partyWaits src [⟨tcmHome core (256 * slot), data.length, tcmHome core (256 * slot), false⟩] = (false, s) →
      ∃ t, exec (.messageDelivery k) s = .next t ∧ t.net = dropAt s.net k ∧
      (∀ j, j < data.length → memGet t.mem (tcmHome core (256 * slot) + j) = (data[j]?).getD 0 ∧
        t.isFull (wordAt (tcmHome core (256 * slot) + j)) = true) ∧
      (∀ a, (a < tcmHome core (256 * slot) ∨ tcmHome core (256 * slot) + data.length ≤ a) → memGet t.mem a = memGet s.mem a) ∧
      ((t.hart core).mc[mc.toNat]?).getD 0 = ((s.hart core).mc[mc.toNat]?).getD 0 + 1) ∧
    (s.fencedCore core = true → exec (.messageDelivery k) s = .next { s with net := dropAt s.net k }) := by
  have step := exec_messageDelivery packet first_
  refine ⟨fun open_ free => ?_, fun fenced => by rw [step, if_pos fenced]⟩
  rw [if_neg (by simp [open_]), free] at step
  obtain ⟨-, bytes, others⟩ := State.engineWrite_tcm (s := { s with net := dropAt s.net k }) wf hc fits
  have calm := State.Calm.engineWrite (a := tcmHome core (256 * slot)) (d := data) (.refl { s with net := dropAt s.net k })
  obtain ⟨harts, bump⟩ := State.bumpCounter_eq (s := { s with net := dropAt s.net k }.engineWrite (tcmHome core (256 * slot)) data)
    (h := core) mc
  refine ⟨_, step, ?_, ?_, ?_, ?_⟩
  · rw [bump]
    exact calm.net
  · rw [bump]
    exact bytes
  · rw [bump]
    exact others
  · rw [State.mc_bumpCounter, calm.part core (·.mc) fun _ => by rfl]
    rfl

/-! ## Parked contexts and their limits (R286, R299, R380) -/

theorem parkWake_spec {hd : Bool} (parked : (s.parkOf h hd).isSome = true) :
    exec (.parkWake h hd) s = .next { s with cur := h, ctx := if hd then .handler else .main } :=
  congrArg Host.Outcome.next (if_pos parked)

/-- A wait whose limit has passed brings its context to its head, and one whose limit has not does not. -/
theorem State.expire_spec {hd : Bool} {p : Park} (parked : s.parkOf h hd = some p) :
    (s.parkOver p = true → s.expire h hd p.why = { s with cur := h, ctx := if hd then .handler else .main }) ∧
    (s.parkOver p = false → s.expire h hd p.why = s) := by
  unfold State.expire
  rw [parked]
  exact ⟨fun ended => if_pos ⟨rfl, ended⟩, fun waits => if_neg (by simp [waits])⟩

theorem expires_spec {i : Nat → Bool → Instr} {why : Why} (step : ∀ s h hd, exec (i h hd) s = .next (s.expire h hd why))
    {hd : Bool} {p : Park} (parked : s.parkOf h hd = some p) (waits : p.why = why) :
    (s.parkOver p = true → exec (i h hd) s = .next { s with cur := h, ctx := if hd then .handler else .main }) ∧
    (s.parkOver p = false → exec (i h hd) s = .next s) := by
  subst waits
  obtain ⟨ended, early⟩ := State.expire_spec parked
  exact ⟨fun x => (step s h hd).trans (congrArg _ (ended x)), fun x => (step s h hd).trans (congrArg _ (early x))⟩

/-! ## Interrupts at a head boundary (R178, R183) -/

/-- What of a hart a wait that is left behind changes nothing of. -/
theorem State.abandonWait_part (f : Hart → α) (hf : ∀ h p g, f { h with park := p, gang := g } = f h) :
    f ((s.abandonWait h).hart j) = f (s.hart j) := by
  have waits : ∀ u : State, f ((u.modHart h fun t => { t with park := none, gang := { t.gang with bind := none, unbind := none, command := none } }).hart j) =
      f (u.hart j) := fun u => State.part_modHart f (fun x => hf x _ _) j
  unfold State.abandonWait
  dsimp only
  split
  · exact waits _
  · exact waits _

theorem State.abandonWait_mem : (s.abandonWait h).mem = s.mem := by
  unfold State.abandonWait
  dsimp only
  split <;> rfl

/-- A trap that has a level and a vector to go to. -/
theorem State.trapMain_taken {cause epc tval : Word} {level : Nat} (at_ : trapLevel (kindOf h) (s.hart h).traps.status = some level)
    (vector : headIndex ((s.hart h).traps.vector level) ≠ 0) :
    ((s.trapMain h cause epc tval).hart h).traps = (s.hart h).traps.take level cause epc tval ∧
    ((s.trapMain h cause epc tval).hart h).main = { (s.hart h).main with
      pc := targetOf ((s.hart h).traps.vector level), image := none } ∧
    ((s.trapMain h cause epc tval).hart h).park = none ∧ (s.trapMain h cause epc tval).mem = s.mem := by
  have traps : ((s.unbindGang h true).hart h).traps = (s.hart h).traps := State.unbindGang_part (·.traps) (fun _ _ _ => rfl) true
  have main : ((s.unbindGang h true).hart h).main = (s.hart h).main := State.unbindGang_part (·.main) (fun _ _ _ => rfl) true
  have taken : s.trapMain h cause epc tval = (s.unbindGang h true).modHart h fun hh =>
      { hh with traps := (s.hart h).traps.take level cause epc tval, park := none, answer := none, theft := none
                main := { hh.main with pc := targetOf ((s.hart h).traps.vector level), image := none } } := by
    unfold State.trapMain
    dsimp only
    rw [traps, at_]
    dsimp only
    rw [if_neg vector]
  rw [taken, State.hart_modHart_same, main]
  exact ⟨rfl, rfl, rfl, State.unbindGang_mem true⟩

/-- A level that a trap goes to is supervisor or machine. -/
theorem trapLevel_range {kind level : Nat} {status : Word} (h : trapLevel kind status = some level) : level = 1 ∨ level = 2 := by
  unfold trapLevel at h
  split at h
  · split at h <;> cases h
    · exact .inr rfl
    · exact .inl rfl
  · split at h <;> cases h
    · exact .inr rfl
    · exact .inl rfl
  · split at h <;> cases h
    exact .inr rfl

/-- The saved registers and the privilege of the level at which a trap is taken. -/
theorem TrapState.take_copy {x : TrapState} {level : Nat} {cause epc tval : Word} (range : level = 1 ∨ level = 2) :
    (x.take level cause epc tval).copy level = ⟨cause, epc, tval, x.vector level⟩ ∧
    bits (x.take level cause epc tval).status 1 0 = level := by
  unfold TrapState.take TrapState.copy TrapState.vector
  dsimp only
  rcases range with rfl | rfl
  · rw [if_pos rfl, if_pos rfl]
    exact ⟨rfl, bits_setBits_same (by decide) (by decide)⟩
  · rw [if_neg (by decide), if_neg (by decide)]
    exact ⟨rfl, bits_setBits_same (by decide) (by decide)⟩

/-- An interrupt that a hart's main context takes, at a level that has a vector. -/
theorem State.takeInterrupt_spec {cause tval : Word} {pend : Pending} {level : Nat} (hk : kindOf h = 0 ∨ kindOf h = 3)
    (for_ : s.interruptFor h = some (cause, tval, pend)) (at_ : trapLevel (kindOf h) (s.hart h).traps.status = some level)
    (vector : headIndex ((s.hart h).traps.vector level) ≠ 0) :
    ((s.takeInterrupt h).hart h).traps = { (s.hart h).traps with pend := pend }.take level cause (s.hart h).main.pc tval ∧
    ((s.takeInterrupt h).hart h).main = { (s.hart h).main with
      pc := targetOf ((s.hart h).traps.vector level), image := none } ∧
    ((s.takeInterrupt h).hart h).park = none ∧ (s.takeInterrupt h).mem = s.mem := by
  let u := (s.abandonWait h).modHart h fun t => { t with traps := { t.traps with pend := pend } }
  have traps : (u.hart h).traps = { (s.hart h).traps with pend := pend } := by
    rw [State.hart_modHart_same, State.abandonWait_part (·.traps) fun _ _ _ => rfl]
  have main : (u.hart h).main = (s.hart h).main := by
    rw [State.hart_modHart_same, State.abandonWait_part (·.main) fun _ _ _ => rfl]
  obtain ⟨taken, goes, awake, mem⟩ := State.trapMain_taken (s := u) (cause := cause) (epc := (s.hart h).main.pc) (tval := tval)
    (level := level) (by rw [traps]; exact at_) (by rw [traps]; exact vector)
  rw [traps] at taken
  rw [main, traps] at goes
  have whole : (u.trapMain h cause (s.hart h).main.pc tval).mem = s.mem := mem.trans State.abandonWait_mem
  have step : s.takeInterrupt h = if cause = interruptCause 0x04 0 then
      (u.trapMain h cause (s.hart h).main.pc tval).modHart h fun t =>
        { t with runs := { t.runs with blocked := trapLevel (kindOf h) (u.hart h).traps.status } }
      else u.trapMain h cause (s.hart h).main.pc tval := by
    unfold State.takeInterrupt
    rw [for_]
    dsimp only
    rw [if_neg (by omega), ← main]
  rw [step]
  split
  · rw [State.hart_modHart_same]
    exact ⟨taken, goes, awake, whole⟩
  · exact ⟨taken, goes, awake, whole⟩

/-- What a pending state gives at a head boundary, by the order of R183. -/
theorem Pending.top_spec {p : Pending} {en : Bool} {cause tval : Word}
    (h : (∃ sub v, p.machineCheck = some (sub, v) ∧ cause = BitVec.ofNat 64 (2 ^ 63 + sub.toNat * 256 + 1) ∧ tval = v) ∨
      (p.machineCheck = none ∧ en = true ∧ p.taskLimit = some tval ∧ cause = BitVec.ofNat 64 (2 ^ 63 + 2)) ∨
      (p.machineCheck = none ∧ en = true ∧ p.taskLimit = none ∧ p.service = some tval ∧ cause = BitVec.ofNat 64 (2 ^ 63 + 3)) ∨
      (p.machineCheck = none ∧ en = true ∧ p.taskLimit = none ∧ p.service = none ∧ p.handlerFault = some tval ∧
        cause = BitVec.ofNat 64 (2 ^ 63 + 4)) ∨
      (p.machineCheck = none ∧ en = true ∧ p.taskLimit = none ∧ p.service = none ∧ p.handlerFault = none ∧
        p.companion.head? = some tval ∧ cause = BitVec.ofNat 64 (2 ^ 63 + 5))) : ∃ q, p.top en = some (cause, tval, q) := by
  unfold Pending.top
  rcases h with ⟨sub, v, check, rfl, rfl⟩ | ⟨check, rfl, limit, rfl⟩ | ⟨check, rfl, limit, service, rfl⟩ |
    ⟨check, rfl, limit, service, fault, rfl⟩ | ⟨check, rfl, limit, service, fault, companion, rfl⟩
  · rw [check]
    exact ⟨_, rfl⟩
  · rw [check, limit]
    exact ⟨_, rfl⟩
  · rw [check, limit, service]
    exact ⟨_, rfl⟩
  · rw [check, limit, service, fault]
    exact ⟨_, rfl⟩
  · obtain ⟨rest, list⟩ := List.head?_eq_some_iff.1 companion
    rw [check, limit, service, fault, list]
    exact ⟨_, rfl⟩

theorem State.interruptFor_eq (free : s.committed h = false) (awake : s.asleep h = false) (owes : s.owesLift h = false) :
    s.interruptFor h = (s.hart h).traps.pend.top (interruptsEnabled (s.hart h).traps.status) := by
  unfold State.interruptFor
  dsimp only
  rw [free, awake, owes, if_neg (by decide), Bool.false_and, if_neg (by decide)]

/-- With nothing pending there is no interrupt. -/
theorem State.interruptFor_none (calm : (s.hart h).traps.pend = .reset) : s.interruptFor h = none := by
  have none_ : ∀ en, Pending.top .reset en = none := fun en => by cases en <;> rfl
  unfold State.interruptFor
  dsimp only
  rw [calm, none_]
  simp [Pending.reset]

theorem interruptTaken_none (run : s.canRun h = true) (calm : (s.hart h).traps.pend = .reset) :
    exec (.interruptTaken h) s = .next s := by
  refine congrArg Host.Outcome.next ((if_pos run).trans ?_)
  unfold State.takeInterrupt
  rw [State.interruptFor_none calm]

/-! ## A completion event goes to its handler (R186) -/

theorem setBit_low {v : Word} : setBit v 0 true = v ||| 1 := by
  refine BitVec.eq_of_getLsbD_eq fun i hi => ?_
  have b := bit_setBit (v := v) (lo := 0) (k := i) (by decide) (b := true)
  unfold bit at b
  rw [b, BitVec.getLsbD_or]
  by_cases e : i = 0
  · subst e
    simp
  · rw [if_neg e]
    simp [BitVec.getLsbD_one, e]

theorem userCompletionInterrupt_spec {e : UserEvent} {r : List UserEvent} (run : s.canRun c = true) (hk : kindOf c = 0)
    (user : bits (s.hart c).traps.status 1 0 = 0) (on : bit (s.hart c).traps.status 5 = true)
    (open_ : bit (s.hart c).sys.uhandler 0 = false) (calm : (s.hart c).traps.pend = .reset) (free : s.committed c = false)
    (awake : s.asleep c = false) (events : (s.hart c).copy.events = e :: r) :
    ∃ t, exec (.userCompletionInterrupt c) s = .next t ∧ (t.hart c).sys.uhandler = (s.hart c).main.pc ||| 1 ∧
      (t.hart c).sys.xfer = e.xid.setWidth 64 ∧ (t.hart c).copy.events = r ∧ (t.hart c).main.pc = targetOf e.handler ∧
      (t.hart c).main.x = (s.hart c).main.x ∧ (t.hart c).traps = (s.hart c).traps ∧ t.mem = s.mem := by
  have for_ : s.userEventFor c = some e := by
    unfold State.userEventFor
    dsimp only
    rw [State.interruptFor_none calm, if_pos ⟨hk, user, on, open_, rfl, free, awake⟩, events]
    rfl
  have step : exec (.userCompletionInterrupt c) s = .next ((s.abandonWait c).modHart c fun t =>
      { t with sys := { t.sys with uhandler := setBit t.main.pc 0 true, xfer := e.xid.setWidth 64 }
               copy := { t.copy with events := t.copy.events.drop 1 }
               main := { t.main with pc := targetOf e.handler, image := none } }) := by
    refine congrArg Host.Outcome.next ((if_pos run).trans ?_)
    unfold State.takeUserEvent
    rw [for_]
  have main : ((s.abandonWait c).hart c).main = (s.hart c).main := State.abandonWait_part (·.main) fun _ _ _ => rfl
  have copy : ((s.abandonWait c).hart c).copy = (s.hart c).copy := State.abandonWait_part (·.copy) fun _ _ _ => rfl
  have traps : ((s.abandonWait c).hart c).traps = (s.hart c).traps := State.abandonWait_part (·.traps) fun _ _ _ => rfl
  refine ⟨_, step, ?_⟩
  rw [State.hart_modHart_same]
  dsimp only
  rw [main, copy, traps, setBit_low, events]
  exact ⟨rfl, rfl, rfl, rfl, rfl, rfl, State.abandonWait_mem⟩

theorem serviceInterrupt_spec {code : Word} (he : hartExists h = true) : ∃ t, exec (.serviceInterrupt h code) s = .next t ∧
    (t.hart h).traps.pend = { (s.hart h).traps.pend with service := some code } ∧ (t.hart h).main = (s.hart h).main ∧
    (∀ j, j ≠ h → t.hart j = s.hart j) ∧ t.mem = s.mem := by
  refine ⟨_, congrArg Host.Outcome.next (if_pos he), ?_, ?_, fun j ne => State.hart_modHart_ne _ _ _ _ ne, rfl⟩
  · rw [State.hart_modHart_same]
  · rw [State.hart_modHart_same]

end

/-- Settles O55: each step of a scope miss, a message, a wake, a limit and an interrupt, from what it says once of the
holds, the network and the trap registers. -/
theorem scopeMissesMessagesAndWakes : Obligations.ScopeMissesMessagesAndWakes := by
  unfold Obligations.ScopeMissesMessagesAndWakes
  intro turnsTo expires
  have limit : ∀ (i : Nat → Bool → Instr) why, (∀ s h hd, exec (i h hd) s = .next (s.expire h hd why)) → expires i why :=
    fun i why step s h hd p parked waits => expires_spec step parked waits
  refine ⟨fun s h u g tag waits out free => scopeMissHold_spec tag waits out free,
    fun s c r u sc next kind => scopeMissRunStart_spec next kind,
    fun s h u n sc r rest d hk port kind near dnear hd => companionScopeMiss_spec hk port kind near dnear hd,
    fun s u d hd nodup near => scopeMissLift_spec hd nodup near, fun s h => linkReplay_spec h,
    fun s k src core slot serial data mc wf packet hc fits first_ => messageDelivery_spec wf packet hc fits first_,
    fun s h hd => parkWake_spec, limit _ _ fun _ _ _ => rfl, limit _ _ fun _ _ _ => rfl, limit _ _ fun _ _ _ => rfl,
    fun s c p parked waits => ?_, fun s h level cause tval hk run free awake owes at_ vector => ?_,
    fun s h run calm => interruptTaken_none run calm,
    fun s c e r run hk user on open_ calm free awake events =>
      userCompletionInterrupt_spec run hk user on open_ calm free awake events,
    fun s h code he => serviceInterrupt_spec he⟩
  · obtain ⟨ended, early⟩ := State.expire_spec parked
    rw [waits] at ended early
    exact ⟨fun x => congrArg Host.Outcome.next (ended x), fun x => congrArg Host.Outcome.next (early x)⟩
  · intro p en pending
    obtain ⟨pend, top⟩ := Pending.top_spec pending
    obtain ⟨traps, main, parked, mem⟩ := State.takeInterrupt_spec hk
      ((State.interruptFor_eq free awake owes).trans top) at_ vector
    obtain ⟨saved, level_⟩ := TrapState.take_copy (x := { (s.hart h).traps with pend := pend }) (cause := cause)
      (epc := (s.hart h).main.pc) (tval := tval) (trapLevel_range at_)
    refine ⟨_, congrArg Host.Outcome.next (if_pos run), ?_, ?_, ?_, ?_, parked, mem⟩
    · rw [traps, saved]
      rfl
    · rw [traps, level_]
    · rw [main]
    · rw [main]

end Sys2Proof.Machine
end

section
/-! O57, the messages of the task system: an enqueue decided at its arrival, its reply, and a launch (R154 to R161, R172,
R173, R192, R292, R295, R455). -/

namespace Sys2Proof.Machine

section
variable {s t : State} {a n k q : Nat} {d : List Byte} {r : TaskRecord} {α : Type}

/-! ## Writes as bytes from an address on -/

theorem State.engineWriteAs_mem {v : Via} {sync : Bool} (wf : Memory.wf s.mem = true)
    (ready : ∀ b, a ≤ b → b ≤ a ∨ b < a + d.length → s.ready b) (b : Nat) :
    memGet (s.engineWriteAs v sync a d).mem b = memGet (memPutList s.mem a d) b := by
  obtain ⟨-, -, bytes, -⟩ := State.engineWriteAs_spec (v := v) (sync := sync) wf ready
  rw [memGet_memPutList _ wf]
  exact bytes b

/-- A write of DRAM is an engine's write there. -/
theorem State.dramWrite_eq (dram : a + d.length ≤ 0x40_0000_0000) (some_ : d ≠ []) :
    s.dramWrite a d = s.engineWriteAs ⟨0, 0, none⟩ false a d := by
  have pos := List.length_pos_of_ne_nil some_
  have part : ∀ (l : List (Nat × Nat)), (∀ p ∈ l, p ∈ linePartsOf a d.length) → ∀ u : State,
      l.foldl (fun s q => if s.inSpill q.1 then s else
        (((s.applyLine q.1).touchL2 q.1 0 true).putBytes q.1 ((d.drop (q.1 - a)).take q.2)).clearTags q.1 q.2) u =
      l.foldl (fun s q => s.writeLine ⟨0, 0, none⟩ false a d q) u := by
    intro l
    induction l with
    | nil => exact fun _ _ => rfl
    | cons p l ih =>
      intro all u
      obtain ⟨low, -, -, place, -⟩ := mem_linePartsOf (all p (.head _))
      have home : homeOf p.1 = .dram := if_pos (by omega)
      have here : ∀ w : State, w.touch p.1 0 true none = w.touchL2 p.1 0 true := fun w => by
        unfold State.touch
        rw [home]
      rw [List.foldl_cons, List.foldl_cons, ih fun q hq => all q (.tail _ hq)]
      congr 1
      unfold State.writeLine
      rw [if_neg (by decide : ¬ (false = true)), here]
  exact part _ (fun _ h => h) s

theorem recordBytes_length : (recordBytes r).length = 32 := by
  simp [recordBytes, bytesOf_length]

/-! ## The places of the overflow area (R157) -/

/-- Some number up to a list's length is not in it. -/
theorem exists_notMem_range (l : List Nat) : ∃ i ∈ List.range (l.length + 1), i ∉ l := by
  by_contra none_
  push Not at none_
  have le := (List.nodup_range.subperm none_).length_le
  rw [List.length_range] at le
  omega

/-- The lowest free place is free, and no lower one is. -/
theorem Dispatcher.freePlace_spec (d : Dispatcher) (q : Nat) :
    (∀ x ∈ d.tasks, x.queue = q → x.overflow ≠ some (d.freePlace q)) ∧
    ∀ i, i < d.freePlace q → ∃ x ∈ d.tasks, x.queue = q ∧ x.overflow = some i := by
  have used : ∀ i, i ∈ d.tasks.filterMap (fun t => if t.queue = q then t.overflow else none) ↔
      ∃ x ∈ d.tasks, x.queue = q ∧ x.overflow = some i := by
    intro i
    rw [List.mem_filterMap]
    refine exists_congr fun x => and_congr_right fun _ => ?_
    split
    · next h => simp [h]
    · next h => simp [h]
  unfold Dispatcher.freePlace
  dsimp only
  generalize d.tasks.filterMap (fun t => if t.queue = q then t.overflow else none) = l at used
  obtain ⟨i, hi, free⟩ := exists_notMem_range l
  cases found : (List.range (l.length + 1)).find? (fun i => !l.contains i) with
  | none => exact absurd (List.find?_eq_none.1 found i hi) (by simpa using free)
  | some j =>
    obtain ⟨open_, -, taken⟩ := List.find?_range_eq_some.1 found
    rw [Option.getD_some]
    refine ⟨fun x hx hq e => ?_, fun i lt => (used i).1 (by simpa using taken i lt)⟩
    have mem := (used j).2 ⟨x, hx, hq, e⟩
    simp [mem] at open_

/-- A queue has no room when SRAM and its area are full. -/
theorem Dispatcher.room_none {d : Dispatcher} {tq : TaskQueue} (hq : d.queue q = some tq) : d.room q = none ↔
    1024 ≤ d.sram ∧ ∀ i, i < tq.ovSize / 32 → ∃ t ∈ d.tasks, t.queue = q ∧ t.overflow = some i := by
  obtain ⟨free, below⟩ := d.freePlace_spec q
  have area : tq.ovSize / 32 ≤ d.freePlace q ↔ ∀ i, i < tq.ovSize / 32 → ∃ t ∈ d.tasks, t.queue = q ∧ t.overflow = some i := by
    refine ⟨fun le i lt => below i (by omega), fun all => ?_⟩
    by_contra small
    obtain ⟨x, hx, at_, place⟩ := all (d.freePlace q) (by omega)
    exact free x hx at_ place
  rw [← area]
  unfold Dispatcher.room
  rw [hq]
  dsimp only
  split
  · next h => simp only [reduceCtorEq, false_iff]; omega
  · split
    · next h => simp only [reduceCtorEq, false_iff]; omega
    · split
      · next h => simp only [reduceCtorEq, false_iff]; omega
      · next h => simp only [true_iff]; omega

/-- Where a queue with room takes the next record. -/
theorem Dispatcher.room_some {d : Dispatcher} {tq : TaskQueue} {place : Option Nat} (hq : d.queue q = some tq)
    (room : d.room q = some place) : (tq.live = true → d.sram < 1024 → place = none) ∧
    ∀ i, place = some i → ∀ y ∈ d.tasks, y.queue = q → y.overflow ≠ some i := by
  unfold Dispatcher.room at room
  rw [hq] at room
  dsimp only at room
  split at room
  · cases room
    exact ⟨fun _ _ => rfl, fun i h => by cases h⟩
  · next full =>
    split at room
    · cases room
      refine ⟨fun live few => absurd ⟨live, few⟩ full, fun i h => ?_⟩
      cases h
      exact (d.freePlace_spec q).1
    · split at room
      · cases room
        exact ⟨fun _ _ => rfl, fun i h => by cases h⟩
      · cases room

/-! ## A record that a queue takes (R157, R160) -/

/-- A record in SRAM writes no memory, and one in the area is written at its place. -/
theorem State.holdTask_bytes {x : Task} {place : Option Nat} {tq : TaskQueue} (hq : (s.cluster k).disp.queue q = some tq) :
    (place = none → (s.holdTask k q x place).mem = s.mem) ∧
    ∀ i, place = some i → tq.ovAddr.toNat + 32 * i + 32 ≤ 2 ^ 38 → Memory.wf s.mem = true → (∀ e, (s.die e).gutter = []) →
      (∀ a, s.inSpill a = false) → ∀ b, memGet (s.holdTask k q x place).mem b =
        memGet (memPutList s.mem (tq.ovAddr.toNat + 32 * i) (recordBytes x.record)) b := by
  refine ⟨?_, ?_⟩
  · rintro rfl
    rfl
  · rintro i rfl fits wf idle dry b
    have written : (s.holdTask k q x (some i)).mem = (s.dramWrite (tq.ovAddr.toNat + 32 * i) (recordBytes x.record)).mem := by
      unfold State.holdTask
      dsimp only
      rw [hq]
      dsimp only
      rw [if_pos (by omega)]
      rfl
    rw [written, State.dramWrite_eq (by rw [recordBytes_length]; omega) (by
      intro e
      have len := recordBytes_length (r := x.record)
      rw [e] at len
      cases len)]
    refine State.engineWriteAs_mem wf (fun c low high => ⟨dry c, fun _ => idle _, fun e => ?_⟩) b
    rw [recordBytes_length] at high
    rw [show homeOf c = .dram from if_pos (by omega)] at e
    cases e

/-! ## An enqueue at its arrival (R160, R192, R292) -/

theorem State.redirected_congr (h : t.dies = s.dies) (die n : Nat) (p : Nat × Nat) :
    t.redirected die n p = s.redirected die n p := by
  have same : ∀ e, t.die e = s.die e := fun e => by unfold State.die; rw [h]
  induction n generalizing p with
  | zero => rfl
  | succ n ih =>
    unfold State.redirected
    rw [same]
    split
    · exact ih _
    · rfl

theorem State.queuePlace_net {net : List Packet} (k q : Nat) : ({ s with net := net } : State).queuePlace k q = s.queuePlace k q :=
  State.redirected_congr rfl _ _ _

/-- The place that a queue handle names. -/
def State.handlePlace (s : State) (h : Word) : Nat × Nat := s.queuePlace (bits h 31 30 * 64 + bits h 29 24) (bits h 23 16)

theorem exec_enqArrival {src st : Nat} {h : Word} {mc : BitVec 3} (packet : s.net[k]? = some (.enq src h r st mc)) :
    let o := ({ s with net := dropAt s.net k } : State).enqueue h r
    exec (.enqArrival k) s = .next (o.2.send (.reply src st o.1 mc)) := by
  show (match s.net[k]? with | some (.enq _ _ _ _ _) => _ | _ => _) = _
  rw [packet]

/-- What an enqueue decides: the handle, the queue, the record, then room. -/
theorem State.enqueue_spec {h : Word} :
    let p := s.handlePlace h
    let d := (s.cluster p.1).disp
    (bits h 63 32 ≠ 0 → s.enqueue h r = (4, s)) ∧
    (bits h 63 32 = 0 → d.queue p.2 = none → s.enqueue h r = (1, s)) ∧
    ∀ q, bits h 63 32 = 0 → d.queue p.2 = some q → s.enqueue h r =
      if q.gen ≠ BitVec.ofNat 16 (bits h 15 0) then (1, s) else s.offerTask p.1 p.2 r := by
  intro p d
  have unfolds : bits h 63 32 = 0 → s.enqueue h r = match d.queue p.2 with
      | none => (1, s)
      | some tq => if tq.gen ≠ BitVec.ofNat 16 (bits h 15 0) then (1, s) else s.offerTask p.1 p.2 r := fun zero =>
    if_neg (by simp [zero])
  refine ⟨fun bad => if_pos bad, fun zero none_ => ?_, fun q zero some_ => ?_⟩
  · rw [unfolds zero, none_]
  · rw [unfolds zero, some_]

theorem State.offerTask_eq {tq : TaskQueue} (hq : (s.cluster k).disp.queue q = some tq) : s.offerTask k q r =
    if recordBad r then (3, s) else match (s.cluster k).disp.room q with
      | none => (2, s)
      | some place => (0, s.holdTask k q ⟨r, q, if tq.live then some s.clock else none, 0, none, none⟩ place) := by
  unfold State.offerTask
  dsimp only
  rw [hq] <;> rfl

/-- An accepted record: last in the queue's order, in SRAM or at a free place of the area. -/
theorem State.holdTask_spec {x : Task} {place : Option Nat} :
    ((s.holdTask k q x place).cluster k).disp.tasks = (s.cluster k).disp.tasks ++
      [{ x with queue := q, order := (s.cluster k).disp.order, overflow := place }] ∧
    (s.holdTask k q x place).net = s.net := by
  refine ⟨?_, ?_⟩
  · rw [State.holdTask_disp]
    rfl
  · obtain ⟨v, calm, e⟩ := State.holdTask_eq (s := s) (k := k) (q := q) x place
    rw [e]
    exact calm.net

/-- An offer that is refused leaves the state, and every offer leaves the network. -/
theorem State.offerTask_refused : ((s.offerTask k q r).1 ≠ 0 → (s.offerTask k q r).2 = s) ∧ (s.offerTask k q r).2.net = s.net := by
  unfold State.offerTask
  dsimp only
  split
  · exact ⟨fun _ => rfl, rfl⟩
  · split
    · exact ⟨fun _ => rfl, rfl⟩
    · split
      · exact ⟨fun _ => rfl, rfl⟩
      · exact ⟨fun h => absurd rfl h, State.holdTask_spec.2⟩

theorem State.enqueue_refused {h : Word} : ((s.enqueue h r).1 ≠ 0 → (s.enqueue h r).2 = s) ∧ (s.enqueue h r).2.net = s.net := by
  obtain ⟨bad, missing, found⟩ := State.enqueue_spec (s := s) (h := h) (r := r)
  by_cases zero : bits h 63 32 = 0
  · cases hq : (s.cluster (s.handlePlace h).1).disp.queue (s.handlePlace h).2 with
    | none =>
      rw [missing zero hq]
      exact ⟨fun _ => rfl, rfl⟩
    | some tq =>
      rw [found tq zero hq]
      split
      · exact ⟨fun _ => rfl, rfl⟩
      · exact State.offerTask_refused
  · rw [bad zero]
    exact ⟨fun _ => rfl, rfl⟩

theorem enqArrival_spec {src st : Nat} {h : Word} {mc : BitVec 3} (packet : s.net[k]? = some (.enq src h r st mc)) :
    let place := s.queuePlace (bits h 31 30 * 64 + bits h 29 24) (bits h 23 16)
    let d := (s.cluster place.1).disp
    let gone := d.queue place.2 = none ∨ ∃ q, d.queue place.2 = some q ∧ q.gen ≠ BitVec.ofNat 16 (bits h 15 0)
    let full (q : TaskQueue) := 1024 ≤ d.sram ∧
      ∀ i, i < q.ovSize / 32 → ∃ t ∈ d.tasks, t.queue = place.2 ∧ t.overflow = some i
    ∃ t code, exec (.enqArrival k) s = .next t ∧ t.net = dropAt s.net k ++ [.reply src st code mc] ∧
      (bits h 63 32 ≠ 0 → code = 4) ∧ (bits h 63 32 = 0 → gone → code = 1) ∧
      (bits h 63 32 = 0 → ¬ gone → recordBad r = true → code = 3) ∧
      (∀ q, bits h 63 32 = 0 → ¬ gone → recordBad r = false → d.queue place.2 = some q →
        (full q → code = 2) ∧ (¬ full q → code = 0 ∧ ∃ x, (t.cluster place.1).disp.tasks = d.tasks ++ [x] ∧
          x.record = r ∧ x.queue = place.2 ∧ x.ready = (if q.live then some s.clock else none) ∧
          (q.live = true → d.sram < 1024 → x.overflow = none) ∧ (x.overflow = none → t.mem = s.mem) ∧
          ∀ i, x.overflow = some i → (∀ y ∈ d.tasks, y.queue = place.2 → y.overflow ≠ some i) ∧
            (q.ovAddr.toNat + 32 * i + 32 ≤ 2 ^ 38 → Memory.wf s.mem = true → (∀ e, (s.die e).gutter = []) →
              (∀ a, s.inSpill a = false) →
              (∀ j, j < 32 → memGet t.mem (q.ovAddr.toNat + 32 * i + j) = ((recordBytes r)[j]?).getD 0) ∧
              ∀ a, (a < q.ovAddr.toNat + 32 * i ∨ q.ovAddr.toNat + 32 * i + 32 ≤ a) → memGet t.mem a = memGet s.mem a))) ∧
      (code ≠ 0 → t.mem = s.mem ∧ ∀ c, t.cluster c = s.cluster c) := by
  intro place d gone full
  have step := exec_enqArrival packet
  let s' : State := { s with net := dropAt s.net k }
  have here : s'.handlePlace h = place := State.queuePlace_net _ _
  obtain ⟨bad, missing, found⟩ := State.enqueue_spec (s := s') (h := h) (r := r)
  rw [here] at missing found
  obtain ⟨refused, net⟩ := State.enqueue_refused (s := s') (h := h) (r := r)
  have offers : bits h 63 32 = 0 → ¬ gone → ∀ q, d.queue place.2 = some q → s'.enqueue h r =
      if recordBad r then (3, s') else match d.room place.2 with
        | none => (2, s')
        | some pl => (0, s'.holdTask place.1 place.2 ⟨r, place.2, if q.live then some s.clock else none, 0, none, none⟩ pl) := by
    intro zero there q hq
    rw [found q zero hq, if_neg fun ne => there (.inr ⟨q, hq, ne⟩)]
    exact State.offerTask_eq (s := s') hq
  refine ⟨_, _, step, congrArg (· ++ _) net, fun ne => by rw [bad ne], fun zero none_ => ?_, fun zero there bad_ => ?_,
    fun q zero there good hq => ⟨fun all => ?_, fun some_ => ?_⟩, fun ne => ?_⟩
  · rcases none_ with none_ | ⟨q, hq, ne⟩
    · rw [missing zero none_]
    · rw [found q zero hq, if_pos ne]
  · cases hq : d.queue place.2 with
    | none => exact absurd (.inl hq) there
    | some q => rw [offers zero there q hq, if_pos bad_]
  · rw [offers zero there q hq, if_neg (by simp [good]), (Dispatcher.room_none hq).2 all]
  · cases room : d.room place.2 with
    | none => exact absurd ((Dispatcher.room_none hq).1 room) some_
    | some pl =>
      obtain ⟨sram, fresh⟩ := Dispatcher.room_some hq room
      have taken : s'.enqueue h r = (0, s'.holdTask place.1 place.2
          ⟨r, place.2, if q.live then some s.clock else none, 0, none, none⟩ pl) := by
        rw [offers zero there q hq, if_neg (by simp [good]), room]
      obtain ⟨inside, outside⟩ := State.holdTask_bytes (s := s') (k := place.1) (q := place.2) (place := pl)
        (x := ⟨r, place.2, if q.live then some s.clock else none, 0, none, none⟩) hq
      rw [taken]
      refine ⟨rfl, _, State.holdTask_spec.1, rfl, rfl, rfl, sram, inside, fun i at_ => ⟨fresh i at_, fun fits wf idle dry => ?_⟩⟩
      have bytes := outside i at_ fits wf idle dry
      refine ⟨fun j hj => (bytes _).trans ?_, fun a out => (bytes a).trans ?_⟩
      · exact memGet_memPutList_in wf (by rw [recordBytes_length]; exact hj)
      · exact memGet_memPutList_out _ wf _ _ (by rw [recordBytes_length]; exact out)
  · rw [refused ne]
    exact ⟨rfl, fun _ => rfl⟩

/-! ## The reply (R292) -/

theorem enqReply_spec {dst st code : Nat} {mc : BitVec 3} (packet : s.net[k]? = some (.reply dst st code mc))
    (wf : Memory.wf s.mem = true) (home : homeOf st = .tcm) (small : code < 8) :
    (bit (s.hart (counterOwner dst)).sys.fence 8 = false →
      s.partyWaits outsideParty [⟨st, 8, st, false⟩] = (false, s) → ∃ t, exec (.enqReply k) s = .next t ∧ t.net = dropAt s.net k ∧
      memNat t.mem st 8 = code ∧ ((t.hart (counterOwner dst)).mc[mc.toNat]?).getD 0 =
        ((s.hart (counterOwner dst)).mc[mc.toNat]?).getD 0 + 1) ∧
    (bit (s.hart (counterOwner dst)).sys.fence 8 = true → exec (.enqReply k) s = .next { s with net := dropAt s.net k }) := by
  have step : exec (.enqReply k) s = if bit (s.hart (counterOwner dst)).sys.fence 8 then .next { s with net := dropAt s.net k }
      else match s.partyWaits outsideParty [⟨st, 8, st, false⟩] with
        | (true, s) => .next s
        | (false, s) => .next ((({ s with net := dropAt s.net k } : State).engineWrite st (bytesOf code 8)).bumpCounter (counterOwner dst) mc) := by
    show (match s.net[k]? with | some (.reply _ _ _ _) => _ | _ => _) = _
    rw [packet] <;> rfl
  refine ⟨fun open_ free => ?_, fun fenced => by rw [step, if_pos fenced]⟩
  rw [if_neg (by simp [open_]), free] at step
  let s' : State := { s with net := dropAt s.net k }
  have place : ∀ x, st ≤ x → x ≤ st ∨ x < st + (bytesOf code 8).length → homeOf x ≠ .dram ∧ homeOf x ≠ .loft := by
    intro x low high
    rw [bytesOf_length] at high
    unfold homeOf at home ⊢
    split_ifs at home with h1 h2 h3 h4 h5 h6
    rw [if_neg (by omega), if_neg (by omega)]
    split_ifs with h7 h8 h9 h10
    · exact ⟨by decide, by decide⟩
    · exact ⟨by decide, by decide⟩
    all_goals exact absurd ‹_› (by omega)
  have mem : memNat (s'.engineWrite st (bytesOf code 8)).mem st 8 = code := by
    have bytes := State.engineWriteAs_mem (s := s') (v := ⟨0, 0, none⟩) (sync := false) wf
      fun b low high => State.ready_local (place b low high)
    refine (memNat_congr fun x _ _ => bytes x).trans ?_
    rw [memNat_memPutList_bytesOf 8 wf, Nat.mod_eq_of_lt (by omega)]
  have calm := State.Calm.engineWrite (a := st) (d := bytesOf code 8) (.refl s')
  obtain ⟨harts, bump⟩ := State.bumpCounter_eq (s := s'.engineWrite st (bytesOf code 8)) (h := counterOwner dst) mc
  refine ⟨_, step, ?_, ?_, ?_⟩
  · rw [bump]
    exact calm.net
  · rw [bump]
    exact mem
  · rw [State.mc_bumpCounter, calm.part (counterOwner dst) (·.mc) fun _ => by rfl]
    rfl

/-! ## A launch at its arrival (R172, R173, R295) -/

/-- What the launch of a graph leaves alone while it takes memory and places tasks: the other launches and the network. -/
def State.launches (s : State) : List GraphInstance × List Packet := (s.dev.instances, s.net)

theorem State.Calm.launches (h : s.Calm t) : t.launches = s.launches := by
  unfold State.launches
  rw [h.dev, h.net]

theorem State.takeArea_launches (e : s.takeArea n = some (a, t)) : t.launches = s.launches := by
  unfold State.takeArea at e
  obtain ⟨i, -, e⟩ := Option.map_eq_some_iff.1 e
  cases e
  rfl

/-- What holds of a state that there may be. -/
def ForSome (P : State → Prop) (o : Option State) : Prop := ∀ t, o = some t → P t

theorem ForSome.none {P : State → Prop} : ForSome P none := fun _ h => by cases h

theorem ForSome.some {P : State → Prop} (h : P t) : ForSome P (some t) := fun _ e => by cases e; exact h

theorem ForSome.ite {P : State → Prop} {c : Prop} [Decidable c] {o p : Option State} (ho : ForSome P o) (hp : ForSome P p) :
    ForSome P (if c then o else p) := by
  split
  · exact ho
  · exact hp

/-- A page written into the tables, by the recursion of the definition: its equations would run the search for a free area. -/
theorem mapFrom_launches {u : State} {va node : Nat} {entry : Word} (hu : u.launches = s.launches) :
    ForSome (fun t => t.launches = s.launches) (mapFrom va entry n node u) := by
  delta mapFrom
  refine brecOn_induction
    (P := fun _ (f : Nat → State → Option State) => ∀ node u, u.launches = s.launches → ForSome (fun t => t.launches = s.launches) (f node u))
    (fun b node u hu => ?_) (fun n b ih node u hu => ?_) n node u hu
  · delta mapFrom._f
    dsimp only
    exact .ite .none (.some ((State.Calm.engineWrite (.refl u)).launches.trans hu))
  · have read : ∀ a, (u.engineRead a 8).2.launches = s.launches := fun a =>
      (State.Calm.engineReadAs (.refl u)).launches.trans hu
    delta mapFrom._f
    dsimp only
    refine .ite .none (.ite ?_ (.ite .none (ih _ _ (read _))))
    split
    · exact .none
    · next taken =>
      refine ih _ _ ?_
      refine (State.Calm.engineWrite (.refl _)).launches.trans ((State.Calm.engineWrite (.refl _)).launches.trans ?_)
      exact (State.takeArea_launches taken).trans (read _)

theorem State.mapNew_launches {area page : Nat} : ForSome (fun t => t.launches = s.launches) (s.mapNew area page) := by
  have looked : (s.lookup 0 s.jobRoot (65536 * page)).2.launches = s.launches := (State.Calm.lookup (.refl s)).launches
  unfold State.mapNew
  split
  · next e =>
    rw [e] at looked
    exact mapFrom_launches looked
  · exact .none

theorem State.placeCopy_launches {params : List Byte} : (s.placeCopy params).2.launches = s.launches := by
  unfold State.placeCopy
  split
  · rfl
  · next area u taken =>
    have written : (u.engineWrite area params).launches = s.launches :=
      (State.Calm.engineWrite (.refl u)).launches.trans (State.takeArea_launches taken)
    dsimp only
    split
    · exact written
    · next page _ =>
      generalize hm : State.mapNew _ _ _ = o
      cases o with
      | none => exact written
      | some w => exact (State.mapNew_launches w hm).trans written

theorem State.choose_launches : (s.choose n).2.launches = s.launches := by
  unfold State.choose
  split <;> rfl

theorem State.holdTask_launches {x : Task} {place : Option Nat} : (s.holdTask k q x place).launches = s.launches := by
  obtain ⟨v, calm, e⟩ := State.holdTask_eq (s := s) (k := k) (q := q) x place
  rw [e]
  exact calm.launches

theorem State.readyGraphTasks_launches {g : GraphInstance} {l : List Nat} : (s.readyGraphTasks g l).launches = s.launches := by
  unfold State.readyGraphTasks
  refine List.foldlRecOn (motive := fun t : State => t.launches = s.launches) l _ rfl fun t ht i _ => ?_
  refine State.holdTask_launches.trans (State.choose_launches.trans ?_)
  exact State.choose_launches.trans ht

/-- A launched graph is the last one. -/
theorem State.startInstance_spec {graph : Nat} {g : Graph} {params : List Byte} :
    (s.startInstance graph g params).net = s.net ∧ (g.body.tasks ≠ [] → ∃ x,
      (s.startInstance graph g params).dev.instances = s.dev.instances ++ [x] ∧ x.graph = graph ∧ x.body = g.body ∧
        x.params = params) := by
  have copied := State.placeCopy_launches (s := s) (params := params)
  unfold State.startInstance
  generalize s.placeCopy params = p at copied ⊢
  obtain ⟨arg, u⟩ := p
  simp only [State.launches, Prod.mk.injEq] at copied
  obtain ⟨instances, net⟩ := copied
  dsimp only
  have ready : ∀ (v : State) (i : GraphInstance) (l : List Nat),
      (v.readyGraphTasks i l).dev.instances = v.dev.instances ∧ (v.readyGraphTasks i l).net = v.net := fun v i l =>
    ⟨congrArg Prod.fst State.readyGraphTasks_launches, congrArg Prod.snd State.readyGraphTasks_launches⟩
  exact ⟨(ready _ _ _).2.trans net, fun some_ => ⟨_, (ready _ _ _).1.trans
    ((if_neg (by simpa using some_)).trans (congrArg (· ++ _) instances)), rfl, rfl, rfl⟩⟩

/-- What a launch decides, and what it then does. -/
theorem State.launchGraph_spec {h : Word} {patch : List Word} :
    let n := bits h 31 16
    let o := s.launchGraph h patch
    o.2.net = s.net ∧ (o.1 ≠ 0 → o.2.mem = s.mem) ∧ (tget s.dev.graphs n = none → o.1 = 6) ∧
    ∀ g, tget s.dev.graphs n = some g →
      ((bits h 63 32 ≠ 0 ∨ g.gen ≠ BitVec.ofNat 16 (bits h 15 0)) → o.1 = 6) ∧
      (bits h 63 32 = 0 → g.gen = BitVec.ofNat 16 (bits h 15 0) →
        (patchOk patch g.body.params.length = false → o.1 = 7) ∧
        (patchOk patch g.body.params.length = true → 8 ≤ s.liveOf n → o.1 = 5 ∧
          o.2.dev.launchQueue = s.dev.launchQueue ++ [(n, applyPatch patch g.body.params)]) ∧
        (patchOk patch g.body.params.length = true → s.liveOf n < 8 → o.1 = 0 ∧
          (g.body.tasks ≠ [] → ∃ x, o.2.dev.instances = s.dev.instances ++ [x] ∧ x.graph = n ∧ x.body = g.body ∧
            x.params = applyPatch patch g.body.params))) := by
  intro n o
  cases found : tget s.dev.graphs n with
  | none =>
    have out : o = (6, s) := by
      show (match tget s.dev.graphs n with | none => _ | some g => _) = _
      rw [found]
    rw [out]
    exact ⟨rfl, fun _ => rfl, fun _ => rfl, fun _ h => by cases h⟩
  | some g =>
    have out : o = if bits h 63 32 ≠ 0 ∨ g.gen ≠ BitVec.ofNat 16 (bits h 15 0) then (6, s)
        else if patchOk patch g.body.params.length = false then (7, s)
        else if 8 ≤ s.liveOf n then
          (5, s.modDev fun d => { d with launchQueue := d.launchQueue ++ [(n, applyPatch patch g.body.params)] })
        else (0, s.startInstance n g (applyPatch patch g.body.params)) := by
      show (match tget s.dev.graphs n with | none => _ | some g => _) = _
      rw [found]
    rw [out]
    by_cases gone : bits h 63 32 ≠ 0 ∨ g.gen ≠ BitVec.ofNat 16 (bits h 15 0)
    · rw [if_pos gone]
      refine ⟨rfl, fun _ => rfl, fun h => (by cases h), fun g' e => ?_⟩
      cases e
      exact ⟨fun _ => rfl, fun zero gen => by simp [zero, gen] at gone⟩
    · rw [if_neg gone]
      by_cases bad : patchOk patch g.body.params.length = false
      · rw [if_pos bad]
        refine ⟨rfl, fun _ => rfl, fun h => (by cases h), fun g' e => ?_⟩
        cases e
        exact ⟨fun h => absurd h gone, fun _ _ => ⟨fun _ => rfl, fun ok => (by simp [bad] at ok), fun ok => by simp [bad] at ok⟩⟩
      · rw [if_neg bad]
        by_cases many : 8 ≤ s.liveOf n
        · rw [if_pos many]
          refine ⟨rfl, fun _ => rfl, fun h => (by cases h), fun g' e => ?_⟩
          cases e
          exact ⟨fun h => absurd h gone,
            fun _ _ => ⟨fun h => absurd h bad, fun _ _ => ⟨rfl, rfl⟩, fun _ few => absurd many (by omega)⟩⟩
        · rw [if_neg many]
          obtain ⟨net, started⟩ := State.startInstance_spec (s := s) (graph := n) (g := g) (params := applyPatch patch g.body.params)
          generalize s.startInstance n g (applyPatch patch g.body.params) = v at net started ⊢
          refine ⟨net, fun h => absurd rfl h, fun h => (by cases h), fun g' e => ?_⟩
          cases e
          exact ⟨fun h => absurd h gone, fun _ _ => ⟨fun h => absurd h bad, fun _ h => absurd h many, fun _ _ => ⟨rfl, started⟩⟩⟩

theorem launchgArrival_spec {src st : Nat} {h : Word} {patch : List Word} {mc : BitVec 3}
    (packet : s.net[k]? = some (.launchg src h patch st mc)) :
    let n := bits h 31 16
    ∃ t code, exec (.launchgArrival k) s = .next t ∧ t.net = dropAt s.net k ++ [.reply src st code mc] ∧
      (code ≠ 0 → t.mem = s.mem) ∧ (s.dev.tierOp ≠ none → code = 3) ∧
      (s.dev.tierOp = none → tget s.dev.graphs n = none → code = 6) ∧
      ∀ g, s.dev.tierOp = none → tget s.dev.graphs n = some g →
        ((bits h 63 32 ≠ 0 ∨ g.gen ≠ BitVec.ofNat 16 (bits h 15 0)) → code = 6) ∧
        (bits h 63 32 = 0 → g.gen = BitVec.ofNat 16 (bits h 15 0) →
          (patchOk patch g.body.params.length = false → code = 7) ∧
          (patchOk patch g.body.params.length = true → 8 ≤ s.liveOf n → code = 5 ∧
            t.dev.launchQueue = s.dev.launchQueue ++ [(n, applyPatch patch g.body.params)]) ∧
          (patchOk patch g.body.params.length = true → s.liveOf n < 8 → code = 0 ∧
            (g.body.tasks ≠ [] → ∃ x, t.dev.instances = s.dev.instances ++ [x] ∧ x.graph = n ∧ x.body = g.body ∧
              x.params = applyPatch patch g.body.params))) := by
  intro n
  let s' : State := { s with net := dropAt s.net k }
  have step : exec (.launchgArrival k) s =
      let o := if s.dev.tierOp.isSome then (3, s') else s'.launchGraph h patch
      .next (o.2.send (.reply src st o.1 mc)) := by
    show (match s.net[k]? with | some (.launchg _ _ _ _ _) => _ | _ => _) = _
    rw [packet]
  cases tier : s.dev.tierOp with
  | some op =>
    rw [tier] at step
    exact ⟨_, _, step, rfl, fun _ => rfl, fun _ => rfl, fun h => (by cases h), fun _ h => by cases h⟩
  | none =>
    rw [tier] at step
    obtain ⟨net, mem, missing, found⟩ := State.launchGraph_spec (s := s') (h := h) (patch := patch)
    exact ⟨_, _, step, congrArg (· ++ _) net, mem, fun h => absurd rfl h, fun _ => missing, fun g _ => found g⟩

end

end Sys2Proof.Machine
end

section
/-! O57, dispatch, retirement and stealing: the order of the ready tasks, and what a started and a retired task leave of
its core (R53, R54, R161 to R171). -/

namespace Sys2Proof.Machine

section
variable {s t u : State} {c j k n q : Nat} {d : Dispatcher} {α : Type}

/-! ## The first of a list by an order -/

/-- A strict order in which two that nothing tells apart come before and after the same. -/
structure Ranks (before : α → α → Bool) : Prop where
  asymm : ∀ x y, before x y = true → before y x = false
  cotrans : ∀ x y z, before x y = false → before y z = false → before x z = false

theorem Ranks.irrefl {before : α → α → Bool} (h : Ranks before) (x : α) : before x x = false := by
  cases e : before x x with
  | false => rfl
  | true => exact absurd (h.asymm x x e) (by simp [e])

/-- The first of a list is one of it, and none comes before it. -/
theorem firstBy_spec {before : α → α → Bool} (h : Ranks before) (l : List α) :
    (firstBy before l = none ↔ l = []) ∧
    ∀ x, firstBy before l = some x → x ∈ l ∧ ∀ y ∈ l, before y x = false := by
  induction l with
  | nil => exact ⟨by simp [firstBy], fun _ e => by cases e⟩
  | cons a l ih =>
    obtain ⟨none_, some_⟩ := ih
    unfold firstBy
    cases e : firstBy before l with
    | none =>
      rw [none_.1 e]
      refine ⟨by simp, fun x hx => ?_⟩
      cases hx
      exact ⟨.head _, fun y hy => by rw [List.mem_singleton.1 hy]; exact h.irrefl a⟩
    | some b =>
      obtain ⟨mem, best⟩ := some_ b e
      dsimp only
      split
      · next earlier =>
        refine ⟨by simp, fun x hx => ?_⟩
        cases hx
        refine ⟨.tail _ mem, fun y hy => ?_⟩
        cases hy with
        | head => exact h.asymm b a earlier
        | tail _ hy => exact best y hy
      · next later =>
        refine ⟨by simp, fun x hx => ?_⟩
        cases hx
        refine ⟨.head _, fun y hy => ?_⟩
        cases hy with
        | head => exact h.irrefl a
        | tail _ hy => exact h.cotrans y b a (best y hy) (by simpa using later)

theorem taskBefore_ranks : Ranks (taskBefore s d) := by
  refine ⟨fun x y => ?_, fun x y z => ?_⟩ <;> simp only [taskBefore, decide_eq_true_eq, decide_eq_false_iff_not] <;> omega

theorem givenBefore_ranks : Ranks givenBefore := by
  refine ⟨fun x y => ?_, fun x y z => ?_⟩ <;> simp only [givenBefore, decide_eq_true_eq, decide_eq_false_iff_not] <;> omega

/-- The head of a sorted list comes no later than any other. -/
theorem sortBy_head {le : α → α → Bool} (total : ∀ x y, le x y = true ∨ le y x = true)
    (trans : ∀ x y z, le x y = true → le y z = true → le x z = true) {l r : List α} {x : α} (e : sortBy le l = x :: r) :
    x ∈ l ∧ ∀ y ∈ l, le x y = true := by
  have insert : ∀ (l : List α) (a : α), (∀ y, y ∈ insertBy le a l ↔ y = a ∨ y ∈ l) := by
    intro l a y
    induction l with
    | nil => simp [insertBy]
    | cons b l ih =>
      unfold insertBy
      split
      · simp
      · simp only [List.mem_cons, ih]
        tauto
  have sorted : ∀ l : List α, (∀ y, y ∈ sortBy le l ↔ y ∈ l) ∧ ∀ x r, sortBy le l = x :: r → ∀ y ∈ r, le x y = true := by
    intro l
    induction l with
    | nil => exact ⟨fun _ => Iff.rfl, fun _ _ e => by cases e⟩
    | cons a l ih =>
      obtain ⟨same, first_⟩ := ih
      have cons : sortBy le (a :: l) = insertBy le a (sortBy le l) := rfl
      refine ⟨fun y => by rw [cons, insert, same, List.mem_cons], fun x r e y hy => ?_⟩
      rw [cons] at e
      cases h : sortBy le l with
      | nil =>
        rw [h] at e
        cases e
        cases hy
      | cons b m =>
        rw [h] at e
        unfold insertBy at e
        have low := first_ b m h
        split at e
        · next ab =>
          cases e
          cases hy with
          | head => exact ab
          | tail _ hy => exact trans _ _ _ ab (low y hy)
        · next ab =>
          cases e
          rcases (insert m a y).1 hy with rfl | hy
          · exact (total _ _).resolve_left ab
          · exact low y hy
  obtain ⟨same, first_⟩ := sorted l
  refine ⟨(same x).1 (by rw [e]; exact .head _), fun y hy => ?_⟩
  have mem := (same y).2 hy
  rw [e] at mem
  cases mem with
  | head => exact (total x x).elim id id
  | tail _ hy => exact first_ x r e y hy

/-! ## A task leaves its dispatcher (R157) -/

/-- Records that come into SRAM keep their order. -/
theorem Dispatcher.refill_orders {P : Nat → Prop} (h : ∀ x ∈ d.tasks, P x.order) (n : Nat) :
    ∀ x ∈ (d.refill n).tasks, P x.order := by
  induction n generalizing d with
  | zero => exact h
  | succ n ih =>
    unfold Dispatcher.refill
    split
    · exact h
    · split
      · refine ih fun x hx => ?_
        obtain ⟨y, hy, rfl⟩ := List.mem_map.1 hx
        split
        · exact h y hy
        · exact h y hy
      · exact h

theorem Dispatcher.remove_orders {x : Task} : ∀ y ∈ (d.remove x).tasks, y.order ≠ x.order :=
  Dispatcher.refill_orders (P := fun n => n ≠ x.order) (fun y hy => by simpa using (List.mem_filter.1 hy).2) 1

/-! ## Dispatch (R53, R162) -/

/-- A core that starts a task, before its companions. -/
def State.startCore (s : State) (c : Nat) (t : Task) : State :=
  s.modHart c fun h =>
    { h with act := .running, park := none, task := some ⟨t, s.clock, false⟩
             traps := { h.traps with status := setBits h.traps.status 1 0 0, pend := { h.traps.pend with taskLimit := none } }
             main := { h.main with pc := t.record.w0, image := none
                                   x := (h.main.x.setIfInBounds 2 (s.tcmVa c 0x8000)).setIfInBounds 3 t.record.w1 }
             queues := ⟨Vector.replicate 8 0, Vector.replicate 8 0⟩
             chan := { h.chan with out := Vector.replicate 4 none } }

/-- A companion that the task starts. -/
def State.startOther (s : State) (h : Nat) (arg pc : Word) : State :=
  (s.modHart h fun h => { h with main := { h.main with x := h.main.x.setIfInBounds 3 arg } }).startCompanion h pc

theorem State.startTask_eq {x : Task} : s.startTask c x =
    let v := s.startCore c x
    let v := if bit x.record.w2 6 then v.startOther (4096 + c) x.record.w1 (BitVec.ofNat 64 (bits x.record.w2 28 16)) else v
    if bit x.record.w2 7 then v.startOther (8192 + c) x.record.w1 (BitVec.ofNat 64 (bits x.record.w2 44 32)) else v := rfl

theorem State.startOther_ne {arg pc : Word} (ne : j ≠ k) : (s.startOther k arg pc).hart j = s.hart j := by
  unfold State.startOther State.startCompanion
  rw [State.hart_modHart_ne _ _ _ _ ne, State.hart_modHart_ne _ _ _ _ ne]

theorem State.startOther_same {arg pc : Word} : ((s.startOther k arg pc).hart k).act = .running ∧
    ((s.startOther k arg pc).hart k).main.pc = pc := by
  unfold State.startOther State.startCompanion
  rw [State.hart_modHart_same]
  exact ⟨rfl, rfl⟩

/-- What a started task leaves of its core, of its companions, of the dispatchers and of memory. -/
theorem State.startTask_spec {x : Task} : (s.startTask c x).hart c = (s.startCore c x).hart c ∧
    (bit x.record.w2 6 = true → ((s.startTask c x).hart (4096 + c)).act = .running ∧
      ((s.startTask c x).hart (4096 + c)).main.pc = BitVec.ofNat 64 (bits x.record.w2 28 16)) ∧
    (bit x.record.w2 7 = true → ((s.startTask c x).hart (8192 + c)).act = .running ∧
      ((s.startTask c x).hart (8192 + c)).main.pc = BitVec.ofNat 64 (bits x.record.w2 44 32)) ∧
    (∀ j, (s.startTask c x).cluster j = s.cluster j) ∧ (s.startTask c x).mem = s.mem := by
  rw [State.startTask_eq]
  generalize hv : s.startCore c x = v
  have rest : (∀ j, v.cluster j = s.cluster j) ∧ v.mem = s.mem := hv ▸ ⟨fun _ => rfl, rfl⟩
  dsimp only
  refine ⟨?_, fun loader => ?_, fun storer => ?_, fun j => ?_, ?_⟩
  · split <;> split <;> simp only [State.startOther_ne (show c ≠ 4096 + c by omega), State.startOther_ne (show c ≠ 8192 + c by omega)]
  · rw [if_pos loader]
    split
    · rw [State.startOther_ne (by omega)]
      exact State.startOther_same
    · exact State.startOther_same
  · rw [if_pos storer]
    exact State.startOther_same
  · rw [← rest.1 j]
    split <;> split <;> rfl
  · rw [← rest.2]
    split <;> split <;> rfl

theorem taskDispatch_spec (idle : s.idleCore c = true) :
    let d := (s.cluster (clusterOf c)).disp
    let may (t : Task) : Prop := t ∈ d.tasks ∧ d.isReady t = true ∧ bits (s.hart c).sys.preempt 1 0 ≤ s.levelOf d t
    ((∀ t, ¬ may t) → exec (.taskDispatch c) s = .next s) ∧
    ((∃ t, may t) → ∃ u t, exec (.taskDispatch c) s = .next u ∧ may t ∧ (∀ x, may x → taskBefore s d x t = false) ∧
      (∀ x ∈ (u.cluster (clusterOf c)).disp.tasks, x.order ≠ t.order) ∧
      (u.hart c).act = .running ∧ (u.hart c).task = some ⟨t, s.clock, false⟩ ∧ (u.hart c).traps.pend.taskLimit = none ∧ (u.hart c).main.pc = t.record.w0 ∧
      bits (u.hart c).traps.status 1 0 = 0 ∧ (u.hart c).main.x[2]? = some (s.tcmVa c 0x8000) ∧
      (u.hart c).main.x[3]? = some t.record.w1 ∧
      (∀ r, r ≠ 2 → r ≠ 3 → (u.hart c).main.x[r]? = (s.hart c).main.x[r]?) ∧
      (bit t.record.w2 6 = true → (u.hart (4096 + c)).act = .running ∧
        (u.hart (4096 + c)).main.pc = BitVec.ofNat 64 (bits t.record.w2 28 16)) ∧
      (bit t.record.w2 7 = true → (u.hart (8192 + c)).act = .running ∧
        (u.hart (8192 + c)).main.pc = BitVec.ofNat 64 (bits t.record.w2 44 32)) ∧ u.mem = s.mem) := by
  intro d may
  have step : exec (.taskDispatch c) s = match firstBy (taskBefore s d)
      (d.tasks.filter (fun t => d.isReady t && decide (bits (s.hart c).sys.preempt 1 0 ≤ s.levelOf d t))) with
      | none => .next s
      | some t => .next ((s.modDisp (clusterOf c) fun d => d.remove t).startTask c t) := if_neg (by simp [idle])
  have mem : ∀ t, t ∈ d.tasks.filter (fun t => d.isReady t && decide (bits (s.hart c).sys.preempt 1 0 ≤ s.levelOf d t)) ↔ may t := by
    intro t
    simp [may]
  obtain ⟨none_, some_⟩ := firstBy_spec (taskBefore_ranks (s := s) (d := d))
    (d.tasks.filter (fun t => d.isReady t && decide (bits (s.hart c).sys.preempt 1 0 ≤ s.levelOf d t)))
  cases found : firstBy (taskBefore s d)
      (d.tasks.filter (fun t => d.isReady t && decide (bits (s.hart c).sys.preempt 1 0 ≤ s.levelOf d t))) with
  | none =>
    rw [found] at step
    refine ⟨fun _ => step, fun ⟨t, ht⟩ => ?_⟩
    have here := (mem t).2 ht
    rw [none_.1 found] at here
    cases here
  | some t =>
    rw [found] at step
    obtain ⟨here, best⟩ := some_ t found
    obtain ⟨core, loader, storer, clusters, memory⟩ := State.startTask_spec (s := s.modDisp (clusterOf c) fun d => d.remove t)
      (c := c) (x := t)
    refine ⟨fun none_ => absurd ((mem t).1 here) (none_ t), fun _ => ⟨_, t, step, (mem t).1 here,
      fun x hx => best x ((mem x).2 hx), ?_, ?_, ?_, ?_, ?_, ?_, ?_, ?_, ?_, loader, storer, memory⟩⟩
    · rw [clusters, State.modDisp, State.cluster_modCluster_same]
      exact Dispatcher.remove_orders
    all_goals rw [core, State.startCore, State.hart_modHart_same]
    · rfl
    · exact bits_setBits_same (by decide) (by decide)
    · simp [State.modDisp, State.tcmVa]
      rfl
    · simp
    · intro r r2 r3
      simp [Ne.symm r2, Ne.symm r3]
      rfl

end

end Sys2Proof.Machine
end

section
/-! O57, the end of a task, its limits, and stealing within a die (R48, R54, R154, R162, R165, R169, R171). -/

namespace Sys2Proof.Machine

section
variable {s t u : State} {c h j k n : Nat} {q : BitVec 3} {α : Type}

/-! ## The head of a TASKEND completes, and the search ends (R54, R431) -/

theorem State.pushStore_part (f : Hart → α) (hf : ∀ h m, f { h with mem := m } = f h) {op : StoreOp} {qual : BitVec 8}
    {sync : Bool} (j : Nat) : f ((s.pushStore op qual sync).hart j) = f (s.hart j) :=
  State.part_modHart f (fun _ => hf _ _) j

theorem State.unitStore_keeps (f : Hart → α) (hf : ∀ h m, f { h with mem := m } = f h) {off : Nat} {d : List Byte} :
    (∀ j, f ((s.unitStore off d).hart j) = f (s.hart j)) ∧ (s.unitStore off d).mem = s.mem ∧ (s.unitStore off d).cur = s.cur := by
  unfold State.unitStore
  exact List.foldlRecOn (motive := fun t : State => (∀ j, f (t.hart j) = f (s.hart j)) ∧ t.mem = s.mem ∧ t.cur = s.cur) _ _
    ⟨fun _ => rfl, rfl, rfl⟩ fun t ⟨part, mem, cur⟩ _ _ =>
      ⟨fun j => (State.pushStore_part f hf j).trans (part j), (State.pushStore_mem ..).trans mem, (State.pushStore_cur ..).trans cur⟩

/-- The end of a search writes the store buffer alone, and the core has no search. -/
theorem State.endSearch_keeps (f : Hart → α) (hf : ∀ h m r, f { h with mem := m, search := r } = f h) {code : Nat} :
    (∀ j, f ((s.endSearch code).hart j) = f (s.hart j)) ∧ (s.endSearch code).mem = s.mem ∧
    (kindOf s.cur = 0 → ((s.endSearch code).hart s.cur).search = none) := by
  have store : ∀ (t : State) off d, (∀ j, f ((t.unitStore off d).hart j) = f (t.hart j)) ∧ (t.unitStore off d).mem = t.mem ∧
      (t.unitStore off d).cur = t.cur := fun t off d => State.unitStore_keeps f fun h m => hf h m h.search
  have set : ∀ (t : State) r j, f ((t.modMe fun h => { h with search := r }).hart j) = f (t.hart j) := fun t r j =>
    State.part_modHart f (fun h => hf h h.mem r) j
  unfold State.endSearch
  cases search : s.mySearch with
  | none =>
    refine ⟨fun _ => rfl, rfl, fun core => ?_⟩
    unfold State.mySearch at search
    rwa [if_pos core] at search
  | some q =>
    dsimp only
    obtain ⟨p1, m1, c1⟩ := store s (q.block + 32) (bytesOf (q.statusWord code false) 8)
    obtain ⟨p2, m2, c2⟩ := store ((s.putStatus q code false).setSearch { q with ttop := q.tbase }) (q.block + 12) (bytesOf q.tbase 2)
    obtain ⟨p3, m3, c3⟩ := store (((s.putStatus q code false).putTtop q q.tbase).setSearch { q with ttop := q.tbase, ctop := q.cbase })
      (q.block + 20) (bytesOf q.cbase 2)
    have cur : (((s.putStatus q code false).putTtop q q.tbase).putCtop { q with ttop := q.tbase } q.cbase).cur = s.cur :=
      c3.trans (c2.trans c1)
    have ends : ∀ v : State, v.cur = s.cur → (∀ j, f (v.hart j) = f (s.hart j)) → v.mem = s.mem →
        (∀ j, f ((v.modMe fun h => { h with search := none }).hart j) = f (s.hart j)) ∧
        (v.modMe fun h => { h with search := none }).mem = s.mem ∧
        ((v.modMe fun h => { h with search := none }).hart s.cur).search = none := fun v hc hp hm =>
      ⟨fun j => (set v none j).trans (hp j), hm, by rw [State.modMe, hc, State.hart_modHart_same]⟩
    obtain ⟨part, mem, none_⟩ := ends _ cur
      (fun j => (p3 j).trans ((set _ _ j).trans ((p2 j).trans ((set _ _ j).trans (p1 j))))) (m3.trans (m2.trans m1))
    split
    · exact ⟨part, mem, fun _ => none_⟩
    · exact ⟨part, mem, fun _ => none_⟩

/-- The state once the TASKEND of core c has counted and its search has ended. -/
def State.endHead (s : State) (c : Nat) : State := s.asHart c fun t => t.countHead.endSearch 4

theorem State.endHead_part (f : Hart → α) (hf : ∀ h m r y, f { h with mem := m, search := r, sys := y } = f h) (j : Nat) :
    f ((s.endHead c).hart j) = f (s.hart j) :=
  ((State.endSearch_keeps f fun h m r => hf h m r h.sys).1 j).trans (State.part_modHart f (fun h => hf h h.mem h.search _) j)

theorem State.endHead_spec (hk : kindOf c = 0) : ((s.endHead c).hart c).search = none ∧
    ((s.endHead c).hart c).sys = { (s.hart c).sys with instret := (s.hart c).sys.instret + 1 } ∧
    (∀ j, ((s.endHead c).hart j).sys.fence = (s.hart j).sys.fence) ∧ (s.endHead c).mem = s.mem := by
  let v : State := ({ s with cur := c, ctx := .main } : State).countHead
  obtain ⟨sys, mem, none_⟩ := State.endSearch_keeps (s := v) (code := 4) (·.sys) (fun _ _ _ => rfl)
  refine ⟨none_ hk, (sys c).trans ?_, fun j => (congrArg (·.fence) (sys j)).trans ?_, mem⟩
  · exact congrArg (·.sys) (State.hart_modHart_same _ _ _)
  · exact State.part_modHart (fun h => h.sys.fence) (fun _ => by rfl) j

/-! ## Queues and streams go off (R48, R353) -/

/-- The state with a queue of core c disabled, when it is enabled. -/
def State.disableQueue (s : State) (c : Nat) (q : BitVec 3) : State :=
  if bit (s.qctl c q) 63 then (s.setQctl c q (setBits (setBit (s.qctl c q) 63 false) 48 36 0) 0).dropQueue c q else s

theorem State.disableQueue_qctl : bit ((s.disableQueue c q).qctl c q) 63 = false ∧
    ∀ k, k ≠ q → (s.disableQueue c q).qctl c k = s.qctl c k := by
  have kept : ∀ k, ((s.setQctl c q (setBits (setBit (s.qctl c q) 63 false) 48 36 0) 0).dropQueue c q).qctl c k =
      (s.setQctl c q (setBits (setBit (s.qctl c q) 63 false) 48 36 0) 0).qctl c k := fun k =>
    State.qctl_congr (State.dropQueue_part (·.queues) (fun _ _ => rfl) (fun _ _ _ => rfl) c)
  unfold State.disableQueue
  split
  · refine ⟨?_, fun k ne => ?_⟩
    · rw [kept, State.qctl_setQctl, bit_setBits, if_neg (by omega), bit_setBit (by decide), if_pos rfl]
    · rw [kept, State.qctl_setQctl_ne ne]
  · next off => exact ⟨by simpa using off, fun _ _ => rfl⟩

theorem State.disableQueue_part (f : Hart → α) (hf : ∀ h y m r z, f { h with copy := y, mem := m, answer := r, queues := z } = f h)
    (j : Nat) : f ((s.disableQueue c q).hart j) = f (s.hart j) := by
  unfold State.disableQueue
  split
  · exact (State.dropQueue_part f (fun h y => hf h y h.mem h.answer h.queues) (fun h m r => hf h h.copy m r h.queues) j).trans
      (State.setQctl_part f (fun h z => hf h h.copy h.mem h.answer z) j)
  · rfl

theorem State.disableQueue_mem : (s.disableQueue c q).mem = s.mem := by
  unfold State.disableQueue
  split
  · exact State.dropQueue_mem
  · rfl

theorem State.disableQueues_spec : (∀ q, bit ((s.disableQueues c).qctl c q) 63 = false) ∧ (s.disableQueues c).mem = s.mem := by
  have fold : ∀ (l : List (BitVec 3)) (v : State) (q : BitVec 3), (q ∈ l ∨ bit (v.qctl c q) 63 = false) →
      bit ((l.foldl (fun s q => s.disableQueue c q) v).qctl c q) 63 = false := by
    intro l
    induction l with
    | nil => exact fun v q h => h.resolve_left List.not_mem_nil
    | cons a l ih =>
      intro v q h
      refine ih _ q ?_
      obtain ⟨off, others⟩ := State.disableQueue_qctl (s := v) (c := c) (q := a)
      by_cases e : q = a
      · exact .inr (e ▸ off)
      · rw [others q e]
        rcases h with h | h
        · exact .inl ((List.mem_cons.1 h).resolve_left e)
        · exact .inr h
  refine ⟨fun q => fold [0, 1, 2, 3, 4, 5, 6, 7] s q (.inl ?_), mem_foldl (fun _ _ => State.disableQueue_mem) _ _⟩
  exact (by decide : ∀ q : BitVec 3, q ∈ ([0, 1, 2, 3, 4, 5, 6, 7] : List (BitVec 3))) q

theorem State.disableQueues_part (f : Hart → α) (hf : ∀ h y m r z, f { h with copy := y, mem := m, answer := r, queues := z } = f h)
    (j : Nat) : f ((s.disableQueues c).hart j) = f (s.hart j) :=
  List.foldlRecOn (motive := fun t : State => f (t.hart j) = f (s.hart j)) _ _ rfl fun _ ht _ _ =>
    (State.disableQueue_part f hf j).trans ht

/-- The state with the four stream slots of core c off. -/
def State.streamsOff (s : State) (c : Nat) : State :=
  ([0, 1, 2, 3] : List (BitVec 2)).foldl (fun s k => s.modStream c k Stream.off) s

theorem State.streamsOff_stream (k : BitVec 2) : ((s.streamsOff c).stream c k).en = false := by
  have off : ∀ x : Stream, x.off.en = false := fun x => by
    unfold Stream.off
    split
    · rfl
    · next h => simpa using h
  have fold : ∀ (l : List (BitVec 2)) (v : State), (k ∈ l ∨ (v.stream c k).en = false) →
      ((l.foldl (fun s k => s.modStream c k Stream.off) v).stream c k).en = false := by
    intro l
    induction l with
    | nil => exact fun v h => h.resolve_left List.not_mem_nil
    | cons a l ih =>
      intro v h
      refine ih _ ?_
      by_cases e : k = a
      · refine .inr ?_
        rw [e, State.stream_modStream, off]
      · rw [State.stream_modStream_ne _ e]
        rcases h with h | h
        · exact .inl ((List.mem_cons.1 h).resolve_left e)
        · exact .inr h
  exact fold [0, 1, 2, 3] s (.inl ((by decide : ∀ k : BitVec 2, k ∈ ([0, 1, 2, 3] : List (BitVec 2))) k))

theorem State.streamsOff_part (f : Hart → α) (hf : ∀ h z, f { h with streams := z } = f h) (j : Nat) :
    f ((s.streamsOff c).hart j) = f (s.hart j) :=
  List.foldlRecOn (motive := fun t : State => f (t.hart j) = f (s.hart j)) _ _ rfl fun _ ht _ _ =>
    (State.part_modHart f (fun _ => hf _ _) j).trans ht

theorem State.streamsOff_mem : (s.streamsOff c).mem = s.mem := mem_foldl (fun _ _ => by rfl) _ _

theorem State.clearTrapped_part (f : Hart → α) (hf : ∀ h a, f { h with act := a } = f h) (j : Nat) :
    f ((s.clearTrapped h).hart j) = f (s.hart j) := by
  refine State.part_modHart f (fun x => ?_) j
  split
  · exact hf x _
  · rfl

/-! ## Retirement (R54, R171) -/

/-- The state of a retiring core with its TASKEND counted, its queues and streams off. -/
def State.cleared (s : State) (c : Nat) : State :=
  ((((s.endHead c).clearTrapped (4096 + c)).clearTrapped (8192 + c)).disableQueues c).streamsOff c

/-- A retiring core becomes idle, and a pending preemption takes effect. -/
def Hart.retired (h : Hart) : Hart :=
  { h with act := .idle, park := none, task := none
           traps := { h.traps with status := if bits h.traps.status 1 0 = 1 then setBit h.traps.status 10 false else h.traps.status
                                   pend := { h.traps.pend with taskLimit := none } }
           sys := if bit h.sys.preempt 63 then { h.sys with preempt := h.sys.preemptNext, preemptNext := 0 } else h.sys }

theorem State.cleared_part (f : Hart → α)
    (hf : ∀ h a m r y p z w v, f { h with act := a, mem := m, search := r, sys := y, copy := p, answer := z, queues := w, streams := v } = f h)
    (j : Nat) : f ((s.cleared c).hart j) = f (s.hart j) := by
  unfold State.cleared
  rw [State.streamsOff_part f fun h v => hf h h.act h.mem h.search h.sys h.copy h.answer h.queues v,
    State.disableQueues_part f fun h p m z w => hf h h.act m h.search h.sys p z w h.streams,
    State.clearTrapped_part f fun h a => hf h a h.mem h.search h.sys h.copy h.answer h.queues h.streams,
    State.clearTrapped_part f fun h a => hf h a h.mem h.search h.sys h.copy h.answer h.queues h.streams,
    State.endHead_part f fun h m r y => hf h h.act m r y h.copy h.answer h.queues h.streams]

theorem State.cleared_spec (hk : kindOf c = 0) : ((s.cleared c).hart c).search = none ∧
    ((s.cleared c).hart c).sys = { (s.hart c).sys with instret := (s.hart c).sys.instret + 1 } ∧
    (∀ j, ((s.cleared c).hart j).sys.fence = (s.hart j).sys.fence) ∧ (s.cleared c).mem = s.mem ∧
    (∀ q, bit ((s.cleared c).qctl c q) 63 = false) ∧ ∀ k, ((s.cleared c).stream c k).en = false := by
  obtain ⟨search, sys, fence, mem⟩ := State.endHead_spec (s := s) hk
  let v := (((s.endHead c).clearTrapped (4096 + c)).clearTrapped (8192 + c))
  obtain ⟨off, vmem⟩ := State.disableQueues_spec (s := v) (c := c)
  have rest : ∀ {β : Type} (f : Hart → β), (∀ h a p m z w v, f { h with act := a, copy := p, mem := m, answer := z, queues := w, streams := v } = f h) →
      ∀ j, f ((s.cleared c).hart j) = f ((s.endHead c).hart j) := by
    intro β f hf j
    unfold State.cleared
    rw [State.streamsOff_part f fun h v => hf h h.act h.copy h.mem h.answer h.queues v,
      State.disableQueues_part f fun h p m z w => hf h h.act p m z w h.streams,
      State.clearTrapped_part f fun h a => hf h a h.copy h.mem h.answer h.queues h.streams,
      State.clearTrapped_part f fun h a => hf h a h.copy h.mem h.answer h.queues h.streams]
  refine ⟨(rest (·.search) (fun _ _ _ _ _ _ _ => rfl) c).trans search, (rest (·.sys) (fun _ _ _ _ _ _ _ => rfl) c).trans sys,
    fun j => (rest (·.sys.fence) (fun _ _ _ _ _ _ _ => rfl) j).trans (fence j), ?_, fun q => ?_, State.streamsOff_stream⟩
  · exact State.streamsOff_mem.trans (vmem.trans mem)
  · rw [State.qctl_congr (t := s.cleared c) (s := v.disableQueues c) (State.streamsOff_part (·.queues) (fun _ _ => rfl) c)]
    exact off q

theorem exec_taskRetirement {r : Running} (ready : s.retirable c = true) (task : (s.hart c).task = some r) :
    exec (.taskRetirement c) s = .next (((s.cleared c).modHart c Hart.retired).finishTask r.task) := by
  refine (if_neg (by simp [ready])).trans ?_
  show Host.Outcome.next (match (s.hart c).task with | some r => _ | none => _) = _
  rw [task]
  rfl

theorem State.notifyDone_part (f : Hart → α) (hf : ∀ h m p q, f { h with mc := m, park := p, hpark := q } = f h)
    {r : TaskRecord} (j : Nat) : f ((s.notifyDone r).hart j) = f (s.hart j) := by
  unfold State.notifyDone
  split
  · dsimp only
    split
    · rfl
    · exact State.bumpCounter_part f hf _
  · rfl

/-- A context that is not parked is parked by no counter. -/
theorem State.notifyDone_park {r : TaskRecord} (free : (s.hart j).park = none) : ((s.notifyDone r).hart j).park = none := by
  have wake : ∀ (v : State) h (g : Hart → Hart), (∀ x, x.park = none → (g x).park = none) → (v.hart j).park = none →
      ((v.modHart h g).hart j).park = none := by
    intro v h g hg none_
    by_cases e : j = h
    · subst e
      rw [State.hart_modHart_same]
      exact hg _ none_
    · rw [State.hart_modHart_ne _ _ _ _ e]
      exact none_
  have map : ∀ x : Option Park, x = none → x.map Park.wake = none := fun x hx => by rw [hx]; rfl
  unfold State.notifyDone
  split
  · dsimp only
    split
    · exact free
    · have count := wake s (bits r.w3 11 0) (fun t => { t with
          mc := t.mc.setIfInBounds (BitVec.ofNat 3 (bits r.w3 14 12)).toNat (((t.mc[(BitVec.ofNat 3 (bits r.w3 14 12)).toNat]?).getD 0) + 1)
          park := t.park.map Park.wake, hpark := t.hpark.map Park.wake }) (fun x => map x.park) free
      unfold State.bumpCounter
      dsimp only
      split
      · exact wake _ _ _ (fun x => map x.park) (wake _ _ _ (fun x => map x.park) count)
      · exact count
  · exact free

theorem taskRetirement_spec {r : Running} (ready : s.retirable c = true) (task : (s.hart c).task = some r)
    (lone : r.task.graph = none) :
    ∃ t, exec (.taskRetirement c) s = .next t ∧ (t.hart c).act = .idle ∧ (t.hart c).task = none ∧ (t.hart c).park = none ∧
      (t.hart c).search = none ∧ (t.hart c).main.x = (s.hart c).main.x ∧ t.mem = s.mem ∧
      (t.hart c).traps.pend.taskLimit = none ∧
      (t.hart c).sys.instret = (s.hart c).sys.instret + 1 ∧ (∀ q, bit (t.qctl c q) 63 = false) ∧
      (∀ k, (t.stream c k).en = false) ∧
      (t.hart c).sys.preempt = (if bit (s.hart c).sys.preempt 63 then (s.hart c).sys.preemptNext
        else (s.hart c).sys.preempt) ∧
      (bit r.task.record.w3 15 = true → s.fencedCore (bits r.task.record.w3 11 0) = false →
        ((t.hart (bits r.task.record.w3 11 0)).mc[bits r.task.record.w3 14 12]?).getD 0 =
          ((s.hart (bits r.task.record.w3 11 0)).mc[bits r.task.record.w3 14 12]?).getD 0 + 1) := by
  have hk : kindOf c = 0 := by
    by_contra hk
    simp [State.retirable, hk] at ready
  obtain ⟨search, sys, fence, mem, queues, streams⟩ := State.cleared_spec (s := s) hk
  let v := (s.cleared c).modHart c Hart.retired
  have own : v.hart c = ((s.cleared c).hart c).retired := State.hart_modHart_same _ _ _
  have step : exec (.taskRetirement c) s = .next (v.notifyDone r.task.record) := by
    rw [exec_taskRetirement ready task]
    unfold State.finishTask
    rw [lone]
  have part : ∀ {β : Type} (f : Hart → β), (∀ h m p q, f { h with mc := m, park := p, hpark := q } = f h) →
      f ((v.notifyDone r.task.record).hart c) = f ((s.cleared c).hart c).retired := fun f hf =>
    (State.notifyDone_part f hf c).trans (congrArg f own)
  refine ⟨_, step, ?_, ?_, State.notifyDone_park (by rw [own]; rfl), ?_, ?_, ?_, ?_, ?_, fun q => ?_, fun k => ?_, ?_, fun dv open_ => ?_⟩
  · exact part (·.act) fun _ _ _ _ => rfl
  · exact part (·.task) fun _ _ _ _ => rfl
  · exact (part (·.search) fun _ _ _ _ => rfl).trans search
  · exact (part (·.main.x) fun _ _ _ _ => rfl).trans (State.cleared_part (·.main.x) (fun _ _ _ _ _ _ _ _ _ => rfl) c)
  · exact (State.notifyDone_mem _).trans mem
  · exact part (·.traps.pend.taskLimit) fun _ _ _ _ => rfl
  · refine (part (·.sys.instret) fun _ _ _ _ => rfl).trans ?_
    unfold Hart.retired
    dsimp only
    rw [sys]
    split <;> rfl
  · rw [State.qctl_congr (s := s.cleared c) (part (·.queues) fun _ _ _ _ => rfl)]
    exact queues q
  · have same := part (·.streams) fun _ _ _ _ => rfl
    unfold State.stream
    rw [same]
    exact streams k
  · refine (part (·.sys.preempt) fun _ _ _ _ => rfl).trans ?_
    unfold Hart.retired
    dsimp only
    rw [sys]
    split <;> rfl
  · have lt : bits r.task.record.w3 14 12 < 8 := bits_lt
    have index : (BitVec.ofNat 3 (bits r.task.record.w3 14 12)).toNat = bits r.task.record.w3 14 12 := by
      rw [BitVec.toNat_ofNat, Nat.mod_eq_of_lt lt]
    have retired : ∀ {β : Type} (f : Hart → β), (∀ h, f h.retired = f h) → ∀ j, f (v.hart j) = f ((s.cleared c).hart j) := fun f hf j =>
      State.part_modHart f hf j
    have open_v : v.fencedCore (bits r.task.record.w3 11 0) = false := by
      unfold State.fencedCore at open_ ⊢
      rw [retired (·.sys.fence) fun h => by unfold Hart.retired; dsimp only; split <;> rfl]
      rw [fence]
      exact open_
    have bump : v.notifyDone r.task.record =
        v.bumpCounter (bits r.task.record.w3 11 0) (BitVec.ofNat 3 (bits r.task.record.w3 14 12)) := by
      unfold State.notifyDone
      rw [if_pos dv]
      dsimp only
      rw [if_neg (by simp [open_v])]
    have count := State.mc_bumpCounter (s := v) (c := bits r.task.record.w3 11 0) (BitVec.ofNat 3 (bits r.task.record.w3 14 12))
    rw [index] at count
    rw [bump, count, retired (·.mc) fun _ => rfl, State.cleared_part (·.mc) fun _ _ _ _ _ _ _ _ _ => rfl]

/-! ## Limits (R162, R169) -/

theorem taskLimitExpiry_spec {r : Running} (task : (s.hart c).task = some r) :
    (r.limited = false → bits (s.hart c).sys.tasklim 47 0 ≤ s.clock - r.since → ∃ t,
      exec (.taskLimitExpiry c) s = .next t ∧ (t.hart c).task = some { r with limited := true } ∧
      (t.hart c).traps.pend.taskLimit = some (BitVec.ofNat 64 (s.clock - r.since)) ∧ (t.hart c).main = (s.hart c).main ∧
      t.mem = s.mem) ∧
    ((r.limited = true ∨ s.clock - r.since < bits (s.hart c).sys.tasklim 47 0) → exec (.taskLimitExpiry c) s = .next s) := by
  have step : exec (.taskLimitExpiry c) s =
      if r.limited ∨ s.clock - r.since < bits (s.hart c).sys.tasklim 47 0 then .next s
      else .next (s.modHart c fun h =>
        { h with task := some { r with limited := true }
                 traps := { h.traps with pend := { h.traps.pend with taskLimit := some (BitVec.ofNat 64 (s.clock - r.since)) } } }) := by
    show (match (s.hart c).task with | some r => _ | none => _) = _
    rw [task]
  refine ⟨fun fresh due => ⟨_, step.trans (if_neg (by simp [fresh]; omega)), ?_, ?_, ?_, rfl⟩, fun early => step.trans (if_pos early)⟩
  all_goals rw [State.hart_modHart_same]

/-! ## Stealing within a die (R165) -/

/-- The order of a probe round puts a nearest cluster first. -/
theorem probeOrder_spec (k : Nat) : ∃ j r, probeOrder k = j :: r ∧ j ≠ k ∧ j / 64 = k / 64 ∧
    ∀ i, i ≠ k → i / 64 = k / 64 → gridDistance k j ≤ gridDistance k i := by
  have mem : ∀ i, i ∈ (upFrom (k / 64 * 64) 64).filter (fun j => j != k) ↔ i ≠ k ∧ i / 64 = k / 64 := by
    intro i
    rw [List.mem_filter, mem_upFrom, bne_iff_ne]
    constructor
    · rintro ⟨_, ne⟩
      exact ⟨ne, by omega⟩
    · rintro ⟨ne, die⟩
      exact ⟨by omega, ne⟩
  have other : ∃ i, i ≠ k ∧ i / 64 = k / 64 := by
    by_cases e : k % 64 = 0
    · exact ⟨k + 1, by omega, by omega⟩
    · exact ⟨k - 1, by omega, by omega⟩
  cases order : probeOrder k with
  | nil =>
    obtain ⟨i, hi⟩ := other
    have len : ∀ (l : List Nat) le, sortBy le l = [] → l = [] := by
      intro l le e
      cases l with
      | nil => rfl
      | cons a l =>
        have cons : insertBy le a (sortBy le l) = [] := e
        cases h : sortBy le l with
        | nil => rw [h] at cons; cases cons
        | cons b m =>
          rw [h] at cons
          unfold insertBy at cons
          split at cons <;> cases cons
    have here := (mem i).2 hi
    rw [len _ _ order] at here
    cases here
  | cons j r =>
    obtain ⟨here, best⟩ := sortBy_head (fun x y => by simp only [decide_eq_true_eq]; omega)
      (fun x y z => by simp only [decide_eq_true_eq]; omega) order
    obtain ⟨ne, die⟩ := (mem j).1 here
    refine ⟨j, r, rfl, ne, die, fun i ne die => ?_⟩
    have le := best i ((mem i).2 ⟨ne, die⟩)
    rw [decide_eq_true_eq] at le
    omega

theorem stealProbe_spec (quiet : s.probing k = false) (wants : s.wantsTask k = true) (fresh : (s.cluster k).disp.probing = [])
    (due : ∀ t, (s.cluster k).disp.probeAt = some t → t + 1024 ≤ s.clock) : ∃ u j, exec (.stealProbe k) s = .next u ∧
      u.net = s.net ++ [.probe k j] ∧ j ≠ k ∧ j / 64 = k / 64 ∧ (u.cluster k).disp.probeAt = some s.clock ∧ u.mem = s.mem ∧
      ∀ i, i ≠ k → i / 64 = k / 64 → gridDistance k j ≤ gridDistance k i := by
  obtain ⟨j, r, order, ne, die, near⟩ := probeOrder_spec k
  have now : (match (s.cluster k).disp.probeAt with | some t => decide (t + 1024 ≤ s.clock) | none => true) = true := by
    split
    · next t e => exact decide_eq_true (due t e)
    · rfl
  have step : exec (.stealProbe k) s =
      .next ((s.modDisp k fun d => { d with probeAt := some s.clock, probing := r }).send (.probe k j)) := by
    refine (if_neg (by simp [quiet])).trans ((if_neg (by simp [wants])).trans ?_)
    dsimp only
    rw [fresh]
    dsimp only
    refine (if_neg ?_).trans ?_
    · exact ne_false_of_eq_true now
    · rw [order]
  refine ⟨_, j, step, rfl, ne, die, ?_, rfl, near⟩
  rw [State.send_cluster, State.modDisp, State.cluster_modCluster_same]

theorem stealProbeAnswer_spec {src dst : Nat} (packet : s.net[k]? = some (.probe src dst)) :
    let d := (s.cluster dst).disp
    let may (t : Task) : Prop := t ∈ d.tasks ∧ d.isReady t = true ∧ ∃ q, d.queue t.queue = some q ∧ q.stealable = true
    ((d.tasks.filter d.isReady).length < 2 → exec (.stealProbeAnswer k) s = .next { s with net := dropAt s.net k }) ∧
    (2 ≤ (d.tasks.filter d.isReady).length → (∃ t, may t) → ∃ u t, exec (.stealProbeAnswer k) s = .next u ∧ may t ∧
      (∀ x, may x → givenBefore x t = false) ∧ u.net = dropAt s.net k ++ [.stolen src t] ∧
      (∀ x ∈ (u.cluster dst).disp.tasks, x.order ≠ t.order) ∧ u.mem = s.mem) := by
  intro d may
  let ok (t : Task) : Bool := match d.queue t.queue with | some q => q.stealable | none => false
  let s' : State := { s with net := dropAt s.net k }
  have step : exec (.stealProbeAnswer k) s = if (d.tasks.filter d.isReady).length < 2 then .next s'
      else match firstBy givenBefore ((d.tasks.filter d.isReady).filter ok) with
        | none => .next s'
        | some t => .next ((s'.modDisp dst fun d => d.remove t).send (.stolen src t)) := by
    show (match s.net[k]? with | some (.probe _ _) => _ | _ => _) = _
    rw [packet]
    rfl
  have mem : ∀ t, t ∈ (d.tasks.filter d.isReady).filter ok ↔ may t := by
    intro t
    have steal : ok t = true ↔ ∃ q, d.queue t.queue = some q ∧ q.stealable = true := by
      dsimp only [ok]
      cases h : d.queue t.queue with
      | none => simp
      | some q => simp
    rw [List.mem_filter, List.mem_filter, steal, and_assoc]
  obtain ⟨none_, some_⟩ := firstBy_spec givenBefore_ranks ((d.tasks.filter d.isReady).filter ok)
  refine ⟨fun few => step.trans (if_pos few), fun many ⟨x, hx⟩ => ?_⟩
  rw [if_neg (by omega)] at step
  cases found : firstBy givenBefore ((d.tasks.filter d.isReady).filter ok) with
  | none =>
    have here := (mem x).2 hx
    rw [none_.1 found] at here
    cases here
  | some t =>
    rw [found] at step
    obtain ⟨here, best⟩ := some_ t found
    refine ⟨_, t, step, (mem t).1 here, fun y hy => best y ((mem y).2 hy), rfl, ?_, rfl⟩
    rw [State.send_cluster, State.modDisp, State.cluster_modCluster_same]
    exact Dispatcher.remove_orders

theorem stolenTaskArrival_spec {dst : Nat} {t : Task} (packet : s.net[k]? = some (.stolen dst t)) :
    let p := s.queuePlace dst (recordPrio t.record)
    ((s.cluster p.1).disp.room p.2 ≠ none → ∃ u x, exec (.stolenTaskArrival k) s = .next u ∧ u.net = dropAt s.net k ∧
      (u.cluster p.1).disp.tasks = (s.cluster p.1).disp.tasks ++ [x] ∧ x.record = t.record ∧ x.ready = t.ready ∧
      x.queue = p.2 ∧ ((s.cluster p.1).disp.live p.2 = true → (s.cluster p.1).disp.sram < 1024 →
        x.overflow = none ∧ u.mem = s.mem)) ∧
    ((s.cluster p.1).disp.room p.2 = none → exec (.stolenTaskArrival k) s = .next s) := by
  intro p
  let s' : State := { s with net := dropAt s.net k }
  have step : exec (.stolenTaskArrival k) s = .next (if s.hasRoom dst t.record then s'.putTask dst t else s) := by
    show (match s.net[k]? with | some (.stolen _ _) => _ | _ => _) = _
    rw [packet]
  have there : s'.queuePlace dst (recordPrio t.record) = p := State.queuePlace_net _ _
  refine ⟨fun room => ?_, fun full => ?_⟩
  · obtain ⟨place, hp⟩ := Option.ne_none_iff_exists'.1 room
    have put : s'.putTask dst t = s'.holdTask p.1 p.2 t place := by
      unfold State.putTask
      rw [there]
      show s'.holdTask p.1 p.2 t (((s.cluster p.1).disp.room p.2).getD _) = _
      rw [hp]
      rfl
    have has : s.hasRoom dst t.record = true := by
      show ((s.cluster p.1).disp.room p.2).isSome = true
      rw [hp]
      rfl
    rw [if_pos has, put] at step
    obtain ⟨tasks, net⟩ := State.holdTask_spec (s := s') (k := p.1) (q := p.2) (x := t) (place := place)
    refine ⟨_, _, step, net, tasks, rfl, rfl, rfl, fun live few => ?_⟩
    have sram : place = none := by
      unfold Dispatcher.live at live
      cases hq : (s.cluster p.1).disp.queue p.2 with
      | none => rw [hq] at live; cases live
      | some tq =>
        rw [hq] at live
        exact (Dispatcher.room_some hq hp).1 live few
    subst sram
    exact ⟨rfl, rfl⟩
  · have none_ : s.hasRoom dst t.record = false := by
      show ((s.cluster p.1).disp.room p.2).isSome = false
      rw [full]
      rfl
    rw [none_] at step
    exact step

end

/-- Settles O57: an enqueue and a launch by what decides them, dispatch and stealing by the orders of the ready tasks, and
retirement by what each of its parts leaves of the core. -/
theorem taskDispatchAndRetirement : Obligations.TaskDispatchAndRetirement := by
  unfold Obligations.TaskDispatchAndRetirement
  exact ⟨fun s k src st h r mc packet => enqArrival_spec packet,
    fun s k dst st code mc packet wf home small => enqReply_spec packet wf home small,
    fun s k src st h patch mc packet => launchgArrival_spec packet, fun s c idle => taskDispatch_spec idle,
    fun s c r ready task lone => taskRetirement_spec ready task lone, fun s c not => if_pos not,
    fun s k j => ⟨rfl, fun t n ready => by unfold State.levelOf; rw [ready]; rfl⟩, fun s c r task => taskLimitExpiry_spec task,
    fun s k quiet wants fresh due => stealProbe_spec quiet wants fresh due, fun s k src dst packet => stealProbeAnswer_spec packet,
    fun s k dst t packet => stolenTaskArrival_spec packet⟩

end Sys2Proof.Machine
end

section
/-! O39: a copy command checks its block, its queues and its ranges, and then enters its hart's queue (R52, R74, R91,
R104, R338, R358 to R368). -/

namespace Sys2Proof.Machine

section
variable {s t u w y : State} {b : BitVec 6} {gather : Bool} {qd qs : Option (BitVec 3)} {bell : Option (BitVec 2)}
  {head : Nat} {ws : List Word} {i : Instr}

/-! ## The parts of a copy command -/

/-- Word j of a block. -/
def blockWord (ws : List Word) (j : Nat) : Word := (ws[j]?).getD 0

/-- LEN of a block, and LEN times COUNT for a gather. -/
def blockLen (ws : List Word) : Nat := bits (blockWord ws 2) 31 0

def blockTotal (ws : List Word) (gather : Bool) : Nat :=
  if gather then blockLen ws * bits (blockWord ws 6) 31 0 else blockLen ws

/-- The bell that a PUTS signs for is enabled, and its block asks for no event (R368). -/
def State.belled (s : State) (ws : List Word) (bell : Option (BitVec 2)) : Bool :=
  match bell with
  | none => true
  | some k => !bit (blockWord ws 3) 32 && bit ((s.me.bells.roll[k.toNat]?).getD 0) 63

/-- A block, or a queue that it goes with, that a copy command refuses as OPERAND (R361, R363, R368). -/
def State.copyRefused (s : State) (ws : List Word) (gather : Bool) (qd qs : Option (BitVec 3)) (bell : Option (BitVec 2)) : Bool :=
  let w2 := blockWord ws 2
  let w3 := blockWord ws 3
  let w6 := blockWord ws 6
  let len := blockLen ws
  let reserved := bit w2 39 || bit w2 35 || bits w3 47 33 != 0 || bits w3 31 16 != 0 || bits w6 63 34 != 0 ||
    blockWord ws 7 != 0
  let quals := plainQual (bits w3 15 8) && plainQual (bits w3 7 0)
  let shape := if gather then bits w2 34 32 == 0 && decide (len ≤ 8192) && decide (bits w6 33 32 ≤ 1) && decide (bits w6 31 0 ≤ 4096)
               else blockWord ws 5 == 0 && w6 == 0
  let queues := s.queueSideOk qs false len && s.queueSideOk qd true len &&
    !(qs.isSome && ((blockWord ws 0).toNat != 0 || bits w2 34 32 != 0 || bits w2 51 40 != 0)) &&
    !(qd.isSome && ((blockWord ws 1).toNat != 0 || bits w2 38 36 != 0 || bits w2 63 52 != 0))
  let sides := (qs.isSome || (if gather then bits w2 51 40 == 0 else targetEndOk (bits w2 34 32) (bits w2 51 40) (blockWord ws 0).toNat len)) &&
    (qd.isSome || targetEndOk (bits w2 38 36) (bits w2 63 52) (blockWord ws 1).toNat (blockTotal ws gather))
  reserved || len == 0 || !quals || !handlerOk (bit w3 32) (blockWord ws 4) || !shape || !queues || !sides || !s.belled ws bell

/-- The source ranges of a block, by the indices of a gather. -/
def blockSources (ws : List Word) (gather : Bool) (qs : Option (BitVec 3)) (idx : List Nat) : List XRange :=
  if qs.isSome then []
  else if gather then idx.map (fun i => ⟨.load, 0, 0, ((blockWord ws 0).toNat + i * blockLen ws) % 2 ^ 64, blockLen ws⟩)
  else [⟨.load, bits (blockWord ws 2) 34 32, bits (blockWord ws 2) 51 40, (blockWord ws 0).toNat, blockLen ws⟩]

def blockTargets (ws : List Word) (gather : Bool) (qd : Option (BitVec 3)) : List XRange :=
  if qd.isSome then []
  else [⟨.store, bits (blockWord ws 2) 38 36, bits (blockWord ws 2) 63 52, (blockWord ws 1).toNat, blockTotal ws gather⟩]

/-- One end of a copy: its queue, or the places of its ranges. -/
def copySide (q : Option (BitVec 3)) (l : Spans) : XferEnd := match q with | some n => .queue n | none => .memory l

/-- The command that a block becomes. -/
def State.copyCmd (s : State) (ws : List Word) (gather : Bool) (qd qs : Option (BitVec 3)) (bell : Option (BitVec 2))
    (n : Nat) (l : List Spans) : Xfer :=
  { hart := s.cur, op := .copy (copySide qs (l.take n).flatten) (copySide qd (l.drop n).flatten) (blockTotal ws gather)
    xid := BitVec.ofNat 16 (bits (blockWord ws 3) 63 48), int := bit (blockWord ws 3) 32, handler := blockWord ws 4
    bell := bell.map fun k => (k, (s.me.bells.roll[k.toNat]?).getD 0), after := s.me.mem.serial, moved := 0, ahead := []
    buf := [], ordered := gather, ended := false, done := false
    squal := BitVec.ofNat 8 (bits (blockWord ws 3) 15 8), dqual := BitVec.ofNat 8 (bits (blockWord ws 3) 7 0) }

/-- What a copy command does once its ranges are translated: its queues are looked at, and it enters the engine's queue. -/
def copyCommitM (ws : List Word) (gather : Bool) (qd qs : Option (BitVec 3)) (bell : Option (BitVec 2)) (n : Nat)
    (l : List Spans) : M Unit := do
  let s ← get
  match qd.bind (fun q => s.queueStack (coreOf s.cur) q (blockTotal ws gather / queueSize (s.qctl (coreOf s.cur) q))) with
  | some o => accessFaultM (s.padVa s.cur o)
  | none =>
    match (qs.toList ++ qd.toList).find? (fun q => !bit (s.qctl (coreOf s.cur) q) 63) with
    | some q => trapM 0x0E 0 (q.setWidth 64)
    | none => enqueueM (s.copyCmd ws gather qd qs bell n l) (blockTotal ws gather == 0)

/-- The indices of a gather. -/
def blockIndexM (ws : List Word) (gather : Bool) : M (List Nat) :=
  if gather then indexListM (blockWord ws 5) (bits (blockWord ws 6) 31 0) (bits (blockWord ws 6) 33 32) else pure []

/-- A copy command with its block read. -/
def copyBlockM (a : Word) (ws : List Word) (gather : Bool) (qd qs : Option (BitVec 3)) (bell : Option (BitVec 2)) (head : Nat) : M Unit := do
  let s ← get
  if scopeBad (bits (blockWord ws 3) 15 8) || scopeBad (bits (blockWord ws 3) 7 0) then illegalM head else
  if s.copyRefused ws gather qd qs bell then operandM a else
  let idx ← blockIndexM ws gather
  let l ← rangesM true true (blockSources ws gather qs idx ++ blockTargets ws gather qd)
  copyCommitM ws gather qd qs bell (blockSources ws gather qs idx).length l

theorem copyM_eq : copyM b gather qd qs bell head = (do
    let s ← get
    if (qd.isSome || qs.isSome) && (kindOf s.cur == 3 || s.ctx == .handler) then illegalM head else
    let a := s.x b
    if a.toNat % 64 ≠ 0 then operandM a else
    let ws ← loadWords a 8
    copyBlockM a ws gather qd qs bell head) := by
  cases gather <;> rfl

/-! ## The block is read and checked -/

/-- A copy command reads its block where its queues may be named and its address is aligned. -/
theorem copyM_reads (named : (qs.isSome || qd.isSome) = true → kindOf s.cur ≠ 3 ∧ s.ctx = .main) (h64 : (s.x b).toNat % 64 = 0)
    (load : Gives (loadWords (s.x b) 8) s ws u) :
    (copyM b gather qd qs bell head).run s = (copyBlockM (s.x b) ws gather qd qs bell head).run u := by
  have legal : ((qd.isSome || qs.isSome) && (kindOf s.cur == 3 || s.ctx == .handler)) = false := by
    cases h : qd.isSome || qs.isSome with
    | false => rfl
    | true =>
      obtain ⟨hk, hc⟩ := named (by rw [Bool.or_comm]; exact h)
      simp [hk, hc]
  rw [copyM_eq, bind_get, legal, if_neg (by decide)]
  dsimp only
  rw [if_neg (by omega), bind_ok load]

theorem copyM_misaligned (named : (qs.isSome || qd.isSome) = true → kindOf s.cur ≠ 3 ∧ s.ctx = .main)
    (h64 : (s.x b).toNat % 64 ≠ 0) :
    (copyM b gather qd qs bell head).run s = (.error (.trap (BitVec.ofNat 64 0x05) (s.x b)), s) := by
  have legal : ((qd.isSome || qs.isSome) && (kindOf s.cur == 3 || s.ctx == .handler)) = false := by
    cases h : qd.isSome || qs.isSome with
    | false => rfl
    | true =>
      obtain ⟨hk, hc⟩ := named (by rw [Bool.or_comm]; exact h)
      simp [hk, hc]
  rw [copyM_eq, bind_get, legal, if_neg (by decide)]
  dsimp only
  rw [if_pos h64, run_operandM]

/-- The reserved fields of a block are 0, and its LEN, qualifiers and handler are in order. -/
def BlockTidy (ws : List Word) : Prop :=
  bit (blockWord ws 2) 39 = false ∧ bit (blockWord ws 2) 35 = false ∧ bits (blockWord ws 3) 47 33 = 0 ∧
    bits (blockWord ws 3) 31 16 = 0 ∧ bits (blockWord ws 6) 63 34 = 0 ∧ blockWord ws 7 = 0 ∧ blockLen ws ≠ 0 ∧
    plainQual (bits (blockWord ws 3) 15 8) = true ∧ plainQual (bits (blockWord ws 3) 7 0) = true ∧
    scopeBad (bits (blockWord ws 3) 15 8) = false ∧ scopeBad (bits (blockWord ws 3) 7 0) = false ∧
    handlerOk (bit (blockWord ws 3) 32) (blockWord ws 4) = true

/-- A source or a target field beside a queue is 0, and else names a target with its range. -/
def blockSideOk (q : Option (BitVec 3)) (address : Word) (tgt loc n : Nat) : Prop :=
  if q.isSome then address = 0 ∧ tgt = 0 ∧ loc = 0 else targetEndOk tgt loc address.toNat n = true

theorem blockSideOk_spec {q : Option (BitVec 3)} {address : Word} {tgt loc n : Nat} (h : blockSideOk q address tgt loc n) :
    (q.isSome && (address.toNat != 0 || tgt != 0 || loc != 0)) = false ∧ (q.isSome || targetEndOk tgt loc address.toNat n) = true := by
  unfold blockSideOk at h
  cases q with
  | none => exact ⟨rfl, by simpa using h⟩
  | some k =>
    obtain ⟨rfl, rfl, rfl⟩ := (if_pos rfl : _ = _).mp h
    exact ⟨rfl, rfl⟩

/-- The bell that a PUTS signs for is enabled, and the block asks for no event. -/
def BellOk (u : State) (ws : List Word) (bell : Option (BitVec 2)) : Prop :=
  ∀ k, bell = some k → bit (blockWord ws 3) 32 = false ∧ bit (u.roll u.cur k) 63 = true

theorem belled_of_ok (h : BellOk u ws bell) : u.belled ws bell = true := by
  cases bell with
  | none => rfl
  | some k =>
    obtain ⟨int, on⟩ := h k rfl
    show (!bit (blockWord ws 3) 32 && bit (u.roll u.cur k) 63) = true
    rw [int, on]
    rfl

theorem copyRefused_plain (tidy : BlockTidy ws) (h5 : blockWord ws 5 = 0) (h6 : blockWord ws 6 = 0)
    (src : blockSideOk qs (blockWord ws 0) (bits (blockWord ws 2) 34 32) (bits (blockWord ws 2) 51 40) (blockLen ws))
    (dst : blockSideOk qd (blockWord ws 1) (bits (blockWord ws 2) 38 36) (bits (blockWord ws 2) 63 52) (blockLen ws))
    (reads : u.queueSideOk qs false (blockLen ws) = true) (writes : u.queueSideOk qd true (blockLen ws) = true)
    (rings : BellOk u ws bell) : u.copyRefused ws false qd qs bell = false := by
  obtain ⟨r1, r2, r3, r4, r5, r6, len, q1, q2, -, -, handler⟩ := tidy
  obtain ⟨s1, s2⟩ := blockSideOk_spec src
  obtain ⟨d1, d2⟩ := blockSideOk_spec dst
  have total : blockTotal ws false = blockLen ws := rfl
  have belled := belled_of_ok rings
  unfold State.copyRefused
  dsimp only
  rw [belled, total, r1, r2, r3, r4, r5, r6, h5, h6, q1, q2, handler, reads, writes, s1, d1, d2]
  simp [len, s2]

/-- A block of a command that goes on. -/
theorem copyBlockM_goes {a : Word} {idx : List Nat} {l : List Spans} (tidy : BlockTidy ws)
    (good : u.copyRefused ws gather qd qs bell = false)
    (index : Gives (blockIndexM ws gather) u idx y) (ranges : Gives (rangesM true true (blockSources ws gather qs idx ++ blockTargets ws gather qd)) y l w) :
    (copyBlockM a ws gather qd qs bell head).run u =
      (copyCommitM ws gather qd qs bell (blockSources ws gather qs idx).length l).run w := by
  obtain ⟨-, -, -, -, -, -, -, -, -, b1, b2, -⟩ := tidy
  unfold copyBlockM
  rw [bind_get, b1, b2, if_neg (by decide), good, if_neg (by decide), bind_ok index, bind_ok ranges]

theorem copyBlockM_reserved {a : Word} (bad : scopeBad (bits (blockWord ws 3) 15 8) = true ∨ scopeBad (bits (blockWord ws 3) 7 0) = true) :
    (copyBlockM a ws gather qd qs bell head).run u = (.error (.trap (BitVec.ofNat 64 0x03) (BitVec.ofNat 64 head)), u) := by
  unfold copyBlockM
  rw [bind_get, if_pos (by simpa using bad), run_illegalM]

theorem copyBlockM_empty {a : Word} (b1 : scopeBad (bits (blockWord ws 3) 15 8) = false)
    (b2 : scopeBad (bits (blockWord ws 3) 7 0) = false) (len : blockLen ws = 0) :
    (copyBlockM a ws gather qd qs bell head).run u = (.error (.trap (BitVec.ofNat 64 0x05) a), u) := by
  have bad : u.copyRefused ws gather qd qs bell = true := by
    unfold State.copyRefused
    dsimp only
    rw [len]
    simp
  unfold copyBlockM
  rw [bind_get, b1, b2, if_neg (by decide), if_pos bad, run_operandM]

/-! ## The command commits (R52, R72, R369) -/

/-- The queue that one side names is enabled. -/
def State.queueAble (s : State) (q : Option (BitVec 3)) : Prop := ∀ n, q = some n → bit (s.qctl (coreOf s.cur) n) 63 = true

/-- No element that a command appends lies in the thatcher's stack. -/
def State.queueClear (s : State) (q : Option (BitVec 3)) (n : Nat) : Prop :=
  ∀ k, q = some k → s.queueStack (coreOf s.cur) k (n / queueSize (s.qctl (coreOf s.cur) k)) = none

/-- The state with a command at the end of the executing hart's queue. -/
def State.queueCopy (s : State) (x : Xfer) : State :=
  s.modMe fun h => { h with copy := { h.copy with queue := h.copy.queue ++ [x] } }

theorem copyCommitM_run {n : Nat} {l : List Spans} (clear : w.queueClear qd (blockTotal ws gather)) :
    (copyCommitM ws gather qd qs bell n l).run w =
      match (qs.toList ++ qd.toList).find? (fun q => !bit (w.qctl (coreOf w.cur) q) 63) with
      | some q => (.error (.trap (BitVec.ofNat 64 0x0E) (q.setWidth 64)), w)
      | none => (enqueueM (w.copyCmd ws gather qd qs bell n l) (blockTotal ws gather == 0)).run w := by
  have stack : qd.bind (fun q => w.queueStack (coreOf w.cur) q (blockTotal ws gather / queueSize (w.qctl (coreOf w.cur) q))) = none := by
    cases qd with
    | none => rfl
    | some k => exact clear k rfl
  unfold copyCommitM
  rw [bind_get, stack]
  dsimp only
  split
  · exact run_trapM
  · rfl

/-- The first of a command's queues that is disabled. -/
theorem find_disabled : (w.queueAble qs → w.queueAble qd → (qs.toList ++ qd.toList).find? (fun q => !bit (w.qctl (coreOf w.cur) q) 63) = none) ∧
    (∀ k, qs = some k → ¬ w.queueAble qs → (qs.toList ++ qd.toList).find? (fun q => !bit (w.qctl (coreOf w.cur) q) 63) = some k) ∧
    (∀ k, qd = some k → w.queueAble qs → ¬ w.queueAble qd →
      (qs.toList ++ qd.toList).find? (fun q => !bit (w.qctl (coreOf w.cur) q) 63) = some k) := by
  have off : ∀ k, ¬ w.queueAble (some k) → bit (w.qctl (coreOf w.cur) k) 63 = false := by
    intro k h
    by_contra on
    exact h fun n e => by cases e; simpa using on
  refine ⟨fun src dst => ?_, ?_, ?_⟩
  · rw [List.find?_eq_none]
    intro q hq
    rw [List.mem_append, Option.mem_toList, Option.mem_toList] at hq
    rcases hq with hq | hq
    · simp [src q hq]
    · simp [dst q hq]
  · rintro k rfl bad
    simp [off k bad]
  · rintro k rfl src bad
    cases qs with
    | none => simp [off k bad]
    | some j => simp [off k bad, src j rfl]

theorem enqueueM_done {x : Xfer} (room : w.me.copy.queue.length < 2) : (enqueueM x false).run w = (.ok (), (w.queueCopy x).retire) := by
  unfold enqueueM
  rw [bind_get, if_neg (by decide), if_neg (by omega)]
  rfl

theorem enqueueM_waits {x : Xfer} (full : 2 ≤ w.me.copy.queue.length) : (enqueueM x false).run w = (.error (.park .engine none), w) := by
  unfold enqueueM
  rw [bind_get, if_neg (by decide), if_pos full, run_parkM]

/-- A head that puts a command into its hart's queue ends as heads do. -/
theorem endsAs_queueCopy {x : Xfer} (he : exec i s = .next (w.queueCopy x).retire) :
    EndsAs i s w (w.modMe fun h => { h with copy := { h.copy with queue := h.copy.queue ++ [x] } }) [] [] [] 0 fun t =>
      t.me.copy.queue = w.me.copy.queue ++ [x] :=
  endsAs_retire he (State.pc_modMe rfl rfl) (State.image_modMe rfl rfl) (by simp) ⟨by simp, by simp⟩

/-- How a command whose checks have passed ends, by its queues. -/
theorem copy_ends {n : Nat} {l : List Spans} {m : M Unit} {x : Xfer} (hx : x = w.copyCmd ws gather qd qs bell n l) (he : exec i s = finish (m.run s))
    (goes : m.run s = (copyCommitM ws gather qd qs bell n l).run w) (clear : w.queueClear qd (blockTotal ws gather))
    (counts : blockTotal ws gather ≠ 0) :
    (w.queueAble qs → w.queueAble qd → w.me.copy.queue.length < 2 → EndsAs i s w
      (w.modMe fun h => { h with copy := { h.copy with queue := h.copy.queue ++ [x] } }) [] [] [] 0 fun t =>
      t.me.copy.queue = w.me.copy.queue ++ [x]) ∧
    (w.queueAble qs → w.queueAble qd → 2 ≤ w.me.copy.queue.length → ∃ t, exec i s = .next t ∧ t.pc = w.pc ∧
      (t.parkedAs .engine).isSome = true ∧ t.me.copy.queue = w.me.copy.queue) ∧
    (∀ k, qs = some k → ¬ w.queueAble qs →
      exec i s = .next (w.dropReply.takeTrap (BitVec.ofNat 64 0x0E) w.pc (k.setWidth 64))) ∧
    (∀ k, qd = some k → w.queueAble qs → ¬ w.queueAble qd →
      exec i s = .next (w.dropReply.takeTrap (BitVec.ofNat 64 0x0E) w.pc (k.setWidth 64))) := by
  subst hx
  obtain ⟨all, first_, second⟩ := find_disabled (w := w) (qs := qs) (qd := qd)
  have more : (blockTotal ws gather == 0) = false := by simpa using counts
  rw [copyCommitM_run clear] at goes
  refine ⟨fun src dst room => ?_, fun src dst full => ?_, fun k hk off => ?_, fun k hk src off => ?_⟩
  · rw [all src dst, more] at goes
    exact endsAs_queueCopy (exec_of_run he (goes.trans (enqueueM_done room)))
  · rw [all src dst, more] at goes
    have step : exec i s = .next (w.parkCtx .engine none) := by
      rw [he, goes.trans (enqueueM_waits full)]
      rfl
    exact ⟨_, step, State.pc_parkCtx _ _, State.parkedAs_parkCtx _ _, State.parkCtx_part (·.copy.queue) (fun _ _ _ => rfl) _ _⟩
  · rw [first_ k hk off] at goes
    exact exec_trap_of_run he goes
  · rw [second k hk src off] at goes
    exact exec_trap_of_run he goes

/-- A copy command whose block and ranges check reaches its queues. -/
theorem copyM_goes {idx : List Nat} {l : List Spans}
    (named : (qs.isSome || qd.isSome) = true → kindOf s.cur ≠ 3 ∧ s.ctx = .main) (h64 : (s.x b).toNat % 64 = 0)
    (load : Gives (loadWords (s.x b) 8) s ws u) (tidy : BlockTidy ws) (good : u.copyRefused ws gather qd qs bell = false)
    (index : Gives (blockIndexM ws gather) u idx y)
    (ranges : Gives (rangesM true true (blockSources ws gather qs idx ++ blockTargets ws gather qd)) y l w) :
    (copyM b gather qd qs bell head).run s = (copyCommitM ws gather qd qs bell (blockSources ws gather qs idx).length l).run w :=
  (copyM_reads named h64 load).trans (copyBlockM_goes tidy good index ranges)

/-- The faults that a copy command's block makes by itself (R91, R361). -/
theorem copy_stops {acc : Accept} (he : ∀ s, Accepted acc i [b] [] 0 s → exec i s = finish ((copyM b gather none none bell head).run s)) :
    (∀ s, Accepted acc i [b] [] 0 s → (s.x b).toNat % 64 ≠ 0 → Traps i s (BitVec.ofNat 64 0x05) (s.x b)) ∧
    ∀ s ws u, Accepted acc i [b] [] 0 s → (s.x b).toNat % 64 = 0 → Gives (loadWords (s.x b) 8) s ws u →
      (scopeBad (bits (blockWord ws 3) 15 8) = true ∨ scopeBad (bits (blockWord ws 3) 7 0) = true →
        exec i s = .next (u.dropReply.takeTrap (BitVec.ofNat 64 0x03) u.pc (BitVec.ofNat 64 head))) ∧
      (scopeBad (bits (blockWord ws 3) 15 8) = false → scopeBad (bits (blockWord ws 3) 7 0) = false → blockLen ws = 0 →
        exec i s = .next (u.dropReply.takeTrap (BitVec.ofNat 64 0x05) u.pc (s.x b))) := by
  have named : ∀ s : State, ((none : Option (BitVec 3)).isSome || (none : Option (BitVec 3)).isSome) = true → kindOf s.cur ≠ 3 ∧ s.ctx = .main :=
    fun _ h => absurd h (by decide)
  refine ⟨fun s ha h64 => traps_of_run (he s ha) (copyM_misaligned (named s) h64), fun s ws u ha h64 load => ⟨fun bad => ?_, fun b1 b2 len => ?_⟩⟩
  · exact exec_trap_of_run (he s ha) ((copyM_reads (named s) h64 load).trans (copyBlockM_reserved bad))
  · exact exec_trap_of_run (he s ha) ((copyM_reads (named s) h64 load).trans (copyBlockM_empty b1 b2 len))

/-! ## COPY, GATHER, PUTS and COPYW -/

theorem exec_copy {v w : BitVec 1} {d q : BitVec 3} (ha : Accepted acceptAll (.copy b v d w q) [b] [] 0 s) :
    exec (.copy b v d w q) s = finish ((copyM b false (queueField v d) (queueField w q) none (headOf 0x59 2 b.toNat)).run s) :=
  ha.exec_eq rfl

theorem exec_puts {k : BitVec 2} (ha : Accepted acceptMain (.puts b k) [b] [] 0 s) :
    exec (.puts b k) s = finish ((copyM b false none none (some k) (headOf 0x5C 2 b.toNat)).run s) :=
  ha.exec_eq rfl

theorem exec_gather {v : BitVec 1} {d : BitVec 3} (ha : Accepted ⟨true, false, false, true⟩ (.gather b v d) [b] [] 0 s) :
    exec (.gather b v d) s = finish ((copyM b true (queueField v d) none none (headOf 0x58 2 b.toNat)).run s) :=
  ha.exec_eq rfl

/-- What COPYW and COPYW.ALL do, by the transfers that they wait for. -/
def copyWaitM (p : State → Xfer → Bool) : M Unit := do
  let s ← get
  if s.xferWaits (p s) then parkM .copyw else set s.retire

theorem copyWait_done {p : State → Xfer → Bool} (he : exec i s = finish ((copyWaitM p).run s)) (free : s.xferWaits (p s) = false) :
    EndsAs i s s s [] [] [] 0 fun _ => True := by
  have goes : (copyWaitM p).run s = (.ok (), s.retire) := by
    unfold copyWaitM
    rw [bind_get, free, if_neg (by decide), run_set]
  exact endsAs_retire (exec_of_run he goes) rfl rfl rfl ⟨trivial, trivial⟩

theorem copyWait_waits {p : State → Xfer → Bool} (he : exec i s = finish ((copyWaitM p).run s)) (busy : s.xferWaits (p s) = true) :
    Waits i s .copyw := by
  refine waits_of_run (l := none) he ?_ rfl
  unfold copyWaitM
  rw [bind_get, if_pos busy, run_parkM]

theorem exec_copyw (ha : Accepted acceptAll (.copyw b) [b] [] 0 s) :
    exec (.copyw b) s = finish ((copyWaitM fun s x => x.xid == (s.x b).setWidth 16).run s) :=
  ha.exec_eq rfl

theorem exec_copywAll (ha : Accepted acceptAll .copywAll [] [] 0 s) :
    exec .copywAll s = finish ((copyWaitM fun _ _ => true).run s) :=
  ha.exec_eq rfl

/-- A gather's block that is in order. -/
theorem copyRefused_gather (tidy : BlockTidy ws) (tgt : bits (blockWord ws 2) 34 32 = 0) (loc : bits (blockWord ws 2) 51 40 = 0)
    (short : blockLen ws ≤ 8192) (iw : bits (blockWord ws 6) 33 32 ≤ 1) (count : bits (blockWord ws 6) 31 0 ≤ 4096)
    (dst : blockSideOk qd (blockWord ws 1) (bits (blockWord ws 2) 38 36) (bits (blockWord ws 2) 63 52) (blockTotal ws true))
    (writes : u.queueSideOk qd true (blockLen ws) = true) : u.copyRefused ws true qd none none = false := by
  obtain ⟨r1, r2, r3, r4, r5, r6, len, q1, q2, -, -, handler⟩ := tidy
  obtain ⟨d1, d2⟩ := blockSideOk_spec dst
  have reads : u.queueSideOk none false (blockLen ws) = true := rfl
  unfold State.copyRefused
  dsimp only
  rw [r1, r2, r3, r4, r5, r6, q1, q2, handler, tgt, loc, reads, writes, d1, d2]
  simp [len, short, iw, count, State.belled]

/-- How COPY and PUTS end once their checks have passed. -/
theorem copy_plain {acc : Accept} (he : ∀ s, Accepted acc i [b] [] 0 s → exec i s = finish ((copyM b false qd qs bell head).run s))
    {l : List Spans} {x : Xfer} (ha : Accepted acc i [b] [] 0 s) (h64 : (s.x b).toNat % 64 = 0)
    (named : (qs.isSome || qd.isSome) = true → kindOf s.cur ≠ 3 ∧ s.ctx = .main)
    (load : Gives (loadWords (s.x b) 8) s ws u) (tidy : BlockTidy ws) (h5 : blockWord ws 5 = 0) (h6 : blockWord ws 6 = 0)
    (src : blockSideOk qs (blockWord ws 0) (bits (blockWord ws 2) 34 32) (bits (blockWord ws 2) 51 40) (blockLen ws))
    (dst : blockSideOk qd (blockWord ws 1) (bits (blockWord ws 2) 38 36) (bits (blockWord ws 2) 63 52) (blockLen ws))
    (reads : u.queueSideOk qs false (blockLen ws) = true) (writes : u.queueSideOk qd true (blockLen ws) = true)
    (rings : BellOk u ws bell)
    (ranges : Gives (rangesM true true (blockSources ws false qs [] ++ blockTargets ws false qd)) u l w)
    (clear : w.queueClear qd (blockLen ws))
    (hx : x = w.copyCmd ws false qd qs bell (blockSources ws false qs []).length l) :
    (w.queueAble qs → w.queueAble qd → w.me.copy.queue.length < 2 → EndsAs i s w
      (w.modMe fun h => { h with copy := { h.copy with queue := h.copy.queue ++ [x] } }) [] [] [] 0 fun t =>
      t.me.copy.queue = w.me.copy.queue ++ [x]) ∧
    (w.queueAble qs → w.queueAble qd → 2 ≤ w.me.copy.queue.length → ∃ t, exec i s = .next t ∧ t.pc = w.pc ∧
      (t.parkedAs .engine).isSome = true ∧ t.me.copy.queue = w.me.copy.queue) ∧
    (∀ k, qs = some k → ¬ w.queueAble qs →
      exec i s = .next (w.dropReply.takeTrap (BitVec.ofNat 64 0x0E) w.pc (k.setWidth 64))) ∧
    (∀ k, qd = some k → w.queueAble qs → ¬ w.queueAble qd →
      exec i s = .next (w.dropReply.takeTrap (BitVec.ofNat 64 0x0E) w.pc (k.setWidth 64))) :=
  copy_ends hx (he s ha) (copyM_goes named h64 load tidy (copyRefused_plain tidy h5 h6 src dst reads writes rings) rfl ranges)
    clear (by obtain ⟨-, -, -, -, -, -, len, -⟩ := tidy; exact len)

end

/-- Settles O39: a copy command reads its block, checks it and its ranges, and commits to its hart's queue; COPYW looks at
the unfinished transfers. -/
theorem copyCommands : Obligations.CopyCommands := by
  unfold Obligations.CopyCommands
  intro W len tidy cmd queued side able clear srcOf dstOf srcOk dstOk plain stops
  have plains : ∀ {acc : Accept} {i : Instr} {b : BitVec 6} {bell : Option (BitVec 2)} {qs qd : Option (BitVec 3)} {head : Nat},
      (∀ s, Accepted acc i [b] [] 0 s → exec i s = finish ((copyM b false qd qs bell head).run s)) → plain acc i b bell qs qd := by
    intro acc i b bell qs qd head he s u w ws l ha h64 named load _ ok h5 h6 src dst reads writes rings ranges hw free
    exact copy_plain he ha h64 named load ok h5 h6 src dst reads writes rings ranges free (by rw [State.copyCmd, hw]; rfl)
  refine ⟨fun b v d w q => plains fun _ => exec_copy, fun b => copy_stops fun _ => exec_copy,
    fun b k => ⟨plains fun _ => exec_puts, copy_stops fun _ => exec_puts⟩, fun b => copy_stops fun _ => exec_gather, ?_,
    fun b s ha free => copyWait_done (exec_copyw ha) free, fun b s ha busy => copyWait_waits (exec_copyw ha) busy,
    fun s ha free => copyWait_done (exec_copywAll ha) free, fun s ha busy => copyWait_waits (exec_copywAll ha) busy⟩
  intro b v d s u y w ws idx l n qd ha h64 named load _ ok tgt loc short iw count nonzero dst writes index ranges hw free on room
  have named' : ((none : Option (BitVec 3)).isSome || qd.isSome) = true → kindOf s.cur ≠ 3 ∧ s.ctx = .main := by
    intro h
    refine named ?_
    by_contra hv
    have : qd = none := if_neg hv
    rw [this] at h
    exact absurd h (by decide)
  have counts : blockTotal ws true ≠ 0 := by
    obtain ⟨-, -, -, -, -, -, hl, -⟩ := ok
    exact Nat.mul_ne_zero hl nonzero
  have goes := copyM_goes (head := headOf 0x58 2 b.toNat) named' h64 load ok
    (copyRefused_gather ok tgt loc short iw count dst writes) index ranges
  have length : (blockSources ws true none idx).length = idx.length := List.length_map _
  rw [length] at goes
  exact (copy_ends (by rw [State.copyCmd, hw]; rfl) (exec_gather ha) goes free counts).1 (fun _ h => absurd h (by simp)) on room

end Sys2Proof.Machine
end

section
/-! Translated places: the home of each of their bytes, what an engine reads there and what its write leaves (R104 to R106). -/

namespace Sys2Proof.Machine

section
variable {s t u : State} {a b n k j : Nat} {d : List Byte} {l r : Spans} {p : Piece} {v : Via}

/-! ## The bytes of translated places -/

/-- The home of byte j of translated places. -/
def spanAddr (l : Spans) (j : Nat) : Nat := (((partSpans l j 1).head?).map (·.home)).getD 0

/-- How many bytes translated places have. -/
def spanLen (l : Spans) : Nat := (l.map (·.len)).sum

theorem spanLen_cons : spanLen (p :: r) = p.len + spanLen r := by
  unfold spanLen
  rw [List.map_cons, List.sum_cons]

theorem spanAddr_nil : spanAddr [] j = 0 := rfl

theorem spanAddr_cons : spanAddr (p :: r) j = if j < p.len then p.home + j else spanAddr r (j - p.len) := by
  unfold spanAddr partSpans
  rw [skipSpans]
  by_cases h : p.len ≤ j
  · rw [if_pos h, if_neg (by omega)]
  · rw [if_neg h, if_pos (by omega), takeSpans, if_neg (by decide)]
    split <;> rfl

theorem spanAddr_skipSpans : spanAddr (skipSpans l k) j = spanAddr l (k + j) := by
  induction l generalizing k with
  | nil => rfl
  | cons p r ih =>
    rw [skipSpans, spanAddr_cons]
    split
    · next h => rw [ih, if_neg (by omega), show k + j - p.len = k - p.len + j by omega]
    · next h =>
      rw [spanAddr_cons]
      dsimp only
      by_cases e : k + j < p.len
      · rw [if_pos (by omega), if_pos e, Nat.add_assoc]
      · rw [if_neg (by omega), if_neg e, show j - (p.len - k) = k + j - p.len by omega]

theorem spanAddr_takeSpans (h : j < k) : spanAddr (takeSpans l k) j = spanAddr l j := by
  induction l generalizing k j with
  | nil => rfl
  | cons p r ih =>
    rw [takeSpans, if_neg (by omega), spanAddr_cons]
    split
    · rw [spanAddr_cons]
      by_cases e : j < p.len
      · rw [if_pos e, if_pos e]
      · rw [if_neg e, if_neg e, ih (by omega)]
    · rw [spanAddr_cons, if_pos h, if_pos (by omega)]

theorem spanAddr_partSpans (h : j < k) : spanAddr (partSpans l n k) j = spanAddr l (n + j) :=
  (spanAddr_takeSpans h).trans spanAddr_skipSpans

theorem spanLen_skipSpans : spanLen (skipSpans l k) = spanLen l - k := by
  induction l generalizing k with
  | nil => exact (Nat.zero_sub k).symm
  | cons p r ih =>
    rw [skipSpans, spanLen_cons]
    split
    · rw [ih]
      omega
    · rw [spanLen_cons]
      dsimp only
      omega

theorem spanLen_takeSpans : spanLen (takeSpans l k) = min k (spanLen l) := by
  induction l generalizing k with
  | nil => exact (Nat.min_zero k).symm
  | cons p r ih =>
    rw [takeSpans, spanLen_cons]
    split
    · next h => simp [h, spanLen]
    · split
      · rw [spanLen_cons, ih]
        omega
      · rw [spanLen_cons]
        dsimp only
        rw [show spanLen [] = 0 from rfl]
        omega

theorem spanLen_partSpans (h : n + k ≤ spanLen l) : spanLen (partSpans l n k) = k := by
  unfold partSpans
  rw [spanLen_takeSpans, spanLen_skipSpans]
  omega

/-- No place is empty. -/
def Solid (l : Spans) : Prop := ∀ p ∈ l, 0 < p.len

theorem Solid.tail (h : Solid (p :: r)) : Solid r := fun q hq => h q (.tail _ hq)

theorem Solid.skipSpans (h : Solid l) : Solid (skipSpans l k) := by
  induction l generalizing k with
  | nil => exact h
  | cons p r ih =>
    rw [Machine.skipSpans]
    split
    · exact ih h.tail
    · intro q hq
      cases hq with
      | head => dsimp only; omega
      | tail _ hq => exact h q (.tail _ hq)

theorem Solid.takeSpans (h : Solid l) : Solid (takeSpans l k) := by
  induction l generalizing k with
  | nil => exact h
  | cons p r ih =>
    rw [Machine.takeSpans]
    split
    · exact fun _ hq => absurd hq List.not_mem_nil
    · split
      · intro q hq
        cases hq with
        | head => exact h p (.head _)
        | tail _ hq => exact ih h.tail q hq
      · intro q hq
        cases hq with
        | head => dsimp only; omega
        | tail _ hq => exact absurd hq List.not_mem_nil

theorem Solid.partSpans (h : Solid l) : Solid (partSpans l n k) := h.skipSpans.takeSpans

/-! ## Reads -/

theorem upFrom_succ : upFrom a (n + 1) = upFrom a n ++ [a + n] := by
  rw [upFrom_eq_range', upFrom_eq_range', List.range'_concat, Nat.one_mul]

theorem State.getBytes_append (h : b = a + n) : s.getBytes a n ++ s.getBytes b k = s.getBytes a (n + k) := by
  unfold State.getBytes
  rw [h, List.range_add, List.map_append, List.map_map]
  exact congrArg _ (List.map_congr_left fun i _ => congrArg _ (Nat.add_assoc _ _ _))

theorem State.getBytes_congr (h : t.mem = s.mem) : t.getBytes a n = s.getBytes a n := by
  unfold State.getBytes
  rw [h]

/-- An engine's read of ready lines gives their bytes. -/
theorem State.engineReadAs_ready {sync : Bool} (ready : ∀ b, a ≤ b → b ≤ a ∨ b < a + n → s.ready b) :
    (s.engineReadAs v sync a n).1 = s.getBytes a n ∧ s.SameLines (s.engineReadAs v sync a n).2 ∧
      (s.engineReadAs v sync a n).2.mem = s.mem := by
  have fold : ∀ m, m ≤ (a + n + 64 - 1) / 64 - a / 64 →
      let o := ((upFrom (a / 64) m).map fun l => (max a (64 * l), min (a + n) (64 * l + 64) - max a (64 * l))).foldl
        (fun (acc : List Byte × State) q =>
          let s := acc.2
          let s := if sync then s else (s.applyLine q.1).touch q.1 v.qual false v.reader
          (acc.1 ++ (if s.inSpill q.1 then List.replicate q.2 0 else s.getBytes q.1 q.2), s)) ([], s)
      o.1 = s.getBytes a (min (a + n) (64 * (a / 64 + m)) - a) ∧ s.SameLines o.2 ∧ o.2.mem = s.mem := by
    intro m
    induction m with
    | zero =>
      intro _
      refine ⟨?_, .refl s, rfl⟩
      rw [show min (a + n) (64 * (a / 64 + 0)) - a = 0 by omega]
      rfl
    | succ m ih =>
      intro hm
      obtain ⟨bytes, lines, mem⟩ := ih (by omega)
      rw [upFrom_succ, List.map_append, List.foldl_append]
      generalize ((upFrom (a / 64) m).map fun l => (max a (64 * l), min (a + n) (64 * l + 64) - max a (64 * l))).foldl
        (fun (acc : List Byte × State) q =>
          let s := acc.2
          let s := if sync then s else (s.applyLine q.1).touch q.1 v.qual false v.reader
          (acc.1 ++ (if s.inSpill q.1 then List.replicate q.2 0 else s.getBytes q.1 q.2), s)) ([], s) = o at bytes lines mem ⊢
      have here := lines.ready (ready (max a (64 * (a / 64 + m))) (by omega) (by omega))
      have next : o.2.SameLines (if sync then o.2 else (o.2.applyLine (max a (64 * (a / 64 + m)))).touch
            (max a (64 * (a / 64 + m))) v.qual false v.reader) ∧
          (if sync then o.2 else (o.2.applyLine (max a (64 * (a / 64 + m)))).touch
            (max a (64 * (a / 64 + m))) v.qual false v.reader).mem = o.2.mem := by
        rw [State.applyLine_ready here]
        split
        · exact ⟨.refl _, rfl⟩
        · exact State.touch_ready here
      refine ⟨?_, lines.trans next.1, next.2.trans mem⟩
      simp only [List.map_cons, List.map_nil, List.foldl_cons, List.foldl_nil]
      rw [if_neg (by rw [(next.1.ready here).1]; decide), bytes, State.getBytes_congr (next.2.trans mem)]
      by_cases first : m = 0
      · subst first
        rw [show min (a + n) (64 * (a / 64 + 0)) - a = 0 by omega, show max a (64 * (a / 64 + 0)) = a by omega,
          show s.getBytes a 0 = [] from rfl, List.nil_append]
        congr 1
      · rw [State.getBytes_append (by omega)]
        congr 1
        omega
  obtain ⟨bytes, lines, mem⟩ := fold _ le_rfl
  refine ⟨bytes.trans ?_, lines, mem⟩
  congr 1
  omega

/-- The bytes of translated places. -/
def State.spanBytes (s : State) (l : Spans) : List Byte := (List.range (spanLen l)).map fun j => memGet s.mem (spanAddr l j)

theorem State.spanBytes_cons : s.spanBytes (p :: r) = s.getBytes p.home p.len ++ s.spanBytes r := by
  unfold State.spanBytes State.getBytes
  rw [spanLen_cons, List.range_add, List.map_append, List.map_map]
  refine congr (congrArg _ (List.map_congr_left fun i hi => ?_)) (List.map_congr_left fun i _ => ?_)
  · rw [spanAddr_cons, if_pos (List.mem_range.1 hi)]
  · show memGet s.mem (spanAddr (p :: r) (p.len + i)) = _
    rw [spanAddr_cons, if_neg (by omega), Nat.add_sub_cancel_left]

theorem State.spanBytes_congr (h : t.mem = s.mem) : t.spanBytes l = s.spanBytes l := by
  unfold State.spanBytes
  rw [h]

theorem State.spanBytes_length : (s.spanBytes l).length = spanLen l := by
  unfold State.spanBytes
  rw [List.length_map, List.length_range]

theorem State.spanBytes_get (h : j < spanLen l) : ((s.spanBytes l)[j]?).getD 0 = memGet s.mem (spanAddr l j) := by
  unfold State.spanBytes
  simp [h]

/-- Every byte of translated places can be read and written as it stands. -/
def State.readyAt (s : State) (l : Spans) : Prop := ∀ j, j < spanLen l → s.ready (spanAddr l j)

theorem State.readyAt.head (h : s.readyAt (p :: r)) (pos : 0 < p.len) : ∀ b, p.home ≤ b → b ≤ p.home ∨ b < p.home + p.len → s.ready b := by
  intro b low high
  have := h (b - p.home) (by rw [spanLen_cons]; omega)
  rwa [spanAddr_cons, if_pos (by omega), show p.home + (b - p.home) = b by omega] at this

theorem State.readyAt.tail (h : s.readyAt (p :: r)) : s.readyAt r := by
  intro j hj
  have := h (p.len + j) (by rw [spanLen_cons]; omega)
  rwa [spanAddr_cons, if_neg (by omega), Nat.add_sub_cancel_left] at this

theorem State.readyAt.part (h : s.readyAt l) (fits : n + k ≤ spanLen l) : s.readyAt (partSpans l n k) := by
  intro j hj
  rw [spanLen_partSpans fits] at hj
  rw [spanAddr_partSpans hj]
  exact h _ (by omega)

theorem State.SameLines.readyAt (h : s.SameLines t) (hr : s.readyAt l) : t.readyAt l := fun j hj => h.ready (hr j hj)

/-- An engine's read of ready places gives their bytes, and changes none. -/
theorem State.readSpansAs_ready (solid : Solid l) (ready : s.readyAt l) :
    (s.readSpansAs v l).1 = s.spanBytes l ∧ s.SameLines (s.readSpansAs v l).2 ∧ (s.readSpansAs v l).2.mem = s.mem := by
  have fold : ∀ (l : Spans) (o : List Byte × State), Solid l → o.2.readyAt l →
      let q := l.foldl (fun (acc : List Byte × State) p =>
        let r := acc.2.engineReadAs v p.sync p.home p.len; (acc.1 ++ r.1, r.2)) o
      q.1 = o.1 ++ o.2.spanBytes l ∧ o.2.SameLines q.2 ∧ q.2.mem = o.2.mem := by
    intro l
    induction l with
    | nil => exact fun o _ _ => ⟨(List.append_nil _).symm, .refl _, rfl⟩
    | cons p r ih =>
      intro o solid ready
      obtain ⟨bytes, lines, mem⟩ := State.engineReadAs_ready (v := v) (sync := p.sync) (ready.head (solid p (.head _)))
      obtain ⟨rest, lines', mem'⟩ := ih (o.1 ++ (o.2.engineReadAs v p.sync p.home p.len).1, (o.2.engineReadAs v p.sync p.home p.len).2)
        solid.tail (lines.readyAt ready.tail)
      refine ⟨rest.trans ?_, lines.trans lines', mem'.trans mem⟩
      rw [State.spanBytes_cons, bytes, List.append_assoc, State.spanBytes_congr mem]
  exact fold l ([], s) solid ready

/-! ## Writes -/

/-- Different bytes of translated places have different homes. -/
def Apart (l : Spans) : Prop := ∀ i j, i < spanLen l → j < spanLen l → spanAddr l i = spanAddr l j → i = j

theorem Apart.tail (h : Apart (p :: r)) : Apart r := by
  intro i j hi hj e
  have := h (p.len + i) (p.len + j) (by rw [spanLen_cons]; omega) (by rw [spanLen_cons]; omega) (by
    rw [spanAddr_cons, spanAddr_cons, if_neg (by omega), if_neg (by omega), Nat.add_sub_cancel_left, Nat.add_sub_cancel_left, e])
  omega

theorem Apart.head (h : Apart (p :: r)) (hj : j < spanLen r) : spanAddr r j < p.home ∨ p.home + p.len ≤ spanAddr r j := by
  by_contra inside
  have := h (spanAddr r j - p.home) (p.len + j) (by rw [spanLen_cons]; omega) (by rw [spanLen_cons]; omega) (by
    rw [spanAddr_cons, spanAddr_cons, if_pos (by omega), if_neg (by omega), Nat.add_sub_cancel_left]
    omega)
  omega

theorem Apart.part (h : Apart l) (fits : n + k ≤ spanLen l) : Apart (partSpans l n k) := by
  intro i j hi hj e
  rw [spanLen_partSpans fits] at hi hj
  rw [spanAddr_partSpans hi, spanAddr_partSpans hj] at e
  have := h _ _ (by omega) (by omega) e
  omega

/-- What an engine's write to ready places leaves: its bytes, and every other byte. -/
theorem State.writeSpansAs_spec (solid : Solid l) (wf : Memory.wf s.mem = true) (ready : s.readyAt l) (apart : Apart l)
    (len : d.length = spanLen l) :
    let t := s.writeSpansAs v l d
    s.SameLines t ∧ Memory.wf t.mem = true ∧ (∀ j, j < spanLen l → memGet t.mem (spanAddr l j) = (d[j]?).getD 0) ∧
      ∀ c, (∀ j, j < spanLen l → c ≠ spanAddr l j) → memGet t.mem c = memGet s.mem c := by
  induction l generalizing s d with
  | nil => exact ⟨.refl s, wf, fun _ hj => absurd hj (Nat.not_lt_zero _), fun _ _ => rfl⟩
  | cons p r ih =>
    rw [spanLen_cons] at len ⊢
    have cut : (d.take p.len).length = p.len := by rw [List.length_take]; omega
    obtain ⟨lines, wf', bytes, -⟩ := State.engineWriteAs_spec (a := p.home) (d := d.take p.len) (v := v) (sync := p.sync) wf
      (by rw [cut]; exact ready.head (solid p (.head _)))
    obtain ⟨rest, wft, there, other⟩ := ih (d := d.drop p.len) solid.tail wf' (lines.readyAt ready.tail) apart.tail
      (by rw [List.length_drop]; omega)
    refine ⟨lines.trans rest, wft, fun j hj => ?_, fun c hc => ?_⟩
    · show memGet (State.writeSpansAs _ v r _).mem _ = _
      rw [spanAddr_cons]
      by_cases e : j < p.len
      · rw [if_pos e, other _ fun i hi => ?_, bytes, dif_pos (by rw [cut]; omega), List.getElem_take]
        · simp [show j < d.length by omega]
        · have := apart.head hi
          omega
      · rw [if_neg e, there _ (by omega), List.getElem?_drop, show p.len + (j - p.len) = j by omega]
    · show memGet (State.writeSpansAs _ v r _).mem _ = _
      rw [other c fun j hj => ?_, bytes, dif_neg]
      · rw [cut]
        intro inside
        refine hc (c - p.home) (by omega) ?_
        rw [spanAddr_cons, if_pos (by omega)]
        omega
      · have := hc (p.len + j) (by omega)
        rwa [spanAddr_cons, if_neg (by omega), Nat.add_sub_cancel_left] at this

end

end Sys2Proof.Machine
end

section
/-! O47, a drained row: each word rounded to the result format at its place, and the row zeroed if asked (R127, R131, R416). -/

namespace Sys2Proof.Machine

section
variable {s t u : State} {c i j k a b n off pitch rows : Nat} {m : MatCmd} {hz : Bool} {prv : BitVec 2} {dest dpitch : Word}
  {spans : List Spans} {handler : Option Word} {α : Type}

/-! ## Lists of codes -/

/-- Byte j of words of k bytes each is a byte of word j / k. -/
theorem getElem?_flatMap_bytes {l : List α} {f : α → List Byte} (len : ∀ x, (f x).length = k) (pos : 0 < k) :
    (l.flatMap f)[j]? = (l[j / k]?).bind fun x => (f x)[j % k]? := by
  induction l generalizing j with
  | nil => rfl
  | cons x l ih =>
    rw [List.flatMap_cons]
    by_cases h : j < k
    · rw [List.getElem?_append_left (by rw [len]; exact h), Nat.div_eq_of_lt h, Nat.mod_eq_of_lt h]
      rfl
    · have quotient : j / k = (j - k) / k + 1 := Nat.div_eq_sub_div pos (by omega)
      have rest : j % k = (j - k) % k := Nat.mod_eq_sub_mod (by omega)
      rw [List.getElem?_append_right (by rw [len]; omega), ih, len, quotient, rest]
      rfl

theorem length_flatMap_bytes {l : List α} {f : α → List Byte} (len : ∀ x, (f x).length = k) : (l.flatMap f).length = l.length * k := by
  rw [List.length_flatMap, List.map_congr_left fun x _ => len x, List.map_const', List.sum_replicate, smul_eq_mul]

/-- Flags that are raised one after another: each is set that was set or that one of them raises. -/
theorem getLsbD_foldl_flags {l : List FRes} {f : Flags} :
    (l.foldl (fun f v => f ||| v.2) f).getLsbD b = true ↔ f.getLsbD b = true ∨ ∃ v ∈ l, v.2.getLsbD b = true := by
  induction l generalizing f with
  | nil => simp
  | cons x l ih => simp [ih, or_assoc]

/-! ## The row -/

theorem homeOf_pad (h : off < 0x1_B000_0000) (hc : clusterOf c < 256) : homeOf (padHome (clusterOf c) off) = .pad := by
  unfold homeOf padHome
  rw [if_neg (by omega), if_neg (by omega), if_neg (by omega), if_neg (by omega), if_neg (by omega), if_pos (by omega)]

theorem clusterOf_lt (c : Nat) : clusterOf c < 256 := by
  unfold clusterOf coreOf
  omega

theorem ready_pad (h : off < 0x1_B000_0000) : s.ready (padHome (clusterOf c) off) := by
  refine State.ready_local ?_
  rw [homeOf_pad h (clusterOf_lt c)]
  exact ⟨by decide, by decide⟩

/-- The words of an accumulator row in the result format, with the flags of their rounding. -/
def State.rowCodes (s : State) (m : MatCmd) (a : Nat) : List FRes :=
  (List.range 16).map fun j =>
    let v := memNat s.mem (a + 4 * j) 4
    if m.fc = 0 then ((v, 0) : FRes) else fconvert fp32 (fmtOf m.fc) v

/-- A row's bytes are written at its destination, and its words zeroed if asked. -/
def State.rowLeft (s : State) (m : MatCmd) (a : Nat) (hz : Bool) (l : Spans) : State :=
  let t := s.engineWriteSpans l ((s.rowCodes m a).flatMap fun v => bytesOf v.1 (fmtBits m.fc / 8))
  if hz then t.engineWrite a (List.replicate 64 0) else t

theorem State.leaveRow_eq (run : (s.hart c).engine.run = some (m, n)) (op : m.op = .drain off pitch rows hz handler prv dest dpitch spans)
    (sound : s.poison = []) : s.leaveRow c i =
      (s.rowLeft m (padHome (clusterOf c) (off + i * pitch)) hz ((spans[i]?).getD [])).modHart c fun h =>
        { h with engine := { h.engine with
          flags := (s.rowCodes m (padHome (clusterOf c) (off + i * pitch))).foldl (fun f v => f ||| v.2) h.engine.flags } } := by
  have none_ : ∀ a, s.poisonIn a 64 = none := fun a => if_pos sound
  unfold State.leaveRow
  rw [run]
  dsimp only
  rw [op]
  dsimp only
  rw [none_]
  rfl

/-- What the spec asks of a row that leaves: it lies in the scratchpad, apart from its destination, whose places can be written. -/
structure RowLeaves (s : State) (c off : Nat) (m : MatCmd) (l : Spans) : Prop where
  wf : Memory.wf s.mem = true
  inside : off + 64 ≤ 0x10_0000
  size : m.fc.toNat < 3
  len : spanLen l = 16 * (fmtBits m.fc / 8)
  solid : Solid l
  ready : s.readyAt l
  apart : Apart l
  away : ∀ j, j < spanLen l → spanAddr l j < padHome (clusterOf c) off ∨ padHome (clusterOf c) off + 64 ≤ spanAddr l j

theorem fmtBits_small {t : BitVec 4} (h : t.toNat < 3) : 0 < fmtBits t / 8 := by
  revert t
  decide

theorem State.rowLeft_spec {l : Spans} (row : RowLeaves s c off m l) :
    let a := padHome (clusterOf c) off
    let size := fmtBits m.fc / 8
    let code (j : Nat) : FRes := let v := memNat s.mem (a + 4 * j) 4
      if m.fc = 0 then (v, 0) else fconvert fp32 (fmtOf m.fc) v
    let t := s.rowLeft m a hz l
    (∀ j, j < 16 * size → memGet t.mem (spanAddr l j) = (bytesOf (code (j / size)).1 size).getD (j % size) 0) ∧
    (∀ y, a ≤ y → y < a + 64 → memGet t.mem y = if hz then 0 else memGet s.mem y) ∧
    (∀ y, (y < a ∨ a + 64 ≤ y) → (∀ j, j < 16 * size → y ≠ spanAddr l j) → memGet t.mem y = memGet s.mem y) := by
  intro a size code t
  obtain ⟨wf, inside, small, len, solid, ready, apart, away⟩ := row
  have pos : 0 < size := fmtBits_small small
  let d := (s.rowCodes m a).flatMap fun v => bytesOf v.1 size
  have lens : ∀ v : FRes, (bytesOf v.1 size).length = size := fun v => bytesOf_length _ _
  have bytes : ∀ j, j < 16 * size → (d[j]?).getD 0 = (bytesOf (code (j / size)).1 size).getD (j % size) 0 := by
    intro j hj
    have hq : j / size < 16 := Nat.div_lt_of_lt_mul (by rwa [Nat.mul_comm])
    rw [getElem?_flatMap_bytes lens pos, State.rowCodes, List.getElem?_map, List.getElem?_range hq, List.getD_eq_getElem?_getD]
    rfl
  have full : d.length = spanLen l := by
    rw [length_flatMap_bytes lens, len, State.rowCodes, List.length_map, List.length_range]
  obtain ⟨-, wf', there, other⟩ := State.writeSpansAs_spec (v := ⟨0, 0, none⟩) solid wf ready apart full
  have zeros : hz = true → ∀ y, memGet t.mem y =
      if a ≤ y ∧ y - a < 64 then 0 else memGet (s.engineWriteSpans l d).mem y := by
    intro h y
    obtain ⟨-, -, zero, -⟩ := State.engineWriteAs_spec (a := a) (d := List.replicate 64 0) (v := ⟨0, 0, none⟩) (sync := false) wf'
      (fun b low high => by
        rw [List.length_replicate] at high
        rw [show b = padHome (clusterOf c) (off + (b - a)) by
          show b = 0x1_0000_4000_0000 + clusterOf c * 0x10_0000 + (off + (b - (0x1_0000_4000_0000 + clusterOf c * 0x10_0000 + off)))
          have : a = 0x1_0000_4000_0000 + clusterOf c * 0x10_0000 + off := rfl
          omega]
        exact ready_pad (by omega))
    have e : t = (s.engineWriteSpans l d).engineWriteAs ⟨0, 0, none⟩ false a (List.replicate 64 0) := if_pos h
    rw [e]
    refine (zero y).trans ?_
    by_cases inside : a ≤ y ∧ y - a < 64
    · rw [dif_pos (by rw [List.length_replicate]; exact inside), if_pos inside, List.getElem_replicate]
    · rw [dif_neg (by rw [List.length_replicate]; exact inside), if_neg inside]
      rfl
  have keep : hz = false → t = s.engineWriteSpans l d := fun h => if_neg (by simp [h])
  rw [len] at there other away
  refine ⟨fun j hj => ?_, fun y low high => ?_, fun y out free => ?_⟩
  · rw [← bytes j hj, ← there j hj]
    cases h : hz with
    | false => rw [keep h]; rfl
    | true =>
      rw [zeros h, if_neg (by have := away j hj; omega)]
      rfl
  · cases h : hz with
    | false =>
      rw [keep h, if_neg (by decide)]
      exact other y fun j hj e => by have := away j hj; omega
    | true => rw [zeros h, if_pos (by omega), if_pos rfl]
  · cases h : hz with
    | false =>
      rw [keep h]
      exact other y free
    | true =>
      rw [zeros h, if_neg (by omega)]
      exact other y free

theorem State.rowLeft_calm {l : Spans} : s.Calm (s.rowLeft m a hz l) :=
  .ite (State.Calm.refl s).engineWriteSpans.engineWrite (State.Calm.refl s).engineWriteSpans

/-- The engine of a core after its row has left: the flags of the rounding join those of the command. -/
theorem State.leaveRow_engine (run : (s.hart c).engine.run = some (m, n))
    (op : m.op = .drain off pitch rows hz handler prv dest dpitch spans) (sound : s.poison = []) :
    ((s.leaveRow c i).hart c).engine = { (s.hart c).engine with
      flags := (s.rowCodes m (padHome (clusterOf c) (off + i * pitch))).foldl (fun f v => f ||| v.2) (s.hart c).engine.flags } := by
  rw [State.leaveRow_eq run op sound, State.hart_modHart, if_pos rfl]
  have same := (State.rowLeft_calm (s := s) (m := m) (hz := hz) (a := padHome (clusterOf c) (off + i * pitch))
    (l := (spans[i]?).getD [])).part c (·.engine) fun _ => rfl
  dsimp only
  rw [same]

/-- The flags that a row raises. -/
theorem State.rowCodes_flags {f : Flags} : ((s.rowCodes m a).foldl (fun f v => f ||| v.2) f).getLsbD b = true ↔
    f.getLsbD b = true ∨ ∃ j, j < 16 ∧ (if m.fc = 0 then (memNat s.mem (a + 4 * j) 4, 0)
      else fconvert fp32 (fmtOf m.fc) (memNat s.mem (a + 4 * j) 4) : FRes).2.getLsbD b = true := by
  rw [getLsbD_foldl_flags]
  unfold State.rowCodes
  simp only [List.mem_map, List.mem_range, exists_exists_and_eq_and]

end

end Sys2Proof.Machine
end

section
/-! O47, a chunk of a TMMA on two tiles: each accumulator word takes its group sum, rounded once (R71, R129, R131, R402, R406). -/

namespace Sys2Proof.Machine

section
variable {s t u : State} {c i j k w b n off pitch : Nat} {m : MatCmd} {z last : Bool} {ta tb : Tile} {words : List Nat}

/-! ## One read-modify-write of the bank adders -/

theorem accumulate_one {l : List Product} {g old : Nat} (some_ : l ≠ []) (short : l.length ≤ g) :
    accumulate g old l = ((fadd fp32 old (groupSum l).1).1, (0 ||| (groupSum l).2) ||| (fadd fp32 old (groupSum l).1).2) := by
  obtain ⟨x, r, rfl⟩ := List.exists_cons_of_ne_nil some_
  unfold accumulate
  rw [List.length_cons, groupsOf, if_neg some_, List.take_of_length_le short, List.drop_eq_nil_of_le short]
  cases r with
  | nil => rfl
  | cons y r => rfl

theorem le_groupSize (fa fb : BitVec 4) : 16 ≤ groupSize fa fb := by
  unfold groupSize
  split <;> decide

/-! ## Accumulator words -/

theorem foldl_setFull_full {l : List Nat} (there : k ∈ l) (bits_ : hasFullBit (8 * k) = true) :
    (l.foldl (fun s w => s.setFull (8 * w) true) s).isFull (8 * k) = true := by
  induction l generalizing s with
  | nil => cases there
  | cons x l ih =>
    rw [List.foldl_cons]
    cases there with
    | head => exact (State.SameLines.foldl (fun _ _ => .setFull) l _).full _ (State.isFull_setFull bits_)
    | tail _ h => exact ih h

/-- The bank adders' write of a row, but for its full bits. -/
def State.accBytes (s : State) (a : Nat) (d : List Byte) : State :=
  { (s.poke a d).clearTags a d.length with
    poison := s.poison.filter (fun w => !(decide (a ≤ w ∧ w + secdedSize w ≤ a + d.length))) }

theorem State.accWrite_eq {a : Nat} : s.accWrite a words last = if last then
      (unitsOver 8 a (words.flatMap fun v => bytesOf v 4).length).foldl (fun s w => s.setFull (8 * w) true)
        (s.accBytes a (words.flatMap fun v => bytesOf v 4))
    else s.accBytes a (words.flatMap fun v => bytesOf v 4) := rfl

theorem State.accWrite_mem {a : Nat} : (s.accWrite a words last).mem = memPutList s.mem a (words.flatMap fun v => bytesOf v 4) := by
  rw [State.accWrite_eq]
  split
  · rw [mem_foldl fun _ _ => State.setFull_mem ..]
    rfl
  · rfl

theorem State.accWrite_poison {a : Nat} (sound : s.poison = []) : (s.accWrite a words last).poison = [] := by
  have bytes : (s.accBytes a (words.flatMap fun v => bytesOf v 4)).poison = [] := by
    unfold State.accBytes
    rw [sound]
    rfl
  rw [State.accWrite_eq]
  split
  · exact List.foldlRecOn (motive := fun t : State => t.poison = []) _ _ bytes fun _ ht _ _ => State.setFull_poison.trans ht
  · exact bytes

theorem State.accBytes_calm {a : Nat} {d : List Byte} : s.Calm (s.accBytes a d) :=
  State.Calm.update (s := (s.poke a d).clearTags a d.length) (State.Calm.refl s).poke.clearTags

theorem State.accWrite_calm {a : Nat} : s.Calm (s.accWrite a words last) := by
  have bytes : s.Calm (s.accBytes a (words.flatMap fun v => bytesOf v 4)) := State.accBytes_calm
  rw [State.accWrite_eq]
  exact .ite (.foldl (fun _ _ h => h.setFull) bytes) bytes

theorem State.accWrite_lines {a : Nat} : s.SameLines (s.accWrite a words last) := by
  have bytes : s.SameLines (s.accBytes a (words.flatMap fun v => bytesOf v 4)) := .update
  rw [State.accWrite_eq]
  exact .ite (bytes.trans (.foldl (fun _ _ => .setFull) _ _)) bytes

theorem State.accWrite_full {a : Nat} (low : a ≤ b) (high : b < a + words.length * 4) (bits_ : hasFullBit (wordAt b) = true) :
    (s.accWrite a words true).isFull (wordAt b) = true := by
  have eight : wordAt b = 8 * (b / 8) := Nat.mul_comm _ _
  rw [State.accWrite_eq, if_pos rfl, eight]
  rw [eight] at bits_
  refine foldl_setFull_full ?_ bits_
  rw [length_flatMap_bytes fun v => bytesOf_length v 4]
  unfold unitsOver
  rw [mem_upFrom]
  omega

/-- Each word that was written, and every other byte. -/
theorem State.accWrite_bytes {a : Nat} (wf : Memory.wf s.mem = true) :
    (∀ j (h : j < words.length), memNat (s.accWrite a words last).mem (a + 4 * j) 4 = words[j] % 2 ^ 32) ∧
    ∀ y, (y < a ∨ a + words.length * 4 ≤ y) → memGet (s.accWrite a words last).mem y = memGet s.mem y := by
  have len : (words.flatMap fun v => bytesOf v 4).length = words.length * 4 := length_flatMap_bytes fun v => bytesOf_length v 4
  refine ⟨fun j h => ?_, fun y out => ?_⟩
  · rw [State.accWrite_mem]
    refine Eq.trans (memNat_congr fun x low high => ?_) (memNat_memPutList_bytesOf 4 wf (a + 4 * j) words[j])
    have word : (x - a) / 4 = j := by omega
    have byte : (x - a) % 4 = x - (a + 4 * j) := by omega
    have here := getElem?_flatMap_bytes (l := words) (j := x - a) (f := fun v => bytesOf v 4) (fun v => bytesOf_length v 4) (by decide)
    rw [word, byte, List.getElem?_eq_getElem h, Option.bind_some, List.getElem?_eq_getElem (by rw [len]; omega),
      List.getElem?_eq_getElem (by rw [bytesOf_length]; omega)] at here
    rw [memGet_memPutList _ wf, memGet_memPutList _ wf, dif_pos ⟨by omega, by rw [len]; omega⟩,
      dif_pos ⟨by omega, by rw [bytesOf_length]; omega⟩]
    exact Option.some.inj here
  · rw [State.accWrite_mem, memGet_memPutList _ wf, dif_neg]
    rw [len]
    omega

/-! ## A row of a chunk -/

/-- The sums of row i of a chunk on two tiles, with their flags. -/
def State.tileSums (s : State) (c off pitch : Nat) (m : MatCmd) (z : Bool) (ta tb : Tile) (i : Nat) : List FRes :=
  (List.range 16).map fun j =>
    accumulate (groupSize m.fa m.fb) (if z then 0 else memNat s.mem (accHome c off pitch i j) 4)
      (((s.chunkA m (.tile ta) i (64 * 0) (min 64 (16 - 64 * 0))).zip
        (nth ((List.range 16).map fun j => s.chunkB m c (.tile tb) false j (64 * 0) (min 64 (16 - 64 * 0))) j [])).map
          fun p => product (m.ea + m.eb) p.1 p.2)

/-- One of these sums: the group sum of the sixteen products is added to the old value. -/
theorem State.tileSums_get (hj : j < 16) : (s.tileSums c off pitch m z ta tb i)[j]? =
    let g := groupSum ((List.range 16).map fun k => product (m.ea + m.eb) (matValue m.tables m.fa (ta.elem i k))
      (matValue m.tables m.fb (tb.elem k j)))
    let r := fadd fp32 (if z then 0 else memNat s.mem (accHome c off pitch i j) 4) g.1
    some (r.1, (0 ||| g.2) ||| r.2) := by
  have row : s.chunkA m (.tile ta) i (64 * 0) (min 64 (16 - 64 * 0)) =
      (List.range 16).map fun k => matValue m.tables m.fa (ta.elem i k) := by simp [State.chunkA]
  have column : nth ((List.range 16).map fun j => s.chunkB m c (.tile tb) false j (64 * 0) (min 64 (16 - 64 * 0))) j [] =
      (List.range 16).map fun k => matValue m.tables m.fb (tb.elem k j) := by simp [State.chunkB, nth, hj]
  have pairs : (((List.range 16).map fun k => matValue m.tables m.fa (ta.elem i k)).zip
      ((List.range 16).map fun k => matValue m.tables m.fb (tb.elem k j))).map (fun p => product (m.ea + m.eb) p.1 p.2) =
      (List.range 16).map fun k => product (m.ea + m.eb) (matValue m.tables m.fa (ta.elem i k)) (matValue m.tables m.fb (tb.elem k j)) := by
    rw [List.zip_map', List.map_map]
    rfl
  unfold State.tileSums
  rw [List.getElem?_map, List.getElem?_range hj, Option.map_some, row, column, pairs, accumulate_one]
  · simp
  · rw [List.length_map, List.length_range]
    exact le_groupSize _ _

/-- Row i of a chunk on two tiles is added to its accumulator words. -/
def State.tileRow (s : State) (c off pitch : Nat) (m : MatCmd) (z : Bool) (ta tb : Tile) (i : Nat) : State :=
  (s.accWrite (accHome c off pitch i 0) ((s.tileSums c off pitch m z ta tb i).map (·.1)) true).modHart c fun h =>
    { h with engine := { h.engine with flags := (s.tileSums c off pitch m z ta tb i).foldl (fun f v => f ||| v.2) h.engine.flags } }

theorem foldl_sound {step : State × Option Nat → Nat → State × Option Nat} {row : State → Nat → State} {P : State → Prop}
    (h : ∀ t i, P t → step (t, none) i = (row t i, none) ∧ P (row t i)) (l : List Nat) (sound : P s) :
    l.foldl step (s, none) = (l.foldl row s, none) := by
  induction l generalizing s with
  | nil => rfl
  | cons x l ih => rw [List.foldl_cons, List.foldl_cons, (h s x sound).1, ih (h s x sound).2]

theorem State.tileRow_poison (sound : s.poison = []) : (s.tileRow c off pitch m z ta tb i).poison = [] := by
  have keep : ∀ (v : State) (f : Hart → Hart), (v.modHart c f).poison = v.poison := fun _ _ => rfl
  rw [State.tileRow, keep]
  exact State.accWrite_poison sound

theorem State.tileSums_length : (s.tileSums c off pitch m z ta tb i).length = 16 := by
  unfold State.tileSums
  rw [List.length_map, List.length_range]

/-- The first and only chunk of a TMMA of depth 16 on two tiles. -/
theorem State.retireChunk_tiles (run : (s.hart c).engine.run = some (m, 0))
    (op : m.op = .mma off pitch 16 z (.tile ta) (.tile tb) false) (sound : s.poison = []) (good : s.faultyArrays c = false) :
    ∃ f : MatEngine → MatEngine, (∀ e, (f e).run = some (m, 1) ∧ (f e).flags = e.flags) ∧ s.retireChunk c =
      ((List.range 16).foldl (fun t i => t.tileRow c off pitch m z ta tb i) s).modHart c fun h => { h with engine := f h.engine } := by
  have clean : s.chunkPoison m c (.tile ta) (.tile tb) false (64 * 0) (min 64 (16 - 64 * 0)) = none := rfl
  have panel : s.engineReadSpans (chunkPanel m (.tile ta) (64 * 0) (min 64 (16 - 64 * 0))) = ([], s) := rfl
  have ends : decide (16 ≤ 64 * 0 + 64) = true := rfl
  unfold State.retireChunk
  rw [run]
  dsimp only
  rw [op]
  dsimp only
  rw [clean]
  dsimp only
  rw [panel, good]
  dsimp only
  rw [foldl_sound (P := fun t => t.poison = []) (row := fun t i => t.tileRow c off pitch m z ta tb i) ?_ _ sound]
  · dsimp only
    rw [ends, Bool.not_true, Bool.and_false, if_neg (by decide)]
    exact ⟨fun e => { e with
      run := some (m, 1), chunks := e.chunks + 1, events := e.events ++ m.event.toList
      activity := e.activity + chunkCycles m.fa m.fb (min 64 (16 - 64 * 0)) (s.subArrays c) }, fun _ => ⟨rfl, rfl⟩, rfl⟩
  · intro t i ht
    refine ⟨?_, State.tileRow_poison ht⟩
    have first : (z && 0 == 0) = z := Bool.and_true z
    have whole : ∀ l : List FRes, l.length = 16 → l.take 16 = l := fun l h => List.take_of_length_le (by omega)
    have clear : (if z = true then none else t.poisonIn (accHome c off pitch i 0) 64) = none := by
      split
      · rfl
      · exact if_pos ht
    dsimp only
    rw [if_neg (by decide : ¬ false = true)]
    dsimp only
    rw [first, clear, ends, Bool.true_or]
    dsimp only
    unfold State.tileRow
    rw [← whole (t.tileSums c off pitch m z ta tb i) State.tileSums_length]
    rfl

/-! ## All rows of the chunk -/

theorem accHome_word : accHome c off pitch i j = accHome c off pitch i 0 + 4 * j := by
  unfold accHome padHome
  omega

theorem accHome_apart (wide : 64 ≤ pitch) (lt : i < k) : accHome c off pitch i 0 + 64 ≤ accHome c off pitch k 0 := by
  have := Nat.mul_le_mul_right pitch (show i + 1 ≤ k from lt)
  rw [Nat.add_mul] at this
  unfold accHome padHome
  omega

/-- The sums of a row whose words have not changed. -/
theorem State.tileSums_congr (h : ∀ y, accHome c off pitch i 0 ≤ y → y < accHome c off pitch i 0 + 64 → memGet t.mem y = memGet s.mem y) :
    t.tileSums c off pitch m z ta tb i = s.tileSums c off pitch m z ta tb i := by
  refine List.map_congr_left fun j hj => ?_
  have hj := List.mem_range.1 hj
  have old : memNat t.mem (accHome c off pitch i j) 4 = memNat s.mem (accHome c off pitch i j) 4 := by
    rw [accHome_word]
    exact memNat_congr fun x low high => h x (by omega) (by omega)
  rw [old]
  rfl

/-- The sum that word j of row i takes, with its flags. -/
def State.tileSum (s : State) (c off pitch : Nat) (m : MatCmd) (z : Bool) (ta tb : Tile) (i j : Nat) : FRes :=
  ((s.tileSums c off pitch m z ta tb i)[j]?).getD (0, 0)

/-- What a row of a chunk does. -/
theorem State.tileRow_spec (wf : Memory.wf s.mem = true) (fits : off + i * pitch + 64 ≤ 0x10_0000) :
    let t := s.tileRow c off pitch m z ta tb i
    s.SameLines t ∧ Memory.wf t.mem = true ∧
    (∀ j, j < 16 → memNat t.mem (accHome c off pitch i j) 4 = (s.tileSum c off pitch m z ta tb i j).1 % 2 ^ 32 ∧
      t.isFull (wordAt (accHome c off pitch i j)) = true) ∧
    (∀ y, (y < accHome c off pitch i 0 ∨ accHome c off pitch i 0 + 64 ≤ y) → memGet t.mem y = memGet s.mem y) ∧
    (t.hart c).main = (s.hart c).main ∧
    ∀ b, ((t.hart c).engine.flags.getLsbD b = true ↔ (s.hart c).engine.flags.getLsbD b = true ∨
      ∃ j, j < 16 ∧ (s.tileSum c off pitch m z ta tb i j).2.getLsbD b = true) := by
  intro t
  let l := s.tileSums c off pitch m z ta tb i
  have len : l.length = 16 := State.tileSums_length
  have get : ∀ j (h : j < l.length), s.tileSum c off pitch m z ta tb i j = l[j] := fun j h => by
    show (l[j]?).getD (0, 0) = _
    rw [List.getElem?_eq_getElem h]
    rfl
  have keep : ∀ (v : State) (f : Hart → Hart), (v.modHart c f).mem = v.mem ∧ ∀ w, (v.modHart c f).isFull w = v.isFull w :=
    fun _ _ => ⟨rfl, fun _ => rfl⟩
  have mem : t.mem = (s.accWrite (accHome c off pitch i 0) (l.map (·.1)) true).mem := (keep _ _).1
  have full : ∀ w, t.isFull w = (s.accWrite (accHome c off pitch i 0) (l.map (·.1)) true).isFull w := (keep _ _).2
  obtain ⟨bytes, other⟩ := State.accWrite_bytes (last := true) (words := l.map (·.1)) (a := accHome c off pitch i 0) wf
  rw [List.length_map, len] at other
  have calm := State.accWrite_calm (s := s) (a := accHome c off pitch i 0) (words := l.map (·.1)) (last := true)
  refine ⟨State.accWrite_lines.trans .modHart, ?_, fun j hj => ⟨?_, ?_⟩, fun y out => ?_, ?_, fun b => ?_⟩
  · rw [mem, State.accWrite_mem]
    exact Memory.wf_memPutList _ _ wf
  · have := bytes j (by rw [List.length_map, len]; exact hj)
    rw [mem, accHome_word (j := j), this, List.getElem_map, get j (by omega)]
  · rw [full]
    refine State.accWrite_full (by rw [accHome_word (j := j)]; omega) (by rw [List.length_map, len, accHome_word (j := j)]; omega) ?_
    unfold hasFullBit wordAt
    rw [show accHome c off pitch i j / 8 * 8 = padHome (clusterOf c) (accHome c off pitch i j / 8 * 8 - padHome (clusterOf c) 0) by
      unfold accHome padHome
      omega, homeOf_pad (by unfold accHome padHome; omega) (clusterOf_lt c)]
    rfl
  · rw [mem]
    exact other y (by omega)
  · exact (State.part_modHart (·.main) (fun _ => by rfl) c).trans (calm.part c (·.main) fun _ => rfl)
  · have flags : (t.hart c).engine.flags = l.foldl (fun f v => f ||| v.2) (s.hart c).engine.flags := by
      have engine := calm.part c (·.engine) fun _ => rfl
      show (((s.accWrite (accHome c off pitch i 0) (l.map (·.1)) true).modHart c _).hart c).engine.flags = _
      rw [State.hart_modHart, if_pos rfl, ← engine]
    rw [flags, getLsbD_foldl_flags]
    refine or_congr_right ⟨?_, ?_⟩
    · rintro ⟨v, hv, set⟩
      obtain ⟨j, hj, rfl⟩ := List.getElem_of_mem hv
      exact ⟨j, by omega, by rw [get j hj]; exact set⟩
    · rintro ⟨j, hj, set⟩
      rw [get j (by omega)] at set
      exact ⟨_, List.getElem_mem _, set⟩

/-- What the first rows of a chunk do, each as if it were alone: they lie apart. -/
theorem State.tileRows_spec (wf : Memory.wf s.mem = true) (wide : 64 ≤ pitch) (fits : off + 15 * pitch + 64 ≤ 0x10_0000) (hn : n ≤ 16) :
    let t := (List.range n).foldl (fun t i => t.tileRow c off pitch m z ta tb i) s
    Memory.wf t.mem = true ∧
    (∀ i j, i < n → j < 16 → memNat t.mem (accHome c off pitch i j) 4 = (s.tileSum c off pitch m z ta tb i j).1 % 2 ^ 32 ∧
      t.isFull (wordAt (accHome c off pitch i j)) = true) ∧
    (∀ y, (∀ i, i < n → y < accHome c off pitch i 0 ∨ accHome c off pitch i 0 + 64 ≤ y) → memGet t.mem y = memGet s.mem y) ∧
    (t.hart c).main = (s.hart c).main ∧
    ∀ b, ((t.hart c).engine.flags.getLsbD b = true ↔ (s.hart c).engine.flags.getLsbD b = true ∨
      ∃ i j, i < n ∧ j < 16 ∧ (s.tileSum c off pitch m z ta tb i j).2.getLsbD b = true) := by
  induction n with
  | zero =>
    refine ⟨wf, fun _ _ h => absurd h (Nat.not_lt_zero _), fun _ _ => rfl, rfl, fun b => ⟨.inl, ?_⟩⟩
    rintro (h | ⟨i, j, hi, -⟩)
    · exact h
    · exact absurd hi (Nat.not_lt_zero _)
  | succ n ih =>
    obtain ⟨wf', sums, other, main, flags⟩ := ih (by omega)
    rw [List.range_succ, List.foldl_append, List.foldl_cons, List.foldl_nil]
    generalize (List.range n).foldl (fun t i => t.tileRow c off pitch m z ta tb i) s = u at wf' sums other main flags ⊢
    have inside : off + n * pitch + 64 ≤ 0x10_0000 := by
      have := Nat.mul_le_mul_right pitch (show n ≤ 15 by omega)
      omega
    obtain ⟨lines, wft, words, rest, main', raise_⟩ := State.tileRow_spec (c := c) (m := m) (z := z) (ta := ta) (tb := tb) wf' inside
    have same : ∀ j, u.tileSum c off pitch m z ta tb n j = s.tileSum c off pitch m z ta tb n j := fun j =>
      congrArg (fun l => (l[j]?).getD (0, 0)) (State.tileSums_congr fun y low high => other y fun i hi => .inr (by
        have := accHome_apart (c := c) (off := off) wide hi
        omega))
    simp only [same] at words raise_
    refine ⟨wft, fun i j hi hj => ?_, fun y out => ?_, main'.trans main, fun b => ?_⟩
    · by_cases e : i = n
      · subst e
        exact words j hj
      · have apart := accHome_apart (c := c) (off := off) wide (show i < n by omega)
        obtain ⟨value, full⟩ := sums i j (by omega) hj
        refine ⟨(memNat_congr fun x low high => rest x (.inl ?_)).trans value, lines.full _ full⟩
        rw [accHome_word (j := j)] at low high
        omega
    · rw [rest y (out n (by omega)), other y fun i hi => out i (by omega)]
    · rw [raise_, flags, or_assoc]
      refine or_congr_right ⟨?_, ?_⟩
      · rintro (⟨i, j, hi, h⟩ | ⟨j, h⟩)
        · exact ⟨i, j, by omega, h⟩
        · exact ⟨n, j, by omega, h⟩
      · rintro ⟨i, j, hi, h⟩
        by_cases e : i = n
        · subst e
          exact .inr ⟨j, h⟩
        · exact .inl ⟨i, j, by omega, h⟩

end

end Sys2Proof.Machine
end

section
/-! O47: the matrix engine's other steps, and all of them together (R52, R188, R402, R406, R407, R409, R416, R418). -/

namespace Sys2Proof.Machine

section
variable {s t u : State} {c i j k n off pitch rows depth : Nat} {m : MatCmd} {hz z g : Bool} {prv : BitVec 2} {dest dpitch : Word}
  {spans : List Spans} {handler : Option Word} {ta tb : Tile}

/-! ## Chunks and rows -/

theorem exec_chunkRetirement_tiles (hk : kindOf c = 0) (run : (s.hart c).engine.run = some (m, 0))
    (op : m.op = .mma off pitch 16 z (.tile ta) (.tile tb) false) (quiet : s.quizDue c = false) (after : s.storesBefore c m.after = true)
    (waits : s.spansWait c (s.chunkSpans c) = (false, s)) : exec (.chunkRetirement c) s = .next (s.retireChunk c) := by
  have ready : s.chunkReady c = true := by
    unfold State.chunkReady
    rw [run]
    dsimp only
    rw [op]
    dsimp only
    rw [quiet, after]
    rfl
  show execChunkRetirement c s = _
  unfold execChunkRetirement
  rw [if_neg (by omega), run]
  dsimp only
  rw [op]
  dsimp only
  rw [if_neg (by decide), if_pos ready, waits]

/-- What a chunk's rows have done stays done as its command moves on. -/
theorem chunk_moves_on {f : MatEngine → MatEngine} (hf : ∀ e, (f e).run = some (m, 1) ∧ (f e).flags = e.flags)
    (words : ∀ i j, i < 16 → j < 16 → memNat u.mem (accHome c off pitch i j) 4 = (s.tileSum c off pitch m z ta tb i j).1 % 2 ^ 32 ∧
      u.isFull (wordAt (accHome c off pitch i j)) = true)
    (other : ∀ y, (∀ i, i < 16 → y < accHome c off pitch i 0 ∨ accHome c off pitch i 0 + 64 ≤ y) → memGet u.mem y = memGet s.mem y)
    (main : (u.hart c).main = (s.hart c).main)
    (flags : ∀ b, ((u.hart c).engine.flags.getLsbD b = true ↔ (s.hart c).engine.flags.getLsbD b = true ∨
      ∃ i j, i < 16 ∧ j < 16 ∧ (s.tileSum c off pitch m z ta tb i j).2.getLsbD b = true)) :
    let t := u.modHart c fun h => { h with engine := f h.engine }
    (∀ i j, i < 16 → j < 16 → memNat t.mem (accHome c off pitch i j) 4 = (s.tileSum c off pitch m z ta tb i j).1 % 2 ^ 32 ∧
      t.isFull (wordAt (accHome c off pitch i j)) = true) ∧
    (∀ y, (∀ i, i < 16 → y < accHome c off pitch i 0 ∨ accHome c off pitch i 0 + 64 ≤ y) → memGet t.mem y = memGet s.mem y) ∧
    (t.hart c).engine.run = some (m, 1) ∧ (t.hart c).main = (s.hart c).main ∧
    ∀ b, ((t.hart c).engine.flags.getLsbD b = true ↔ (s.hart c).engine.flags.getLsbD b = true ∨
      ∃ i j, i < 16 ∧ j < 16 ∧ (s.tileSum c off pitch m z ta tb i j).2.getLsbD b = true) := by
  intro t
  have engine : (t.hart c).engine = f (u.hart c).engine := by
    show ((u.modHart c _).hart c).engine = _
    rw [State.hart_modHart, if_pos rfl]
  refine ⟨words, other, ?_, (State.part_modHart (·.main) (fun _ => by rfl) c).trans main, fun b => ?_⟩
  · rw [engine, (hf _).1]
  · rw [engine, (hf _).2]
    exact flags b

/-- A chunk of two tiles: its words, its full bits and its flags; every other byte and the main context stay. -/
theorem chunk_spec (wf : Memory.wf s.mem = true) (hk : kindOf c = 0) (sound : s.poison = [])
    (run : (s.hart c).engine.run = some (m, 0)) (op : m.op = .mma off pitch 16 z (.tile ta) (.tile tb) false) (wide : 64 ≤ pitch)
    (fits : off + 15 * pitch + 64 ≤ 0x10_0000) (quiet : s.quizDue c = false) (after : s.storesBefore c m.after = true)
    (good : s.faultyArrays c = false) (waits : s.spansWait c (s.chunkSpans c) = (false, s)) :
    ∃ t, exec (.chunkRetirement c) s = .next t ∧
      (∀ i j, i < 16 → j < 16 → memNat t.mem (accHome c off pitch i j) 4 = (s.tileSum c off pitch m z ta tb i j).1 % 2 ^ 32 ∧
        t.isFull (wordAt (accHome c off pitch i j)) = true) ∧
      (∀ y, (∀ i, i < 16 → y < accHome c off pitch i 0 ∨ accHome c off pitch i 0 + 64 ≤ y) → memGet t.mem y = memGet s.mem y) ∧
      (t.hart c).engine.run = some (m, 1) ∧ (t.hart c).main = (s.hart c).main ∧
      ∀ b, ((t.hart c).engine.flags.getLsbD b = true ↔ (s.hart c).engine.flags.getLsbD b = true ∨
        ∃ i j, i < 16 ∧ j < 16 ∧ (s.tileSum c off pitch m z ta tb i j).2.getLsbD b = true) := by
  obtain ⟨f, hf, step⟩ := State.retireChunk_tiles run op sound good
  obtain ⟨-, words, other, main, flags⟩ := State.tileRows_spec (c := c) (m := m) (z := z) (ta := ta) (tb := tb) wf wide fits le_rfl
  refine ⟨_, exec_chunkRetirement_tiles hk run op quiet after waits, ?_⟩
  rw [step]
  exact chunk_moves_on hf words other main flags

/-- What the places of a row ask for, from the text of the obligation. -/
theorem rowLeaves_of {l : Spans} (wf : Memory.wf s.mem = true) (idle : ∀ d, (s.die d).gutter = []) (dry : ∀ a, s.inSpill a = false)
    (small : m.fc.toNat < 3) (inside : off + 64 ≤ 0x10_0000) (len : spanLen l = 16 * (fmtBits m.fc / 8)) (solid : Solid l)
    (apart : ∀ j k, j < 16 * (fmtBits m.fc / 8) → k < 16 * (fmtBits m.fc / 8) → spanAddr l j = spanAddr l k → j = k)
    (places : ∀ j, j < 16 * (fmtBits m.fc / 8) →
      (spanAddr l j < padHome (clusterOf c) off ∨ padHome (clusterOf c) off + 64 ≤ spanAddr l j) ∧
      (homeOf (spanAddr l j) = .loft →
        (s.cluster (loftPlace (spanAddr l j)).1).loft.eaves.any (fun e => e.1 == (loftPlace (spanAddr l j)).2) = true)) :
    RowLeaves s c off m l := by
  rw [← len] at apart places
  exact ⟨wf, inside, small, len, solid, fun j hj => ⟨dry _, fun _ => idle _, (places j hj).2⟩, apart, fun j hj => (places j hj).1⟩

theorem State.leaveRow_mem (run : (s.hart c).engine.run = some (m, n)) (op : m.op = .drain off pitch rows hz handler prv dest dpitch spans)
    (sound : s.poison = []) :
    (s.leaveRow c i).mem = (s.rowLeft m (padHome (clusterOf c) (off + i * pitch)) hz ((spans[i]?).getD [])).mem := by
  rw [State.leaveRow_eq run op sound, State.modHart_mem]

theorem exec_chunkRetirement_row (hk : kindOf c = 0) (run : (s.hart c).engine.run = some (m, i))
    (op : m.op = .drain off pitch rows hz none prv dest dpitch spans) (sound : s.poison = []) (left : i < rows)
    (after : s.storesBefore c m.after = true) (waits : s.spansWait c (s.rowSpans c i) = (false, s)) :
    exec (.chunkRetirement c) s = .next ((s.leaveRow c i).modHart c fun h =>
      { h with engine := { h.engine with run := some (m, i + 1), rowsLeft := h.engine.rowsLeft - 1 } }) := by
  have still : (((s.leaveRow c i).hart c).engine.run).isNone = false := by
    rw [State.leaveRow_engine run op sound]
    dsimp only
    rw [run]
    rfl
  show execChunkRetirement c s = _
  unfold execChunkRetirement
  rw [if_neg (by omega), run]
  dsimp only
  rw [op]
  dsimp only
  rw [if_neg (by rw [after]; simp; omega), waits]
  dsimp only
  rw [still, if_neg (by decide)]

/-! ## Commands start and end -/

theorem engineCommandStart_spec {r : List MatCmd} (hk : kindOf c = 0) (idle : (s.hart c).engine.run = none)
    (queue : (s.hart c).engine.queue = m :: r) (nodrain : ∀ a b d e f g h i j, m.op ≠ .drain a b d e f g h i j)
    (table : (∃ slot id tb, m.op = .tblld slot id tb) → s.stepOn c = false) :
    ∃ t, exec (.engineCommandStart c false) s = .next t ∧ (t.hart c).engine.run = some (m, 0) ∧
      (t.hart c).engine.queue = r ∧ t.mem = s.mem := by
  have step : exec (.engineCommandStart c false) s = .next (s.modHart c fun h =>
      { h with engine := { h.engine with run := some (m, 0), queue := r } }) := by
    show Host.Outcome.next (if kindOf c = 0 then s.startMatrix c else s) = _
    rw [if_pos hk]
    unfold State.startMatrix
    dsimp only
    rw [idle, queue]
    dsimp only
    split
    · next e => exact absurd e (nodrain _ _ _ _ _ _ _ _ _)
    · next e => rw [if_neg (by rw [table ⟨_, _, _, e⟩]; decide)]
    · rfl
  exact ⟨_, step, by simp, by simp, rfl⟩

theorem engineCopyStart_spec {x : Xfer} {r : List Xfer} (hk : kindOf c = 0) (turn : (s.hart c).copy.turn % 3 = 0)
    (queue : (s.hart c).copy.queue = x :: r) (idle : (s.hart c).copy.active = []) :
    ∃ t, exec (.engineCommandStart c true) s = .next t ∧ (t.hart c).copy.queue = r ∧ (t.hart c).copy.active = [x] ∧ t.mem = s.mem := by
  have own : engineOf c = c := by
    unfold engineOf
    rw [if_neg (by omega), coreOf_of_core hk]
  have harts : engineHarts c = [c, 4096 + c, 8192 + c] := if_neg (by omega)
  have step : exec (.engineCommandStart c true) s = .next ((s.modHart c fun t => { t with copy := { t.copy with queue := r } }).modHart c
      fun t => { t with copy := { t.copy with active := t.copy.active ++ [x], turn := ([c, 4096 + c, 8192 + c].idxOf c + 1) % 3 } }) := by
    show Host.Outcome.next (s.startCopy c) = _
    unfold State.startCopy
    dsimp only
    rw [own, harts, show [c, 4096 + c, 8192 + c].length = 3 from rfl, turn, List.drop_zero, List.take_zero, List.append_nil,
      List.find?_cons_of_pos (by rw [queue]; rfl)]
    dsimp only
    rw [if_neg (by rw [idle]; simp), queue]
  refine ⟨_, step, ?_, ?_, rfl⟩
  · simp
  · simp [idle]

theorem State.endCommand_spec : ((s.endCommand c).hart c).engine.run = none ∧
    ((s.endCommand c).hart c).sys.mflags = (s.hart c).sys.mflags ||| (s.hart c).engine.flags.setWidth 64 ∧
    ((s.endCommand c).hart c).engine.plane = (s.hart c).engine.plane ∧ (s.endCommand c).mem = s.mem := by
  unfold State.endCommand State.raiseMflags
  refine ⟨?_, ?_, ?_, rfl⟩
  all_goals simp

theorem matrixCommandComplete_mma {a : ASource} {b : BSource} (hk : kindOf c = 0) (run : (s.hart c).engine.run = some (m, n))
    (op : m.op = .mma off pitch depth z a b g) (done : depth ≤ 64 * n) :
    exec (.matrixCommandComplete c) s = .next (s.endCommand c) := by
  show execMatrixCommandComplete c s = _
  unfold execMatrixCommandComplete
  rw [if_neg (by omega), run]
  dsimp only
  rw [op]
  dsimp only
  rw [if_pos done]

theorem matrixCommandComplete_pswap (hk : kindOf c = 0) (run : (s.hart c).engine.run = some (m, n)) (op : m.op = .pswap) :
    exec (.matrixCommandComplete c) s = .next ((s.modHart c fun h =>
      { h with engine := { h.engine with plane := !h.engine.plane } }).endCommand c) := by
  show execMatrixCommandComplete c s = _
  unfold execMatrixCommandComplete
  rw [if_neg (by omega), run]
  dsimp only
  rw [op]

/-! ## Tables, events and quiz products -/

theorem tableInstall_spec {slot : BitVec 2} {id : BitVec 8} {tb : DecodeTable} (run : (s.hart c).engine.run = some (m, n))
    (op : m.op = .tblld slot id tb) : ∃ t, exec (.tableInstall c) s = .next t ∧
      ((t.hart c).tables[slot.toNat]?).getD none = some tb ∧
      tableId (t.hart c).mat.tbl slot.toNat = id.toNat ∧ bit (t.hart c).mat.tbl (32 + slot.toNat) = true ∧
      (t.hart c).engine.run = none ∧ t.mem = s.mem := by
  have step : exec (.tableInstall c) s = .next ((s.setTable c slot.toNat (some tb) id.toNat).endCommand c) := by
    show execTableInstall c s = _
    unfold execTableInstall
    rw [run]
    dsimp only
    rw [op]
  have small : slot.toNat < 4 := slot.isLt
  have tables : (((s.setTable c slot.toNat (some tb) id.toNat).endCommand c).hart c).tables =
      (s.hart c).tables.setIfInBounds slot.toNat (some tb) := by
    unfold State.endCommand State.raiseMflags State.setTable
    simp
  have tbl : (((s.setTable c slot.toNat (some tb) id.toNat).endCommand c).hart c).mat.tbl =
      setBits (setBit (s.hart c).mat.tbl (32 + slot.toNat) true) (8 * slot.toNat + 7) (8 * slot.toNat) id.toNat := by
    unfold State.endCommand State.raiseMflags State.setTable
    simp
  refine ⟨_, step, ?_, ?_, ?_, State.endCommand_spec.1, State.endCommand_spec.2.2.2⟩
  · rw [tables]
    simp [small]
  · rw [tbl]
    refine bits_setBits_same (by omega) ?_
    rw [show 8 * slot.toNat + 7 + 1 - 8 * slot.toNat = 8 by omega]
    exact id.isLt
  · rw [tbl, bit_setBits, if_neg (by omega), bit_setBit (by omega), if_pos rfl]

theorem operandsConsumedEvent_spec {e : BitVec 3} {r : List (BitVec 3)} (due : (s.hart c).engine.events = e :: r) :
    ∃ t, exec (.operandsConsumedEvent c) s = .next t ∧ (t.hart c).engine.events = r ∧
      ((t.hart c).mc[e.toNat]?).getD 0 = ((s.hart c).mc[e.toNat]?).getD 0 + 1 ∧ t.mem = s.mem := by
  have step : exec (.operandsConsumedEvent c) s =
      .next ((s.modHart c fun h => { h with engine := { h.engine with events := r } }).bumpCounter c e) := by
    show execOperandsConsumedEvent c s = _
    unfold execOperandsConsumedEvent
    rw [due]
  refine ⟨_, step, ?_, (State.mc_bumpCounter e).trans ?_, ?_⟩
  · rw [State.bumpCounter_part (·.engine.events) fun _ _ _ _ => rfl]
    simp
  · simp
  · obtain ⟨_, same⟩ := State.bumpCounter_eq (s := s.modHart c fun h => { h with engine := { h.engine with events := r } }) (h := c) e
    rw [same]
    rfl

/-- The bits of a core's faulty sub-arrays that are not fenced (R188). -/
def Hart.atFault (h : Hart) : BitVec 4 := h.engine.bad &&& ~~~(BitVec.ofNat 4 (bits h.sys.fence 3 0))

/-- The core with more sub-arrays faulty. -/
def State.addFaults (s : State) (c : Nat) (failing : BitVec 4) : State :=
  s.modHart c fun h => { h with engine := { h.engine with bad := h.engine.bad ||| failing } }

/-- The started command is a QUIZ that waits for its product. -/
def quizAsked (run : Option (MatCmd × Nat)) : Bool :=
  match run with
  | some (⟨.quiz, _, _, _, _, _, _, _, _⟩, 0) => true
  | _ => false

/-- A quiz product, asked for by a QUIZ or not (R188). -/
def State.quizOutcome (s : State) (c : Nat) (failing : BitVec 4) (asked : Bool) : Host.Outcome State Fault Refusal :=
  let u := s.addFaults c failing
  if asked = false ∧ u.quizDue c = false then .next u else
  let t := if asked then u.modHart c fun h => { h with engine := { h.engine with run := h.engine.run.map (fun r => (r.1, 1)) } } else u
  let bad := (t.hart c).atFault
  let t := t.modHart c fun h => { h with engine := { h.engine with activity := 0 } }
  if bad = 0 then .next (t.modHart c fun h => { h with engine := { h.engine with chunks := 0 } })
  else .next ((t.modHart c fun h => { h with sys := { h.sys with fence := h.sys.fence ||| bad.setWidth 64 } }).machineCheck c 1
      (BitVec.ofNat 64 (s.hart c).engine.chunks))

theorem exec_quizProduct {failing : BitVec 4} : exec (.quizProduct c failing) s =
    if kindOf c ≠ 0 then .next s else s.quizOutcome c failing (quizAsked (s.hart c).engine.run) := rfl

theorem quizProduct_due {failing : BitVec 4} (hk : kindOf c = 0) (due : s.quizDue c = true)
    (unasked : ∀ m n, (s.hart c).engine.run = some (m, n) → m.op ≠ .quiz) :
    exec (.quizProduct c failing) s =
      let u := s.addFaults c failing
      let t := u.modHart c fun h => { h with engine := { h.engine with activity := 0 } }
      if (u.hart c).atFault = 0 then .next (t.modHart c fun h => { h with engine := { h.engine with chunks := 0 } })
      else .next ((t.modHart c fun h => { h with sys := { h.sys with fence := h.sys.fence ||| (u.hart c).atFault.setWidth 64 } }).machineCheck
        c 1 (BitVec.ofNat 64 (s.hart c).engine.chunks)) := by
  have still : (s.addFaults c failing).quizDue c = true := by
    unfold State.quizDue State.subArrays State.addFaults at *
    simpa using due
  have none_ : quizAsked (s.hart c).engine.run = false := by
    unfold quizAsked
    split
    · next e => exact absurd rfl (unasked _ _ e)
    · rfl
  rw [exec_quizProduct, if_neg (by omega), none_]
  unfold State.quizOutcome
  dsimp only
  rw [still, if_neg (by decide), if_neg (by decide : ¬ false = true)]

/-- A quiz product that is due. -/
theorem quizProduct_spec (hk : kindOf c = 0) (due : s.quizDue c = true)
    (unasked : ∀ m n, (s.hart c).engine.run = some (m, n) → m.op ≠ .quiz) :
    (s.faultyArrays c = false → ∃ t, exec (.quizProduct c 0) s = .next t ∧
      (t.hart c).engine.activity = 0 ∧ (t.hart c).sys.fence = (s.hart c).sys.fence ∧ t.mem = s.mem) ∧
    ∀ bad : BitVec 4, bad ≠ 0 → bits (s.hart c).sys.fence 3 0 = 0 → ∃ t, exec (.quizProduct c bad) s = .next t ∧
      (t.hart c).engine.activity = 0 ∧ (t.hart c).sys.fence = (s.hart c).sys.fence |||
        ((s.hart c).engine.bad ||| bad).setWidth 64 ∧ t.mem = s.mem := by
  refine ⟨fun good => ?_, fun bad some_ open_ => ?_⟩
  · have fine : ((s.addFaults c 0).hart c).atFault = 0 := by
      unfold State.faultyArrays at good
      simpa [Hart.atFault, State.addFaults] using good
    have step := quizProduct_due (failing := 0) hk due unasked
    rw [if_pos fine] at step
    exact ⟨_, step, by simp, by simp [State.addFaults], rfl⟩
  · have all : ((s.addFaults c bad).hart c).atFault = (s.hart c).engine.bad ||| bad := by
      have every : ∀ x : BitVec 4, x &&& 15#4 = x := by decide
      unfold Hart.atFault State.addFaults
      simp [open_, every]
    have faulty : ((s.hart c).engine.bad ||| bad) ≠ 0 := by
      intro e
      exact some_ ((BitVec.or_eq_zero_iff.1 e).2)
    have step := quizProduct_due (failing := bad) hk due unasked
    dsimp only at step
    rw [all, if_neg faulty] at step
    exact ⟨_, step, by simp [State.machineCheck], by simp [State.machineCheck, State.addFaults], rfl⟩

theorem drainRunStart_spec {r : Run} (next : s.nextRun c = some r) (kind : r.kind = .drain k) :
    ∃ t, exec (.drainRunStart c) s = .next t ∧ (t.hart c).handler.run = some r ∧
      (t.hart c).handler.pc = targetOf r.entry ∧ ((t.hart c).handler.x[4]?).getD 0 = r.x4 ∧
      ((t.hart c).handler.x[5]?).getD 0 = r.x5 ∧ ((t.hart c).handler.x[6]?).getD 0 = r.x6 ∧
      (t.hart c).main = (s.hart c).main ∧ t.mem = s.mem := by
  have starts : exec (.drainRunStart c) s = .next (s.startRun c r) := by
    show (match s.nextRun c with | some r => _ | none => _) = _
    rw [next]
    dsimp only
    rw [kind]
  have handler : ((s.startRun c r).hart c).handler = { (s.hart c).handler with
      run := some r, pc := targetOf r.entry, image := none, fenced := false
      x := (((s.hart c).handler.x.setIfInBounds 4 r.x4).setIfInBounds 5 r.x5).setIfInBounds 6 r.x6 } := by
    unfold State.startRun
    rw [State.fillFifo_hart (·.handler) (fun _ _ _ => rfl), State.hart_modHart_same, kind]
  have main : ((s.startRun c r).hart c).main = (s.hart c).main := by
    unfold State.startRun
    rw [State.fillFifo_hart (·.main) (fun _ _ _ => rfl), State.hart_modHart_same]
  refine ⟨_, starts, ?_, ?_, ?_, ?_, ?_, main, (State.fillFifo_rest _).1⟩
  · rw [handler]
  · rw [handler]
  all_goals
    rw [handler]
    simp

/-! ## The end of a drain run -/

/-- Rows and messages that join the FIFO leave the flags and the rows left of the engine. -/
theorem State.fillFifo_engine {α : Type} (f : MatEngine → α) (hf : ∀ e r, f { e with run := r } = f e) :
    f ((s.fillFifo c).hart k).engine = f (s.hart k).engine := by
  unfold State.fillFifo
  dsimp only
  refine (State.part_modHart (fun h => f h.engine) (fun _ => by rfl) k).trans ?_
  split
  · split
    · refine State.part_modHart (fun h => f h.engine) (fun h => ?_) k
      exact hf h.engine _
    · rfl
  · rfl

theorem State.endRun_engine {α : Type} (f : MatEngine → α) (hf : ∀ e r, f { e with run := r } = f e) :
    f (s.endRun.hart k).engine = f (s.hart k).engine := by
  unfold State.endRun
  rw [State.fillFifo_engine f hf]
  exact (State.part_modHart (fun h => f h.engine) (fun _ => by rfl) k).trans
    (State.part_modHart (fun h => f h.engine) (fun _ => by rfl) k)

theorem State.rowDone_engine {α : Type} (f : MatEngine → α) (run : s.me.engine.run = some (m, n))
    (op : m.op = .drain off pitch rows hz handler prv dest dpitch spans) (sound : s.poison = []) :
    f ((s.rowDone i).hart s.cur).engine = f { s.me.engine with
      flags := (s.rowCodes m (padHome (clusterOf s.cur) (off + i * pitch))).foldl (fun f v => f ||| v.2) s.me.engine.flags
      rowsLeft := s.me.engine.rowsLeft - 1 } := by
  have cur : (s.leaveRow s.cur i).cur = s.cur := State.leaveRow_cur _ _
  unfold State.rowDone State.modMe
  rw [cur, State.hart_modHart, if_pos rfl, State.leaveRow_engine run op sound]
  rfl

/-- A drain run's end: its row leaves, and one row fewer is due. -/
theorem hret_row {r : Run} (hk : kindOf s.cur = 0) (hc : s.ctx = .handler) (hr : s.me.handler.run = some r) (hu : r.kind = .drain i)
    (hb : s.me.mem.sb = []) (run : s.me.engine.run = some (m, n)) (op : m.op = .drain off pitch rows hz handler prv dest dpitch spans)
    (sound : s.poison = []) (waits : s.spansWait s.cur (s.rowSpans s.cur i) = (false, s)) :
    ∃ t, exec .hret s = .next t ∧
      t.mem = (s.rowLeft m (padHome (clusterOf s.cur) (off + i * pitch)) hz ((spans[i]?).getD [])).mem ∧
      (t.hart s.cur).engine.flags =
        (s.rowCodes m (padHome (clusterOf s.cur) (off + i * pitch))).foldl (fun f v => f ||| v.2) s.me.engine.flags ∧
      t.me.handler.run = none ∧ t.me.engine.rowsLeft = s.me.engine.rowsLeft - 1 := by
  have step := exec_hret_drain hk hc hr hu hb (by rw [waits])
  rw [waits] at step
  have cur : (s.rowDone i).endRun.cur = s.cur := (State.fillFifo_rest _).2.2.trans (State.leaveRow_cur _ _)
  refine ⟨_, step, ?_, ?_, State.endRun_run, ?_⟩
  · rw [State.endRun_mem]
    exact State.leaveRow_mem run op sound
  · exact (State.endRun_engine (·.flags) fun _ _ => rfl).trans (State.rowDone_engine (·.flags) run op sound)
  · unfold State.me
    rw [cur]
    exact (State.endRun_engine (·.rowsLeft) fun _ _ => rfl).trans (State.rowDone_engine (·.rowsLeft) run op sound)

/-- The value of a sum, and what flags come with it. -/
theorem State.tileSum_spec (hj : j < 16) :
    let g := groupSum ((List.range 16).map fun k => product (m.ea + m.eb) (matValue m.tables m.fa (ta.elem i k))
      (matValue m.tables m.fb (tb.elem k j)))
    let r := fadd fp32 (if z then 0 else memNat s.mem (accHome c off pitch i j) 4) g.1
    (s.tileSum c off pitch m z ta tb i j).1 = r.1 ∧
      ∀ b, ((s.tileSum c off pitch m z ta tb i j).2.getLsbD b = true ↔ r.2.getLsbD b = true ∨ g.2.getLsbD b = true) := by
  intro g r
  have value : s.tileSum c off pitch m z ta tb i j = (r.1, (0 ||| g.2) ||| r.2) := by
    unfold State.tileSum
    rw [State.tileSums_get hj]
    rfl
  rw [value]
  refine ⟨rfl, fun b => ?_⟩
  simp [or_comm]

end

/-- Settles O47: each step of the matrix engine by its own lemma; a row and a chunk by what they write. -/
theorem matrixEngineSteps : Obligations.MatrixEngineSteps := by
  unfold Obligations.MatrixEngineSteps
  intro at_ drains left
  refine ⟨?_, ?_, fun s c m r hk idle queue nodrain table => engineCommandStart_spec hk idle queue nodrain table,
    fun s h x r hk turn queue idle => engineCopyStart_spec hk turn queue idle, ?_, ?_, ?_,
    fun s c n m slot id tb run op => tableInstall_spec run op, fun s c n r due => operandsConsumedEvent_spec due,
    fun s c hk due unasked => quizProduct_spec hk due unasked, fun s c r k next kind => drainRunStart_spec next kind⟩
  · intro s c i off pitch rows hz prv dest dpitch spans m hd run op more after
    obtain ⟨wf, hk, sound, idle, dry, small, inside, len, solid, waits, apart, places⟩ := hd
    have row := rowLeaves_of (c := c) wf idle dry small inside len solid apart places
    refine ⟨_, exec_chunkRetirement_row hk run op sound more after waits, ?_, by simp⟩
    obtain ⟨there, zero, other⟩ := State.rowLeft_spec (hz := hz) row
    have mem : ((s.leaveRow c i).modHart c fun h => { h with engine := { h.engine with
        run := some (m, i + 1), rowsLeft := h.engine.rowsLeft - 1 } }).mem =
        (s.rowLeft m (padHome (clusterOf c) (off + i * pitch)) hz ((spans[i]?).getD [])).mem := by
      rw [State.modHart_mem, State.leaveRow_mem run op sound]
    have flags := State.leaveRow_engine (i := i) run op sound
    refine ⟨?_, ?_, ?_, fun b _ => ?_⟩
    · rw [mem]; exact there
    · rw [mem]; exact zero
    · rw [mem]; exact other
    · rw [State.hart_modHart, if_pos rfl]
      dsimp only
      rw [flags]
      exact State.rowCodes_flags
  · intro s i n off pitch rows hz h prv dest dpitch spans m r hd run op hc hr hu hb
    obtain ⟨wf, hk, sound, idle, dry, small, inside, len, solid, waits, apart, places⟩ := hd
    have row := rowLeaves_of (c := s.cur) wf idle dry small inside len solid apart places
    obtain ⟨t, step, mem, flags, ended, fewer⟩ := hret_row hk hc hr hu hb run op sound waits
    obtain ⟨there, zero, other⟩ := State.rowLeft_spec (hz := hz) row
    rw [← mem] at there zero other
    refine ⟨t, step, ⟨there, zero, other, fun b _ => ?_⟩, ended, fewer⟩
    rw [flags]
    exact State.rowCodes_flags
  · intro s c off pitch z a b m wf hk sound run op wide fits quiet after good waits word prod sum
    obtain ⟨t, step, words, other, ran, main, flags⟩ := chunk_spec wf hk sound run op wide fits quiet after good waits
    refine ⟨t, step, fun i j hi hj => ?_, other, ran, main, fun i j hi hj => (words i j hi hj).2, fun j _ => (flags j).trans ?_⟩
    · exact (words i j hi hj).1.trans (congrArg (· % 2 ^ 32) (State.tileSum_spec hj).1)
    · refine or_congr_right ⟨?_, ?_⟩
      · rintro ⟨i, k, hi, hk, set⟩
        exact ⟨i, k, hi, hk, ((State.tileSum_spec hk).2 j).1 set⟩
      · rintro ⟨i, k, hi, hk, set⟩
        exact ⟨i, k, hi, hk, ((State.tileSum_spec hk).2 j).2 set⟩
  · intro s c off pitch depth n z a b g m hk run op done
    obtain ⟨ended, lands, -, mem⟩ := State.endCommand_spec (s := s) (c := c)
    exact ⟨_, matrixCommandComplete_mma hk run op done, ended, lands, mem⟩
  · intro s c n m hk run op
    refine ⟨_, matrixCommandComplete_pswap hk run op, State.endCommand_spec.1, ?_, rfl⟩
    rw [State.endCommand_spec.2.2.1]
    simp

end Sys2Proof.Machine
end

section
/-! O40: a transfer from memory to a queue may name a place without bytes. In an Overflowed loft block that is not expanded such a
place opens its block, and bytes that are no part of the element change (R75, R76, R101, R361). -/

namespace Sys2Proof.Machine

section
variable {s t u : State} {a b c h k n o : Nat} {l : Spans} {p : Piece} {v : Via} {x : Xfer}

/-! ## Nothing waits -/

/-- Nothing is tagged, held, waited for, poisoned or asked of a registrar. -/
structure State.Idle (s : State) : Prop where
  poison : s.poison = []
  tags : s.tags = []
  holds : s.holds = []
  waiters : s.waiters = []
  registrar : ∀ d, (s.die d).registrar = []

theorem State.Idle.mustWait (idle : s.Idle) : s.mustWait h a none = false := by
  unfold State.mustWait State.waitersAt
  rw [idle.holds, idle.waiters]
  rfl

theorem State.Idle.evictable (idle : s.Idle) : s.evictable a = true := by
  unfold State.evictable
  rw [idle.holds, idle.tags]
  rfl

theorem State.Idle.registrarHas (idle : s.Idle) : s.registrarHas a n = false := by
  unfold State.registrarHas
  rw [idle.registrar]
  rfl

theorem State.Idle.poisonIn (idle : s.Idle) : s.poisonIn a n = none := if_pos idle.poison

theorem State.Idle.poisonSpans (idle : s.Idle) : s.poisonSpans l = none := by
  unfold State.poisonSpans
  rw [List.findSome?_eq_none_iff]
  intro p _
  rw [idle.poisonIn]
  rfl

/-- A full set has a way that can be freed. -/
theorem State.Idle.blockedAt (idle : s.Idle) : s.blockedAt a = none := by
  have some_ : ∀ {β : Type} (l : List β) (f : β → Bool), ¬ l.length < 16 → (∀ e, f e = true) → l.any f = true := by
    intro β l f long all
    cases l with
    | nil => exact (long (Nat.zero_lt_succ _)).elim
    | cons e l => rw [List.any_cons, all, Bool.true_or]
  unfold State.blockedAt
  split
  · unfold State.blockedL2
    dsimp only
    refine if_pos ?_
    by_cases long : ((s.die (homeDie a)).ways ⟨a / 64, 0, false, false, false, 0⟩).1.length < 16
    · exact .inr (.inl long)
    · exact .inr (.inr (some_ _ _ long fun e => by rw [idle.evictable, Bool.or_true]))
  · unfold State.blockedEaves
    dsimp only
    refine if_pos ?_
    by_cases long : ((s.cluster (loftPlace a).1).loft.ways (loftPlace a).2).1.length < 16
    · exact .inr (.inl long)
    · exact .inr (.inr (some_ _ _ long fun e => idle.evictable))
  · rfl

theorem State.openBlock_ready (ready : s.ready a) : s.openBlock a = s := by
  unfold State.openBlock
  split
  · next loft =>
    have here : (s.cluster (loftPlace a).1).loft.eaves.any (fun e => e.1 == (loftPlace a).2) = true := ready.2.2 loft
    have raw : s.heldRaw (loftPlace a).1 (loftPlace a).2 = false := by
      unfold State.heldRaw
      dsimp only
      rw [here, Bool.not_true, Bool.and_false]
    dsimp only
    rw [raw, if_neg (by decide)]
  · rfl

theorem State.Idle.waitAt (idle : s.Idle) (ready : s.ready a) : s.waitAt h none a false = (none, s) := by
  unfold State.waitAt
  dsimp only
  rw [idle.mustWait, if_neg (by decide), if_neg (by decide), idle.blockedAt]
  dsimp only
  rw [State.openBlock_ready ready]

theorem State.Idle.unitsWait (idle : s.Idle) (l : List Nat) : (l.any fun w => s.mustWait h (8 * w) none) = false := by
  rw [List.any_eq_false]
  intro w _
  rw [idle.mustWait]
  decide

theorem State.Idle.pieceWaits (idle : s.Idle) (ready : ∀ b, p.home ≤ b → b ≤ p.home ∨ b < p.home + p.len → s.ready b) :
    s.pieceWaits h p = (false, s) := by
  have fold : ∀ l : List (Nat × Nat), (∀ q ∈ l, q ∈ linePartsOf p.home p.len) → l.foldl (fun (acc : Bool × State) q =>
      if p.sync then
        (acc.1 || acc.2.registrarHas q.1 q.2 || (unitsOver 8 q.1 q.2).any (fun w => acc.2.mustWait h (8 * w) none), acc.2)
      else match homeOf q.1 with
        | .tcm | .pad | .store | .plane | .service =>
          (acc.1 || (unitsOver 8 q.1 q.2).any (fun w => acc.2.mustWait h (8 * w) none), acc.2)
        | _ => let r := acc.2.waitAt h none q.1 false; (acc.1 || r.1.isSome, r.2)) (false, s) = (false, s) := by
    intro l
    induction l with
    | nil => exact fun _ => rfl
    | cons q l ih =>
      intro all
      obtain ⟨low, -, -, place, -⟩ := mem_linePartsOf (all q (.head _))
      have here := idle.waitAt (h := h) (ready q.1 low place)
      rw [List.foldl_cons]
      refine Eq.trans (congrArg (l.foldl _) ?_) (ih fun q hq => all q (.tail _ hq))
      dsimp only
      rw [idle.registrarHas, idle.unitsWait, here]
      split
      · rfl
      · split <;> rfl
  exact fold _ fun _ h => h

/-- A place without bytes in the loft opens the block that it lies in. -/
theorem State.Idle.pieceWaits_empty (idle : s.Idle) (loft : homeOf a = .loft) (part : linePartsOf a 0 = [(a, 0)]) :
    s.pieceWaits h ⟨b, 0, a, false⟩ = (false, s.openBlock a) := by
  unfold State.pieceWaits
  dsimp only
  rw [part, List.foldl_cons, List.foldl_nil, if_neg (by decide)]
  dsimp only
  rw [loft]
  dsimp only
  unfold State.waitAt
  dsimp only
  rw [idle.mustWait, if_neg (by decide), if_neg (by decide), idle.blockedAt]
  rfl

/-- Each place can be read as it stands. -/
def State.opens (s : State) (l : Spans) : Prop := ∀ p ∈ l, ∀ b, p.home ≤ b → b ≤ p.home ∨ b < p.home + p.len → s.ready b

theorem State.readSpansAs_opens (ready : s.opens l) : (s.readSpansAs v l).1.length = (l.map (·.len)).sum ∧
    s.SameLines (s.readSpansAs v l).2 ∧ (s.readSpansAs v l).2.mem = s.mem := by
  have fold : ∀ (l : Spans) (o : List Byte × State), o.2.opens l →
      let q := l.foldl (fun (acc : List Byte × State) p =>
        let r := acc.2.engineReadAs v p.sync p.home p.len; (acc.1 ++ r.1, r.2)) o
      q.1.length = o.1.length + (l.map (·.len)).sum ∧ o.2.SameLines q.2 ∧ q.2.mem = o.2.mem := by
    intro l
    induction l with
    | nil => exact fun o _ => ⟨rfl, .refl _, rfl⟩
    | cons p r ih =>
      intro o ready
      obtain ⟨bytes, lines, mem⟩ := State.engineReadAs_ready (v := v) (sync := p.sync) (ready p (.head _))
      obtain ⟨count, lines', mem'⟩ := ih (o.1 ++ (o.2.engineReadAs v p.sync p.home p.len).1, (o.2.engineReadAs v p.sync p.home p.len).2)
        fun q hq b low high => lines.ready (ready q (.tail _ hq) b low high)
      refine ⟨count.trans ?_, lines.trans lines', mem'.trans mem⟩
      rw [List.length_append, bytes, State.getBytes, List.length_map, List.length_range, List.map_cons, List.sum_cons, Nat.add_assoc]
  obtain ⟨count, rest⟩ := fold l ([], s) ready
  exact ⟨count.trans (Nat.zero_add _), rest⟩

/-- Plain DRAM is read as an engine reads it. -/
theorem State.dramRead_eq (dram : a + n < 0x40_0000_0000) : s.dramRead a n = s.engineReadAs ⟨0, 0, none⟩ false a n := by
  have fold : ∀ (l : List (Nat × Nat)) (o : List Byte × State), (∀ q ∈ l, q ∈ linePartsOf a n) →
      l.foldl (fun (acc : List Byte × State) q =>
        let s := (acc.2.applyLine q.1).touchL2 q.1 0 false
        (acc.1 ++ (if s.inSpill q.1 then List.replicate q.2 0 else s.getBytes q.1 q.2), s)) o =
      l.foldl (fun (acc : List Byte × State) q =>
        let s := acc.2
        let s := if false then s else (s.applyLine q.1).touch q.1 0 false none
        (acc.1 ++ (if s.inSpill q.1 then List.replicate q.2 0 else s.getBytes q.1 q.2), s)) o := by
    intro l
    induction l with
    | nil => exact fun _ _ => rfl
    | cons q l ih =>
      intro o all
      obtain ⟨low, -, -, place, -⟩ := mem_linePartsOf (all q (.head _))
      have home : homeOf q.1 = .dram := if_pos (by omega)
      have here : ∀ w : State, w.touch q.1 0 false none = w.touchL2 q.1 0 false := fun w => by
        unfold State.touch
        rw [home]
      rw [List.foldl_cons, List.foldl_cons]
      refine (ih _ fun q hq => all q (.tail _ hq)).trans (congrArg (l.foldl _) ?_)
      dsimp only
      rw [if_neg (by decide : ¬ (false = true)), here]
  exact fold _ _ fun _ h => h

theorem State.touchL2_rest {q : BitVec 8} {store : Bool} : (s.touchL2 a q store).holds = s.holds ∧
    (s.touchL2 a q store).waiters = s.waiters ∧ (s.touchL2 a q store).poison = s.poison ∧
    (s.tags = [] → (s.touchL2 a q store).tags = []) := by
  unfold State.touchL2 State.fillL2
  dsimp only
  split
  · exact ⟨rfl, rfl, rfl, id⟩
  · split
    · split
      · exact ⟨rfl, rfl, rfl, id⟩
      · refine ⟨rfl, rfl, rfl, fun none_ => ?_⟩
        show tdel s.tags _ = []
        rw [none_]
        rfl
    · exact ⟨rfl, rfl, rfl, id⟩

/-- A read of DRAM leaves nothing in the way. -/
theorem State.Idle.dramRead (idle : s.Idle) (gutter : ∀ d, (s.die d).gutter = []) : (s.dramRead a n).2.Idle := by
  unfold State.dramRead
  have fold := List.foldlRecOn (linePartsOf a n) (fun (acc : List Byte × State) q =>
    let s := (acc.2.applyLine q.1).touchL2 q.1 0 false
    (acc.1 ++ (if s.inSpill q.1 then List.replicate q.2 0 else s.getBytes q.1 q.2), s))
    (motive := fun o => o.2.Idle ∧ ∀ d, (o.2.die d).gutter = []) (b := ([], s)) ⟨idle, gutter⟩ fun o ho q _ => by
      obtain ⟨idle, gutter⟩ := ho
      dsimp only
      rw [State.applyLine_idle (gutter _)]
      obtain ⟨holds, waiters, poison, tags⟩ := State.touchL2_rest (s := o.2) (a := q.1) (q := 0) (store := false)
      have calm : o.2.Calm (o.2.touchL2 q.1 0 false) := (State.Calm.refl _).touchL2
      have lines : o.2.SameLines (o.2.touchL2 q.1 0 false) := .fillL2
      exact ⟨⟨poison.trans idle.poison, tags idle.tags, holds.trans idle.holds, waiters.trans idle.waiters,
        fun d => (calm.registrar d).trans (idle.registrar d)⟩, fun d => (lines.gutter d).trans (gutter d)⟩
  exact fold.1

/-- What a block holds raw is put at its home. -/
def State.putRaw (s : State) (d : List Byte) (a h n : Nat) : State := (s.poke h d).copyPoison a h n

theorem State.putRaw_mem {d : List Byte} : (s.putRaw d a h n).mem = memPutList s.mem h d := rfl

theorem State.Idle.putRaw {d : List Byte} (idle : s.Idle) : (s.putRaw d a h n).Idle := by
  refine ⟨?_, idle.tags, idle.holds, idle.waiters, idle.registrar⟩
  unfold State.putRaw State.copyPoison State.poke
  dsimp only
  rw [idle.poison]
  rfl

theorem State.modLoft_mem {f : Loft → Loft} : (s.modLoft k f).mem = s.mem := rfl

theorem State.Idle.modLoft {f : Loft → Loft} (idle : s.Idle) : (s.modLoft k f).Idle :=
  ⟨idle.poison, idle.tags, idle.holds, idle.waiters, idle.registrar⟩

theorem State.expanded_modLoft {f : Loft → Loft} {e : Nat × Bool × BitVec 3 × Nat} (h : e ∈ (f (s.cluster k).loft).eaves) :
    (s.modLoft k f).expanded k e.1 = true := by
  unfold State.expanded State.modLoft
  rw [State.cluster_modCluster_same]
  exact List.any_eq_true.2 ⟨e, h, beq_self_eq_true _⟩

/-- What holds of the bytes read and put at their home holds of the block read. The statement takes no equation of `readRaw`: to
compare its two sides the kernel would evaluate the read. -/
theorem State.readRaw_of {P : State → Prop} (put : P ((s.dramRead (loftArea k + 256 * b) 256).2.putRaw
    (s.dramRead (loftArea k + 256 * b) 256).1 (loftArea k + 256 * b) (loftHome k (256 * b)) 256)) : P (s.readRaw k b) := by
  generalize e : State.readRaw = f
  delta State.readRaw at e
  subst e
  beta_reduce
  split
  next d t read =>
    rw [read] at put
    exact put

/-! ## A block held raw

The bounds are lemmas over any address: of a closed sum that names `loftArea 0` the kernel would evaluate the product. -/

theorem lt_dram_of_area {m : Nat} (area : m < 42) : (m * 256 + 0) * 0x180_0000 + 256 < 0x40_0000_0000 := by omega

theorem lt_dram_of_block (dram : a + 256 < 0x40_0000_0000) (h : c ≤ a ∨ c < a + 256) : c < 0x40_0000_0000 := by omega

theorem lt_dram_of_first (dram : a + 256 < 0x40_0000_0000) : a + 256 * 0 + 256 < 0x40_0000_0000 := dram

theorem serviceArea_mod_lt : Config.serviceArea 0 % 42 < 42 := Nat.mod_lt _ (Nat.zero_lt_succ _)

/-- An overflow area lies in DRAM. -/
theorem loftArea_lt : loftArea 0 + 256 < 0x40_0000_0000 := by
  rw [loftArea]
  exact lt_dram_of_area serviceArea_mod_lt

/-- The raw bytes of a block, as they are read into the expanded copy. -/
theorem State.readRaw_mem (dram : loftArea k + 256 * b + 256 < 0x40_0000_0000) (dry : ∀ a, s.inSpill a = false)
    (idle : ∀ d, (s.die d).gutter = []) :
    (s.readRaw k b).mem = memPutList s.mem (loftHome k (256 * b)) (s.getBytes (loftArea k + 256 * b) 256) := by
  have ready : ∀ c, loftArea k + 256 * b ≤ c → c ≤ loftArea k + 256 * b ∨ c < loftArea k + 256 * b + 256 → s.ready c :=
    fun c _ high => ⟨dry c, fun _ => idle _, fun e => by
      unfold homeOf at e
      rw [if_pos (lt_dram_of_block dram high)] at e
      cases e⟩
  obtain ⟨bytes, -, mem⟩ := State.engineReadAs_ready (v := ⟨0, 0, none⟩) (sync := false) ready
  rw [← State.dramRead_eq dram] at bytes mem
  refine State.readRaw_of (P := fun t => t.mem = _) ?_
  rw [State.putRaw_mem, mem, bytes]

theorem State.Idle.readRaw (idle : s.Idle) (gutter : ∀ d, (s.die d).gutter = []) : (s.readRaw k b).Idle :=
  State.readRaw_of (idle.dramRead gutter).putRaw

/-! ## An element that arrives -/

theorem State.advanceXfer_mem {len : Nat} : (s.advanceXfer o k x n len).mem = s.mem := by
  unfold State.advanceXfer State.endXfer State.completeXfer
  dsimp only
  split
  · split
    · rfl
    · split
      · rfl
      · rfl
  · rfl

/-- An element that comes from memory changes no byte outside its place but what the wait for its places changes. -/
theorem State.moveToQueue_frame {src from_ : Spans} {q : BitVec 3} {len : Nat} (room : s.queueRoom o q = true)
    (part : partSpans src x.moved (queueSize (s.qctl o q)) = from_)
    (wait : s.spansWait x.hart (from_ ++ [s.queuePiece o q (queueCount (s.qctl o q))]) = (false, u)) (idle : u.Idle)
    (opens : u.opens from_) (wf : Memory.wf u.mem = true) (calm : s.Calm u)
    (past : padHome (clusterOf o) (s.queueOffset o q (queueCount (s.qctl o q))) + (from_.map (·.len)).sum ≤ b) :
    memGet (s.moveToQueue o k x src q len).mem b = memGet u.mem b := by
  subst part
  unfold State.moveToQueue
  dsimp only
  rw [if_neg (by rw [room]; decide), wait]
  dsimp only
  rw [idle.poisonSpans]
  dsimp only
  generalize (⟨x.hart, x.squal, if contiguous src then some (Reader.copy o) else none⟩ : Via) = v
  obtain ⟨count, -, mem⟩ := State.readSpansAs_opens (v := v) opens
  have queues : ((u.readSpansAs v (partSpans src x.moved (queueSize (s.qctl o q)))).2.hart o).queues = (s.hart o).queues :=
    calm.readSpansAs.part o (·.queues) fun _ => rfl
  rw [State.advanceXfer_mem]
  obtain ⟨-, -, frame⟩ := State.queuePut_spec (c := o) (q := q)
    (l := (u.readSpansAs v (partSpans src x.moved (queueSize (s.qctl o q)))).1) (mem ▸ wf)
  rw [State.qctl_congr queues, State.queueOffset_congr queues, count] at frame
  rw [frame _ (.inr past), mem]

end

/-! ## The transfer -/

/-- Four bytes of TCM in two places, with a place without bytes between them in block 0 of cluster 0's loft. -/
def hollowSource : Spans := [⟨0, 2, tcmHome 0 0, false⟩, ⟨0, 0, loftHome 0 1, false⟩, ⟨2, 2, tcmHome 0 2, false⟩]

/-- A transfer of these four bytes to queue 0. -/
def hollowCopy : Xfer :=
  { hart := 0, op := .copy (.memory hollowSource) (.queue 0) 4, xid := 0, int := false, handler := 0, bell := none, after := 0
    moved := 0, ahead := [], buf := [], ordered := false, ended := false, done := false, squal := 0, dqual := 0 }

/-- Core 0's engine with that transfer; block 0 of the loft is Overflowed, and its expanded copy holds a 5. -/
def hollowState : State :=
  { State.reset with
    mem := [(loftHome 0 0, 5)]
    clusters := [(0, { Cluster.reset with loft := { Cluster.reset.loft with map := [(0, .overflowed)] } })]
    harts := [(0, { Hart.reset 0 with copy := { (Hart.reset 0).copy with active := [hollowCopy] } })] }

theorem hollow_idle : hollowState.Idle := ⟨rfl, rfl, rfl, rfl, fun _ => rfl⟩

theorem hollow_wf : Memory.wf hollowState.mem = true := by decide

/-- The state with the block that the empty place lies in opened. -/
def hollowOpened : State := hollowState.openBlock (loftHome 0 1)

theorem hollow_loft : (hollowState.cluster 0).loft = { Cluster.reset.loft with map := [(0, .overflowed)] } := rfl

theorem hollowOpened_eq : hollowOpened = (hollowState.readRaw 0 0).modLoft 0 fun l =>
    { l with eaves := l.eaves.filter (fun e => e.1 != 0) ++ [(0, false, 0, 0)] } := by
  have loft : homeOf (loftHome 0 1) = .loft := by decide
  have place : loftPlace (loftHome 0 1) = (0, 0) := by decide
  have raw : hollowState.heldRaw 0 0 = true := by
    unfold State.heldRaw
    rw [hollow_loft]
    rfl
  unfold hollowOpened State.openBlock
  rw [if_pos loft, place]
  dsimp only
  rw [if_pos raw]
  unfold State.fillEaves Loft.ways
  rw [hollow_loft]
  dsimp only
  rw [if_pos (.inr (Nat.zero_lt_succ _)), if_pos raw]
  rfl

theorem hollow_step : exec (.transferComplete 0 0) hollowState = .next (hollowState.moveToQueue 0 0 hollowCopy hollowSource 0 4) := by
  have active : (hollowState.hart 0).copy.active[0]? = some hollowCopy := rfl
  have before : hollowState.storesBefore hollowCopy.hart hollowCopy.after = true := rfl
  show Host.Outcome.next (hollowState.runXfer 0 0) = _
  unfold State.runXfer
  rw [active]
  dsimp only
  rw [if_neg (by decide : ¬ hollowCopy.done = true), if_neg (by decide : ¬ hollowCopy.ended = true), before, if_neg (by decide),
    show hollowCopy.op = .copy (.memory hollowSource) (.queue 0) 4 from rfl]

/-- The place of queue 0's next element: the queue register is 0. -/
theorem hollow_offset {s : State} (queues : (s.hart 0).queues = (Hart.reset 0).queues) (i : Nat) :
    s.qctl 0 0 = 0 ∧ s.queueOffset 0 0 i = 0 := by
  have ctl : s.qctl 0 0 = 0 := by
    unfold State.qctl
    rw [queues]
    rfl
  refine ⟨ctl, ?_⟩
  unfold State.queueOffset
  dsimp only
  rw [ctl, queues, show queueDepth 0 = 1 from rfl, Nat.mod_one, Nat.zero_mul]
  rfl

theorem hollowOpened_calm : hollowState.Calm hollowOpened := (State.Calm.refl _).openBlock

theorem hollow_dry : (∀ d, (hollowState.die d).gutter = [] ∧ (hollowState.die d).registrar = []) ∧ ∀ a, hollowState.inSpill a = false :=
  calm_of rfl

theorem memGet_single {b c : Nat} {v : Byte} (apart : c ≠ b) : memGet [(b, v)] c = 0 := if_neg (Ne.symm apart)

theorem hollow_mem : hollowState.mem = [(loftHome 0 0, 5)] := rfl

theorem lt_loftHome : 0x40_0000_0000 < loftHome 0 0 := by decide

theorem loftArea_ne : loftArea 0 ≠ loftHome 0 0 :=
  Nat.ne_of_lt (Nat.lt_trans (Nat.lt_of_le_of_lt (Nat.le_add_right _ 256) loftArea_lt) lt_loftHome)

/-- The overflow area was never written. -/
theorem hollow_raw : (hollowState.getBytes (loftArea 0) 256)[0]? = some 0 := by
  unfold State.getBytes
  rw [List.getElem?_map, List.getElem?_range (by decide), Option.map_some, Nat.add_zero, hollow_mem, memGet_single loftArea_ne]

theorem hollow_filled : (hollowState.readRaw 0 0).Idle ∧ memGet (hollowState.readRaw 0 0).mem (loftHome 0 0) = 0 := by
  obtain ⟨gutter, dry⟩ := hollow_dry
  refine ⟨hollow_idle.readRaw fun d => (gutter d).1, ?_⟩
  have some_ : 0 < (hollowState.getBytes (loftArea 0) 256).length := by
    rw [State.getBytes, List.length_map, List.length_range]
    decide
  have filled := memGet_memPutList_in (a := loftHome 0 0) hollow_wf some_
  rw [hollow_raw, Nat.add_zero, Option.getD_some] at filled
  rw [State.readRaw_mem (k := 0) (b := 0) (lt_dram_of_first loftArea_lt) dry fun d => (gutter d).1, Nat.mul_zero, Nat.add_zero, filled]

/-- What opening the block leaves: nothing in the way, the block expanded, and its bytes those of the overflow area. -/
theorem hollowOpened_spec : hollowOpened.Idle ∧ hollowOpened.expanded 0 0 = true ∧ memGet hollowOpened.mem (loftHome 0 0) = 0 := by
  obtain ⟨read, byte⟩ := hollow_filled
  rw [hollowOpened_eq]
  refine ⟨read.modLoft, State.expanded_modLoft (e := (0, false, 0, 0)) ?_, ?_⟩
  · exact List.mem_append_right _ (.head _)
  · rw [State.modLoft_mem, byte]

theorem homeOf_tcm {b : Nat} (low : tcmHome 0 0 ≤ b) (high : b < tcmHome 0 0 + 4) : homeOf b = .tcm := by
  unfold tcmHome at low high
  unfold homeOf
  rw [if_neg (by omega), if_neg (by omega), if_pos (by omega)]

theorem ready_tcm {s : State} {b : Nat} (low : tcmHome 0 0 ≤ b) (high : b < tcmHome 0 0 + 4) : s.ready b := by
  refine State.ready_local ?_
  rw [homeOf_tcm low high]
  exact ⟨by decide, by decide⟩

theorem hollow_second : tcmHome 0 2 = tcmHome 0 0 + 2 := by decide

theorem hollow_home : homeOf (loftHome 0 1) = .loft := by decide

theorem hollow_loftPlace : loftPlace (loftHome 0 1) = (0, 0) := by decide

/-- The places in TCM can be read in any state, and that in the loft once the block is open. -/
theorem hollowOpened_opens : hollowOpened.opens hollowSource := by
  obtain ⟨-, expanded, -⟩ := hollowOpened_spec
  intro p hp b low high
  unfold hollowSource at hp
  simp only [List.mem_cons, List.not_mem_nil, or_false] at hp
  rcases hp with rfl | rfl | rfl
  · dsimp only at low high
    exact ready_tcm low (by omega)
  · dsimp only at low high
    have here : b = loftHome 0 1 := by omega
    rw [here]
    exact ⟨by unfold State.inSpill; rw [hollow_home]; rfl, fun e => absurd e (by decide), fun _ => by rw [hollow_loftPlace]; exact expanded⟩
  · dsimp only at low high
    rw [hollow_second] at low high
    exact ready_tcm (by omega) (by omega)

theorem hollow_wait : hollowState.spansWait 0 (hollowSource ++ [hollowState.queuePiece 0 0 (queueCount (hollowState.qctl 0 0))]) =
    (false, hollowOpened) := by
  obtain ⟨idle, -, -⟩ := hollowOpened_spec
  have opens := hollowOpened_opens
  have start : hollowState.pieceWaits (privateEngine 0) ⟨0, 2, tcmHome 0 0, false⟩ = (false, hollowState) :=
    hollow_idle.pieceWaits fun b low high => ready_tcm low (by dsimp only at high; omega)
  have empty : hollowState.pieceWaits (privateEngine 0) ⟨0, 0, loftHome 0 1, false⟩ = (false, hollowOpened) :=
    hollow_idle.pieceWaits_empty (by decide) (by decide)
  have last : hollowOpened.pieceWaits (privateEngine 0) ⟨2, 2, tcmHome 0 2, false⟩ = (false, hollowOpened) :=
    idle.pieceWaits (opens _ (.tail _ (.tail _ (.head _))))
  have queue : hollowOpened.pieceWaits (privateEngine 0) (hollowState.queuePiece 0 0 (queueCount (hollowState.qctl 0 0))) =
      (false, hollowOpened) := by
    refine idle.pieceWaits fun b low high => ?_
    obtain ⟨ctl, offset⟩ := hollow_offset (s := hollowState) rfl (queueCount (hollowState.qctl 0 0))
    unfold State.queuePiece at low high
    dsimp only at low high
    rw [offset] at low high
    rw [ctl] at high
    have size : queueSize 0 = 4 := by decide
    have place : padOf 0 0 = padHome (clusterOf 0) 0 := rfl
    rw [place] at low high
    have here : b = padHome (clusterOf 0) (b - padHome (clusterOf 0) 0) := by
      unfold padHome at low ⊢
      omega
    rw [here]
    exact ready_pad (by omega)
  unfold State.spansWait State.partyWaits hollowSource
  rw [List.cons_append, List.cons_append, List.cons_append, List.nil_append, List.foldl_cons, List.foldl_cons, List.foldl_cons,
    List.foldl_cons, List.foldl_nil]
  dsimp only
  rw [start]
  dsimp only
  rw [empty]
  dsimp only
  rw [last]
  dsimp only
  rw [queue]
  rfl

theorem hollowOpened_wf : Memory.wf hollowOpened.mem = true :=
  (State.MemOk.openBlock (a := loftHome 0 1) (s := hollowState) ⟨hollow_wf, fun _ h => nomatch h⟩).mem

/-- The transfer changes a byte of the block that the empty place lies in. -/
theorem hollow_changes : memGet (hollowState.moveToQueue 0 0 hollowCopy hollowSource 0 4).mem (loftHome 0 0) = 0 := by
  obtain ⟨idle, -, byte⟩ := hollowOpened_spec
  refine Eq.trans ?_ byte
  obtain ⟨ctl, offset⟩ := hollow_offset (s := hollowState) rfl (queueCount (hollowState.qctl 0 0))
  refine State.moveToQueue_frame (x := hollowCopy) (from_ := hollowSource) (by decide) ?_ hollow_wait idle hollowOpened_opens
    hollowOpened_wf hollowOpened_calm ?_
  · rw [ctl]
    decide
  · rw [offset]
    decide

/-- Refutes O40: in its third clause, of a transfer from memory to a queue, a place of the source may be without bytes. Where such
a place lies in an Overflowed loft block that is not expanded, the transfer opens that block, and the bytes of the expanded
copy become those of the overflow area. -/
theorem not_transfersMoveBytes : ¬ Obligations.TransfersMoveBytes := by
  unfold Obligations.TransfersMoveBytes
  intro holds
  obtain ⟨-, -, toQueue, -⟩ := holds
  obtain ⟨dies, dry⟩ := hollow_dry
  obtain ⟨ctl, offset⟩ := hollow_offset (s := hollowState) rfl (queueCount (hollowState.qctl 0 0))
  obtain ⟨t, step, -, -, frame, -⟩ := toQueue hollowState 0 0 4 hollowCopy 0 hollowSource
    ⟨⟨hollow_wf, rfl, rfl, rfl, rfl, dies, dry⟩, rfl, rfl, rfl, rfl⟩ rfl (by decide)
    (by
      intro j hj loft
      revert loft
      revert j
      decide)
    (by decide)
    (by rw [ctl]; decide)
  rw [hollow_step] at step
  injection step with same
  have kept := frame (loftHome 0 0) (.inr (by
    dsimp only
    rw [offset, ctl]
    decide))
  rw [← same, hollow_changes] at kept
  exact absurd kept (by decide)

end Sys2Proof.Machine
end
